-- ==== Sys2Proof/Word.lean ====
section
/-!
DEFINITION. The words of the machine: bytes, 64-bit words, the format tags of R23 and their widths (R24).
-/
namespace Sys2Proof

/-- A byte (R5). -/
abbrev Byte := BitVec 8

/-- A 64-bit word: a register, a token's scalar data, an instruction word. -/
abbrev Word := BitVec 64

/-- The data field of a token: scalar tokens use bits [63:0], vector tokens up to 1,024 bits (R23). -/
abbrev Data := BitVec 1024

/-- Format tags (R23, FMT): 0 X64, 1 I32, 2 F64, 3 F32, 4 B16, 5 T8, 6 T6, 7 PRD. -/
inductive Fmt where
  | x64 | i32 | f64 | f32 | b16 | t8 | t6 | prd
deriving DecidableEq, Repr, Inhabited

/-- The 3-bit code of a format tag (R23). -/
def Fmt.code : Fmt → BitVec 3
  | .x64 => 0 | .i32 => 1 | .f64 => 2 | .f32 => 3 | .b16 => 4 | .t8 => 5 | .t6 => 6 | .prd => 7

/-- The format tag of a 3-bit code (R23). -/
def Fmt.ofCode (c : BitVec 3) : Fmt :=
  if c = 0 then .x64 else if c = 1 then .i32 else if c = 2 then .f64 else if c = 3 then .f32
  else if c = 4 then .b16 else if c = 5 then .t8 else if c = 6 then .t6 else .prd

/-- Element width in bits (R24). -/
def Fmt.width : Fmt → Nat
  | .x64 | .f64 => 64 | .i32 | .f32 => 32 | .b16 => 16 | .t8 => 8 | .t6 => 6 | .prd => 1

/-- Longest run of a vector token (R24). -/
def Fmt.maxRun : Fmt → Nat
  | .x64 | .f64 => 16 | _ => 32

/-- The narrow formats that arithmetic instructions decode to F32 (R31). -/
def Fmt.narrow : Fmt → Bool
  | .b16 | .t8 | .t6 => true | _ => false

end Sys2Proof
end

