-- ==== Sys2Proof/Syntax.lean ====
section
/-!
DEFINITION. The instruction set: the fields of the word formats (R205 to R210), tokens (R23), and `Instr`, one constructor for
every row of spec/opcode_table.json: 212 instruction words and 85 device events (95_what_each_step_holds.md).
-/
namespace Sys2Proof

/-- An operand position of an instruction (R23 POS; R206 KIND). -/
inductive Pos where
  | left | right | pred
deriving DecidableEq, Repr, Inhabited

/-- A target of a result (R206): none, the write slot of a carried register, or a position of an instruction. -/
inductive Target where
  | none
  | reg (n : BitVec 5)
  | op (p : Pos) (i : BitVec 7)
deriving DecidableEq, Repr, Inhabited

/-- The PRED field (R205): none, fire on true `?t`, fire on false `?f`. -/
inductive Pred where
  | always | onTrue | onFalse
deriving DecidableEq, Repr, Inhabited

/-- Scopes (R208, R305). -/
inductive Scope where
  | blk | clu | ring | ctx | dev | sys
deriving DecidableEq, Repr, Inhabited

/-- Ordering modifiers (R208, R305). -/
inductive Order where
  | none | acq | rel | ar
deriving DecidableEq, Repr, Inhabited

/-- Bits [55:47], the same in every format (R205). -/
structure Head where
  ac : Bool
  mod : BitVec 3
  pred : Pred
  ty : Fmt
deriving DecidableEq, Repr, Inhabited

/-- Format G (R207). -/
structure GWord where
  h : Head
  t0 : Target
  t1 : Target
  imm : BitVec 27
deriving DecidableEq, Repr, Inhabited

/-- Format I (R208). -/
structure IWord where
  h : Head
  t0 : Target
  imm : BitVec 37
deriving DecidableEq, Repr, Inhabited

/-- Format M (R208). -/
structure MWord where
  h : Head
  t0 : Target
  lsid : BitVec 5
  scope : Scope
  order : Order
  runlo : BitVec 2
  scr : Bool
  off : BitVec 24
deriving DecidableEq, Repr, Inhabited

/-- Format X, layout XW (R209): the multiplier bank. -/
structure XWWord where
  h : Head
  t0 : Target
  t1 : Target
  acc : BitVec 8
  mode : BitVec 3
  xf : Bool
  jf : Bool
  count : BitVec 13
deriving DecidableEq, Repr, Inhabited

/-- Format X, layout XR (R209): the ring. -/
structure XRWord where
  h : Head
  t0 : Target
  lsid : BitVec 5
  fam : Bool
  slot : BitVec 4
  elem : BitVec 3
  p : BitVec 24
deriving DecidableEq, Repr, Inhabited

/-- Format C (R210): EXIT, EXITI, CALL. -/
structure CWord where
  h : Head
  exitno : BitVec 3
  retire : Bool
  off : BitVec 42
deriving DecidableEq, Repr, Inhabited

/-- Where an operand token is bound (R23: CLU, REG, COL, SLOT, POS; R12: slot and column name frame and instruction). -/
structure Dest where
  clu : Nat
  reg : Nat
  frm : Nat
  idx : Nat
  pos : Pos
deriving DecidableEq, Repr, Inhabited

/-- A token (R23): the tag (COLOUR, FRAME, INDEX), LEN, FMT, the data field, and whether it travels as a vector token
(R23: the network tells a scalar token from a vector token of length 1). -/
structure Token where
  colour : Nat
  frame : Nat
  index : Nat
  len : Nat
  fmt : Fmt
  vec : Bool
  data : Data
deriving DecidableEq, Repr, Inhabited

/-- The three networks of a cluster (R13). -/
inductive Net where
  | scalar | vector | control
deriving DecidableEq, Repr, Inhabited

/-- The network that carries a token (R13): a vector run goes over the vector network, a predicate over the control network, whose data are one bit,
every other token over the scalar network (log entry 13). -/
def Token.net (t : Token) : Net := if t.vec then .vector else if t.fmt = .prd then .control else .scalar

/-- What a device event acts on: the fields that its row uses are named in the docstring of its meaning, the others are zero. An
instruction word finds its operands in the latch of the PE that issues; an event finds its objects in this latch. -/
structure Ev where
  ctx : Nat := 0
  clu : Nat := 0
  reg : Nat := 0
  frm : Nat := 0
  col : Nat := 0
  id : Nat := 0
  part : Nat := 0
  drained : Option Nat := none
  word : Word := 0
  bytes : List Byte := []
  dest : Dest := { clu := 0, reg := 0, frm := 0, idx := 0, pos := .left }
  ent : Option Nat := none
  tok : Token := { colour := 0, frame := 0, index := 0, len := 0, fmt := .x64, vec := false, data := 0 }
  p : Bool := false
  q : Bool := false
  net : Net := .scalar
deriving DecidableEq, Repr, Inhabited

/-- One constructor for every row of spec/opcode_table.json: the instruction words, then the device events. -/
inductive Instr where
  -- instruction words
  | mov (x : GWord)  -- MOV, R225
  | fan (x : GWord)  -- FAN, R225
  | getg (x : GWord)  -- GETG, R226
  | putg (x : GWord)  -- PUTG, R227
  | ldi (x : IWord)  -- LDI, R228
  | ldih (x : IWord)  -- LDIH, R229
  | null (x : GWord)  -- NULL, R198
  | sel (x : GWord)  -- SEL, R231
  | steer (x : GWord)  -- STEER, R199
  | merge (x : GWord)  -- MERGE, R232
  | exit (x : CWord)  -- EXIT, R233
  | exiti (x : CWord)  -- EXITI, R233
  | call (x : CWord)  -- CALL, R234
  | ret (x : GWord)  -- RET, R234
  | halt (x : GWord)  -- HALT, R235
  | rdid (x : GWord)  -- RDID, R238
  | add (x : GWord)  -- ADD, R239
  | sub (x : GWord)  -- SUB, R239
  | addi (x : GWord)  -- ADDI, R239
  | mul (x : GWord)  -- MUL, R239
  | mulh (x : GWord)  -- MULH, R239
  | mulhn (x : GWord)  -- MULHN, R239
  | div (x : GWord)  -- DIV, R241
  | divn (x : GWord)  -- DIVN, R241
  | rem (x : GWord)  -- REM, R241
  | remn (x : GWord)  -- REMN, R241
  | adds (x : GWord)  -- ADDS, R239
  | subs (x : GWord)  -- SUBS, R239
  | min (x : GWord)  -- MIN, R239
  | max (x : GWord)  -- MAX, R239
  | minn (x : GWord)  -- MINN, R239
  | maxn (x : GWord)  -- MAXN, R239
  | and (x : GWord)  -- AND, R242
  | or (x : GWord)  -- OR, R242
  | xor (x : GWord)  -- XOR, R242
  | andn (x : GWord)  -- ANDN, R242
  | andi (x : GWord)  -- ANDI, R242
  | ori (x : GWord)  -- ORI, R242
  | xori (x : GWord)  -- XORI, R242
  | shl (x : GWord)  -- SHL, R242
  | shr (x : GWord)  -- SHR, R242
  | sha (x : GWord)  -- SHA, R242
  | rol (x : GWord)  -- ROL, R242
  | shli (x : GWord)  -- SHLI, R242
  | shri (x : GWord)  -- SHRI, R242
  | shai (x : GWord)  -- SHAI, R242
  | clz (x : GWord)  -- CLZ, R242
  | popc (x : GWord)  -- POPC, R242
  | teq (x : GWord)  -- TEQ, R244
  | tne (x : GWord)  -- TNE, R244
  | tlt (x : GWord)  -- TLT, R244
  | tle (x : GWord)  -- TLE, R244
  | tltn (x : GWord)  -- TLTN, R244
  | tlen (x : GWord)  -- TLEN, R244
  | teqi (x : GWord)  -- TEQI, R244
  | tlti (x : GWord)  -- TLTI, R244
  | tlei (x : GWord)  -- TLEI, R244
  | pand (x : GWord)  -- PAND, R244
  | por (x : GWord)  -- POR, R244
  | pxor (x : GWord)  -- PXOR, R244
  | pnot (x : GWord)  -- PNOT, R244
  | abs (x : GWord)  -- ABS, R239
  | neg (x : GWord)  -- NEG, R239
  | fadd (x : GWord)  -- FADD, R251
  | fsub (x : GWord)  -- FSUB, R251
  | fmul (x : GWord)  -- FMUL, R251
  | ffma (x : GWord)  -- FFMA, R251
  | ffms (x : GWord)  -- FFMS, R251
  | fdiv (x : GWord)  -- FDIV, R251
  | fsqrt (x : GWord)  -- FSQRT, R251
  | frsq (x : GWord)  -- FRSQ, R251
  | fmin (x : GWord)  -- FMIN, R253
  | fmax (x : GWord)  -- FMAX, R253
  | fabs (x : GWord)  -- FABS, R254
  | fneg (x : GWord)  -- FNEG, R254
  | fcps (x : GWord)  -- FCPS, R254
  | feq (x : GWord)  -- FEQ, R255
  | flt (x : GWord)  -- FLT, R255
  | fle (x : GWord)  -- FLE, R255
  | funo (x : GWord)  -- FUNO, R255
  | fcls (x : GWord)  -- FCLS, R255
  | ex2 (x : GWord)  -- EX2, R252
  | lg2 (x : GWord)  -- LG2, R252
  | frnd (x : GWord)  -- FRND, R251
  | fscl (x : GWord)  -- FSCL, R251
  | cvtif (x : GWord)  -- CVTIF, R256
  | cvtfi (x : GWord)  -- CVTFI, R256
  | cvtff (x : GWord)  -- CVTFF, R257
  | tdec (x : GWord)  -- TDEC, R257
  | tenc (x : GWord)  -- TENC, R257
  | bfq (x : GWord)  -- BFQ, R258
  | bfs (x : GWord)  -- BFS, R258
  | vgen (x : GWord)  -- VGEN, R259
  | vspl (x : GWord)  -- VSPL, R260
  | vlan (x : GWord)  -- VLAN, R260
  | vins (x : GWord)  -- VINS, R260
  | vsld (x : GWord)  -- VSLD, R261
  | vcat (x : GWord)  -- VCAT, R261
  | vperm (x : GWord)  -- VPERM, R261
  | vcmpr (x : GWord)  -- VCMPR, R262
  | vsel (x : GWord)  -- VSEL, R261
  | vsum (x : GWord)  -- VSUM, R264
  | vmax (x : GWord)  -- VMAX, R265
  | vmin (x : GWord)  -- VMIN, R265
  | vdot (x : GWord)  -- VDOT, R264
  | vscan (x : GWord)  -- VSCAN, R264
  | sel24 (x : GWord)  -- SEL24, R263
  | rstat (x : GWord)  -- RSTAT, R266
  | rscl (x : GWord)  -- RSCL, R267
  | brev (x : GWord)  -- BREV, R242
  | bfx (x : GWord)  -- BFX, R243
  | bfi (x : GWord)  -- BFI, R243
  | zcvt (x : XWWord)  -- ZCVT, R283
  | guard (x : XWWord)  -- GUARD, R276
  | packs (x : XWWord)  -- PACKS, R277
  | packl (x : XWWord)  -- PACKL, R277
  | wmul (x : XWWord)  -- WMUL, R278
  | wconv (x : XWWord)  -- WCONV, R278
  | wmulf (x : XWWord)  -- WMULF, R279
  | wmulz (x : XWWord)  -- WMULZ, R279
  | xtr (x : XWWord)  -- XTR, R280
  | xtrf (x : XWWord)  -- XTRF, R280
  | pclr (x : XWWord)  -- PCLR, R276
  | pclrFree (x : XWWord)  -- PCLR_FREE, R276
  | pstat (x : XWWord)  -- PSTAT, R276
  | zalloc (x : XWWord)  -- ZALLOC, R281
  | zfree (x : XWWord)  -- ZFREE, R281
  | zclr (x : XWWord)  -- ZCLR, R282
  | zrd (x : XWWord)  -- ZRD, R282
  | zwr (x : XWWord)  -- ZWR, R282
  | tstage (x : XRWord)  -- TSTAGE, R286
  | tmatch (x : XRWord)  -- TMATCH, R287
  | tmclr (x : XRWord)  -- TMCLR, R287
  | tgo (x : XRWord)  -- TGO, R288
  | tld (x : XRWord)  -- TLD, R289
  | tdone (x : XRWord)  -- TDONE, R290
  | trstat (x : XRWord)  -- TRSTAT, R290
  | trecall (x : XRWord)  -- TRECALL, R143
  | tpass (x : XRWord)  -- TPASS, R287
  | snew (x : GWord)  -- SNEW, R152
  | splice (x : MWord)  -- SPLICE, R153
  | spin (x : MWord)  -- SPIN, R151
  | sunpin (x : MWord)  -- SUNPIN, R151
  | sidx (x : GWord)  -- SIDX, R294
  | slen (x : GWord)  -- SLEN, R152
  | snext (x : GWord)  -- SNEXT, R152
  | sfree (x : GWord)  -- SFREE, R152
  | msend (x : GWord)  -- MSEND, R296
  | mrecv (x : GWord)  -- MRECV, R297
  | mpoll (x : GWord)  -- MPOLL, R298
  | ld (x : MWord)  -- LD, R308
  | st (x : MWord)  -- ST, R308
  | ldv (x : MWord)  -- LDV, R308
  | stv (x : MWord)  -- STV, R308
  | ldg (x : MWord)  -- LDG, R308
  | stsc (x : MWord)  -- STSC, R308
  | pref (x : MWord)  -- PREF, R310
  | lea (x : GWord)  -- LEA, R245
  | lde (x : MWord)  -- LDE, R312
  | stf (x : MWord)  -- STF, R313
  | clrf (x : MWord)  -- CLRF, R314
  | aadd (x : MWord)  -- AADD, R317
  | amin (x : MWord)  -- AMIN, R317
  | amax (x : MWord)  -- AMAX, R317
  | aminn (x : MWord)  -- AMINN, R317
  | amaxn (x : MWord)  -- AMAXN, R317
  | aand (x : MWord)  -- AAND, R317
  | aor (x : MWord)  -- AOR, R317
  | axor (x : MWord)  -- AXOR, R317
  | aswp (x : MWord)  -- ASWP, R317
  | acas (x : MWord)  -- ACAS, R317
  | afadd (x : MWord)  -- AFADD, R317
  | fence (x : MWord)  -- FENCE, R318
  | fencea (x : MWord)  -- FENCEA, R319
  | copy (x : MWord)  -- COPY, R177
  | copyt (x : MWord)  -- COPYT, R177
  | waitt (x : GWord)  -- WAITT, R180
  | cpst (x : GWord)  -- CPST, R180
  | bankm (x : GWord)  -- BANKM, R170
  | fpush (x : GWord)  -- FPUSH, R176
  | fpop (x : GWord)  -- FPOP, R176
  | bariCnt (x : GWord)  -- BARI_CNT, R126
  | bariGrp (x : GWord)  -- BARI_GRP, R126
  | bariFree (x : GWord)  -- BARI_FREE, R126
  | bara (x : GWord)  -- BARA, R126
  | barw (x : GWord)  -- BARW, R126
  | baraw (x : GWord)  -- BARAW, R126
  | join (x : GWord)  -- JOIN, R118
  | leave (x : GWord)  -- LEAVE, R118
  | grpq (x : GWord)  -- GRPQ, R120
  | comb (x : GWord)  -- COMB, R323
  | mfs (x : GWord)  -- MFS, R325
  | mts (x : GWord)  -- MTS, R325
  | trap (x : GWord)  -- TRAP, R327
  | tret (x : GWord)  -- TRET, R328
  | launch (x : GWord)  -- LAUNCH, R329
  | qsusp (x : GWord)  -- QSUSP, R330
  | qresQ (x : GWord)  -- QRES_Q, R330
  | qresCol (x : GWord)  -- QRES_COL, R330
  | qresCtx (x : GWord)  -- QRES_CTX, R330
  | drainCol (x : GWord)  -- DRAIN_COL, R330
  | drainCtx (x : GWord)  -- DRAIN_CTX, R330
  | cfgld (x : GWord)  -- CFGLD, R331
  | cfgldRt (x : GWord)  -- CFGLD_RT, R331
  | relat (x : GWord)  -- RELAT, R166
  | monArm (x : GWord)  -- MON_ARM, R367
  | monRead (x : GWord)  -- MON_READ, R332
  | monClear (x : GWord)  -- MON_CLEAR, R367
  | monStop (x : GWord)  -- MON_STOP, R367
  | spawn (x : GWord)  -- SPAWN, R236
  | emit (x : GWord)  -- EMIT, R237
  | nop (x : GWord)  -- NOP, R332
  -- device events (95_what_each_step_holds.md)
  | reset  -- RESET, R77
  | hostRecordWrite  -- HOST_RECORD_WRITE, R107
  | recordStart  -- RECORD_START, R110
  | exitHeadWrite  -- EXIT_HEAD_WRITE, R113
  | tokenArrival  -- TOKEN_ARRIVAL, R28
  | holdQueueAdmit  -- HOLD_QUEUE_ADMIT, R40
  | parking  -- PARKING, R42
  | retryTimerExpiry  -- RETRY_TIMER_EXPIRY, R44
  | reInjectionResume  -- RE_INJECTION_RESUME, R44
  | controlTokenDelivery  -- CONTROL_TOKEN_DELIVERY, R29
  | commit  -- COMMIT, R96
  | stallExpiry  -- STALL_EXPIRY, R98
  | reloadDecision  -- RELOAD_DECISION, R102
  | frameLoadComplete  -- FRAME_LOAD_COMPLETE, R90
  | handlerEntry  -- HANDLER_ENTRY, R395
  | watchdogExpiry  -- WATCHDOG_EXPIRY, R84
  | wdogKick  -- WDOG_KICK, R84
  | checkpoint  -- CHECKPOINT, R348
  | pfdoneWrite  -- PFDONE_WRITE, R163
  | debugHaltRequest  -- DEBUG_HALT_REQUEST, R218
  | drainMarkerArrival  -- DRAIN_MARKER_ARRIVAL, R349
  | drainAbort  -- DRAIN_ABORT, R349
  | drainHalt  -- DRAIN_HALT, R349
  | drainCompletion  -- DRAIN_COMPLETION, R353
  | passResume  -- PASS_RESUME, R351
  | alloc  -- ALLOC, R79
  | start  -- START, R77
  | destroy  -- DESTROY, R82
  | clear  -- CLEAR, R80
  | scrubComplete  -- SCRUB_COMPLETE, R82
  | shootDown  -- SHOOT_DOWN, R165
  | shootDownComplete  -- SHOOT_DOWN_COMPLETE, R165
  | relatEmerge  -- RELAT_EMERGE, R166
  | kernelLoading  -- KERNEL_LOADING, R87
  | keyRecord  -- KEY_RECORD, R371
  | msessWrite  -- MSESS_WRITE, R370
  | attestationReport  -- ATTESTATION_REPORT, R362
  | kernelKeyRegister  -- KERNEL_KEY_REGISTER, R361
  | hostMgmtRead  -- HOST_MGMT_READ, R369
  | ctentWrite  -- CTENT_WRITE, R326
  | registerWrite  -- REGISTER_WRITE, R325
  | translate  -- TRANSLATE, R160
  | tableReadFill  -- TABLE_READ_FILL, R161
  | accessPerform  -- ACCESS_PERFORM, R383
  | ldeRetry  -- LDE_RETRY, R312
  | ldeWithdrawal  -- LDE_WITHDRAWAL, R315
  | lineFetch  -- LINE_FETCH, R17
  | accessRetire  -- ACCESS_RETIRE, R320
  | scratchPerform  -- SCRATCH_PERFORM, R397
  | bankPendingComplete  -- BANK_PENDING_COMPLETE, R171
  | completionToken  -- COMPLETION_TOKEN, R175
  | transferStart  -- TRANSFER_START, R178
  | transferWithhold  -- TRANSFER_WITHHOLD, R178
  | transferDone  -- TRANSFER_DONE, R178
  | waittWake  -- WAITT_WAKE, R180
  | tstageFillComplete  -- TSTAGE_FILL_COMPLETE, R286
  | beat0  -- BEAT0, R136
  | beat  -- BEAT, R140
  | stopCompletion  -- STOP_COMPLETION, R142
  | flitTransfer  -- FLIT_TRANSFER, R185
  | fenceRouterPass  -- FENCE_ROUTER_PASS, R359
  | splicePerform  -- SPLICE_PERFORM, R153
  | snewPerform  -- SNEW_PERFORM, R293
  | sfreePerform  -- SFREE_PERFORM, R293
  | freeListWrite  -- FREE_LIST_WRITE, R149
  | messageSend  -- MESSAGE_SEND, R296
  | messageArrival  -- MESSAGE_ARRIVAL, R296
  | messageResend  -- MESSAGE_RESEND, R296
  | barrierArrival  -- BARRIER_ARRIVAL, R128
  | groupTotalUpdate  -- GROUP_TOTAL_UPDATE, R118
  | launchAppend  -- LAUNCH_APPEND, R112
  | spawnCreate  -- SPAWN_CREATE, R236
  | receiverDetect  -- RECEIVER_DETECT, R193
  | trainingComplete  -- TRAINING_COMPLETE, R193
  | trainingFailure  -- TRAINING_FAILURE, R193
  | linkError  -- LINK_ERROR, R193
  | recoveryComplete  -- RECOVERY_COMPLETE, R193
  | l1Entry  -- L1_ENTRY, R193
  | l1Exit  -- L1_EXIT, R193
  | linkLoss  -- LINK_LOSS, R193
  | linkReset  -- LINK_RESET, R193
  | powerStateChoice  -- POWER_STATE_CHOICE, R365
  | wake  -- WAKE, R365
  | monitorSample  -- MONITOR_SAMPLE, R368
  | correctableLinkError  -- CORRECTABLE_LINK_ERROR, R192
deriving DecidableEq, Repr, Inhabited

end Sys2Proof
end

