-- ==== Sys2Proof/Machine/Num.lean ====
section
/-!
DEFINITION. The number formats of chapter 03: exact values, decoding, rounding, the tapered formats, and the exact arithmetic that the
floating-point instructions share.
-/
namespace Sys2Proof
namespace Machine

/-- The mode in force (R50). -/
inductive Rnd where
  | rn | rz | rp | rm
deriving DecidableEq, Repr, Inhabited

end Machine

/-- The rounding field of a word: modifier bits [54:53] (R50). -/
def Head.rnd (h : Head) : Machine.Rnd :=
  let c := h.mod.extractLsb' 1 2
  if c = 0 then .rn else if c = 1 then .rz else if c = 2 then .rp else .rm

namespace Machine

/-- A decoded floating-point value: NaN, an infinity, or (−1)^neg · m · 2^e, exact; zero keeps its sign. -/
inductive FVal where
  | nan
  | inf (neg : Bool)
  | fin (neg : Bool) (m : Nat) (e : Int)
deriving DecidableEq, Repr, Inhabited

/-- A binary format: exponent and fraction widths (R49). -/
structure FP where
  eb : Nat
  mb : Nat
deriving DecidableEq, Repr, Inhabited

def fp64 : FP := { eb := 11, mb := 52 }
def fp32 : FP := { eb := 8, mb := 23 }
def fpB16 : FP := { eb := 8, mb := 7 }

def FP.bias (p : FP) : Nat := 2 ^ (p.eb - 1) - 1
def FP.width (p : FP) : Nat := 1 + p.eb + p.mb
def FP.infBits (p : FP) : Nat := (2 ^ p.eb - 1) * 2 ^ p.mb
def FP.signBit (p : FP) : Nat := 2 ^ (p.eb + p.mb)

/-- The canonical quiet NaN (R49). -/
def FP.qnan (p : FP) : Nat := p.infBits + 2 ^ (p.mb - 1)

/-- The value of an encoding (R49). -/
def FP.decode (p : FP) (bits : Nat) : FVal :=
  let neg := bits / p.signBit % 2 == 1
  let ex := bits / 2 ^ p.mb % 2 ^ p.eb
  let fr := bits % 2 ^ p.mb
  if ex = 2 ^ p.eb - 1 then (if fr = 0 then .inf neg else .nan)
  else if ex = 0 then .fin neg fr (1 - (p.bias : Int) - p.mb)
  else .fin neg (2 ^ p.mb + fr) ((ex : Int) - p.bias - p.mb)

/-- ⌊m / 2^sh⌋ rounded to an integer, with `sticky` for a part below the last bit of `m`. -/
def roundShift (r : Rnd) (neg sticky : Bool) (m sh : Nat) : Nat :=
  if sh > m.log2 + 2 then
    -- the value is below a quarter
    if (m != 0 || sticky) && ((r = .rp && !neg) || (r = .rm && neg)) then 1 else 0
  else
    let q := m / 2 ^ sh
    let rem := m % 2 ^ sh
    let up := match r with
      | .rn => sh != 0 && (2 * rem > 2 ^ sh || (2 * rem == 2 ^ sh && (sticky || q % 2 == 1)))
      | .rz => false
      | .rp => !neg && (rem != 0 || sticky)
      | .rm => neg && (rem != 0 || sticky)
    if up then q + 1 else q

/-- The result of an overflow: infinity, or the largest finite value of the right sign (R52). -/
def FP.overflow (p : FP) (r : Rnd) (neg : Bool) : Nat :=
  let inf := match r with
    | .rn => true | .rz => false | .rp => !neg | .rm => neg
  if inf then p.infBits else p.infBits - 1

/-- The encoding of (−1)^neg · (m + a part below one when sticky) · 2^e, rounded once. A sticky `m` has more bits than the fraction. -/
def FP.roundFin (p : FP) (r : Rnd) (neg : Bool) (m : Nat) (e : Int) (sticky : Bool) : Nat :=
  let sgn := if neg then p.signBit else 0
  if m = 0 then sgn
  else
    let ex : Int := (m.log2 : Int) + e
    let qe : Int := max ex (1 - (p.bias : Int)) - p.mb
    if ex > p.bias then sgn + p.overflow r neg
    else
      let q := if e ≥ qe then m * 2 ^ (e - qe).toNat else roundShift r neg sticky m (qe - e).toNat
      let bits := (qe + p.mb + p.bias - 1).toNat * 2 ^ p.mb + q
      sgn + (if bits ≥ p.infBits then p.overflow r neg else bits)

/-- The encoding of a value, rounded once in the mode `r`; a NaN is canonical (R49). -/
def FP.encode (p : FP) (r : Rnd) : FVal → Nat
  | .nan => p.qnan
  | .inf neg => (if neg then p.signBit else 0) + p.infBits
  | .fin neg m e => p.roundFin r neg m e false

/-! ### Exact operations -/

def FVal.neg : FVal → FVal
  | .nan => .nan
  | .inf s => .inf (!s)
  | .fin s m e => .fin (!s) m e

def FVal.isNan : FVal → Bool
  | .nan => true
  | _ => false

/-- ±m · 2^(e − lo), an integer when lo ≤ e. -/
def scaled (neg : Bool) (m : Nat) (e lo : Int) : Int :=
  let v : Int := (m * 2 ^ (e - lo).toNat : Nat)
  if neg then -v else v

/-- The exact sum; an exact zero takes the sign of IEEE 754-2019 for the mode. -/
def FVal.add (r : Rnd) : FVal → FVal → FVal
  | .nan, _ => .nan
  | _, .nan => .nan
  | .inf s, .inf t => if s = t then .inf s else .nan
  | .inf s, .fin .. => .inf s
  | .fin .., .inf t => .inf t
  | .fin s m e, .fin t n f =>
    if m = 0 ∧ n = 0 then .fin (if s = t then s else decide (r = .rm)) 0 0
    else if m = 0 then .fin t n f
    else if n = 0 then .fin s m e
    else
      let lo := min e f
      let v := scaled s m e lo + scaled t n f lo
      if v = 0 then .fin (decide (r = .rm)) 0 0 else .fin (decide (v < 0)) v.natAbs lo

/-- The exact product. -/
def FVal.mul : FVal → FVal → FVal
  | .nan, _ => .nan
  | _, .nan => .nan
  | .inf s, .inf t => .inf (s != t)
  | .inf s, .fin t n _ => if n = 0 then .nan else .inf (s != t)
  | .fin s m _, .inf t => if m = 0 then .nan else .inf (s != t)
  | .fin s m e, .fin t n f => .fin (s != t) (m * n) (e + f)

/-- −1, 0 or 1 as a < b, a = b, a > b, by value, for two values that are not NaN; +0 equals −0. -/
def FVal.cmp : FVal → FVal → Int
  | .inf s, .inf t => if s = t then 0 else if s then -1 else 1
  | .inf s, _ => if s then -1 else 1
  | _, .inf t => if t then 1 else -1
  | .fin s m e, .fin t n f =>
    let lo := min e f
    let a := scaled s m e lo
    let b := scaled t n f lo
    if a < b then -1 else if a = b then 0 else 1
  | _, _ => 0

/-- The quotient of two values, rounded once (R251). -/
def FP.div (p : FP) (r : Rnd) : FVal → FVal → Nat
  | .nan, _ => p.qnan
  | _, .nan => p.qnan
  | .inf _, .inf _ => p.qnan
  | .inf s, .fin t _ _ => p.encode r (.inf (s != t))
  | .fin s _ _, .inf t => p.encode r (.fin (s != t) 0 0)
  | .fin s m e, .fin t n f =>
    if n = 0 then (if m = 0 then p.qnan else p.encode r (.inf (s != t)))
    else
      let k := 2 * p.mb + 8 + n.log2
      p.roundFin r (s != t) (m * 2 ^ k / n) (e - f - k) (m * 2 ^ k % n != 0)

/-- ⌊√n⌋ from bit `b` down. -/
def isqrtFrom (n : Nat) : Nat → Nat → Nat
  | 0, acc => acc
  | b + 1, acc => isqrtFrom n b (if (acc + 2 ^ b) ^ 2 ≤ n then acc + 2 ^ b else acc)

def isqrt (n : Nat) : Nat := isqrtFrom n (n.log2 / 2 + 1) 0

/-- √a, rounded once. -/
def FP.sqrt (p : FP) (r : Rnd) : FVal → Nat
  | .nan => p.qnan
  | .inf s => if s then p.qnan else p.infBits
  | .fin s m e =>
    if m = 0 then p.encode r (.fin s 0 0)
    else if s then p.qnan
    else
      -- an even exponent and room for twice the fraction
      let k := 2 * (p.mb + 4) + (if (e - (2 * (p.mb + 4) : Nat)) % 2 = 0 then 0 else 1)
      let q := isqrt (m * 2 ^ k)
      p.roundFin r false q ((e - k) / 2) (q * q != m * 2 ^ k)

/-- 1/√a, one rounding (R251). -/
def FP.rsqrt (p : FP) (r : Rnd) : FVal → Nat
  | .nan => p.qnan
  | .inf s => if s then p.qnan else 0
  | .fin s m e =>
    if m = 0 then p.encode r (.inf s)
    else if s then p.qnan
    else
      let m := if e % 2 = 0 then m else 2 * m
      let e := if e % 2 = 0 then e else e - 1
      let k := p.mb + 8 + m.log2
      let q := isqrt (2 ^ (2 * k) / m)
      p.roundFin r false q (-(e / 2) - k) (q * q * m != 2 ^ (2 * k))

/-- A value rounded to an integral value (R251). -/
def FVal.integral (r : Rnd) : FVal → FVal
  | .fin s m e => if e ≥ 0 then .fin s m e else .fin s (roundShift r s false m (-e).toNat) 0
  | v => v

/-- A finite value rounded to an integer, in the mode (R256). -/
def roundInt (r : Rnd) (s : Bool) (m : Nat) (e : Int) : Int :=
  let v : Nat := if e ≥ 0 then m * 2 ^ e.toNat else roundShift r s false m (-e).toNat
  if s then -(v : Int) else v

/-- ⌊log2 |a|⌋ of a finite non-zero value. -/
def floorLog2 (m : Nat) (e : Int) : Int := (m.log2 : Int) + e

/-! ### Powers of two and logarithms (R252) -/

/-- ⌊ln 2 · 2^400⌋. -/
def ln2x400 : Nat :=
  1789879222497203190815761498240779176894896805856420935579692301363062920687047601279850318367644315849030039181347319086

/-- The sum of `n` terms of the exponential series of t / 2^400, scaled by 2^400, from term `k` on. -/
def expTerms (t : Nat) : Nat → Nat → Nat → Nat → Nat
  | 0, _, _, acc => acc
  | n + 1, k, term, acc => expTerms t n (k + 1) (term * t / (2 ^ 400 * (k + 1))) (acc + term)

/-- 2^a, correctly rounded: exact where a is an integer; elsewhere from 400 bits of the exponential series, which no F32 operand comes
near enough to a rounding boundary to confuse (log entry 5, UNVERIFIED). -/
def FP.exp2 (p : FP) (r : Rnd) : FVal → Nat
  | .nan => p.qnan
  | .inf s => if s then 0 else p.infBits
  | .fin s m e =>
    if m = 0 then p.roundFin r false 1 0 false
    else if floorLog2 m e ≥ 11 then p.roundFin r false (2 ^ 60) (if s then -5000 else 5000) true
    else
      let a := scaled s m e (-160)
      let n := a / 2 ^ 160
      let f := (a % 2 ^ 160).toNat
      if f = 0 then p.roundFin r false 1 n false
      else p.roundFin r false (expTerms (f * ln2x400 / 2 ^ 160) 90 0 (2 ^ 400) 0) (n - 400) true

/-- The sum of `n` terms z^(2i+1)/(2i+1), scaled by 2^400; `w` is the power reached, `z2` the square. -/
def atanhTerms (z2 : Nat) : Nat → Nat → Nat → Nat → Nat
  | 0, _, _, acc => acc
  | n + 1, i, w, acc => atanhTerms z2 n (i + 1) (w * z2 / 2 ^ 400) (acc + w / (2 * i + 1))

/-- log2 a, correctly rounded: exact where a is a power of two (log entry 5, UNVERIFIED, as for `FP.exp2`). -/
def FP.log2 (p : FP) (r : Rnd) : FVal → Nat
  | .nan => p.qnan
  | .inf s => if s then p.qnan else p.infBits
  | .fin s m e =>
    if m = 0 then p.encode r (.inf true)
    else if s then p.qnan
    else
      let l := m.log2
      let k := floorLog2 m e
      if m = 2 ^ l then p.encode r (.fin (decide (k < 0)) k.natAbs 0)
      else
        let z := (m - 2 ^ l) * 2 ^ 400 / (m + 2 ^ l)
        let v : Int := k * 2 ^ 400 + (2 * atanhTerms (z * z / 2 ^ 400) 135 0 z 0 * 2 ^ 400 / ln2x400 : Nat)
        p.roundFin r (decide (v < 0)) v.natAbs (-400) true

/-! ### Tapered formats (R53 to R56) -/

/-- The length of the run of bits equal to `b` in `x`, from bit `i` down (the argument counts bits left). -/
def runLen (x : Nat) (b : Nat) : Nat → Nat
  | 0 => 0
  | i + 1 => if x / 2 ^ i % 2 = b then 1 + runLen x b i else 0

/-- The value of an `n`-bit tapered code with `es` exponent bits (R53). -/
def tdec (n es : Nat) (x : Nat) : FVal :=
  let x := x % 2 ^ n
  if x = 0 then .fin false 0 0
  else if x = 2 ^ (n - 1) then .nan
  else
    let neg := x ≥ 2 ^ (n - 1)
    let x := if neg then 2 ^ n - x else x
    let b := x / 2 ^ (n - 2) % 2
    let m := runLen x b (n - 1)
    let k : Int := if b = 1 then (m : Int) - 1 else -m
    let left := n - 2 - m          -- bits below the terminating bit
    let rest := x % 2 ^ left
    let e := if left ≥ es then rest / 2 ^ (left - es) else rest * 2 ^ (es - left)
    let fl := left - es
    let f := rest % 2 ^ fl
    .fin neg (2 ^ fl + f) (k * 2 ^ es + e - fl)

/-- The `n`-bit tapered code of a value (R56): nearest, ties to the even code; `top` is log2 of maxpos, and minpos is its reciprocal. -/
def tenc (n es top : Nat) : FVal → Nat
  | .nan => 2 ^ (n - 1)
  | .inf neg => if neg then 2 ^ (n - 1) + 1 else 2 ^ (n - 1) - 1
  | .fin neg m e =>
    if m = 0 then 0
    else
      let ex := floorLog2 m e
      let c :=
        if ex ≥ top then 2 ^ (n - 1) - 1
        else if ex < -(top : Int) ∨ (ex = -(top : Int) ∧ m = 2 ^ m.log2) then 1
        else
          let k := ex / 2 ^ es
          let ee := (ex - k * 2 ^ es).toNat
          let (reg, rl) := if k ≥ 0 then ((2 ^ (k.toNat + 1) - 1) * 2, k.toNat + 2) else (1, (-k).toNat + 1)
          let l := m.log2
          let s := (reg * 2 ^ es + ee) * 2 ^ l + (m - 2 ^ l)
          let t := rl + es + l
          if t ≤ n - 1 then s * 2 ^ (n - 1 - t) else roundShift .rn false false s (t - (n - 1))
      if neg then 2 ^ n - c else c

def t8dec (x : Nat) : FVal := tdec 8 1 x
def t6dec (x : Nat) : FVal := tdec 6 0 x
def t8enc (v : FVal) : Nat := tenc 8 1 12 v
def t6enc (v : FVal) : Nat := tenc 6 0 4 v

end Machine

/-- The value of an element of a floating-point format (R49, R53). -/
def Fmt.value (f : Fmt) (bits : Nat) : Machine.FVal :=
  match f with
  | .f64 => Machine.fp64.decode bits
  | .f32 => Machine.fp32.decode bits
  | .b16 => Machine.fpB16.decode bits
  | .t8 => Machine.t8dec bits
  | .t6 => Machine.t6dec bits
  | _ => .nan

namespace Machine

/-! ### Block-integer conversion (R57 to R59) -/

/-- The shared-exponent field of a run (R57). -/
def bfsField (xs : List FVal) : Nat :=
  if xs.any fun x => match x with | .fin .. => false | _ => true then 0xFF
  else
    let es := xs.filterMap fun x => match x with
      | .fin _ m e => if m = 0 then none else some (floorLog2 m e)
      | _ => none
    let e := es.foldl max (-126)
    (min e 127 + 127).toNat

/-- The dither numerator at position `p`: bit reversal of 5 bits (R59). -/
def dither (p : Nat) : Nat := ((BitVec.ofNat 5 p).reverse).toNat

/-- One element of BFQ (R58): `p` is the dither position, (`sh`, `lim`) belong to the target width. -/
def bfqElem (sh lim : Nat) (fld p : Nat) : FVal → Int
  | .nan => 0
  | .inf neg => if neg then -lim else lim
  | .fin neg m e =>
    let ex : Int := e + sh - ((fld : Int) - 127)
    if ex ≥ 0 then
      -- an integer passes exactly, within the limit; far beyond it the limit is the result
      let v : Int := if m = 0 then 0 else if floorLog2 m ex > 40 then (if neg then -lim else lim) else scaled neg m ex 0
      min (max v (-lim)) lim
    else
      let d := (-ex).toNat
      if d > m.log2 + 8 then
        -- 0 < |y| < 2^-7: a negative y rounds up past every threshold, a positive one past threshold 0 only
        if !neg && m != 0 && dither p = 0 then 1 else 0
      else
        let a : Int := if neg then -(m : Int) else m
        let q := a / 2 ^ d
        let fr := (a % 2 ^ d).toNat
        let q := if fr * 32 > dither p * 2 ^ d then q + 1 else q
        min (max q (-lim)) lim

end Machine
end Sys2Proof
end

