-- ==== Sys2Proof/Machine/Flags.lean ====
section
/-!
DEFINITION. Conditions: the machine keeps no flags; a compare yields a predicate bit. Integer readings and truncation (R239, R240), integer
compares (R244), the tests of SEL (R231), floating-point compares and classes (R253, R255), and the ranking of SEL24 (R71).
-/
namespace Sys2Proof.Machine

/-- The width of an integer type (R239). -/
def intWidth (ty : Fmt) : Nat := if ty = .i32 then 32 else 64

/-- The low `w` bits read as signed, and as unsigned (R239). -/
def readS (w : Nat) (a : Word) : Int := (a.setWidth w).toInt
def readU (w : Nat) (a : Word) : Nat := (a.setWidth w).toNat

/-- An exact result truncated to `w` bits, the bits above copies of bit `w` − 1 (R240). -/
def truncS (w : Nat) (t : Int) : Word := (BitVec.ofInt w t).signExtend 64

/-- An exact result limited to −2^(w−1) … 2^(w−1) − 1 (R239). -/
def saturate (w : Nat) (t : Int) : Int := min (max t (-(2 ^ (w - 1) : Nat))) ((2 ^ (w - 1) : Nat) - 1)

/-- A predicate bit (R244). -/
def prdBit (b : Bool) : Word := if b then 1 else 0

/-! ### Floating point -/

/-- The value of a F32 or F64 encoding. -/
def fpOf (f : Fmt) : FP := if f = .f64 then fp64 else fp32

/-- `a` < `b` in the order of FMIN and FMAX: by value, −0 below +0 (R253). -/
def fpLess (a b : FVal) : Bool :=
  let c := a.cmp b
  c < 0 || (c == 0 && (match a, b with | .fin s 0 _, .fin t 0 _ => s && !t | _, _ => false))

/-- FMIN or FMAX on two encodings (R253). -/
def fpPick (p : FP) (least num : Bool) (a b : Word) : Word :=
  let x := p.decode a.toNat
  let y := p.decode b.toNat
  match x.isNan, y.isNan with
  | true, true => BitVec.ofNat 64 p.qnan
  | true, false => if num then b else BitVec.ofNat 64 p.qnan
  | false, true => if num then a else BitVec.ofNat 64 p.qnan
  | false, false => if fpLess x y then (if least then a else b) else if fpLess y x then (if least then b else a) else a

/-- FEQ, FLT, FLE, FUNO (R255). -/
def fpEq (a b : FVal) : Bool := !a.isNan && !b.isNan && a.cmp b == 0
def fpLt (a b : FVal) : Bool := !a.isNan && !b.isNan && decide (a.cmp b < 0)
def fpLe (a b : FVal) : Bool := !a.isNan && !b.isNan && decide (a.cmp b ≤ 0)
def fpUno (a b : FVal) : Bool := a.isNan || b.isNan

/-- The class of a value (R255). -/
def fpClass (p : FP) : FVal → Nat
  | .nan => 8
  | .inf s => if s then 0 else 7
  | .fin s m _ =>
    if m = 0 then (if s then 3 else 4)
    else if m < 2 ^ p.mb then (if s then 2 else 5)
    else (if s then 1 else 6)

/-- The test of SEL (R231): `sgn` is the sign bit, `zero` whether the value is a zero, `nan` whether it is a NaN. -/
def selTest (k : Nat) (sgn zero nan : Bool) : Bool :=
  match k with
  | 0 => !zero
  | 1 => !sgn
  | 2 => sgn
  | _ => !nan

/-- SEL's test on an element of a type (R231). -/
def selOf (ty : Fmt) (k : Nat) (x : Word) : Bool :=
  match ty with
  | .i32 => selTest k (x.getLsbD 31) (readU 32 x == 0) false
  | .f64 => selTest k (x.getLsbD 63) (readU 63 x == 0) (fp64.decode x.toNat).isNan
  | .f32 => selTest k (x.getLsbD 31) (readU 31 x == 0) (fp32.decode x.toNat).isNan
  | _ => selTest k (x.getLsbD 63) (x == 0) false

/-- SEL24's rank of an element (R71): NaN above all, then magnitude with infinity above every finite value; `none` is NaN. -/
def rankVal (ty : Fmt) (x : Word) : FVal :=
  match ty with
  | .i32 => .fin false (readS 32 x).natAbs 0
  | ty => match ty.value x.toNat with
    | .nan => .nan
    | .inf _ => .inf false
    | .fin _ m e => .fin false m e

/-- `a` ranks strictly above `b` (R71). -/
def ranksAbove (a b : FVal) : Bool :=
  match a, b with
  | .nan, .nan => false
  | .nan, _ => true
  | _, .nan => false
  | a, b => decide (a.cmp b > 0)

end Sys2Proof.Machine
end

