-- ==== Sys2Proof/WellFormed.lean ====
section
/-!
DEFINITION. Which words are well formed: the TYPE, MOD, immediate and field values that each instruction admits (R205 to R210 and the
encoding tables of the instruction reference), and its targets. What concerns a whole
block (R214) is in Machine/Block.lean.
-/
namespace Sys2Proof

/-- Bits [hi:lo] of a bit vector as a number. -/
def bits {w : Nat} (x : BitVec w) (lo n : Nat) : Nat := (x.extractLsb' lo n).toNat

namespace Fmt

def isInt : Fmt → Bool | .x64 | .i32 => true | _ => false
/-- F64, F32 and the narrow formats. -/
def isFlt : Fmt → Bool | .f64 | .f32 | .b16 | .t8 | .t6 => true | _ => false
/-- F32 and the narrow formats. -/
def isF32 : Fmt → Bool | .f32 | .b16 | .t8 | .t6 => true | _ => false

end Fmt

/-- A target as far as its own bits go (R206): a write slot names register 1 to 31, an index is at most 126. -/
def Target.ok : Target → Bool
  | .none => true
  | .reg n => n != 0
  | .op _ i => i != 127

/-- MOD zero. -/
def Head.mod0 (h : Head) : Bool := h.mod == 0
/-- MOD[54:53] is a rounding field, MOD[52] zero (R50, R246). -/
def Head.modR (h : Head) : Bool := !h.mod.getLsbD 0
/-- MOD[54:53] zero, MOD[52] a flag. -/
def Head.modF (h : Head) : Bool := bits h.mod 1 2 == 0
/-- MOD[54] zero and MOD[53:52] the given value. -/
def Head.modIs (h : Head) (v : BitVec 3) : Bool := h.mod == v

/-- A 10-bit target field (R206). -/
def decodeTarget (b : BitVec 10) : Option Target :=
  let kind := b.extractLsb' 8 2
  let ws := b.getLsbD 7
  if kind = 0 then (if b = 0 then some .none else none)
  else if ws then
    (if kind = 1 ∧ b.extractLsb' 5 2 = 0 then some (.reg (b.extractLsb' 0 5)) else none)
  else some (.op (if kind = 1 then .left else if kind = 2 then .right else .pred) (b.extractLsb' 0 7))

/-- FAN's third and fourth targets in IMM[19:10] and IMM[9:0] (R195, R207). -/
def GWord.t2 (g : GWord) : Option Target := decodeTarget (g.imm.extractLsb' 10 10)
def GWord.t3 (g : GWord) : Option Target := decodeTarget (g.imm.extractLsb' 0 10)

/-- IMM zero above its low `n` bits. -/
def immBelow {w : Nat} (x : BitVec w) (n : Nat) : Bool := x.toNat < 2 ^ n

/-- Fields of an M word that only LDV uses are zero (R208); order and scope as R208 states. -/
def MWord.plain (m : MWord) : Bool := m.h.mod == 0 && m.runlo == 0
def MWord.ordOk (m : MWord) : Bool :=
  (m.order != .none || m.scope == .blk) && (!m.scr || m.scope == .blk || m.scope == .clu)
def MWord.lsTy (m : MWord) : Bool := m.h.ty != .prd
def MWord.i32x64 (m : MWord) : Bool := m.h.ty.isInt

/-- LDV's run length (R208): MOD[54:52] and RUNLO hold N - 1. -/
def MWord.run (m : MWord) : Nat := m.h.mod.toNat * 4 + m.runlo.toNat + 1

/-- LDI's constraint by type (R228). -/
def IWord.ldiOk (x : IWord) : Bool :=
  match x.h.ty with
  | .x64 => true
  | .i32 => bits x.imm 32 5 == (if x.imm.getLsbD 31 then 31 else 0)
  | .f32 => immBelow x.imm 32
  | .b16 => immBelow x.imm 16
  | .t8 => immBelow x.imm 8
  | .t6 => immBelow x.imm 6
  | .prd => immBelow x.imm 1
  | .f64 => false

/-- An immediate shift amount below the width (R242). -/
def GWord.shiftOk (g : GWord) : Bool := immBelow g.imm (if g.h.ty = .x64 then 6 else 5)

/-- A BFX or BFI field (R243): p + m at most w. -/
def GWord.fieldOk (g : GWord) (s : Bool) : Bool :=
  immBelow g.imm (if s then 13 else 12) && bits g.imm 0 6 + (bits g.imm 6 6 + 1) ≤ (if g.h.ty = .x64 then 64 else 32)

/-- An XW word whose fields but those named are zero. -/
def XWWord.only (x : XWWord) (acc mode flags count : Bool) : Bool :=
  (acc || x.acc == 0) && (mode || x.mode == 0) && (flags || (!x.xf && !x.jf)) && (count || x.count == 0)
    && x.acc.toNat < 192

/-- An XR word whose fields but those named are zero. -/
def XRWord.only (x : XRWord) (lsid fam slot elem p : Bool) : Bool :=
  (lsid || x.lsid == 0) && (fam || !x.fam) && (slot || x.slot == 0) && (elem || x.elem == 0) && (p || x.p == 0)

/-- A scope code in a ring word, coded as in format M (R208). -/
def scopeOk (c : Nat) : Bool := c ≤ 5

/-- TPASS parameters at [23:12] (R135, R209): LAPLIM 1 to 255, TASKS 1 to 4. -/
def tpassOk (v : Nat) : Bool := 1 ≤ v / 2 ^ 15 % 256 && 1 ≤ v / 2 ^ 12 % 8 && v / 2 ^ 12 % 8 ≤ 4

/-- The system-register numbers of R325. -/
def regNumbers : List Nat :=
  [0x000, 0x001, 0x002, 0x003, 0x004, 0x005, 0x006, 0x010, 0x011, 0x012, 0x013, 0x018, 0x019, 0x01A, 0x020, 0x021, 0x022, 0x023,
   0x024, 0x030, 0x031, 0x032, 0x033, 0x040, 0x041, 0x042, 0x043, 0x044, 0x045, 0x048, 0x049, 0x04A, 0x050, 0x060, 0x061, 0x062]

/-- Reason 0x04 of R214: TYPE, MOD, immediate and fields are values the instruction admits. Events have no fields to check. -/
def Instr.fieldsOk : Instr → Bool
  -- moves (R222, R225 to R232)
  | .mov g | .steer g | .merge g => g.h.mod0 && g.imm == 0
  | .fan g => g.h.mod0 && immBelow g.imm 20
  | .getg g => g.h.mod0 && immBelow g.imm 5
  | .putg g => g.h.mod0 && immBelow g.imm 10
  | .ldi x => x.h.mod0 && x.ldiOk
  | .ldih x => x.h.mod0 && (x.h.ty == .x64 || x.h.ty == .f64) && immBelow x.imm 27
  | .null g => g.h.mod0 && g.h.ty == .x64 && (if g.t0 = .none then immBelow g.imm 5 else g.imm == 0)
  | .sel g => g.h.mod0 && (g.h.ty.isInt || g.h.ty == .f64 || g.h.ty == .f32) && immBelow g.imm 2
      && (bits g.imm 0 2 != 3 || !g.h.ty.isInt)
  -- exits (R210, R232 to R236)
  | .exit c => c.h.mod0 && c.h.ty == .x64 && c.exitno != 7 && (!c.retire || c.off == 0)
  | .exiti c => c.h.mod0 && c.h.ty == .x64 && c.exitno != 7 && !c.retire && c.off == 0
  | .call c => c.h.mod0 && c.h.ty == .x64 && c.exitno != 7 && !c.retire
  | .ret g => g.h.mod0 && g.h.ty == .x64 && immBelow g.imm 3
  | .halt g => g.h.mod0 && g.h.ty == .x64 && g.imm == 0
  | .rdid g => g.h.mod0 && g.h.ty == .x64 && g.imm.toNat ≤ 10
  | .spawn g => g.h.mod0 && g.h.ty == .x64 && g.imm == 0
  | .emit g => g.h.mod0 && immBelow g.imm 12
  -- integer, logic, compares (R239 to R244)
  | .add g | .sub g | .mul g | .mulh g | .mulhn g | .div g | .divn g | .rem g | .remn g | .adds g | .subs g | .min g | .max g
  | .minn g | .maxn g | .abs g | .neg g | .and g | .or g | .xor g | .andn g | .shl g | .shr g | .sha g | .rol g | .clz g | .popc g
  | .brev g | .teq g | .tne g | .tlt g | .tle g | .tltn g | .tlen g => g.h.mod0 && g.h.ty.isInt && g.imm == 0
  | .addi g | .andi g | .ori g | .xori g | .teqi g | .tlti g | .tlei g => g.h.mod0 && g.h.ty.isInt
  | .shli g | .shri g | .shai g => g.h.mod0 && g.h.ty.isInt && g.shiftOk
  | .bfx g => g.h.mod0 && g.h.ty.isInt && g.fieldOk true
  | .bfi g => g.h.mod0 && g.h.ty.isInt && g.fieldOk false
  | .pand g | .por g | .pxor g | .pnot g => g.h.mod0 && g.h.ty == .prd && g.imm == 0
  | .lea g => g.h.mod0 && g.h.ty == .x64 && bits g.imm 0 4 ≤ 12
  -- floating point (R246, R247)
  | .fadd g | .fsub g | .fmul g | .fdiv g | .fsqrt g | .frsq g | .frnd g => g.h.modR && g.h.ty.isFlt && g.imm == 0
  | .fscl g => g.h.modR && g.h.ty.isFlt
  | .ffma g | .ffms g | .ex2 g | .lg2 g => g.h.modR && g.h.ty.isF32 && g.imm == 0
  | .fmin g | .fmax g => g.h.modF && g.h.ty.isFlt && g.imm == 0
  | .fabs g | .fneg g | .fcps g | .feq g | .flt g | .fle g | .funo g => g.h.mod0 && g.h.ty.isFlt && g.imm == 0
  | .fcls g => g.h.mod0 && g.h.ty.isFlt && immBelow g.imm 9 && g.imm != 0
  | .cvtif g => g.h.modR && (g.h.ty == .f64 || g.h.ty == .f32) && immBelow g.imm 8 && bits g.imm 0 2 != 3
  | .cvtfi g => g.h.modR && g.h.ty.isFlt && immBelow g.imm 8 && bits g.imm 0 2 != 3
  | .cvtff g => g.h.modR && g.h.ty.isFlt && 2 ≤ g.imm.toNat && g.imm.toNat ≤ 4
  | .tdec g => g.h.mod0 && g.h.ty.narrow && g.imm == 0
  | .tenc g => g.h.modR && (g.h.ty == .f64 || g.h.ty == .f32) && immBelow g.imm 1
  | .bfq g => g.h.modF && g.h.ty.isF32 && g.imm == 0
  | .bfs g => g.h.mod0 && g.h.ty.isF32 && g.imm == 0
  -- runs (R259 to R267)
  | .vgen g => g.h.mod0 && g.h.ty.isInt
  | .vspl g => g.h.mod0 && 1 ≤ g.imm.toNat && g.imm.toNat ≤ g.h.ty.maxRun
  | .vlan g | .vins g => g.h.mod0 && immBelow g.imm 5
  | .vsld g => g.h.mod0 && g.imm.toNat ≤ 32
  | .vcat g => g.h.mod0 && (g.h.ty == .i32 || g.h.ty == .f32) && g.imm.toNat ≤ 2
  | .vperm g | .vcmpr g => g.h.mod0 && g.imm == 0
  | .vsel g => g.h.mod0 && immBelow g.imm 10 && bits g.imm 0 5 ≤ bits g.imm 5 5
  | .vsum g | .vdot g => (if g.h.ty.isInt then g.h.mod0 else g.h.modR) && g.h.ty != .prd && g.imm == 0
  | .vmax g | .vmin g => (if g.h.ty.isInt then g.h.mod0 else g.h.modF) && g.h.ty != .prd && g.imm == 0
  | .vscan g => g.h.ty != .prd && g.imm.toNat ≤ 2
      && (if g.h.ty.isInt then g.h.mod0 else if g.imm == 0 then g.h.modR else g.h.modF)
  | .sel24 g => g.h.mod0 && g.h.ty != .x64 && g.h.ty != .prd && g.imm == 0
  | .rstat g => g.h.modR && g.h.ty.isF32 && g.imm == 0
  | .rscl g => g.h.modR && g.h.ty.isF32 && g.imm.toNat ≤ 2
  -- the multiplier bank (R270)
  | .guard x => x.h.mod0 && x.h.ty == .x64 && x.only true true false false && x.mode.toNat ≤ 5
  | .packs x | .packl x => x.h.mod0 && x.h.ty == .i32 && x.only false true false false && x.mode.toNat ≤ 3
  | .wmul x | .wconv x | .xtr x | .pclr x | .pstat x => x.h.mod0 && x.h.ty == .x64 && x.only true false false false
  | .pclrFree x => x.h.modIs 1 && x.h.ty == .x64 && x.only true false false false
  | .wmulf x => x.h.modR && x.h.ty == .f64 && x.only true false false false
  | .wmulz x => x.h.modR && x.h.ty == .f64 && x.only true false true false
  | .xtrf x => x.h.modR && x.h.ty == .x64 && x.only true false false false
  | .zalloc x | .zfree x | .zclr x =>
      x.h.mod0 && x.h.ty == .x64 && x.only false false false true && 1 ≤ x.count.toNat && x.count.toNat ≤ 4096
  | .zrd x | .zwr x => x.h.mod0 && x.h.ty == .x64 && x.only false false false true && 1 ≤ x.count.toNat && x.count.toNat ≤ 16
  | .zcvt x => x.h.modR && x.h.ty == .f64 && x.only false false false true && 1 ≤ x.count.toNat && x.count.toNat ≤ 4096
  -- the ring (R285)
  | .tstage r => r.h.mod0 && r.h.ty == .x64 && r.elem.toNat ≤ 4 && bits r.p 0 3 == 0 && scopeOk (bits r.p 3 3)
      && (bits r.p 6 2 != 0 || bits r.p 3 3 == 0)
  | .tmatch r => r.h.mod0 && r.h.ty == .x64 && r.only false false false false true && immBelow r.p 8
  | .tmclr r => r.h.mod0 && r.h.ty == .x64 && r.only false false false false true && immBelow r.p 16 && bits r.p 0 8 ≤ bits r.p 8 8
  | .tgo r => r.h.mod0 && r.h.ty == .x64 && r.only false false true false true && bits r.p 0 13 == 0
      && bits r.p 13 3 != 0 && scopeOk (bits r.p 13 3)
  | .tld r => r.h.mod0 && r.only false true false false true && immBelow r.p 6 && 1 ≤ r.p.toNat
      && (r.h.ty == .i32 || r.h.ty == .t8 || r.h.ty == .f64) && r.p.toNat ≤ r.h.ty.maxRun
  | .tdone r | .trstat r | .trecall r => r.h.mod0 && r.h.ty == .x64 && r.only false false false false false
  | .tpass r => r.h.mod0 && r.h.ty == .x64 && r.only false false false false true && bits r.p 0 12 == 0
      && (r.p == 0 || tpassOk r.p.toNat)
  -- stitched tensors and messages (R292, R296 to R298)
  | .snew g => g.h.mod0 && g.h.ty == .x64 && immBelow g.imm 8
  | .splice m => m.plain && m.h.ty == .x64 && !m.scr && m.ordOk
  | .spin m => m.plain && m.h.ty == .x64 && !m.scr && m.order == .none && m.scope == .blk
  | .sunpin m => m.plain && m.h.ty == .x64 && !m.scr && m.order == .none && m.scope == .blk && m.off == 0
  | .sidx g | .slen g | .snext g | .sfree g => g.h.mod0 && g.h.ty == .x64 && g.imm == 0
  | .msend g => g.h.mod0 && g.imm == 0
  | .mrecv g => g.h.mod0 && g.h.ty == .x64 && g.imm == 0
  | .mpoll g => g.h.modF && g.h.ty == .x64 && g.imm == 0
  -- memory (R301)
  | .ld m | .ldg m => m.plain && m.lsTy && m.ordOk && (m.order == .none || m.order == .acq)
  | .ldv m => m.lsTy && m.ordOk && (m.order == .none || m.order == .acq) && m.run ≤ m.h.ty.maxRun
  | .st m | .stv m | .stsc m => m.plain && m.lsTy && m.ordOk && (m.order == .none || m.order == .rel)
  | .pref m => m.plain && m.h.ty == .x64 && !m.scr && m.order == .none && m.ordOk
  | .lde m => m.plain && (m.h.ty == .x64 || m.h.ty == .f64) && !m.scr && m.ordOk && (m.order == .none || m.order == .acq)
  | .stf m => m.plain && (m.h.ty == .x64 || m.h.ty == .f64) && !m.scr && m.ordOk && (m.order == .none || m.order == .rel)
  | .clrf m => m.plain && m.h.ty == .x64 && !m.scr && m.ordOk && (m.order == .none || m.order == .rel)
  | .aadd m | .amin m | .amax m | .aminn m | .amaxn m | .aand m | .aor m | .axor m | .acas m => m.plain && m.i32x64 && m.ordOk
  | .aswp m => m.plain && (m.i32x64 || m.h.ty == .f32 || m.h.ty == .f64) && m.ordOk
  | .afadd m => m.plain && (m.h.ty == .f32 || m.h.ty == .f64) && m.ordOk
  | .fence m => m.plain && m.h.ty == .x64 && !m.scr && m.order != .none && m.off == 0
  | .fencea m => m.plain && m.h.ty == .x64 && !m.scr && m.order != .none && m.off == 0 && (m.scope == .dev || m.scope == .sys)
  | .copy m | .copyt m => m.plain && m.h.ty == .x64 && !m.scr && m.ordOk
  | .waitt g | .cpst g => g.h.mod0 && g.h.ty == .x64 && g.imm == 0
  | .bankm g => g.h.mod0 && g.h.ty == .x64 && immBelow g.imm 7 && bits g.imm 4 2 != 3
  | .fpush g | .fpop g => g.h.mod0 && immBelow g.imm 4
  -- barriers, groups, COMB (R322, R323)
  | .bariCnt g => g.h.modIs 1 && g.h.ty == .x64 && immBelow g.imm 19
  | .bariGrp g => g.h.modIs 2 && g.h.ty == .x64 && immBelow g.imm 18
  | .bariFree g => g.h.modIs 3 && g.h.ty == .x64 && immBelow g.imm 8
  | .bara g | .barw g | .baraw g => g.h.mod0 && g.h.ty == .x64 && immBelow g.imm 8
  | .join g | .leave g | .grpq g => g.h.mod0 && g.h.ty == .x64 && immBelow g.imm 10
  | .comb g => (g.h.ty.isInt || g.h.ty == .f64 || g.h.ty == .f32) && immBelow g.imm 13 && bits g.imm 2 11 ≤ 1024
      && (bits g.imm 0 2 != 3 || g.h.ty.isInt) && (if bits g.imm 0 2 = 0 ∧ !g.h.ty.isInt then g.h.modR else g.h.mod0)
  -- system (R324)
  | .mfs g | .mts g => g.h.mod0 && g.h.ty == .x64 && regNumbers.contains g.imm.toNat
  | .trap g => g.h.mod0 && g.h.ty == .x64 && immBelow g.imm 16
  | .tret g | .relat g => g.h.mod0 && g.h.ty == .x64 && g.imm == 0
  | .launch g => g.h.mod0 && g.h.ty == .x64 && immBelow g.imm 16 && bits g.imm 0 4 == 0
  | .qsusp g => g.h.mod0 && g.h.ty == .x64 && immBelow g.imm 16
  | .qresQ g => g.h.modIs 0 && g.h.ty == .x64 && immBelow g.imm 16
  | .qresCol g | .drainCol g => g.h.modIs 1 && g.h.ty == .x64 && immBelow g.imm 16
  | .qresCtx g | .drainCtx g => g.h.modIs 2 && g.h.ty == .x64 && immBelow g.imm 4
  | .cfgld g => g.h.modIs 0 && g.h.ty == .x64 && g.imm == 0
  | .cfgldRt g => g.h.modIs 1 && g.h.ty == .x64 && g.imm == 0
  | .monArm g => g.h.mod0 && g.h.ty == .x64 && immBelow g.imm 6
  | .monRead g => g.h.mod0 && g.h.ty == .x64 && immBelow g.imm 13 && bits g.imm 6 2 == 1 && bits g.imm 8 5 ≤ 18
  | .monClear g => g.h.mod0 && g.h.ty == .x64 && immBelow g.imm 8 && bits g.imm 6 2 == 2
  | .monStop g => g.h.mod0 && g.h.ty == .x64 && immBelow g.imm 8 && bits g.imm 6 2 == 3
  | .nop g => g.h.mod0 && g.imm == 0
  -- events carry objects of the state, not fields of a word
  | .reset | .hostRecordWrite | .recordStart | .exitHeadWrite | .tokenArrival | .holdQueueAdmit | .parking
  | .retryTimerExpiry | .reInjectionResume | .controlTokenDelivery | .commit | .stallExpiry | .reloadDecision
  | .frameLoadComplete | .handlerEntry | .watchdogExpiry | .wdogKick | .checkpoint | .pfdoneWrite
  | .debugHaltRequest | .drainMarkerArrival | .drainAbort | .drainHalt | .drainCompletion | .passResume | .alloc
  | .start | .destroy | .clear | .scrubComplete | .shootDown | .shootDownComplete | .relatEmerge
  | .kernelLoading | .keyRecord | .msessWrite | .attestationReport | .kernelKeyRegister | .hostMgmtRead
  | .ctentWrite | .registerWrite | .translate | .tableReadFill | .accessPerform | .ldeRetry | .ldeWithdrawal
  | .lineFetch | .accessRetire | .scratchPerform | .bankPendingComplete | .completionToken | .transferStart
  | .transferWithhold | .transferDone | .waittWake | .tstageFillComplete | .beat0 | .beat | .stopCompletion
  | .flitTransfer | .fenceRouterPass | .splicePerform | .snewPerform | .sfreePerform | .freeListWrite
  | .messageSend | .messageArrival | .messageResend | .barrierArrival | .groupTotalUpdate | .launchAppend
  | .spawnCreate | .receiverDetect | .trainingComplete | .trainingFailure | .linkError | .recoveryComplete | .l1Entry
  | .l1Exit | .linkLoss | .linkReset | .powerStateChoice | .wake | .monitorSample | .correctableLinkError => true

/-- The head fields of a word (R205); none for an event. -/
def Instr.head : Instr → Option Head
  | .mov x | .fan x | .getg x | .putg x | .null x | .sel x | .steer x | .merge x | .ret x | .halt x | .rdid x | .add x
  | .sub x | .addi x | .mul x | .mulh x | .mulhn x | .div x | .divn x | .rem x | .remn x | .adds x | .subs x | .min x
  | .max x | .minn x | .maxn x | .and x | .or x | .xor x | .andn x | .andi x | .ori x | .xori x | .shl x | .shr x | .sha x
  | .rol x | .shli x | .shri x | .shai x | .clz x | .popc x | .teq x | .tne x | .tlt x | .tle x | .tltn x | .tlen x
  | .teqi x | .tlti x | .tlei x | .pand x | .por x | .pxor x | .pnot x | .abs x | .neg x | .fadd x | .fsub x | .fmul x
  | .ffma x | .ffms x | .fdiv x | .fsqrt x | .frsq x | .fmin x | .fmax x | .fabs x | .fneg x | .fcps x | .feq x | .flt x
  | .fle x | .funo x | .fcls x | .ex2 x | .lg2 x | .frnd x | .fscl x | .cvtif x | .cvtfi x | .cvtff x | .tdec x | .tenc x
  | .bfq x | .bfs x | .vgen x | .vspl x | .vlan x | .vins x | .vsld x | .vcat x | .vperm x | .vcmpr x | .vsel x | .vsum x
  | .vmax x | .vmin x | .vdot x | .vscan x | .sel24 x | .rstat x | .rscl x | .brev x | .bfx x | .bfi x | .snew x | .sidx x
  | .slen x | .snext x | .sfree x | .msend x | .mrecv x | .mpoll x | .lea x | .waitt x | .cpst x | .bankm x | .fpush x
  | .fpop x | .bariCnt x | .bariGrp x | .bariFree x | .bara x | .barw x | .baraw x | .join x | .leave x | .grpq x | .comb x
  | .mfs x | .mts x | .trap x | .tret x | .launch x | .qsusp x | .qresQ x | .qresCol x | .qresCtx x | .drainCol x
  | .drainCtx x | .cfgld x | .cfgldRt x | .relat x | .monArm x | .monRead x | .monClear x | .monStop x | .spawn x | .emit x
  | .nop x => some x.h
  | .ldi x | .ldih x => some x.h
  | .splice x | .spin x | .sunpin x | .ld x | .st x | .ldv x | .stv x | .ldg x | .stsc x | .pref x | .lde x | .stf x
  | .clrf x | .aadd x | .amin x | .amax x | .aminn x | .amaxn x | .aand x | .aor x | .axor x | .aswp x | .acas x | .afadd x
  | .fence x | .fencea x | .copy x | .copyt x => some x.h
  | .zcvt x | .guard x | .packs x | .packl x | .wmul x | .wconv x | .wmulf x | .wmulz x | .xtr x | .xtrf x | .pclr x
  | .pclrFree x | .pstat x | .zalloc x | .zfree x | .zclr x | .zrd x | .zwr x => some x.h
  | .tstage x | .tmatch x | .tmclr x | .tgo x | .tld x | .tdone x | .trstat x | .trecall x | .tpass x => some x.h
  | .exit x | .exiti x | .call x => some x.h
  | .reset | .hostRecordWrite | .recordStart | .exitHeadWrite | .tokenArrival | .holdQueueAdmit
  | .parking | .retryTimerExpiry | .reInjectionResume | .controlTokenDelivery | .commit | .stallExpiry
  | .reloadDecision | .frameLoadComplete | .handlerEntry | .watchdogExpiry | .wdogKick | .checkpoint
  | .pfdoneWrite | .debugHaltRequest | .drainMarkerArrival | .drainAbort | .drainHalt | .drainCompletion
  | .passResume | .alloc | .start | .destroy | .clear | .scrubComplete | .shootDown
  | .shootDownComplete | .relatEmerge | .kernelLoading | .keyRecord | .msessWrite | .attestationReport
  | .kernelKeyRegister | .hostMgmtRead | .ctentWrite | .registerWrite | .translate | .tableReadFill
  | .accessPerform | .ldeRetry | .ldeWithdrawal | .lineFetch | .accessRetire | .scratchPerform
  | .bankPendingComplete | .completionToken | .transferStart | .transferWithhold | .transferDone
  | .waittWake | .tstageFillComplete | .beat0 | .beat | .stopCompletion | .flitTransfer
  | .fenceRouterPass | .splicePerform | .snewPerform | .sfreePerform | .freeListWrite | .messageSend
  | .messageArrival | .messageResend | .barrierArrival | .groupTotalUpdate | .launchAppend | .spawnCreate
  | .receiverDetect | .trainingComplete | .trainingFailure | .linkError | .recoveryComplete | .l1Entry
  | .l1Exit | .linkLoss | .linkReset | .powerStateChoice | .wake | .monitorSample
  | .correctableLinkError => none

/-- The targets that the fields T0 and T1 of a word name, and FAN's third and fourth, in order (R195, R207 to R210). -/
def Instr.targets : Instr → List Target
  | .fan g => [g.t0, g.t1, g.t2.getD .none, g.t3.getD .none]
  | .mov x | .getg x | .putg x | .null x | .sel x | .steer x | .merge x | .ret x | .halt x | .rdid x | .add x | .sub x
  | .addi x | .mul x | .mulh x | .mulhn x | .div x | .divn x | .rem x | .remn x | .adds x | .subs x | .min x | .max x
  | .minn x | .maxn x | .and x | .or x | .xor x | .andn x | .andi x | .ori x | .xori x | .shl x | .shr x | .sha x | .rol x
  | .shli x | .shri x | .shai x | .clz x | .popc x | .teq x | .tne x | .tlt x | .tle x | .tltn x | .tlen x | .teqi x
  | .tlti x | .tlei x | .pand x | .por x | .pxor x | .pnot x | .abs x | .neg x | .fadd x | .fsub x | .fmul x | .ffma x
  | .ffms x | .fdiv x | .fsqrt x | .frsq x | .fmin x | .fmax x | .fabs x | .fneg x | .fcps x | .feq x | .flt x | .fle x
  | .funo x | .fcls x | .ex2 x | .lg2 x | .frnd x | .fscl x | .cvtif x | .cvtfi x | .cvtff x | .tdec x | .tenc x | .bfq x
  | .bfs x | .vgen x | .vspl x | .vlan x | .vins x | .vsld x | .vcat x | .vperm x | .vcmpr x | .vsel x | .vsum x | .vmax x
  | .vmin x | .vdot x | .vscan x | .sel24 x | .rstat x | .rscl x | .brev x | .bfx x | .bfi x | .snew x | .sidx x | .slen x
  | .snext x | .sfree x | .msend x | .mrecv x | .mpoll x | .lea x | .waitt x | .cpst x | .bankm x | .fpush x | .fpop x
  | .bariCnt x | .bariGrp x | .bariFree x | .bara x | .barw x | .baraw x | .join x | .leave x | .grpq x | .comb x | .mfs x
  | .mts x | .trap x | .tret x | .launch x | .qsusp x | .qresQ x | .qresCol x | .qresCtx x | .drainCol x | .drainCtx x
  | .cfgld x | .cfgldRt x | .relat x | .monArm x | .monRead x | .monClear x | .monStop x | .spawn x | .emit x | .nop x => [x.t0, x.t1]
  | .zcvt x | .guard x | .packs x | .packl x | .wmul x | .wconv x | .wmulf x | .wmulz x | .xtr x | .xtrf x | .pclr x
  | .pclrFree x | .pstat x | .zalloc x | .zfree x | .zclr x | .zrd x | .zwr x => [x.t0, x.t1]
  | .ldi x | .ldih x | .splice x | .spin x | .sunpin x | .ld x | .st x | .ldv x | .stv x | .ldg x | .stsc x | .pref x
  | .lde x | .stf x | .clrf x | .aadd x | .amin x | .amax x | .aminn x | .amaxn x | .aand x | .aor x | .axor x | .aswp x
  | .acas x | .afadd x | .fence x | .fencea x | .copy x | .copyt x | .tstage x | .tmatch x | .tmclr x | .tgo x | .tld x
  | .tdone x | .trstat x | .trecall x | .tpass x => [x.t0]
  | .exit _ | .exiti _ | .call _ => []
  | .reset | .hostRecordWrite | .recordStart | .exitHeadWrite | .tokenArrival | .holdQueueAdmit
  | .parking | .retryTimerExpiry | .reInjectionResume | .controlTokenDelivery | .commit | .stallExpiry
  | .reloadDecision | .frameLoadComplete | .handlerEntry | .watchdogExpiry | .wdogKick | .checkpoint
  | .pfdoneWrite | .debugHaltRequest | .drainMarkerArrival | .drainAbort | .drainHalt | .drainCompletion
  | .passResume | .alloc | .start | .destroy | .clear | .scrubComplete | .shootDown
  | .shootDownComplete | .relatEmerge | .kernelLoading | .keyRecord | .msessWrite | .attestationReport
  | .kernelKeyRegister | .hostMgmtRead | .ctentWrite | .registerWrite | .translate | .tableReadFill
  | .accessPerform | .ldeRetry | .ldeWithdrawal | .lineFetch | .accessRetire | .scratchPerform
  | .bankPendingComplete | .completionToken | .transferStart | .transferWithhold | .transferDone
  | .waittWake | .tstageFillComplete | .beat0 | .beat | .stopCompletion | .flitTransfer
  | .fenceRouterPass | .splicePerform | .snewPerform | .sfreePerform | .freeListWrite | .messageSend
  | .messageArrival | .messageResend | .barrierArrival | .groupTotalUpdate | .launchAppend | .spawnCreate
  | .receiverDetect | .trainingComplete | .trainingFailure | .linkError | .recoveryComplete | .l1Entry
  | .l1Exit | .linkLoss | .linkReset | .powerStateChoice | .wake | .monitorSample
  | .correctableLinkError => []

/-- Instructions that yield no result and so name no target (R206). -/
def Instr.noResult : Instr → Bool
  | .ret _ | .halt _ | .emit _ | .zfree _ | .zclr _ | .zwr _ | .snew _ | .sfree _ | .msend _ | .fpush _ | .bankm _
  | .bariCnt _ | .bariGrp _ | .bariFree _ | .baraw _ | .join _ | .leave _ | .mts _ | .trap _ | .tret _ | .launch _
  | .qsusp _ | .qresQ _ | .qresCol _ | .qresCtx _ | .drainCol _ | .drainCtx _ | .cfgld _ | .cfgldRt _ | .relat _
  | .monArm _ | .monClear _ | .monStop _ | .nop _ | .st _ | .stv _ | .stsc _ | .pref _ | .stf _ | .clrf _ | .sunpin _
  | .splice _ | .tstage _ | .tmatch _ | .tmclr _ | .tgo _ | .tdone _ | .trecall _ | .tpass _ => true
  | .mov _ | .fan _ | .getg _ | .putg _ | .ldi _ | .ldih _ | .null _ | .sel _ | .steer _ | .merge _ | .exit _ | .exiti _
  | .call _ | .rdid _ | .add _ | .sub _ | .addi _ | .mul _ | .mulh _ | .mulhn _ | .div _ | .divn _ | .rem _ | .remn _
  | .adds _ | .subs _ | .min _ | .max _ | .minn _ | .maxn _ | .and _ | .or _ | .xor _ | .andn _ | .andi _ | .ori _
  | .xori _ | .shl _ | .shr _ | .sha _ | .rol _ | .shli _ | .shri _ | .shai _ | .clz _ | .popc _ | .teq _ | .tne _ | .tlt _
  | .tle _ | .tltn _ | .tlen _ | .teqi _ | .tlti _ | .tlei _ | .pand _ | .por _ | .pxor _ | .pnot _ | .abs _ | .neg _
  | .fadd _ | .fsub _ | .fmul _ | .ffma _ | .ffms _ | .fdiv _ | .fsqrt _ | .frsq _ | .fmin _ | .fmax _ | .fabs _ | .fneg _
  | .fcps _ | .feq _ | .flt _ | .fle _ | .funo _ | .fcls _ | .ex2 _ | .lg2 _ | .frnd _ | .fscl _ | .cvtif _ | .cvtfi _
  | .cvtff _ | .tdec _ | .tenc _ | .bfq _ | .bfs _ | .vgen _ | .vspl _ | .vlan _ | .vins _ | .vsld _ | .vcat _ | .vperm _
  | .vcmpr _ | .vsel _ | .vsum _ | .vmax _ | .vmin _ | .vdot _ | .vscan _ | .sel24 _ | .rstat _ | .rscl _ | .brev _
  | .bfx _ | .bfi _ | .zcvt _ | .guard _ | .packs _ | .packl _ | .wmul _ | .wconv _ | .wmulf _ | .wmulz _ | .xtr _
  | .xtrf _ | .pclr _ | .pclrFree _ | .pstat _ | .zalloc _ | .zrd _ | .tld _ | .trstat _ | .spin _ | .sidx _ | .slen _
  | .snext _ | .mrecv _ | .mpoll _ | .ld _ | .ldv _ | .ldg _ | .lea _ | .lde _ | .aadd _ | .amin _ | .amax _ | .aminn _
  | .amaxn _ | .aand _ | .aor _ | .axor _ | .aswp _ | .acas _ | .afadd _ | .fence _ | .fencea _ | .copy _ | .copyt _
  | .waitt _ | .cpst _ | .fpop _ | .bara _ | .barw _ | .grpq _ | .comb _ | .mfs _ | .monRead _ | .spawn _ => false
  | .reset | .hostRecordWrite | .recordStart | .exitHeadWrite | .tokenArrival | .holdQueueAdmit
  | .parking | .retryTimerExpiry | .reInjectionResume | .controlTokenDelivery | .commit | .stallExpiry
  | .reloadDecision | .frameLoadComplete | .handlerEntry | .watchdogExpiry | .wdogKick | .checkpoint
  | .pfdoneWrite | .debugHaltRequest | .drainMarkerArrival | .drainAbort | .drainHalt | .drainCompletion
  | .passResume | .alloc | .start | .destroy | .clear | .scrubComplete | .shootDown
  | .shootDownComplete | .relatEmerge | .kernelLoading | .keyRecord | .msessWrite | .attestationReport
  | .kernelKeyRegister | .hostMgmtRead | .ctentWrite | .registerWrite | .translate | .tableReadFill
  | .accessPerform | .ldeRetry | .ldeWithdrawal | .lineFetch | .accessRetire | .scratchPerform
  | .bankPendingComplete | .completionToken | .transferStart | .transferWithhold | .transferDone
  | .waittWake | .tstageFillComplete | .beat0 | .beat | .stopCompletion | .flitTransfer
  | .fenceRouterPass | .splicePerform | .snewPerform | .sfreePerform | .freeListWrite | .messageSend
  | .messageArrival | .messageResend | .barrierArrival | .groupTotalUpdate | .launchAppend | .spawnCreate
  | .receiverDetect | .trainingComplete | .trainingFailure | .linkError | .recoveryComplete | .l1Entry
  | .l1Exit | .linkLoss | .linkReset | .powerStateChoice | .wake | .monitorSample
  | .correctableLinkError => false

/-- Reason 0x05 of R214 as far as one word goes: target fields that R206 admits. -/
def Instr.targetsOk (i : Instr) : Bool :=
  i.targets.all Target.ok && (!i.noResult || i.targets.all (· == .none)) &&
  match i with
  | .fan g => g.t2.isSome && g.t3.isSome
  | .putg g => bits g.imm 5 5 == 0b01100 && bits g.imm 0 5 != 0
  | .null g => g.t1 == .none && (match g.t0 with | .op _ _ => false | _ => true)
  | .monRead g => g.t1 == .none
  | .trstat _ | .tld _ => true
  | _ => true

/-- Reason 0x03 of R214 as far as one word goes: STEER has PRED 0b00 (R199). -/
def Instr.predOk : Instr → Bool
  | .steer g => g.h.pred == .always
  | _ => true

/-- A well-formed instruction word. Events are no words. -/
def Instr.wf (i : Instr) : Bool := i.head.isSome && i.fieldsOk && i.targetsOk && i.predOk

end Sys2Proof
end

