-- ==== Sys2Proof/Decode.lean ====
section
/-!
DEFINITION. Decoding a 64-bit instruction word by the formats of R205 to R210 and the opcode map of R212 and R213, and encoding an
instruction back by the same tables. Decoding rejects by name, with the reason codes of R214.
-/
namespace Sys2Proof

/-- Why a word is no instruction (R214): no opcode, PRED 0b01 or a predicate the instruction does not take, a field value, a target. -/
inductive Reject where
  | opcode | pred | field | target
deriving DecidableEq, Repr

/-- The reason code of R214. -/
def Reject.code : Reject → Nat
  | .opcode => 2 | .pred => 3 | .field => 4 | .target => 5

/-! ### Fields -/

def decodePred (b : BitVec 2) : Option Pred :=
  if b = 0 then some .always else if b = 2 then some .onTrue else if b = 3 then some .onFalse else none

def encodePred : Pred → BitVec 2
  | .always => 0 | .onTrue => 2 | .onFalse => 3

def decodeScope (b : BitVec 3) : Option Scope :=
  if b = 0 then some .blk else if b = 1 then some .clu else if b = 2 then some .ring else if b = 3 then some .ctx
  else if b = 4 then some .dev else if b = 5 then some .sys else none

def encodeScope : Scope → BitVec 3
  | .blk => 0 | .clu => 1 | .ring => 2 | .ctx => 3 | .dev => 4 | .sys => 5

def decodeOrder (b : BitVec 2) : Order :=
  if b = 0 then .none else if b = 1 then .acq else if b = 2 then .rel else .ar

def encodeOrder : Order → BitVec 2
  | .none => 0 | .acq => 1 | .rel => 2 | .ar => 3

def encodePos : Pos → BitVec 2
  | .left => 1 | .right => 2 | .pred => 3

/-- A 10-bit target field (R206). -/
def encodeTarget : Target → BitVec 10
  | .none => 0
  | .reg n => 0b01100#5 ++ n
  | .op p i => encodePos p ++ 0#1 ++ i

def boolBit (b : Bool) : BitVec 1 := BitVec.ofBool b

/-- Bits [55:47] (R205). -/
def decodeHead (w : Word) : Option Head :=
  (decodePred (w.extractLsb' 50 2)).map fun p =>
    { ac := w.getLsbD 55, mod := w.extractLsb' 52 3, pred := p, ty := Fmt.ofCode (w.extractLsb' 47 3) }

def encodeHead (op : BitVec 8) (h : Head) : BitVec 17 :=
  op ++ boolBit h.ac ++ h.mod ++ encodePred h.pred ++ h.ty.code

/-- Format G (R207). -/
def decodeG (w : Word) : Except Reject GWord :=
  match decodeHead w, decodeTarget (w.extractLsb' 37 10), decodeTarget (w.extractLsb' 27 10) with
  | none, _, _ => .error .pred
  | some h, some a, some b => .ok { h := h, t0 := a, t1 := b, imm := w.extractLsb' 0 27 }
  | some _, _, _ => .error .target

def encodeG (op : BitVec 8) (x : GWord) : Word :=
  encodeHead op x.h ++ encodeTarget x.t0 ++ encodeTarget x.t1 ++ x.imm

/-- Format I (R208). -/
def decodeI (w : Word) : Except Reject IWord :=
  match decodeHead w, decodeTarget (w.extractLsb' 37 10) with
  | none, _ => .error .pred
  | some h, some a => .ok { h := h, t0 := a, imm := w.extractLsb' 0 37 }
  | some _, none => .error .target

def encodeI (op : BitVec 8) (x : IWord) : Word := encodeHead op x.h ++ encodeTarget x.t0 ++ x.imm

/-- Format M (R208). -/
def decodeM (w : Word) : Except Reject MWord :=
  match decodeHead w, decodeScope (w.extractLsb' 29 3), decodeTarget (w.extractLsb' 37 10) with
  | none, _, _ => .error .pred
  | some _, none, _ => .error .field
  | some h, some s, some a =>
      .ok { h := h, t0 := a, lsid := w.extractLsb' 32 5, scope := s, order := decodeOrder (w.extractLsb' 27 2),
            runlo := w.extractLsb' 25 2, scr := w.getLsbD 24, off := w.extractLsb' 0 24 }
  | some _, some _, none => .error .target

def encodeM (op : BitVec 8) (x : MWord) : Word :=
  encodeHead op x.h ++ encodeTarget x.t0 ++ x.lsid ++ encodeScope x.scope ++ encodeOrder x.order ++ x.runlo ++ boolBit x.scr ++ x.off

/-- Layout XW (R209): bit 13 is reserved. -/
def decodeXW (w : Word) : Except Reject XWWord :=
  match decodeHead w, decodeTarget (w.extractLsb' 37 10), decodeTarget (w.extractLsb' 27 10) with
  | none, _, _ => .error .pred
  | some h, some a, some b =>
      if w.getLsbD 13 then .error .field
      else .ok { h := h, t0 := a, t1 := b, acc := w.extractLsb' 19 8, mode := w.extractLsb' 16 3, xf := w.getLsbD 15,
                 jf := w.getLsbD 14, count := w.extractLsb' 0 13 }
  | some _, _, _ => if w.getLsbD 13 then .error .field else .error .target

def encodeXW (op : BitVec 8) (x : XWWord) : Word :=
  encodeHead op x.h ++ encodeTarget x.t0 ++ encodeTarget x.t1 ++ x.acc ++ x.mode ++ boolBit x.xf ++ boolBit x.jf ++ 0#1 ++ x.count

/-- Layout XR (R209). -/
def decodeXR (w : Word) : Except Reject XRWord :=
  match decodeHead w, decodeTarget (w.extractLsb' 37 10) with
  | none, _ => .error .pred
  | some h, some a =>
      .ok { h := h, t0 := a, lsid := w.extractLsb' 32 5, fam := w.getLsbD 31, slot := w.extractLsb' 27 4,
            elem := w.extractLsb' 24 3, p := w.extractLsb' 0 24 }
  | some _, none => .error .target

def encodeXR (op : BitVec 8) (x : XRWord) : Word :=
  encodeHead op x.h ++ encodeTarget x.t0 ++ x.lsid ++ boolBit x.fam ++ x.slot ++ x.elem ++ x.p

/-- Format C (R210): bit 42 is reserved. -/
def decodeC (w : Word) : Except Reject CWord :=
  match decodeHead w with
  | none => .error .pred
  | some h =>
      if w.getLsbD 42 then .error .field
      else .ok { h := h, exitno := w.extractLsb' 44 3, retire := w.getLsbD 43, off := w.extractLsb' 0 42 }

def encodeC (op : BitVec 8) (x : CWord) : Word :=
  encodeHead op x.h ++ x.exitno ++ boolBit x.retire ++ 0#1 ++ x.off

/-! ### The opcode map (R212, R213) -/

/-- The word's fields, by its opcode, before the checks of R214. -/
def parseWord (w : Word) : Except Reject Instr :=
  match bits w 56 8 with
  | 0x00 => (decodeG w).map .mov
  | 0x01 => (decodeG w).map .fan
  | 0x02 => (decodeG w).map .getg
  | 0x03 => (decodeG w).map .putg
  | 0x04 => (decodeI w).map .ldi
  | 0x05 => (decodeI w).map .ldih
  | 0x06 => (decodeG w).map .null
  | 0x07 => (decodeG w).map .sel
  | 0x08 => (decodeG w).map .steer
  | 0x09 => (decodeG w).map .merge
  | 0x0A => (decodeC w).map .exit
  | 0x0B => (decodeC w).map .exiti
  | 0x0C => (decodeC w).map .call
  | 0x0D => (decodeG w).map .ret
  | 0x0E => (decodeG w).map .halt
  | 0x0F => (decodeG w).map .rdid
  | 0x10 => (decodeG w).map .add
  | 0x11 => (decodeG w).map .sub
  | 0x12 => (decodeG w).map .addi
  | 0x13 => (decodeG w).map .mul
  | 0x14 => (decodeG w).map .mulh
  | 0x15 => (decodeG w).map .mulhn
  | 0x16 => (decodeG w).map .div
  | 0x17 => (decodeG w).map .divn
  | 0x18 => (decodeG w).map .rem
  | 0x19 => (decodeG w).map .remn
  | 0x1A => (decodeG w).map .adds
  | 0x1B => (decodeG w).map .subs
  | 0x1C => (decodeG w).map .min
  | 0x1D => (decodeG w).map .max
  | 0x1E => (decodeG w).map .minn
  | 0x1F => (decodeG w).map .maxn
  | 0x20 => (decodeG w).map .and
  | 0x21 => (decodeG w).map .or
  | 0x22 => (decodeG w).map .xor
  | 0x23 => (decodeG w).map .andn
  | 0x24 => (decodeG w).map .andi
  | 0x25 => (decodeG w).map .ori
  | 0x26 => (decodeG w).map .xori
  | 0x27 => (decodeG w).map .shl
  | 0x28 => (decodeG w).map .shr
  | 0x29 => (decodeG w).map .sha
  | 0x2A => (decodeG w).map .rol
  | 0x2B => (decodeG w).map .shli
  | 0x2C => (decodeG w).map .shri
  | 0x2D => (decodeG w).map .shai
  | 0x2E => (decodeG w).map .clz
  | 0x2F => (decodeG w).map .popc
  | 0x30 => (decodeG w).map .teq
  | 0x31 => (decodeG w).map .tne
  | 0x32 => (decodeG w).map .tlt
  | 0x33 => (decodeG w).map .tle
  | 0x34 => (decodeG w).map .tltn
  | 0x35 => (decodeG w).map .tlen
  | 0x36 => (decodeG w).map .teqi
  | 0x37 => (decodeG w).map .tlti
  | 0x38 => (decodeG w).map .tlei
  | 0x39 => (decodeG w).map .pand
  | 0x3A => (decodeG w).map .por
  | 0x3B => (decodeG w).map .pxor
  | 0x3C => (decodeG w).map .pnot
  | 0x3D => (decodeG w).map .abs
  | 0x3E => (decodeG w).map .neg
  | 0x40 => (decodeG w).map .fadd
  | 0x41 => (decodeG w).map .fsub
  | 0x42 => (decodeG w).map .fmul
  | 0x43 => (decodeG w).map .ffma
  | 0x44 => (decodeG w).map .ffms
  | 0x45 => (decodeG w).map .fdiv
  | 0x46 => (decodeG w).map .fsqrt
  | 0x47 => (decodeG w).map .frsq
  | 0x48 => (decodeG w).map .fmin
  | 0x49 => (decodeG w).map .fmax
  | 0x4A => (decodeG w).map .fabs
  | 0x4B => (decodeG w).map .fneg
  | 0x4C => (decodeG w).map .fcps
  | 0x4D => (decodeG w).map .feq
  | 0x4E => (decodeG w).map .flt
  | 0x4F => (decodeG w).map .fle
  | 0x50 => (decodeG w).map .cvtif
  | 0x51 => (decodeG w).map .cvtfi
  | 0x52 => (decodeG w).map .cvtff
  | 0x53 => (decodeG w).map .tdec
  | 0x54 => (decodeG w).map .tenc
  | 0x55 => (decodeG w).map .bfq
  | 0x56 => (decodeG w).map .bfs
  | 0x58 => (decodeG w).map .funo
  | 0x59 => (decodeG w).map .fcls
  | 0x5A => (decodeG w).map .ex2
  | 0x5B => (decodeG w).map .lg2
  | 0x5C => (decodeG w).map .frnd
  | 0x5D => (decodeG w).map .fscl
  | 0x60 => (decodeG w).map .vgen
  | 0x61 => (decodeG w).map .vspl
  | 0x62 => (decodeG w).map .vlan
  | 0x63 => (decodeG w).map .vins
  | 0x64 => (decodeG w).map .vsld
  | 0x65 => (decodeG w).map .vcat
  | 0x66 => (decodeG w).map .vperm
  | 0x67 => (decodeG w).map .vcmpr
  | 0x68 => (decodeG w).map .vsel
  | 0x69 => (decodeG w).map .vsum
  | 0x6A => (decodeG w).map .vmax
  | 0x6B => (decodeG w).map .vmin
  | 0x6C => (decodeG w).map .vdot
  | 0x6D => (decodeG w).map .vscan
  | 0x6E => (decodeG w).map .sel24
  | 0x70 => (decodeG w).map .rstat
  | 0x71 => (decodeG w).map .rscl
  | 0x78 => (decodeG w).map .brev
  | 0x79 => (decodeG w).map .bfx
  | 0x7A => (decodeG w).map .bfi
  | 0x7C => (decodeXW w).map .zcvt
  | 0x80 => (decodeXW w).map .guard
  | 0x81 => (decodeXW w).map .packs
  | 0x82 => (decodeXW w).map .packl
  | 0x83 => (decodeXW w).map .wmul
  | 0x84 => (decodeXW w).map .wconv
  | 0x85 => (decodeXW w).map .wmulf
  | 0x86 => (decodeXW w).map .wmulz
  | 0x87 => (decodeXW w).map .xtr
  | 0x88 => (decodeXW w).map .xtrf
  | 0x89 => (decodeXW w).map fun x => if x.h.mod = 1 then .pclrFree x else .pclr x
  | 0x8A => (decodeXW w).map .pstat
  | 0x8B => (decodeXW w).map .zalloc
  | 0x8C => (decodeXW w).map .zfree
  | 0x8D => (decodeXW w).map .zclr
  | 0x8E => (decodeXW w).map .zrd
  | 0x8F => (decodeXW w).map .zwr
  | 0x90 => (decodeXR w).map .tstage
  | 0x91 => (decodeXR w).map .tmatch
  | 0x92 => (decodeXR w).map .tmclr
  | 0x93 => (decodeXR w).map .tgo
  | 0x94 => (decodeXR w).map .tld
  | 0x95 => (decodeXR w).map .tdone
  | 0x96 => (decodeXR w).map .trstat
  | 0x97 => (decodeXR w).map .trecall
  | 0x98 => (decodeXR w).map .tpass
  | 0xA0 => (decodeG w).map .snew
  | 0xA1 => (decodeM w).map .splice
  | 0xA2 => (decodeM w).map .spin
  | 0xA3 => (decodeM w).map .sunpin
  | 0xA4 => (decodeG w).map .sidx
  | 0xA5 => (decodeG w).map .slen
  | 0xA6 => (decodeG w).map .snext
  | 0xA7 => (decodeG w).map .sfree
  | 0xA8 => (decodeG w).map .msend
  | 0xA9 => (decodeG w).map .mrecv
  | 0xAA => (decodeG w).map .mpoll
  | 0xB0 => (decodeM w).map .ld
  | 0xB1 => (decodeM w).map .st
  | 0xB2 => (decodeM w).map .ldv
  | 0xB3 => (decodeM w).map .stv
  | 0xB4 => (decodeM w).map .ldg
  | 0xB5 => (decodeM w).map .stsc
  | 0xB6 => (decodeM w).map .pref
  | 0xB7 => (decodeG w).map .lea
  | 0xC0 => (decodeM w).map .lde
  | 0xC1 => (decodeM w).map .stf
  | 0xC2 => (decodeM w).map .clrf
  | 0xC4 => (decodeM w).map .aadd
  | 0xC5 => (decodeM w).map .amin
  | 0xC6 => (decodeM w).map .amax
  | 0xC7 => (decodeM w).map .aminn
  | 0xC8 => (decodeM w).map .amaxn
  | 0xC9 => (decodeM w).map .aand
  | 0xCA => (decodeM w).map .aor
  | 0xCB => (decodeM w).map .axor
  | 0xCC => (decodeM w).map .aswp
  | 0xCD => (decodeM w).map .acas
  | 0xCE => (decodeM w).map .afadd
  | 0xD0 => (decodeM w).map .fence
  | 0xD1 => (decodeM w).map .fencea
  | 0xD4 => (decodeM w).map .copy
  | 0xD5 => (decodeM w).map .copyt
  | 0xD6 => (decodeG w).map .waitt
  | 0xD7 => (decodeG w).map .cpst
  | 0xD8 => (decodeG w).map .bankm
  | 0xD9 => (decodeG w).map .fpush
  | 0xDA => (decodeG w).map .fpop
  | 0xE0 => (decodeG w).bind fun g => if g.h.mod = 1 then .ok (.bariCnt g) else if g.h.mod = 2 then .ok (.bariGrp g)
      else if g.h.mod = 3 then .ok (.bariFree g) else .error .field
  | 0xE1 => (decodeG w).map .bara
  | 0xE2 => (decodeG w).map .barw
  | 0xE3 => (decodeG w).map .baraw
  | 0xE4 => (decodeG w).map .join
  | 0xE5 => (decodeG w).map .leave
  | 0xE6 => (decodeG w).map .grpq
  | 0xE7 => (decodeG w).map .comb
  | 0xF0 => (decodeG w).map .mfs
  | 0xF1 => (decodeG w).map .mts
  | 0xF2 => (decodeG w).map .trap
  | 0xF3 => (decodeG w).map .tret
  | 0xF4 => (decodeG w).map .launch
  | 0xF5 => (decodeG w).map .qsusp
  | 0xF6 => (decodeG w).bind fun g => if g.h.mod = 0 then .ok (.qresQ g) else if g.h.mod = 1 then .ok (.qresCol g)
      else if g.h.mod = 2 then .ok (.qresCtx g) else .error .field
  | 0xF7 => (decodeG w).bind fun g => if g.h.mod = 1 then .ok (.drainCol g) else if g.h.mod = 2 then .ok (.drainCtx g) else .error .field
  | 0xF8 => (decodeG w).map fun g => if g.h.mod = 1 then .cfgldRt g else .cfgld g
  | 0xF9 => (decodeG w).map .relat
  | 0xFA => (decodeG w).map fun g => if bits g.imm 6 2 = 0 then .monArm g else if bits g.imm 6 2 = 1 then .monRead g
      else if bits g.imm 6 2 = 2 then .monClear g else .monStop g
  | 0xFB => (decodeG w).map .spawn
  | 0xFC => (decodeG w).map .emit
  | 0xFF => (decodeG w).map .nop
  | _ => .error .opcode

/-- The instruction of a word: its fields, rejected by name where a field, target or predicate is not one the instruction admits. -/
def decode (w : Word) : Except Reject Instr :=
  match parseWord w with
  | .error r => .error r
  | .ok i => if !i.predOk then .error .pred else if !i.fieldsOk then .error .field else if !i.targetsOk then .error .target else .ok i

/-- The word of an instruction; an event has none. -/
def encode : Instr → Option Word
  | .mov x => some (encodeG 0x00 x)
  | .fan x => some (encodeG 0x01 x)
  | .getg x => some (encodeG 0x02 x)
  | .putg x => some (encodeG 0x03 x)
  | .ldi x => some (encodeI 0x04 x)
  | .ldih x => some (encodeI 0x05 x)
  | .null x => some (encodeG 0x06 x)
  | .sel x => some (encodeG 0x07 x)
  | .steer x => some (encodeG 0x08 x)
  | .merge x => some (encodeG 0x09 x)
  | .exit x => some (encodeC 0x0A x)
  | .exiti x => some (encodeC 0x0B x)
  | .call x => some (encodeC 0x0C x)
  | .ret x => some (encodeG 0x0D x)
  | .halt x => some (encodeG 0x0E x)
  | .rdid x => some (encodeG 0x0F x)
  | .add x => some (encodeG 0x10 x)
  | .sub x => some (encodeG 0x11 x)
  | .addi x => some (encodeG 0x12 x)
  | .mul x => some (encodeG 0x13 x)
  | .mulh x => some (encodeG 0x14 x)
  | .mulhn x => some (encodeG 0x15 x)
  | .div x => some (encodeG 0x16 x)
  | .divn x => some (encodeG 0x17 x)
  | .rem x => some (encodeG 0x18 x)
  | .remn x => some (encodeG 0x19 x)
  | .adds x => some (encodeG 0x1A x)
  | .subs x => some (encodeG 0x1B x)
  | .min x => some (encodeG 0x1C x)
  | .max x => some (encodeG 0x1D x)
  | .minn x => some (encodeG 0x1E x)
  | .maxn x => some (encodeG 0x1F x)
  | .and x => some (encodeG 0x20 x)
  | .or x => some (encodeG 0x21 x)
  | .xor x => some (encodeG 0x22 x)
  | .andn x => some (encodeG 0x23 x)
  | .andi x => some (encodeG 0x24 x)
  | .ori x => some (encodeG 0x25 x)
  | .xori x => some (encodeG 0x26 x)
  | .shl x => some (encodeG 0x27 x)
  | .shr x => some (encodeG 0x28 x)
  | .sha x => some (encodeG 0x29 x)
  | .rol x => some (encodeG 0x2A x)
  | .shli x => some (encodeG 0x2B x)
  | .shri x => some (encodeG 0x2C x)
  | .shai x => some (encodeG 0x2D x)
  | .clz x => some (encodeG 0x2E x)
  | .popc x => some (encodeG 0x2F x)
  | .teq x => some (encodeG 0x30 x)
  | .tne x => some (encodeG 0x31 x)
  | .tlt x => some (encodeG 0x32 x)
  | .tle x => some (encodeG 0x33 x)
  | .tltn x => some (encodeG 0x34 x)
  | .tlen x => some (encodeG 0x35 x)
  | .teqi x => some (encodeG 0x36 x)
  | .tlti x => some (encodeG 0x37 x)
  | .tlei x => some (encodeG 0x38 x)
  | .pand x => some (encodeG 0x39 x)
  | .por x => some (encodeG 0x3A x)
  | .pxor x => some (encodeG 0x3B x)
  | .pnot x => some (encodeG 0x3C x)
  | .abs x => some (encodeG 0x3D x)
  | .neg x => some (encodeG 0x3E x)
  | .fadd x => some (encodeG 0x40 x)
  | .fsub x => some (encodeG 0x41 x)
  | .fmul x => some (encodeG 0x42 x)
  | .ffma x => some (encodeG 0x43 x)
  | .ffms x => some (encodeG 0x44 x)
  | .fdiv x => some (encodeG 0x45 x)
  | .fsqrt x => some (encodeG 0x46 x)
  | .frsq x => some (encodeG 0x47 x)
  | .fmin x => some (encodeG 0x48 x)
  | .fmax x => some (encodeG 0x49 x)
  | .fabs x => some (encodeG 0x4A x)
  | .fneg x => some (encodeG 0x4B x)
  | .fcps x => some (encodeG 0x4C x)
  | .feq x => some (encodeG 0x4D x)
  | .flt x => some (encodeG 0x4E x)
  | .fle x => some (encodeG 0x4F x)
  | .funo x => some (encodeG 0x58 x)
  | .fcls x => some (encodeG 0x59 x)
  | .ex2 x => some (encodeG 0x5A x)
  | .lg2 x => some (encodeG 0x5B x)
  | .frnd x => some (encodeG 0x5C x)
  | .fscl x => some (encodeG 0x5D x)
  | .cvtif x => some (encodeG 0x50 x)
  | .cvtfi x => some (encodeG 0x51 x)
  | .cvtff x => some (encodeG 0x52 x)
  | .tdec x => some (encodeG 0x53 x)
  | .tenc x => some (encodeG 0x54 x)
  | .bfq x => some (encodeG 0x55 x)
  | .bfs x => some (encodeG 0x56 x)
  | .vgen x => some (encodeG 0x60 x)
  | .vspl x => some (encodeG 0x61 x)
  | .vlan x => some (encodeG 0x62 x)
  | .vins x => some (encodeG 0x63 x)
  | .vsld x => some (encodeG 0x64 x)
  | .vcat x => some (encodeG 0x65 x)
  | .vperm x => some (encodeG 0x66 x)
  | .vcmpr x => some (encodeG 0x67 x)
  | .vsel x => some (encodeG 0x68 x)
  | .vsum x => some (encodeG 0x69 x)
  | .vmax x => some (encodeG 0x6A x)
  | .vmin x => some (encodeG 0x6B x)
  | .vdot x => some (encodeG 0x6C x)
  | .vscan x => some (encodeG 0x6D x)
  | .sel24 x => some (encodeG 0x6E x)
  | .rstat x => some (encodeG 0x70 x)
  | .rscl x => some (encodeG 0x71 x)
  | .brev x => some (encodeG 0x78 x)
  | .bfx x => some (encodeG 0x79 x)
  | .bfi x => some (encodeG 0x7A x)
  | .zcvt x => some (encodeXW 0x7C x)
  | .guard x => some (encodeXW 0x80 x)
  | .packs x => some (encodeXW 0x81 x)
  | .packl x => some (encodeXW 0x82 x)
  | .wmul x => some (encodeXW 0x83 x)
  | .wconv x => some (encodeXW 0x84 x)
  | .wmulf x => some (encodeXW 0x85 x)
  | .wmulz x => some (encodeXW 0x86 x)
  | .xtr x => some (encodeXW 0x87 x)
  | .xtrf x => some (encodeXW 0x88 x)
  | .pclr x => some (encodeXW 0x89 x)
  | .pclrFree x => some (encodeXW 0x89 x)
  | .pstat x => some (encodeXW 0x8A x)
  | .zalloc x => some (encodeXW 0x8B x)
  | .zfree x => some (encodeXW 0x8C x)
  | .zclr x => some (encodeXW 0x8D x)
  | .zrd x => some (encodeXW 0x8E x)
  | .zwr x => some (encodeXW 0x8F x)
  | .tstage x => some (encodeXR 0x90 x)
  | .tmatch x => some (encodeXR 0x91 x)
  | .tmclr x => some (encodeXR 0x92 x)
  | .tgo x => some (encodeXR 0x93 x)
  | .tld x => some (encodeXR 0x94 x)
  | .tdone x => some (encodeXR 0x95 x)
  | .trstat x => some (encodeXR 0x96 x)
  | .trecall x => some (encodeXR 0x97 x)
  | .tpass x => some (encodeXR 0x98 x)
  | .snew x => some (encodeG 0xA0 x)
  | .splice x => some (encodeM 0xA1 x)
  | .spin x => some (encodeM 0xA2 x)
  | .sunpin x => some (encodeM 0xA3 x)
  | .sidx x => some (encodeG 0xA4 x)
  | .slen x => some (encodeG 0xA5 x)
  | .snext x => some (encodeG 0xA6 x)
  | .sfree x => some (encodeG 0xA7 x)
  | .msend x => some (encodeG 0xA8 x)
  | .mrecv x => some (encodeG 0xA9 x)
  | .mpoll x => some (encodeG 0xAA x)
  | .ld x => some (encodeM 0xB0 x)
  | .st x => some (encodeM 0xB1 x)
  | .ldv x => some (encodeM 0xB2 x)
  | .stv x => some (encodeM 0xB3 x)
  | .ldg x => some (encodeM 0xB4 x)
  | .stsc x => some (encodeM 0xB5 x)
  | .pref x => some (encodeM 0xB6 x)
  | .lea x => some (encodeG 0xB7 x)
  | .lde x => some (encodeM 0xC0 x)
  | .stf x => some (encodeM 0xC1 x)
  | .clrf x => some (encodeM 0xC2 x)
  | .aadd x => some (encodeM 0xC4 x)
  | .amin x => some (encodeM 0xC5 x)
  | .amax x => some (encodeM 0xC6 x)
  | .aminn x => some (encodeM 0xC7 x)
  | .amaxn x => some (encodeM 0xC8 x)
  | .aand x => some (encodeM 0xC9 x)
  | .aor x => some (encodeM 0xCA x)
  | .axor x => some (encodeM 0xCB x)
  | .aswp x => some (encodeM 0xCC x)
  | .acas x => some (encodeM 0xCD x)
  | .afadd x => some (encodeM 0xCE x)
  | .fence x => some (encodeM 0xD0 x)
  | .fencea x => some (encodeM 0xD1 x)
  | .copy x => some (encodeM 0xD4 x)
  | .copyt x => some (encodeM 0xD5 x)
  | .waitt x => some (encodeG 0xD6 x)
  | .cpst x => some (encodeG 0xD7 x)
  | .bankm x => some (encodeG 0xD8 x)
  | .fpush x => some (encodeG 0xD9 x)
  | .fpop x => some (encodeG 0xDA x)
  | .bariCnt x => some (encodeG 0xE0 x)
  | .bariGrp x => some (encodeG 0xE0 x)
  | .bariFree x => some (encodeG 0xE0 x)
  | .bara x => some (encodeG 0xE1 x)
  | .barw x => some (encodeG 0xE2 x)
  | .baraw x => some (encodeG 0xE3 x)
  | .join x => some (encodeG 0xE4 x)
  | .leave x => some (encodeG 0xE5 x)
  | .grpq x => some (encodeG 0xE6 x)
  | .comb x => some (encodeG 0xE7 x)
  | .mfs x => some (encodeG 0xF0 x)
  | .mts x => some (encodeG 0xF1 x)
  | .trap x => some (encodeG 0xF2 x)
  | .tret x => some (encodeG 0xF3 x)
  | .launch x => some (encodeG 0xF4 x)
  | .qsusp x => some (encodeG 0xF5 x)
  | .qresQ x => some (encodeG 0xF6 x)
  | .qresCol x => some (encodeG 0xF6 x)
  | .qresCtx x => some (encodeG 0xF6 x)
  | .drainCol x => some (encodeG 0xF7 x)
  | .drainCtx x => some (encodeG 0xF7 x)
  | .cfgld x => some (encodeG 0xF8 x)
  | .cfgldRt x => some (encodeG 0xF8 x)
  | .relat x => some (encodeG 0xF9 x)
  | .monArm x => some (encodeG 0xFA x)
  | .monRead x => some (encodeG 0xFA x)
  | .monClear x => some (encodeG 0xFA x)
  | .monStop x => some (encodeG 0xFA x)
  | .spawn x => some (encodeG 0xFB x)
  | .emit x => some (encodeG 0xFC x)
  | .nop x => some (encodeG 0xFF x)
  | .reset | .hostRecordWrite | .recordStart | .exitHeadWrite | .tokenArrival | .holdQueueAdmit
  | .parking | .retryTimerExpiry | .reInjectionResume | .controlTokenDelivery | .commit | .stallExpiry
  | .reloadDecision | .frameLoadComplete | .handlerEntry | .watchdogExpiry | .wdogKick | .checkpoint
  | .pfdoneWrite | .debugHaltRequest | .drainMarkerArrival | .drainAbort | .drainHalt | .drainCompletion
  | .passResume | .alloc | .start | .destroy | .clear | .scrubComplete | .shootDown
  | .shootDownComplete | .relatEmerge | .kernelLoading | .keyRecord | .msessWrite | .attestationReport
  | .kernelKeyRegister | .hostMgmtRead | .ctentWrite | .registerWrite | .translate | .tableReadFill
  | .accessPerform | .ldeRetry | .ldeWithdrawal | .lineFetch | .accessRetire | .scratchPerform
  | .bankPendingComplete | .completionToken | .transferStart | .transferWithhold | .transferDone
  | .waittWake | .tstageFillComplete | .beat0 | .beat | .stopCompletion | .flitTransfer
  | .fenceRouterPass | .splicePerform | .snewPerform | .sfreePerform | .freeListWrite | .messageSend
  | .messageArrival | .messageResend | .barrierArrival | .groupTotalUpdate | .launchAppend | .spawnCreate
  | .receiverDetect | .trainingComplete | .trainingFailure | .linkError | .recoveryComplete | .l1Entry
  | .l1Exit | .linkLoss | .linkReset | .powerStateChoice | .wake | .monitorSample
  | .correctableLinkError => none

/-- The instruction the decoder reads from a table word of `nbits` bits (bits above them zero): the word is one 64-bit word, stored in
little-endian order at the lowest address (R5, R203). -/
def decodeTableWord (nbits w : Nat) : Option Instr :=
  if nbits ≤ 64 then
    match decode (BitVec.ofNat 64 (w % 2 ^ nbits)) with
    | .ok i => some i
    | .error _ => none
  else none

end Sys2Proof
end

