-- ==== Sys2Proof/Config.lean ====
section
/-!
DEFINITION. What the FLC-960A fixes (R1, R2) and the values the manual leaves open: uninterpreted functions with no body.
-/
namespace Sys2Proof.Config

/-- Part number in the firmware-status block (R1). -/
def partId : BitVec 32 := 0x0960000A

/-- Architecture version (R1). -/
def archVersion : BitVec 16 := 1

/-- Clusters, rings, stops per ring, regions per cluster, columns per region (R2, R11). -/
def nClusters : Nat := 128
def nRings : Nat := 16
def nStops : Nat := 8
def nRegions : Nat := 16
def nContexts : Nat := 16

/-- Thread frames per cluster, and those that queue records and SPAWN may take (R93). -/
def nFrames : Nat := 1024
def nQueueFrames : Nat := 1020

/-- Entries of a matching store that operand tokens may take: 512 less the 16 control entries (R2, R40). -/
def poolEntries : Nat := 496
def ctrlEntries : Nat := 16

/-- A home slice holds 2 MiB of 64-byte lines, 16 to a set (R2). -/
def sliceWays : Nat := 16

/-- FREE VALUE: the set of a home slice in which a line stands: the manual gives no index (R2). -/
opaque sliceSet (line : Nat) : Nat

/-- FREE VALUE: which of the 16 lines of a full set leaves: the manual names no replacement (R2); `n` counts the fetches of the run. -/
opaque sliceVictim (n : Nat) : Nat

/-- Default of `%stall` in cycles (R2) and of `%ftlim` (R164). -/
def stallDefault : BitVec 32 := 65536
def ftlimDefault : BitVec 32 := 0xB798

/-- FREE VALUE: what the signature check of a `.kyo` image answers (R217, R361): the manual names Falcon-1024 and gives no
algorithm; applied to a registered key's bytes, the SIGN section and the signed bytes. -/
opaque signatureOk (key sign signed : List Byte) : Bool

/-- FREE VALUE: the 256-bit SHAKE256 digest of a byte string (R216, R360, R362). -/
opaque digest256 (bytes : List Byte) : BitVec 256

/-- FREE VALUE: the digest of the running management firmware (R360, R362). -/
opaque firmwareDigest : BitVec 256

/-- FREE VALUE: what a sensor reads (R369): `n` counts the reads of the run. -/
opaque sensor (item n : Nat) : BitVec 64

/-- FREE VALUE: the bytes a signature of the management core consists of (R362). -/
opaque signature (bytes : List Byte) : List Byte

/-- FREE VALUES: the key pair and the tag key of slot `slot` of context `x` that the draw `n` of the management core gives (R354), and the stream key (R359). -/
opaque keyPair (x n slot : Nat) : BitVec 512
opaque tagKey (x n slot : Nat) : BitVec 256
opaque streamKey (x n : Nat) : BitVec 256

/-- FREE VALUE: the items of the allow-list that firmware keeps for context `x` from its ALLOC on, the draw `n` (R369): the manual names no command that
fills it. -/
opaque allowItems (x n : Nat) : List Nat

/-- Kernels that a context holds (R362), the bytes of a Falcon-1024 public key and the longest signature (R360). -/
def nKernels : Nat := 64
def keyBytes : Nat := 1793
def signatureBytes : Nat := 1280

/-- FREE VALUE: the digest of the firmware public key in the boot ROM (R360). -/
opaque bootDigest : BitVec 256

/-- FREE VALUES: what a wrapped key record unwraps to (R371), and the tag key that the slot then holds: no record carries one. -/
opaque unwrapped (bytes : List Byte) : BitVec 512
opaque tagKeyOf (bytes : List Byte) : BitVec 256

/-- FREE VALUE: whether a wrapped key record unwraps under the device's transport key (R371). -/
opaque unwraps (bytes : List Byte) : Bool

/-- FREE VALUE: whether a fetched line passes ECC: `n` counts the fetches of the run (R357). -/
opaque eccOk (n : Nat) : Bool

/-- FREE VALUE: whether the traffic that a fence router opens passes its authentication: `n` counts the checks of the run (R359). -/
opaque streamOk (n : Nat) : Bool

/-- FREE VALUE: a word of a version area that no range maps, by its address (R147). -/
opaque unmapped (va : Nat) : BitVec 64

/-- FREE VALUE: a value the manual leaves open, the `n`-th of the run. -/
opaque freeValue (n : Nat) : BitVec 64

end Sys2Proof.Config
end

