-- ==== Sys2Proof/Machine/State.lean ====
section
/-!
DEFINITION. The state of the device as plain data: everything the manual gives it, `State.reset`, and the reasons a step can stop.

`State` has four parts, so that what an action can change shows in its type: `mem`, the bytes of physical memory; `greg`, the carried
registers of every thread; `sys`, the rest of the architectural state; `fly`, what is in flight (live instances, accesses, the agenda).
A table lists only the entries that differ from their reset value, in rising key order. Keys: a thread is cluster * 1024 + frame;
other objects of a cluster are cluster * (how many there are) + number.
-/
namespace Sys2Proof.Machine

/-- A table: entries that differ from the default, keys strictly rising. -/
abbrev Tab (α : Type) := List (Nat × α)

/-- Physical memory: the bytes that differ from what an unlisted address reads as, addresses strictly rising. -/
abbrev Memory := List Host.Cell

/-! ### Contexts, kernels, queues -/

/-- Context states (R77, R81). -/
inductive CtxSt where
  | free | allocated | running | suspended | faulted | destroying
deriving DecidableEq, Repr, Inhabited

/-- Kernel states (R86). A kernel that is LOADING is a pending KERNEL_LOADING event. -/
inductive KerSt where
  | ready | retiring
deriving DecidableEq, Repr, Inhabited

/-- A block of a loaded kernel: its address, and the `%tinfo` word of R214 when it is invalid (R87). -/
structure Blk where
  addr : Nat
  bad : Option Word
deriving DecidableEq, Repr, Inhabited

/-- A loaded kernel (R86, R216 to R218). `injects` holds (block, instruction, position); `live` holds (block, mask); `safe` holds
(block, instruction). -/
structure Kernel where
  ident : Nat
  st : KerSt
  blocks : List Blk
  injects : List (Nat × Nat × Pos)
  live : List (Nat × BitVec 32)
  safe : List (Nat × Nat)
  digest : BitVec 256
deriving DecidableEq, Repr, Inhabited

/-- Queue states (R109) in the coding of R106. -/
inductive QSt where
  | opened | throttled | suspended | draining
deriving DecidableEq, Repr, Inhabited

/-- A queue (R104, R106, R112): `buf` the records not started, oldest first; `resv` slots reserved by LAUNCH; `live` records that
started and have not completed; `next` the first cycle in which it may start another; `waiting` while its head, an inject record, is counted
in the block scheduler's table (R110); `opened` and `back` one more than the cycle of its last return to OPEN, and of the completion that left none
of its records live (R110, R378). -/
structure Queue where
  ident : Nat
  colour : Nat
  clu : Nat
  depth : Nat
  buf : List (List Word)
  st : QSt
  lasterr : Nat
  errs : Nat
  retired : BitVec 32
  resv : Nat
  live : Nat
  next : Nat
  waiting : Bool
  opened : Nat := 0
  back : Nat := 0
deriving DecidableEq, Repr, Inhabited

/-- An exit record that waits for its line at the home slice (R193, R383): the thread whose commit, of cycle `at_`, writes it, and its token. -/
structure LateExit where
  clu : Nat
  frm : Nat
  owner : Nat
  at_ : Nat
  tok : Token
deriving DecidableEq, Repr, Inhabited

/-- An exit port (R104, R113); `claimed` is the room claimed by decided commits, `late` the records that are not written yet, in their order. -/
structure Port where
  ident : Nat
  colour : Nat
  size : Nat
  base : Nat
  tail : BitVec 32
  head : BitVec 32
  claimed : Nat
  late : List LateExit := []
deriving DecidableEq, Repr, Inhabited

/-- A drain in progress (R349): of one colour, or of the context; the clusters its marker has reached; halted or not. -/
structure Drain where
  col : Option Nat
  at_ : Nat
  marked : List Nat
  halted : Bool
deriving DecidableEq, Repr, Inhabited

/-- An audit record of a colour (R369). -/
structure Audit where
  attempts : Nat
  last : Nat
deriving DecidableEq, Repr, Inhabited

/-- A group word (R114). -/
structure Grp where
  epoch : BitVec 16
  live : Bool
  colour : Nat
  total : Nat
deriving DecidableEq, Repr, Inhabited

/-- A written key slot (R354): how often it was written, its 512-bit key pair and its tag key. -/
structure Key where
  gen : Nat
  pair : BitVec 512
  tagKey : BitVec 256
deriving DecidableEq, Repr, Inhabited

/-- A context (R72, R73, R81 to R84, R157, R164). `keys` holds the key slots that were written, by colour * 8 + slot (colour 4,096 the common ones, 4,097 the
table key); `drawn` names the draw of ALLOC that the other slots hold (R354); `streamKey` seals its traffic between rings (R359). -/
structure Ctx where
  st : CtxSt
  rings : BitVec 16
  fcause : Nat
  drcnt : BitVec 8
  drcol : Nat
  cxvec : Word
  wlimit : Nat
  wcount : Nat
  wrem : Nat
  wsince : Nat
  ftlim : BitVec 32
  stall : BitVec 32
  rtbase : Word
  kernels : List Kernel
  queues : Tab Queue
  ports : Tab Port
  groups : Tab Grp
  audits : Tab Audit
  allow : List Nat
  keys : Tab Key
  drawn : Nat
  streamKey : BitVec 256
  signKeys : List (List Byte)
  drains : List Drain
  drained : List Nat
deriving DecidableEq, Repr, Inhabited

/-! ### Threads -/

/-- Thread states (R92); `reserved` is a frame that SPAWN holds until its commit (R236). -/
inductive ThrSt where
  | free | reserved | waiting | active | saved
deriving DecidableEq, Repr, Inhabited

/-- What a trap writes (R343, R344); `tag` the tag word that a contained fault enters in the log (R32); `defer` a trap taken at a block entry; `ser`
the instance that a deferred trap belongs to, of which one trap is delivered (R345). -/
structure TrapRec where
  cause : Nat
  contained : Bool
  index : Nat
  info : Word
  va : Nat
  tag : Word := 0
  defer : Bool := false
  ser : Option Nat := none
deriving DecidableEq, Repr, Inhabited

/-- A message in a mailbox or on its way (R295, R296); `opened` is false while the commit that sent it is not complete. -/
structure Msg where
  id : Nat
  sclu : Nat
  sfrm : Nat
  fmt : Fmt
  len : Nat
  vec : Bool
  data : Data
  opened : Bool
deriving DecidableEq, Repr, Inhabited

/-- A thread frame (R92), but for its carried registers (`State.greg`). `next` is the block it will enter; `pend` a trap raised and not
yet delivered (R395), with the block it names; `deferred` the traps of the next block entry (R345); `baraw` the barrier it waits for and the phase that counted its arrival, once it is counted
(R126); `queue` the queue it came from; `task` its task slot; `held` a staging thread kept until its
pass ends (R142); `ticket` what checkpointed it (R348); `halt` 1 while a debugger's halt request stands, 2 when
it is held, `haltIdx` the instruction index reported (R218); `serial` tells it from other threads of the run; `late` a thread saved with a trap
still to be delivered, whose registers are kept under LIVE of the handler when it enters it (R218); `told` the instance whose deferred trap was the last
taken (R345). -/
structure Thr where
  st : ThrSt
  ctx : Nat
  ident : Nat
  colour : Nat
  next : Nat
  dphase : BitVec 5
  sprog : Word
  gmem : Word
  stack : List Nat
  seqlast : Word
  tcause : Word
  tinfo : Word
  tva : Word
  tblk : Word
  handler : Bool
  pend : Option (TrapRec × Nat)
  deferred : List TrapRec
  aborted : List (Nat × Nat)
  mbox : List Msg
  drops : Nat
  baraw : Option (Nat × Option (BitVec 16))
  queue : Option Nat
  task : Option Nat
  held : Bool
  ticket : Option Nat
  halt : Nat
  haltIdx : Nat
  serial : Nat
  late : Bool := false
  told : Option Nat := none
deriving DecidableEq, Repr, Inhabited

/-! ### The cluster -/

/-- A token that waits (R27, R40): where it is bound, the entry to its block that produced it (none for an injected token), the token
and its first arrival. -/
structure Entry where
  dest : Dest
  ent : Option Nat
  tok : Token
  first : Nat
deriving DecidableEq, Repr, Inhabited

/-- A control token (R29): a drain marker of a context or colour, or a control signal: a task's completion for its ring stop (R141), a
kernel's completion token (R175). -/
inductive Ctrl where
  | marker (ctx : Nat) (col : Option Nat)
  | stopDone
  | kernelDone (ctx ident : Nat)
deriving DecidableEq, Repr, Inhabited

/-- A region: its matching entries and hold queues in arrival order, its control entries, and the control tokens that
wait for one, the first two in the region's switch box and the others behind it, each with the direction and channel of the ring buffer that it
still takes (R28, R29, R40);
`blocked` are the colours that R35 counts as at quota; `partials` the matching entries that hold partials of COMB (R323): colour, thread
frame, instruction; the values stand in the instances; `freeing` the colours of the entries that the completions of this cycle free in the next (R30, R379);
`arrived` the tokens of this cycle, before they are placed, and the arrived tokens of
a firing that waits under R35, which are neither held nor parked. -/
structure Region where
  arrived : List Entry
  entries : List Entry
  holds : List Entry
  ctrl : List Ctrl
  ctrlWait : List (Ctrl × Option (Nat × Nat))
  blocked : List Nat
  partials : List (Nat × Nat × Nat) := []
  freeing : List Nat := []
deriving DecidableEq, Repr, Inhabited

/-- The park state of a colour at a cluster (R42 to R45): PARKED, where the next record is written and read, which written records are still
live (block entry and destination of each), records that are not written yet, with place and ORIGIN, of these the places of those whose write is on its way
(the others are withheld), and when the retry timer expires. -/
structure Park where
  on : Bool
  wr : Nat
  rd : Nat
  recs : List (Nat × Entry)
  pending : List (Nat × Nat × Entry)
  retryAt : Option Nat
  injecting : Bool
  sent : List Nat := []
deriving DecidableEq, Repr, Inhabited

/-- Block frame states (R89). -/
inductive FrmSt where
  | empty | loading | resident
deriving DecidableEq, Repr, Inhabited

/-- A latched translation (R166): instruction, first and last page, physical page base, KSEL. -/
structure Latch where
  idx : Nat
  page : Nat
  pa : Nat
  ksel : Nat
deriving DecidableEq, Repr, Inhabited

/-- A block frame of a region (R89): the block it holds, its words (header words first), the expected positions of each instruction
(R26: 1 left, 2 right, 4 predicate), when it was last entered (R102), and `loaded`, one past the cycle in which it became RESIDENT. -/
structure BFrame where
  st : FrmSt
  ctx : Nat
  ident : Nat
  blk : Nat
  words : List Word
  expect : List Nat
  entered : Nat
  latches : List Latch
  loaded : Nat := 0
deriving DecidableEq, Repr, Inhabited

/-- A row of the scheduler's waiting table (R101): block address, context, who waits (a frame, or 1,024 and the number of a queue whose head
waits), age, and the decision that brought it to 63. -/
structure Wait where
  blk : Nat
  ctx : Nat
  who : List Nat
  age : Nat
  at63 : Nat
deriving DecidableEq, Repr, Inhabited

/-- A membership that the commit of its thread's retirement ends, between c+1 and the effects of that commit (R118, R119): frame, group, the
thread's serial, and the index of the instruction when the same instance joins the group. -/
structure Leaving where
  frm : Nat
  group : Nat
  serial : Nat
  joins : Option Nat
deriving DecidableEq, Repr, Inhabited

/-- Scalars of a cluster: `%mscfg`, `%barsel` (one for all its threads: log entry 93, DESIGN CHOICE), `%bksel`, the waiting table and overflow list of the scheduler, the contained-fault log
(tag word, cause, `%now`), one more than the cycle of the scheduler's last decision (R102), the pass parameters of the stop (R135), the round-robin pointer of its queues and one more than the cycle of their last start (R110), the memberships that commits of this cycle end (R119), and one more than the
cycle in which a frame was last freed while none was free (R110). -/
structure Clu where
  mscfg : Word
  barsel : Word
  bksel : Word
  table : List Wait
  overflow : List (Nat × Nat × Nat)
  decisions : Nat
  decided : Nat
  faultLog : List (Word × Nat × Nat)
  beat8 : Nat
  laplim : Nat
  tasks : Nat
  rr : Nat
  started : Nat
  leaving : List Leaving
  framed : Nat := 0
deriving DecidableEq, Repr, Inhabited

/-- A colour-table entry: its two words (R36, R37). THR, PARKED and HELD are computed when word 0 is read. -/
structure CEnt where
  w0 : Word
  w1 : Word
deriving DecidableEq, Repr, Inhabited

/-- Barrier modes (R122). -/
inductive BarMode where
  | free | count | group
deriving DecidableEq, Repr, Inhabited

/-- A barrier (R123, R124): `members` are the frames counted in E, `cur` and `nxt` the arrival maps as lists of frames, `begun` false
while a GROUP phase has not begun (R125), `owed` arrivals of committed instances not yet counted (R127, 0x21), `done` the cycle of its
last completion: the waiters go on in the next (R125, R126), `hit` one more than the cycle of its last arrival (R128), `begins` one more than the
cycle in which its phase began (R125). -/
structure Bar where
  mode : BarMode
  colour : Nat
  seq : BitVec 16
  expect : Nat
  arrived : Nat
  early : Nat
  pass : Bool
  group : Nat
  members : List Nat
  cur : List Nat
  nxt : List Nat
  begun : Bool
  owed : Nat
  done : Option Nat
  hit : Nat
  begins : Nat := 0
deriving DecidableEq, Repr, Inhabited

/-- Bank modes (R168) in the coding of R169. -/
inductive BankMode where
  | scratch | cache | fifo | pending
deriving DecidableEq, Repr, Inhabited

/-- A FIFO entry (R176). -/
structure FEnt where
  id : Nat
  fmt : Fmt
  len : Nat
  vec : Bool
  data : Data
deriving DecidableEq, Repr, Inhabited

/-- A writable CACHE binding that a PENDING bank has not released yet (R171, R172): pages of a colour, or shared by the context. -/
structure Binding where
  colour : Nat
  shared : Bool
  base : Nat
  pages : Nat
deriving DecidableEq, Repr, Inhabited

/-- An SRAM bank (R168 to R176): `lines` are the copies a CACHE bank holds, by line number, with a dirty flag; `shared` a binding whose
pages are all common (R170); `used` the cycle of its last scratch perform (R397); `old` the writable binding that a PENDING bank has not yet released (R171). -/
structure Bank where
  mode : BankMode
  next : BankMode
  colour : Nat
  bound : Bool
  rdonly : Bool
  shared : Bool
  cbase : Nat
  cpages : Nat
  fifo : List FEnt
  lines : Tab (BitVec 512 × Bool)
  used : Option Nat
  old : Option Binding
deriving DecidableEq, Repr, Inhabited

/-- Transfer slot states (R178); DONE is FREE at once. -/
inductive XferSt where
  | free | queued | moving | withheld
deriving DecidableEq, Repr, Inhabited

/-- A transfer slot of the copy engine (R177 to R181). `acc` is the access that commanded it, `seq` its place in
commit order, `wva` the first withheld byte, `starts` the cycle in which it last began to move, `ends` one more than the cycle of the engine's last step
for it, 0 while steps are to come. -/
structure Xfer where
  st : XferSt
  gen : BitVec 11
  ctx : Nat
  colour : Nat
  acc : Nat
  seq : Nat
  copyt : Bool
  conj : Bool
  sscr : Bool
  dscr : Bool
  src : Nat
  dst : Nat
  len : Nat
  rows : Nat
  cols : Nat
  esz : Nat
  spitch : Nat
  dpitch : Nat
  moved : Nat
  pcur : BitVec 48
  wva : Nat
  ticket : Nat
  order : Order
  scope : Scope
  starts : Nat
  ends : Nat
deriving DecidableEq, Repr, Inhabited

/-- Packed accumulator (R63, R271): modes 4 and 5 hold eight F64 lanes in the value's low 512 bits. -/
structure PAcc where
  bound : Bool
  colour : Nat
  mode : BitVec 3
  value : BitVec 1088
  count : BitVec 34
deriving DecidableEq, Repr, Inhabited

/-- A lane of the accumulator file in committed state (R66, R273); a RESERVED lane is named by the instance that holds it. -/
structure Lane where
  alloc : Bool
  colour : Nat
  val : Word
deriving DecidableEq, Repr, Inhabited

/-- A pin-table entry (R150, R294). `pieces` holds up to 8 piece entries (number, BASE, FIRST, COUNT). -/
structure Pin where
  held : Bool
  used : Bool
  gen : Nat
  ctx : Nat
  colour : Nat
  desc : Nat
  area : Nat
  slot : Nat
  version : BitVec 16
  esize : Nat
  npieces : Nat
  length : Nat
  pieces : List (Nat × Nat × Nat × Nat)
deriving DecidableEq, Repr, Inhabited

/-! ### The ring -/

/-- Tile slot states (R132). -/
inductive TileSt where
  | empty | filling | staged | circulating
deriving DecidableEq, Repr, Inhabited

/-- A tile slot (R131, R132): `acc` is the TSTAGE access that fills it; `ctx` its context. -/
structure Tile where
  st : TileSt
  ctx : Nat
  colour : Nat
  elem : Nat
  tag : BitVec 16
  data : BitVec 4096
  acc : Nat
  doomed : Bool
deriving DecidableEq, Repr, Inhabited

/-- Match entry states (R133). -/
inductive MSt where
  | empty | loaded | armed | missed | running | done
deriving DecidableEq, Repr, Inhabited

/-- A match entry (R133). -/
structure MEnt where
  st : MSt
  slot : Nat
  istop : Nat
  kstop : Nat
  misses : Nat
  task : Nat
  param : Word
deriving DecidableEq, Repr, Inhabited

/-- A task slot (R140, R141): the entry it runs, and its copies of the two tiles. -/
structure TSlot where
  busy : Bool
  entry : Nat
  ielem : Nat
  kelem : Nat
  idata : BitVec 4096
  kdata : BitVec 4096
deriving DecidableEq, Repr, Inhabited

/-- A circulating tile of a pass (R136, R137). -/
structure PTile where
  fam : Nat
  origin : Nat
  colour : Nat
  elem : Nat
  tag : BitVec 16
  remain : Nat
  data : BitVec 4096
deriving DecidableEq, Repr, Inhabited

/-- How far a pass is (R136): before beat 0, from beat 0 on, or to end at its next beat (R143). -/
inductive PassSt where
  | starting | running | recalled
deriving DecidableEq, Repr, Inhabited

/-- A ring pass (R136 to R142): `tasks` are the TASKS of each stop, `g` the cycle in which beat 0 begins (after a suspension, would have
begun), `armed` whether step 1 of R136 is done, `entries` the (cluster, match entry) pairs it armed, `arrived` the clusters whose stop is
complete. -/
structure Pass where
  st : PassSt
  ctx : Nat
  ident : Nat
  slot : Nat
  bar : Nat
  scope : Scope
  stop : Nat
  clu : Nat
  frm : Nat
  colour : Nat
  laplim : Nat
  beat8 : Nat
  tasks : List Nat
  g : Nat
  beat : Nat
  armed : Bool
  tiles : List PTile
  entries : List (Nat × Nat)
  arrived : List Nat
deriving DecidableEq, Repr, Inhabited

/-- A ring (R136, R144, R351): its pass, LAST and the fields TRSTAT keeps of the last pass, ended passes whose tasks still run (R142, R143),
and the suspended passes. -/
structure Ring where
  pass : Option Pass
  last : Nat
  slot : Nat
  laplim : Nat
  beat8 : Nat
  stop : Nat
  beat : Nat
  tails : List Pass
  susp : List Pass
deriving DecidableEq, Repr, Inhabited

/-- A packet on the ring links (R185, R189): the context whose traffic it is, its class (true: VE, control), source and destination cluster,
its flits and how many of them the sending stop still holds, what it carries, the channel of the receiver's buffer that it stands in (0 VC0,
1 VC1, 2 VE; none where it was injected), and when it was sent. -/
structure Packet where
  ctx : Nat
  ve : Bool
  vc1 : Bool
  src : Nat
  dst : Nat
  flits : Nat
  left : Nat
  ctrl : Option Ctrl
  post : Option Nat
  inCh : Option Nat
  since : Nat
deriving DecidableEq, Repr, Inhabited

/-- A ring link in one direction (R187): packets that wait at its sending stop, in order; those that have left it whole and not yet arrived;
the free-slot counts; one more than the cycle in which a flit last left (R185). -/
structure Link where
  queue : List Packet
  flight : List Packet
  vc0 : Nat
  vc1 : Nat
  ve : Nat
  sent : Nat
deriving DecidableEq, Repr, Inhabited

/-! ### Memory side -/

/-- The key tag of a line (R358); colour 4,097 stands for the table key of the context (R354). -/
structure KeyTag where
  ctx : Nat
  common : Bool
  colour : Nat
  ksel : Nat
deriving DecidableEq, Repr, Inhabited

/-- How a line stands in memory (R356): the key tag that it was encrypted under, and the generation of that key, none once the key is gone (R355, R82). -/
structure Stored where
  tag : KeyTag
  gen : Option Nat
deriving DecidableEq, Repr, Inhabited

/-- A 64-byte line: last sequence tag (R382), full/empty bits (R311), how it is stored (none: nothing has stored it since reset) and the key tag it is
held under by its home slice (R357, R358), parked readers of the line list (R312), the cluster and bank that hold it writable (R174), the cycle of its last
perform (R383), and whether the held line was written (R364). -/
structure Line where
  tag : BitVec 16
  fe : BitVec 8
  ktag : Option Stored
  held : Option KeyTag
  parked : List Nat
  holder : Option (Nat × Nat)
  last : Option Nat
  dirty : Bool := false
deriving DecidableEq, Repr, Inhabited

/-- A version of a stitched tensor (R148): its number counted from 0, its slot, its pins, RETIRING or not. -/
structure Ver where
  seq : Nat
  slot : Nat
  pins : Nat
  retiring : Bool
deriving DecidableEq, Repr, Inhabited

/-- A removed run of elements (R149): the versions that inserted and removed it, where it lies, and the version that frees it. -/
structure Ext where
  ins : Nat
  rem : Nat
  base : Nat
  count : Nat
  freedBy : Option Nat
deriving DecidableEq, Repr, Inhabited

/-- A live descriptor (R145), by its physical line: owner, address, area, its live versions, for each piece of the current version the
version that inserted it, and the extents not yet written to the free list, in removal order. The words themselves lie in memory. -/
structure Desc where
  ctx : Nat
  colour : Nat
  va : Nat
  area : Nat
  esize : Nat
  fllog : Nat
  seq : Nat
  vers : List Ver
  ins : List Nat
  exts : List Ext
deriving DecidableEq, Repr, Inhabited

/-- A range entry as read (R158). -/
structure Range where
  vbase : Nat
  vlast : Nat
  paged : Bool
  common : Bool
  pbase : Nat
  attr : Word
deriving DecidableEq, Repr, Inhabited

/-- The caches of a port tile (R161), most recently used first: ranges keyed by (context, colour), leaves by (context, common, colour,
page); the first cycle in which it may issue again (R306). -/
structure PortT where
  ranges : List (Nat × Nat × Range)
  leaves : List (Nat × Nat × Nat × Word)
  nextIssue : Nat
deriving DecidableEq, Repr, Inhabited

/-- An open fault ticket (R163): context, colour, port (cluster and region), page, first withheld cycle. -/
structure Ticket where
  ctx : Nat
  colour : Nat
  clu : Nat
  reg : Nat
  page : Nat
  since : Nat
deriving DecidableEq, Repr, Inhabited

/-- A shoot-down in progress (R165): what it names, and the accesses whose acknowledgement it awaits. -/
structure Shoot where
  ctx : Nat
  first : Nat
  last : Nat
  waits : List Nat
deriving DecidableEq, Repr, Inhabited

/-- A RELAT in progress (R166): acting thread (`owner` its serial), instance, physical address of the record and its line's key tag; once the record is
read (`told`), the slots passed and the accesses it awaits. -/
structure Relat where
  clu : Nat
  frm : Nat
  owner : Nat
  ser : Nat
  record : Nat
  key : KeyTag
  told : Bool := false
  slots : Nat := 0
  waits : List Nat := []
deriving DecidableEq, Repr, Inhabited

/-- A monitor unit (R367, R368): `owner` the colour that armed it, to which it is bound, `colour` the colour it samples. -/
structure Mon where
  armed : Bool
  owner : Nat
  colour : Nat
  ctx : Nat
  all : Bool
  event : Nat
  min : Word
  max : Word
  count : Word
  bins : List Word
deriving DecidableEq, Repr, Inhabited

/-- A CFGLD record passed to the management core (R331): acting thread (`owner` its serial) and instance, physical address of the record, its line's key
tag, and its words once they are read. -/
structure Load where
  clu : Nat
  frm : Nat
  owner : Nat
  ser : Nat
  rt : Bool
  record : Nat
  key : KeyTag
  words : List Word := []
deriving DecidableEq, Repr, Inhabited

/-- Everything architectural but memory and the carried registers. `irqs` are the interrupts of the management core: context, what happened (FCAUSE,
5 a context's drain, 6 a colour's), cluster and frame (or the colour), and `%tcause` as the thread set it (R76); `fwStatus` is its
firmware-status block: the identity word and the architecture version (R1); `hostReads` what the host read: context and item, or 16 and the
aperture offset (R105), or 17 and the word of the firmware-status block, or 18 and the requester that read `%msess` (R370). -/
structure Sys where
  now : Nat
  held : Bool
  firmwareOk : Bool
  cxsel : Word
  cxStatus : Nat
  cxSeq : BitVec 4
  ctsel : Word
  lattol : Word
  pstate : Word
  powerLimit : Bool
  thermal : Bool
  lnk : Word
  msOwner : BitVec 16
  msBusy : List Nat
  irqs : List (Nat × Nat × Nat × Word)
  fwStatus : List Word
  mons : Tab Mon
  tickets : Tab Ticket
  nextTicket : Nat
  faultq : List (List Word)
  shoots : Tab Shoot
  relats : Tab Relat
  loads : Tab Load
  seals : Tab Nat
  reports : List (List Byte)
  hostReads : List (Nat × Nat × Word)
  mgmtStatus : Nat
  freeIx : Nat
  fetches : Nat
  ctxs : Tab Ctx
  thrs : Tab Thr
  clus : Tab Clu
  regions : Tab Region
  parks : Tab Park
  frames : Tab BFrame
  ctab : Tab CEnt
  bars : Tab Bar
  lcount : Tab Nat
  banks : Tab Bank
  scratch : Tab Byte
  xfers : Tab Xfer
  paccs : Tab PAcc
  lanes : Tab Lane
  pins : Tab Pin
  tiles : Tab Tile
  ments : Tab MEnt
  tslots : Tab TSlot
  rings : Tab Ring
  links : Tab Link
  routers : Tab (List Packet)
  lines : Tab Line
  descs : Tab Desc
  spill : Tab (List Nat)
  portTs : Tab PortT
deriving DecidableEq, Repr, Inhabited

/-! ### In flight -/

/-- How an instance leaves its block (R95, R232 to R235). -/
inductive Exit where
  | goto (addr : Nat)
  | retire
  | call (addr ret : Nat)
  | ret (addr : Nat)
deriving DecidableEq, Repr, Inhabited

/-- Atomic operations (R316). -/
inductive Atom where
  | add | min | max | minn | maxn | and | or | xor | swp | cas | fadd
deriving DecidableEq, Repr, Inhabited

/-- What an access does (R211). -/
inductive AccOp where
  | ld | st | pref | lde | stf | clrf | atom (a : Atom) | fence | fencea
  | spin | sunpin | splice | copy | copyt | tstage | snew | sfree | piece (snext : Bool)
deriving DecidableEq, Repr, Inhabited

/-- Where an access stands: buffered until its commit, at the port, withheld (under a ticket, or on a MIGRATING page), issued, parked at
the home slice, performed, retired. -/
inductive AccSt where
  | buffered | atPort | withheld (ticket : Nat) | migrating | issued | parked | performed | retired
deriving DecidableEq, Repr, Inhabited

/-- The translation of one page (R160): the physical address of its first byte, KSEL, common or not, SYNC. -/
structure Xlat where
  page : Nat
  pa : Nat
  ksel : Nat
  common : Bool
  sync : Bool
  config : Nat
deriving DecidableEq, Repr, Inhabited

/-- A byte to store: address, value, and the bits that are written (R303). -/
structure WByte where
  va : Nat
  val : Byte
  mask : Byte
deriving DecidableEq, Repr, Inhabited

/-- An access at a memory-port tile (R160, R301 to R319). `bf` is the frame of its block in the region, `order` its place in the order of
released operations; `segs` are the byte ranges it touches in element order (address, bytes, MFMT), `done` how many of its line parts have performed, `got` the
bytes read by address, `a` and `b` its operands, `tag` what it retires into `%seqlast`, `x` and `y` what its operation needs beside; `dead` an
issued access of an aborted instance (R309); `skip` the indices from its first to its last that did not fire (R95); `iter` an access of an iterated entry (R100); `owner` the serial of its thread. -/
structure Access where
  ser : Nat
  owner : Nat
  ctx : Nat
  ident : Nat
  clu : Nat
  reg : Nat
  frm : Nat
  bf : Nat
  colour : Nat
  idx : Nat
  lsid : Option Nat
  index : Nat
  len : Nat
  op : AccOp
  released : Bool
  committed : Bool
  order : Nat
  fmt : Fmt
  n : Nat
  vec : Bool
  t0 : Target
  t1 : Target
  ord : Order
  scope : Scope
  scr : Bool
  segs : List (Nat × Nat × Nat)
  wr : List WByte
  a : BitVec 256
  b : Word
  xl : List Xlat
  st : AccSt
  done : Nat
  got : List (Nat × Byte)
  tag : Word
  x : Nat
  y : Nat
  since : Nat
  dead : Bool
  skip : List Nat := []
  iter : Bool := false
deriving DecidableEq, Repr, Inhabited

/-- A write to a lane at commit (R66, R275, R280 to R283). -/
inductive LaneOp where
  | add (c : Int) | fadd (v : Word) (mode : Nat) | put (v : Word)
deriving DecidableEq, Repr, Inhabited

/-- What an instance does at its commit besides register writes and released accesses. -/
inductive Eff where
  | mts (reg : Nat) (v : Word)
  | lane (l : Nat) (o : LaneOp)
  | zfree (l n : Nat)
  | bariCnt (b n : Nat) | bariGrp (b g : Nat) | bariFree (b : Nat)
  | arrive (b : Nat) (wait : Bool)
  | join (g : Nat) | leave (g : Nat)
  | bankm (b : Nat) (m : BankMode) (ro : Bool) (shared : Bool) (base pages : Nat)
  | fpush (b : Nat) (e : FEnt) | fpop (b : Nat) (e : FEnt)
  | tmatch (e : Nat) (w0 param : Word) | tmclr (first last : Nat) | tpass (b8 lap tasks : Nat)
  | tgo (slot bar : Nat) (scope : Scope) | trecall
  | msend (dclu dfrm : Nat) (m : Msg) | mrecv (m : Msg) | mpollClr
  | emit (port : Nat) (t : Token)
  | launch (q : Nat) (words : List Word)
  | spawn (frm addr : Nat) (g1 : Word) (index : Nat)
  | trap (info : Word) | tret
  | qsusp (ctx q : Nat) | qresQ (ctx q : Nat) | qresCol (ctx col : Nat) | qresCtx (ctx : Nat)
  | drainCol (ctx col : Nat) | drainCtx (ctx : Nat)
  | cfgld (va : Nat) (rt : Bool) | relat (va : Nat)
  | monArm (u : Nat) (sel : Word) | monClear (u : Nat) | monStop (u : Nat)
deriving DecidableEq, Repr, Inhabited

/-- An effect with the instruction and index that fired it. -/
structure EffAt where
  idx : Nat
  index : Nat
  e : Eff
deriving DecidableEq, Repr, Inhabited

/-- A partial of COMB (R323). -/
structure Comb where
  idx : Nat
  v : Word
  k : Nat
deriving DecidableEq, Repr, Inhabited

/-- A live instance: one entry of a thread to a block (R92, R95, R99); `trap` the trap that counts of those raised in it in this cycle, with its
instruction index (R345); `dstep` the advance of `%dphase` that its decided commit makes (R60); `drops0` DROPS before its own messages were
discarded (R296), `pushed` the FIFO entries that it has appended (R176), `late` when the last answer of an LSID reaches its commit unit (R95). -/
structure Inst where
  ser : Nat
  blk : Nat
  reg : Nat
  frm : Nat
  start : Nat
  asleep : Nat
  n : Nat
  iter : Bool
  ctx : Nat
  ident : Nat
  colour : Nat
  exit : Option Exit
  writes : List (Nat × Option Word)
  answers : List (Nat × Nat × Nat)
  emits : List (Nat × Nat × Nat)
  effs : List EffAt
  opens : Tab PAcc
  lanes : List Nat
  spawns : List Nat
  tiles : List Nat
  combs : List Comb
  copies : List (Nat × Word)
  seq0 : Option Word
  committing : Bool
  sending : Bool
  sends : Nat
  trap : Option (Nat × TrapRec) := none
  dstep : Nat := 0
  drops0 : Option Nat := none
  pushed : List Nat := []
  late : Nat := 0
deriving DecidableEq, Repr, Inhabited

/-- The operand latch of the PE that issues: which instruction of which resident block, the tag, the tokens consumed (R28). -/
structure Firing where
  clu : Nat
  reg : Nat
  frm : Nat
  idx : Nat
  colour : Nat
  frame : Nat
  index : Nat
  ser : Nat
  left : Option Token
  right : Option Token
  pred : Option Token
  since : Nat
deriving DecidableEq, Repr, Inhabited

/-- A sleeping WAITT (R180), asleep since cycle `start`; `slept` counts the cycles in which its instance sleeps (R98). -/
structure Sleep where
  f : Firing
  start : Nat
  t0 : Target
  t1 : Target
  until_ : Nat
  slept : Nat
deriving DecidableEq, Repr, Inhabited

/-- What waits for the acknowledgement of released accesses (R112, R128, R236, R293, R296). -/
inductive PostAct where
  | arrive (b idx : Nat) (wait : Bool)
  | launch (q : Nat) (words : List Word)
  | spawn (frm addr : Nat) (g1 g2 g3 : Word)
  | message (dclu dfrm : Nat) (m : Msg)
  | group (g idx : Nat) (join : Bool)
  | perform (acc : Nat)
  | taskDone (slot : Nat)
deriving DecidableEq, Repr, Inhabited

/-- A post: the thread (`owner` its serial) and entry it belongs to, the accesses it awaits, what it does. -/
structure Post where
  ctx : Nat
  ident : Nat
  clu : Nat
  frm : Nat
  colour : Nat
  ser : Nat
  owner : Nat
  waits : List Nat
  ready : Bool
  act : PostAct
deriving DecidableEq, Repr, Inhabited

/-- A piece of work of the agenda: an event of the table, or the firing of a resident instruction. -/
inductive Act where
  | ev (i : Instr) (e : Ev)
  | fire (f : Firing)
deriving DecidableEq, Repr, Inhabited

/-- Work and the cycle it is due. -/
structure Work where
  due : Nat
  act : Act
deriving DecidableEq, Repr, Inhabited

/-- What is in flight, and the model's own bookkeeping: `commits` the instances whose commit is decided and not yet visible (R96); the agenda in order of due cycle, the delays that contention adds, serials,
and the colours of queues whose THR fell in this cycle: cluster, colour, one more than the cycle (R110). -/
structure Fly where
  cur : Firing
  ev : Ev
  agenda : List Work
  delays : List Nat
  nextSer : Nat
  insts : Tab Inst
  commits : Tab Inst
  accs : Tab Access
  posts : Tab Post
  sleeps : Tab Sleep
  calm : List (Nat × Nat × Nat) := []
deriving DecidableEq, Repr, Inhabited

/-- The carried registers of a thread, g1 to g31 in entries 1 to 31 (R93); entry 0 is never read. -/
abbrev Regs := Tab Word

/-- The machine. -/
structure State where
  mem : Memory
  greg : Tab Regs
  sys : Sys
  fly : Fly
deriving DecidableEq, Repr, Inhabited

/-- Why the machine stops. -/
inductive Fault where
  /-- Raised by `step` while the device is held in reset because the boot ROM refused the firmware (R360): nothing runs. Safe. -/
  | heldInReset
deriving DecidableEq, Repr, Inhabited

/-- Why an action has no meaning. -/
inductive Refusal where
  /-- Raised by an arm of `exec` whose instruction has no meaning yet, by its mnemonic. Safe: the model stops. -/
  | notModelled (mnemonic : String)
deriving DecidableEq, Repr, Inhabited

/-! ### Reset values (R77, R2 and the Reset columns of the field maps) -/

def Thr.reset : Thr :=
  { st := .free, ctx := 0, ident := 0, colour := 0, next := 0, dphase := 0, sprog := 0, gmem := 0, stack := [], seqlast := 0,
    tcause := 0, tinfo := 0, tva := 0, tblk := 0, handler := false, pend := none, deferred := [], aborted := [], mbox := [],
    drops := 0, baraw := none, queue := none, task := none, held := false, ticket := none, halt := 0, haltIdx := 0, serial := 0 }

/-- Contexts 1 to 15 are FREE and hold no ring; `%ftlim` 47,000; `%stall` 65,536 (R77, R81, R164, R2). -/
def Ctx.reset : Ctx :=
  { st := .free, rings := 0, fcause := 0, drcnt := 0, drcol := 0, cxvec := 0, wlimit := 0, wcount := 0, wrem := 0, wsince := 0,
    ftlim := Config.ftlimDefault, stall := Config.stallDefault, rtbase := 0, kernels := [], queues := [], ports := [], groups := [],
    audits := [], allow := [], keys := [], drawn := 0, streamKey := 0, signKeys := [], drains := [], drained := [] }

/-- Context 0 is RUNNING and holds every ring (R76, R81). -/
def Ctx.zero : Ctx := { Ctx.reset with st := .running, rings := 0xFFFF }

/-- LOWATER 32 (R39); BEAT8 0, LAPLIM 16, TASKS 4 (R135). -/
def Clu.reset : Clu :=
  { mscfg := 0x200000, barsel := 0, bksel := 0, table := [], overflow := [], decisions := 0, decided := 0, faultLog := [], beat8 := 0,
    laplim := 16, tasks := 4, rr := 0, started := 0, leaving := [] }

def Region.reset : Region := { arrived := [], entries := [], holds := [], ctrl := [], ctrlWait := [], blocked := [] }

def Park.reset : Park := { on := false, wr := 0, rd := 0, recs := [], pending := [], retryAt := none, injecting := false }

def BFrame.reset : BFrame := { st := .empty, ctx := 0, ident := 0, blk := 0, words := [], expect := [], entered := 0, latches := [] }

def CEnt.reset : CEnt := { w0 := 0, w1 := 0 }

def Bar.reset : Bar :=
  { mode := .free, colour := 0, seq := 0, expect := 0, arrived := 0, early := 0, pass := false, group := 0, members := [], cur := [],
    nxt := [], begun := false, owed := 0, done := none, hit := 0 }

/-- SCRATCH, unbound (R168). -/
def Bank.reset : Bank :=
  { mode := .scratch, next := .scratch, colour := 0, bound := false, rdonly := false, shared := false, cbase := 0, cpages := 0,
    fifo := [], lines := [], used := none, old := none }

def Xfer.reset : Xfer :=
  { st := .free, gen := 0, ctx := 0, colour := 0, acc := 0, seq := 0, copyt := false, conj := false, sscr := false, dscr := false,
    src := 0, dst := 0, len := 0, rows := 0, cols := 0, esz := 0, spitch := 0, dpitch := 0, moved := 0, pcur := 0, wva := 0,
    ticket := 0, order := .none, scope := .blk, starts := 0, ends := 0 }

/-- FREE with value zero (R271); MODE reads 0b111 (R276). -/
def PAcc.reset : PAcc := { bound := false, colour := 0, mode := 7, value := 0, count := 0 }

def Lane.reset : Lane := { alloc := false, colour := 0, val := 0 }

def Pin.reset : Pin :=
  { held := false, used := false, gen := 0, ctx := 0, colour := 0, desc := 0, area := 0, slot := 0, version := 0, esize := 0,
    npieces := 0, length := 0, pieces := [] }

def Tile.reset : Tile :=
  { st := .empty, ctx := 0, colour := 0, elem := 0, tag := 0, data := 0, acc := 0, doomed := false }

def MEnt.reset : MEnt := { st := .empty, slot := 0, istop := 0, kstop := 0, misses := 0, task := 0, param := 0 }

def TSlot.reset : TSlot := { busy := false, entry := 0, ielem := 0, kelem := 0, idata := 0, kdata := 0 }

def Ring.reset : Ring :=
  { pass := none, last := 0, slot := 0, laplim := 0, beat8 := 0, stop := 0, beat := 0, tails := [], susp := [] }

/-- The free-slot counts start at the buffer sizes (R187). -/
def Link.reset : Link := { queue := [], flight := [], vc0 := 16, vc1 := 16, ve := 4, sent := 0 }

def Line.reset : Line := { tag := 0, fe := 0, ktag := none, held := none, parked := [], holder := none, last := none }

def PortT.reset : PortT := { ranges := [], leaves := [], nextIssue := 0 }

/-- The minimum reads all ones before the first sample (R368). -/
def Mon.reset : Mon :=
  { armed := false, owner := 0, colour := 0, ctx := 0, all := false, event := 0, min := 0xFFFFFFFFFFFFFFFF, max := 0, count := 0, bins := [] }

def Grp.reset : Grp := { epoch := 0, live := false, colour := 0, total := 0 }

def Audit.reset : Audit := { attempts := 0, last := 0 }

def Firing.none : Firing :=
  { clu := 0, reg := 0, frm := 0, idx := 0, colour := 0, frame := 0, index := 0, ser := 0, left := .none, right := .none,
    pred := .none, since := 0 }

def Sys.reset : Sys :=
  { now := 0, held := false, firmwareOk := true, cxsel := 0, cxStatus := 0, cxSeq := 0, ctsel := 0, lattol := 0, pstate := 0,
    powerLimit := false, thermal := false, lnk := 0, msOwner := 0, msBusy := [], irqs := [],
    fwStatus := [Config.partId.setWidth 64, Config.archVersion.setWidth 64], mons := [], tickets := [],
    nextTicket := 0, faultq := [], shoots := [], relats := [], loads := [], seals := [], reports := [], hostReads := [],
    mgmtStatus := 0, freeIx := 0, fetches := 0, ctxs := [(0, Ctx.zero)], thrs := [], clus := [], regions := [], parks := [],
    frames := [], ctab := [], bars := [], lcount := [], banks := [], scratch := [], xfers := [], paccs := [], lanes := [],
    pins := [], tiles := [], ments := [], tslots := [], rings := [], links := [], routers := [], lines := [], descs := [], spill := [],
    portTs := [] }

def Fly.reset : Fly :=
  { cur := Firing.none, ev := {}, agenda := [], delays := [], nextSer := 0, insts := [], commits := [], accs := [], posts := [], sleeps := [] }

/-- The machine right after reset (R77): context 0 RUNNING with every ring, every other context FREE, banks SCRATCH, every frame, slot
and table in its reset state, memory with nothing listed. -/
def State.reset : State := { mem := [], greg := [], sys := Sys.reset, fly := Fly.reset }

end Sys2Proof.Machine
end

