-- ==== Sys2Proof/Machine/Ops.lean ====
section
/-!
DEFINITION. The named operations over tables, memory, registers and the agenda; aborting an instance and taking a trap.
-/
namespace Sys2Proof.Machine

/-! ### Tables -/

/-- The entry of key `k`, if it is listed. -/
def tabFind {α : Type} : Tab α → Nat → Option α
  | [], _ => none
  | (i, v) :: t, k => if k = i then some v else tabFind t k

/-- The entry of key `k`, or the default. -/
def tabGet {α : Type} (d : α) (t : Tab α) (k : Nat) : α := (tabFind t k).getD d

/-- The table without key `k`. -/
def tabDel {α : Type} : Tab α → Nat → Tab α
  | [], _ => []
  | (i, v) :: t, k => if k = i then t else (i, v) :: tabDel t k

/-- The table with key `k` at `v`, keys kept in rising order. -/
def tabPut {α : Type} : Tab α → Nat → α → Tab α
  | [], k, v => [(k, v)]
  | (i, w) :: t, k, v => if k < i then (k, v) :: (i, w) :: t else if k = i then (k, v) :: t else (i, w) :: tabPut t k v

/-- The table with key `k` at `v`; an entry equal to the default is not listed. -/
def tabSet {α : Type} [DecidableEq α] (d : α) (t : Tab α) (k : Nat) (v : α) : Tab α :=
  if v = d then tabDel t k else tabPut t k v

/-! ### Memory (R5, R157) -/

/-- What a byte that nothing has written reads as: the manual gives no contents at power-on (log entry 1, DESIGN CHOICE). -/
def unwritten : Byte := 0

/-- Keys strictly rising from `lo`. -/
def risingFrom : Nat → Memory → Bool
  | _, [] => true
  | lo, (a, b) :: m => lo ≤ a && b != unwritten && risingFrom (a + 1) m

/-- The canonical form: addresses strictly rising, and no entry equal to what an unlisted address reads as. -/
def Memory.wf (m : Memory) : Bool := risingFrom 0 m

/-- The byte at a physical address. -/
def readByte (m : Memory) (a : Nat) : Byte := tabGet unwritten m a

/-- One byte written. -/
def writeByte (m : Memory) (a : Nat) (v : Byte) : Memory := tabSet unwritten m a v

/-- `n` bytes from `a`, as a number, little-endian (R5). -/
def readLE (m : Memory) (a : Nat) : Nat → Nat
  | 0 => 0
  | n + 1 => (readByte m a).toNat + 256 * readLE m (a + 1) n

/-- The low `n` bytes of `v` written from `a`, little-endian (R5). -/
def writeLE (m : Memory) (a : Nat) : Nat → Nat → Memory
  | 0, _ => m
  | n + 1, v => writeLE (writeByte m a (BitVec.ofNat 8 v)) (a + 1) n (v / 256)

def readWord (m : Memory) (a : Nat) : Word := BitVec.ofNat 64 (readLE m a 8)
def writeWord (m : Memory) (a : Nat) (v : Word) : Memory := writeLE m a 8 v.toNat

/-- `n` bytes from `a`, lowest address first. -/
def readBytes (m : Memory) (a : Nat) : Nat → List Byte
  | 0 => []
  | n + 1 => readByte m a :: readBytes m (a + 1) n

def writeBytes (m : Memory) (a : Nat) : List Byte → Memory
  | [] => m
  | b :: bs => writeBytes (writeByte m a b) (a + 1) bs

/-- A byte string as a number, little-endian. -/
def leNat : List Byte → Nat
  | [] => 0
  | b :: bs => b.toNat + 256 * leNat bs

/-- The `n` bytes of a number, little-endian. -/
def leBytes : Nat → Nat → List Byte
  | 0, _ => []
  | n + 1, v => BitVec.ofNat 8 v :: leBytes n (v / 256)

/-- The 64-bit words of a byte string. -/
def leWords : Nat → List Byte → List Word
  | 0, _ => []
  | n + 1, bs => BitVec.ofNat 64 (leNat (bs.take 8)) :: leWords n (bs.drop 8)

/-! ### Objects of the architectural state -/

def Sys.ctx (y : Sys) (x : Nat) : Ctx := tabGet Ctx.reset y.ctxs (x)
def Sys.setCtx (y : Sys) (x : Nat) (v : Ctx) : Sys := { y with ctxs := tabSet Ctx.reset y.ctxs (x) v }
def Sys.modCtx (y : Sys) (x : Nat) (h : Ctx → Ctx) : Sys := y.setCtx x (h (y.ctx x))

def Sys.thr (y : Sys) (c f : Nat) : Thr := tabGet Thr.reset y.thrs (c * 1024 + f)
def Sys.setThr (y : Sys) (c f : Nat) (v : Thr) : Sys := { y with thrs := tabSet Thr.reset y.thrs (c * 1024 + f) v }
def Sys.modThr (y : Sys) (c f : Nat) (h : Thr → Thr) : Sys := y.setThr c f (h (y.thr c f))

def Sys.clu (y : Sys) (c : Nat) : Clu := tabGet Clu.reset y.clus (c)
def Sys.setClu (y : Sys) (c : Nat) (v : Clu) : Sys := { y with clus := tabSet Clu.reset y.clus (c) v }
def Sys.modClu (y : Sys) (c : Nat) (h : Clu → Clu) : Sys := y.setClu c (h (y.clu c))

def Sys.region (y : Sys) (c r : Nat) : Region := tabGet Region.reset y.regions (c * 16 + r)
def Sys.setRegion (y : Sys) (c r : Nat) (v : Region) : Sys := { y with regions := tabSet Region.reset y.regions (c * 16 + r) v }
def Sys.modRegion (y : Sys) (c r : Nat) (h : Region → Region) : Sys := y.setRegion c r (h (y.region c r))

def Sys.park (y : Sys) (c k : Nat) : Park := tabGet Park.reset y.parks (c * 4096 + k)
def Sys.setPark (y : Sys) (c k : Nat) (v : Park) : Sys := { y with parks := tabSet Park.reset y.parks (c * 4096 + k) v }
def Sys.modPark (y : Sys) (c k : Nat) (h : Park → Park) : Sys := y.setPark c k (h (y.park c k))

def Sys.frame (y : Sys) (c r f : Nat) : BFrame := tabGet BFrame.reset y.frames ((c * 16 + r) * 4 + f)
def Sys.setFrame (y : Sys) (c r f : Nat) (v : BFrame) : Sys := { y with frames := tabSet BFrame.reset y.frames ((c * 16 + r) * 4 + f) v }
def Sys.modFrame (y : Sys) (c r f : Nat) (h : BFrame → BFrame) : Sys := y.setFrame c r f (h (y.frame c r f))

def Sys.cent (y : Sys) (c e : Nat) : CEnt := tabGet CEnt.reset y.ctab (c * 64 + e)
def Sys.setCent (y : Sys) (c e : Nat) (v : CEnt) : Sys := { y with ctab := tabSet CEnt.reset y.ctab (c * 64 + e) v }
def Sys.modCent (y : Sys) (c e : Nat) (h : CEnt → CEnt) : Sys := y.setCent c e (h (y.cent c e))

def Sys.bar (y : Sys) (c b : Nat) : Bar := tabGet Bar.reset y.bars (c * 256 + b)
def Sys.setBar (y : Sys) (c b : Nat) (v : Bar) : Sys := { y with bars := tabSet Bar.reset y.bars (c * 256 + b) v }
def Sys.modBar (y : Sys) (c b : Nat) (h : Bar → Bar) : Sys := y.setBar c b (h (y.bar c b))

def Sys.bank (y : Sys) (c b : Nat) : Bank := tabGet Bank.reset y.banks (c * 16 + b)
def Sys.setBank (y : Sys) (c b : Nat) (v : Bank) : Sys := { y with banks := tabSet Bank.reset y.banks (c * 16 + b) v }
def Sys.modBank (y : Sys) (c b : Nat) (h : Bank → Bank) : Sys := y.setBank c b (h (y.bank c b))

def Sys.xfer (y : Sys) (c k : Nat) : Xfer := tabGet Xfer.reset y.xfers (c * 32 + k)
def Sys.setXfer (y : Sys) (c k : Nat) (v : Xfer) : Sys := { y with xfers := tabSet Xfer.reset y.xfers (c * 32 + k) v }
def Sys.modXfer (y : Sys) (c k : Nat) (h : Xfer → Xfer) : Sys := y.setXfer c k (h (y.xfer c k))

def Sys.pacc (y : Sys) (c p : Nat) : PAcc := tabGet PAcc.reset y.paccs (c * 192 + p)
def Sys.setPacc (y : Sys) (c p : Nat) (v : PAcc) : Sys := { y with paccs := tabSet PAcc.reset y.paccs (c * 192 + p) v }
def Sys.modPacc (y : Sys) (c p : Nat) (h : PAcc → PAcc) : Sys := y.setPacc c p (h (y.pacc c p))

def Sys.lane (y : Sys) (c l : Nat) : Lane := tabGet Lane.reset y.lanes (c * 4096 + l)
def Sys.setLane (y : Sys) (c l : Nat) (v : Lane) : Sys := { y with lanes := tabSet Lane.reset y.lanes (c * 4096 + l) v }
def Sys.modLane (y : Sys) (c l : Nat) (h : Lane → Lane) : Sys := y.setLane c l (h (y.lane c l))

def Sys.pin (y : Sys) (c e : Nat) : Pin := tabGet Pin.reset y.pins (c * 256 + e)
def Sys.setPin (y : Sys) (c e : Nat) (v : Pin) : Sys := { y with pins := tabSet Pin.reset y.pins (c * 256 + e) v }
def Sys.modPin (y : Sys) (c e : Nat) (h : Pin → Pin) : Sys := y.setPin c e (h (y.pin c e))

def Sys.tile (y : Sys) (c m q : Nat) : Tile := tabGet Tile.reset y.tiles (c * 32 + m * 16 + q)
def Sys.setTile (y : Sys) (c m q : Nat) (v : Tile) : Sys := { y with tiles := tabSet Tile.reset y.tiles (c * 32 + m * 16 + q) v }
def Sys.modTile (y : Sys) (c m q : Nat) (h : Tile → Tile) : Sys := y.setTile c m q (h (y.tile c m q))

def Sys.ment (y : Sys) (c e : Nat) : MEnt := tabGet MEnt.reset y.ments (c * 256 + e)
def Sys.setMent (y : Sys) (c e : Nat) (v : MEnt) : Sys := { y with ments := tabSet MEnt.reset y.ments (c * 256 + e) v }
def Sys.modMent (y : Sys) (c e : Nat) (h : MEnt → MEnt) : Sys := y.setMent c e (h (y.ment c e))

def Sys.tslot (y : Sys) (c k : Nat) : TSlot := tabGet TSlot.reset y.tslots (c * 4 + k)
def Sys.setTslot (y : Sys) (c k : Nat) (v : TSlot) : Sys := { y with tslots := tabSet TSlot.reset y.tslots (c * 4 + k) v }
def Sys.modTslot (y : Sys) (c k : Nat) (h : TSlot → TSlot) : Sys := y.setTslot c k (h (y.tslot c k))

def Sys.ring (y : Sys) (g : Nat) : Ring := tabGet Ring.reset y.rings (g)
def Sys.setRing (y : Sys) (g : Nat) (v : Ring) : Sys := { y with rings := tabSet Ring.reset y.rings (g) v }
def Sys.modRing (y : Sys) (g : Nat) (h : Ring → Ring) : Sys := y.setRing g (h (y.ring g))

def Sys.link (y : Sys) (g l : Nat) : Link := tabGet Link.reset y.links (g * 16 + l)
def Sys.setLink (y : Sys) (g l : Nat) (v : Link) : Sys := { y with links := tabSet Link.reset y.links (g * 16 + l) v }
def Sys.modLink (y : Sys) (g l : Nat) (h : Link → Link) : Sys := y.setLink g l (h (y.link g l))

def Sys.line (y : Sys) (l : Nat) : Line := tabGet Line.reset y.lines (l)
def Sys.setLine (y : Sys) (l : Nat) (v : Line) : Sys := { y with lines := tabSet Line.reset y.lines (l) v }
def Sys.modLine (y : Sys) (l : Nat) (h : Line → Line) : Sys := y.setLine l (h (y.line l))

def Sys.portT (y : Sys) (c r : Nat) : PortT := tabGet PortT.reset y.portTs (c * 16 + r)
def Sys.setPortT (y : Sys) (c r : Nat) (v : PortT) : Sys := { y with portTs := tabSet PortT.reset y.portTs (c * 16 + r) v }
def Sys.modPortT (y : Sys) (c r : Nat) (h : PortT → PortT) : Sys := y.setPortT c r (h (y.portT c r))

def Sys.mon (y : Sys) (u : Nat) : Mon := tabGet Mon.reset y.mons (u)
def Sys.setMon (y : Sys) (u : Nat) (v : Mon) : Sys := { y with mons := tabSet Mon.reset y.mons (u) v }
def Sys.modMon (y : Sys) (u : Nat) (h : Mon → Mon) : Sys := y.setMon u (h (y.mon u))

/-- LCOUNT (R115). -/
def Sys.lc (y : Sys) (c g : Nat) : Nat := tabGet 0 y.lcount (c * 1024 + g)
def Sys.setLc (y : Sys) (c g v : Nat) : Sys := { y with lcount := tabSet 0 y.lcount (c * 1024 + g) v }

/-- A byte of a cluster's scratch space (R173). -/
def Sys.scr (y : Sys) (c off : Nat) : Byte := tabGet 0 y.scratch (c * 1048576 + off)
def Sys.setScr (y : Sys) (c off : Nat) (v : Byte) : Sys := { y with scratch := tabSet 0 y.scratch (c * 1048576 + off) v }

/-- A thread's key: cluster and frame. -/
def tkey (c f : Nat) : Nat := c * 1024 + f

/-- Carried register `n` of a thread; g0 reads as zero in every thread (R93). -/
def State.reg (s : State) (c f n : Nat) : Word := if n = 0 then 0 else tabGet 0 (tabGet [] s.greg (tkey c f)) n

/-- The registers of a thread with register `n` written; a write to g0 is discarded (R93). -/
def State.setReg (s : State) (c f n : Nat) (v : Word) : State :=
  if n = 0 then s
  else { s with greg := tabSet [] s.greg (tkey c f) (tabSet 0 (tabGet [] s.greg (tkey c f)) n v) }

/-- The registers of a thread, all at once. -/
def State.setRegs (s : State) (c f : Nat) (r : Regs) : State := { s with greg := tabSet [] s.greg (tkey c f) r }

/-- The context that holds a cluster's ring (R72): context 0 unless another holds it. -/
def Sys.ctxOf (y : Sys) (c : Nat) : Nat :=
  ((List.range 15).map (· + 1)).find? (fun x => (y.ctx x).rings.getLsbD (c / 8)) |>.getD 0

/-- The live instance of a thread. -/
def Fly.inst (f : Fly) (c k : Nat) : Option Inst := tabFind f.insts (tkey c k)
def Fly.setInst (f : Fly) (c k : Nat) (v : Inst) : Fly := { f with insts := tabPut f.insts (tkey c k) v }
def Fly.delInst (f : Fly) (c k : Nat) : Fly := { f with insts := tabDel f.insts (tkey c k) }
/-- Instances that are live, and those decided whose effects are not yet visible: both hold what they have reserved. -/
def Fly.pending (f : Fly) : Tab Inst := f.insts ++ f.commits
def Fly.acc (f : Fly) (id : Nat) : Option Access := tabFind f.accs id
def Fly.setAcc (f : Fly) (id : Nat) (v : Access) : Fly := { f with accs := tabPut f.accs id v }
def Fly.delAcc (f : Fly) (id : Nat) : Fly := { f with accs := tabDel f.accs id }
def Fly.setPost (f : Fly) (id : Nat) (v : Post) : Fly := { f with posts := tabPut f.posts id v }
def Fly.delPost (f : Fly) (id : Nat) : Fly := { f with posts := tabDel f.posts id }

/-- A fresh serial. -/
def Fly.fresh (f : Fly) : Nat × Fly := (f.nextSer, { f with nextSer := f.nextSer + 1 })

/-- The extra delay that the next request or response meets (R15: no bound on contention is given; free, from the list in State). -/
def Fly.draw (f : Fly) : Nat × Fly :=
  match f.delays with
  | [] => (0, f)
  | d :: ds => (d, { f with delays := ds })

/-! ### The agenda -/

/-- The order of works of one cycle: which queues may start, as the cycle begins (R110, R378), and the entries that the last cycle's completions free; decisions of commits, by the cycle they became
ready (R112, R113), then the commits decided and their effects, by cluster and frame (R113, R176); a CHECKPOINT (R164); the start of a beat, whose
tiles take the links of the cycle (R139); what the host sent and the CXL port held back (R193); then what no rule orders, as it was entered; arrivals on barriers, by frame, a ring stop's after them, then each BARI (R128); WAITTs that wake (R180); arrivals of tokens, by producer (R232), and their placement; performs at a home slice, those held back by a busy line first, then by
cluster (R383); scratch performs by region (R397); firings by cluster, frame and instruction, of one instruction the
lower index (R30, R136, R281, R345); a STALL (R345); traps (R345); queue
starts, after SPAWN's reservations (R236); samples, which a read in the same cycle does not see (R368). -/
def Act.rank : Act → Nat × Nat × Nat
  | .ev .recordStart e => if e.part = 2 then (0, 0, 0) else if e.part = 0 then (11, 0, 0) else (4, 0, 0)
  | .ev .wake _ => (3, 0, 0)
  | .ev .commit e =>
    if e.part = 0 then (1, (e.col * 128 + e.clu) * 1024 + e.frm, 0) else if e.part = 2 ∨ e.part = 3 then (2, e.clu * 1024 + e.frm, 0)
    else if e.part ≥ 5 then (4, 4000, 0) else (4, 0, 0)
  | .ev .checkpoint _ => (3, 0, 0)
  | .ev .beat0 _ => (3, 1, 0)
  | .ev .beat e => if e.part = 0 then (3, 1, 0) else (4, 0, 0)
  | .ev .tokenArrival e => if e.part = 9 then (6, 0, 0) else if e.part = 7 then (0, 1, 0) else (5, e.id, 0)
  | .ev .waittWake _ => (4, 6000, 0)
  | .ev .barrierArrival e => (4, if e.part = 0 then 1 + e.frm else if e.part = 2 then 3000 else 5000, 0)
  | .ev .accessPerform e => (7, if e.q then 0 else e.clu + 1, 0)
  | .ev .splicePerform e => (7, if e.q then 0 else e.clu + 1, 0)
  | .ev .snewPerform e => (7, if e.q then 0 else e.clu + 1, 0)
  | .ev .sfreePerform e => (7, if e.q then 0 else e.clu + 1, 0)
  | .ev .scratchPerform e => (8, if e.q then 0 else e.reg + 1, 0)
  | .fire f => (9, (f.clu * 1024 + f.frame) * 128 + f.idx, f.index)
  | .ev .passResume e => (9, (e.clu * 1024 + e.frm) * 128, 0)
  | .ev .stallExpiry _ => (10, 0, 0)
  | .ev .handlerEntry e => if e.part = 4 then (10, 1, 0) else (4, 0, 0)
  | .ev .parking e => if e.part = 1 then (7, if e.q then 0 else e.clu + 1, 0) else (4, 0, 0)
  | .ev .transferDone e => if e.part = 1 then (7, if e.q then 0 else e.clu + 1, 0) else (4, 0, 0)
  | .ev .tstageFillComplete e => (7, if e.q then 0 else e.clu + 1, 0)
  | .ev .frameLoadComplete e => (7, if e.q then 0 else e.clu + 1, 0)
  | .ev .tableReadFill e => if e.part < 5 then (7, if e.q then 0 else e.clu + 1, 0) else (4, 0, 0)
  | .ev .translate e => if e.part = 4 then (7, if e.q then 0 else e.clu + 1, 0) else (4, 0, 0)
  | .ev .freeListWrite e => (7, if e.q then 0 else 500, 0)
  | .ev .kernelLoading _ => (7, 1000, 0)
  | .ev .relatEmerge _ => (7, 1000, 0)
  | .ev .monitorSample _ => (12, 0, 0)
  | .ev _ e => if e.q then (3, 2, 0) else (4, 0, 0)

/-- Ranks compare from the left. -/
def rankLt (a b : Nat × Nat × Nat) : Bool :=
  a.1 < b.1 || (a.1 == b.1 && (a.2.1 < b.2.1 || (a.2.1 == b.2.1 && a.2.2 < b.2.2)))

/-- `n` is taken before `o`, which was entered before it. -/
def Work.before (n o : Work) : Bool :=
  n.due < o.due || (n.due == o.due && rankLt n.act.rank o.act.rank)

/-- Work entered after all work that precedes it. -/
def schedList (w : Work) : List Work → List Work
  | [] => [w]
  | v :: t => if w.before v then w :: v :: t else v :: schedList w t

def Fly.sched (f : Fly) (due : Nat) (a : Act) : Fly := { f with agenda := schedList { due := due, act := a } f.agenda }

/-- An event of the table entered on the agenda. -/
def Fly.event (f : Fly) (due : Nat) (i : Instr) (e : Ev) : Fly := f.sched due (.ev i e)

def State.sched (s : State) (due : Nat) (i : Instr) (e : Ev) : State := { s with fly := s.fly.event due i e }

def State.mapSys (s : State) (h : Sys → Sys) : State := { s with sys := h s.sys }
def State.mapFly (s : State) (h : Fly → Fly) : State := { s with fly := h s.fly }

/-! ### Places -/

/-- Home slice of a physical address (R16). -/
def homeSlice (pa : Nat) : Nat :=
  let g (k : Nat) : BitVec 6 := BitVec.ofNat 6 (pa / 2 ^ k)
  (g 6 ^^^ g 12 ^^^ g 18 ^^^ g 24 ^^^ g 30 ^^^ g 36 ^^^ g 42 ^^^ BitVec.ofNat 6 (pa / 2 ^ 48 % 16)).toNat

/-- Memory channel of a physical address (R17), its memory-controller group and its stack. -/
def channel (pa : Nat) : Nat := (BitVec.ofNat 10 (pa / 2 ^ 6) ^^^ BitVec.ofNat 10 (pa / 2 ^ 16)).toNat
def memGroup (pa : Nat) : Nat := channel pa / 64
def memStack (pa : Nat) : Nat := channel pa / 128

/-- PE column and slot within the frame of an instruction (R12). -/
def peCol (idx : Nat) : Nat := idx % 16
def peSlot (frm idx : Nat) : Nat := frm * 8 + idx / 16

def posCode : Option Pos → Nat
  | none => 0 | some .left => 1 | some .right => 2 | some .pred => 3

/-- The 64-bit tag word of a token bound for a position (R23, CLASS 00). -/
def tagWord (d : Dest) (t : Token) : Word :=
  BitVec.ofNat 64 (t.colour * 2 ^ 52 + t.frame * 2 ^ 42 + t.index * 2 ^ 32 + t.len * 2 ^ 27 + t.fmt.code.toNat * 2 ^ 24 + d.clu * 2 ^ 17
    + d.reg * 2 ^ 13 + peCol d.idx * 2 ^ 9 + peSlot d.frm d.idx % 32 * 2 ^ 4 + posCode (some d.pos) * 4)

/-! ### The colour table (R36 to R41) -/

def fieldOf (w : Word) (lo n : Nat) : Nat := (w.extractLsb' lo n).toNat

/-- `w` with bits [lo+n-1:lo] set to `v`. -/
def setField (w : Word) (lo n v : Nat) : Word :=
  BitVec.ofNat 64 (w.toNat / 2 ^ (lo + n) * 2 ^ (lo + n) + v % 2 ^ n * 2 ^ lo + w.toNat % 2 ^ lo)

def CEnt.colour (e : CEnt) : Nat := fieldOf e.w0 52 12
def CEnt.admits (e : CEnt) (a : Nat) : Bool := e.w0.getLsbD (36 + a)
def CEnt.reserve (e : CEnt) : Nat := fieldOf e.w0 27 9
def CEnt.quota (e : CEnt) : Nat := fieldOf e.w0 18 9
def CEnt.parkAge (e : CEnt) : Nat := fieldOf e.w0 12 6 * 1024
def CEnt.retry (e : CEnt) : Nat := fieldOf e.w0 6 6 * 4096
def CEnt.valid (e : CEnt) : Bool := e.w0.getLsbD 4
def CEnt.parkSize (e : CEnt) : Nat := fieldOf e.w1 52 12 * 65536
def CEnt.parkBase (e : CEnt) : Nat := fieldOf e.w1 16 36 * 65536
def CEnt.faults (e : CEnt) : Nat := fieldOf e.w1 8 8

/-- The number of the valid entry of a colour at a cluster. -/
def Sys.centOf (y : Sys) (c col : Nat) : Option Nat :=
  (List.range 64).find? fun e => (y.cent c e).valid && (y.cent c e).colour == col

/-- The valid entries of a cluster's colour table. -/
def Sys.valids (y : Sys) (c : Nat) : List CEnt := ((List.range 64).map (y.cent c)).filter CEnt.valid

/-- PARKED: the colour has a park queue at the cluster (R42, R44). -/
def Sys.parked (y : Sys) (c col : Nat) : Bool := (y.park c col).on

/-- n: the entries a colour holds in a region (R40), those of COMB's partials too (R323), and those that are freed in the next cycle. -/
def Sys.held_ (y : Sys) (c r col : Nat) : Nat :=
  ((y.region c r).entries.filter fun e => e.tok.colour == col).length + ((y.region c r).partials.filter fun e => e.1 == col).length
    + ((y.region c r).freeing.filter (· == col)).length

def Sys.holdQ (y : Sys) (c r col : Nat) : List Entry := (y.region c r).holds.filter fun e => e.tok.colour == col

/-- Free shared entries of a region (R40), as an integer: sums over the valid colours. -/
def Sys.freeShared (y : Sys) (c r : Nat) : Int :=
  let vs := y.valids c
  (Config.poolEntries : Int) - (vs.map fun e => (e.reserve : Int)).sum
    - (vs.map fun e => ((y.held_ c r e.colour - e.reserve : Nat) : Int)).sum

/-- The entries of a region that hold the partials of COMB of thread `k` (R323). -/
def Sys.setPartials (y : Sys) (c r k : Nat) (ps : List (Nat × Nat × Nat)) : Sys :=
  if (y.region c r).partials.all (·.2.1 != k) && ps.isEmpty then y
  else y.modRegion c r fun g => { g with partials := g.partials.filter (·.2.1 != k) ++ ps }

/-- At quota in a region (R41, R35). -/
def Sys.atQuota (y : Sys) (c r col : Nat) : Bool :=
  match y.centOf c col with
  | none => false
  | some e => y.held_ c r col == (y.cent c e).quota || !(y.holdQ c r col).isEmpty || (y.region c r).blocked.contains col

/-- The second and third rows of R40 for a colour; `old`: no held token of the colour is older. -/
def mayTake (y : Sys) (c r col : Nat) (old : Bool) : Bool :=
  match y.centOf c col with
  | none => false
  | some n =>
    let e := y.cent c n
    y.held_ c r col < e.reserve || (y.held_ c r col < e.quota && 0 < y.freeShared c r && old)

/-- THR (R41). -/
def Sys.throttled (y : Sys) (c col : Nat) : Bool :=
  y.parked c col || (List.range Config.nRegions).any fun r => y.atQuota c r col

/-- Word 0 as it reads: THR, PARKED and HELD are read-only (R36). -/
def Sys.centWord0 (y : Sys) (c e : Nat) : Word :=
  let w := (y.cent c e).w0
  let col := (y.cent c e).colour
  if (y.cent c e).valid then
    setField (setField (setField w 3 1 (if y.throttled c col then 1 else 0)) 2 1 (if y.parked c col then 1 else 0)) 1 1
      (if (List.range Config.nRegions).any fun r => !(y.holdQ c r col).isEmpty then 1 else 0)
  else w

/-- FAULTS of a colour's entry increased by one, saturating at 255 (R32, step 3). -/
def Sys.countFault (y : Sys) (c col : Nat) : Sys :=
  match y.centOf c col with
  | none => y
  | some e => y.modCent c e fun v => { v with w1 := setField v.w1 8 8 (min 255 (v.faults + 1)) }

/-- The state of a queue as it acts and reads (R106, R109): SUSPENDED takes precedence over THROTTLED. -/
def Sys.qState (y : Sys) (q : Queue) : QSt :=
  match q.st with
  | .opened | .throttled => if y.throttled q.clu q.colour then .throttled else .opened
  | x => x

/-! ### Kernels, blocks, instances -/

/-- The kernel of an identity in a context. -/
def Ctx.kernel (x : Ctx) (ident : Nat) : Option Kernel := x.kernels.find? fun k => k.ident == ident

/-- Where a block is resident at a cluster (R89: at most one copy): region and frame. -/
def Sys.residentAt (y : Sys) (c ctx blk : Nat) : Option (Nat × Nat) :=
  ((List.range 64).find? fun n =>
    let f := y.frame c (n / 4) (n % 4)
    f.st == .resident && f.ctx == ctx && f.blk == blk).map fun n => (n / 4, n % 4)

/-- Header fields of a resident block (R204). -/
def BFrame.h0 (f : BFrame) : Word := f.words.getD 0 0
def BFrame.h1 (f : BFrame) : Word := f.words.getD 1 0
def BFrame.icount (f : BFrame) : Nat := fieldOf f.h0 49 7
def BFrame.exits (f : BFrame) : Nat := fieldOf f.h0 46 3
def BFrame.iterated (f : BFrame) : Bool := f.h0.getLsbD 45
def BFrame.itreg (f : BFrame) : Nat := fieldOf f.h0 40 5
def BFrame.lsids (f : BFrame) : Nat := fieldOf f.h0 34 6
def BFrame.cls (f : BFrame) : Nat := fieldOf f.h0 30 4
def BFrame.stores (f : BFrame) : Nat := fieldOf f.h1 32 32
def BFrame.writes (f : BFrame) : Nat := fieldOf f.h1 0 32

/-- The word of instruction `i` of a resident block. -/
def BFrame.word (f : BFrame) (i : Nat) : Word := f.words.getD (i + 2) 0

/-- The instruction at index `i`, if the word decodes. -/
def BFrame.instr (f : BFrame) (i : Nat) : Option Instr :=
  match decode (f.word i) with
  | .ok x => some x
  | .error _ => none

/-- The EMIT instructions of a block (R377). -/
def BFrame.emits (f : BFrame) : List Nat :=
  (List.range f.icount).filter fun i => match f.instr i with | some (.emit _) => true | _ => false

/-- An interval list covers index `i`. -/
def covers (l : List (Nat × Nat)) (i : Nat) : Bool := l.any fun p => p.1 ≤ i && i ≤ p.2

/-- The obligations of R95, R100 and R377 are met: an exit, every declared register, every LSID (for every index of an iterated entry),
every EMIT. -/
def obligationsMet (f : BFrame) (i : Inst) : Bool :=
  i.exit.isSome
  && (List.range 32).all (fun n => !f.h1.getLsbD n || i.writes.any fun w => w.1 == n)
  && (List.range f.lsids).all (fun l =>
        let a := (i.answers.filter fun p => p.1 == l).map Prod.snd
        if i.iter then (List.range i.n).all (covers a) else !a.isEmpty)
  && f.emits.all (fun e =>
        let a := (i.emits.filter fun p => p.1 == e).map Prod.snd
        if i.iter then (List.range i.n).all (covers a) else !a.isEmpty)

/-- When the last obligation has arrived (R96, c+0) the commit is decided one cycle later. -/
def checkReady (y : Sys) (c k : Nat) (f : Fly) : Fly :=
  match f.inst c k with
  | none => f
  | some i =>
    if !i.committing && i.late ≤ y.now && obligationsMet (y.frame c i.reg i.frm) i then
      (f.setInst c k { i with committing := true }).event (y.now + 1) .commit { clu := c, frm := k, id := i.ser, col := y.now + 1 }
    else f

/-- An LSID answered for indices first to last (R95, R230); none when it is answered already. -/
def Inst.answer (i : Inst) (lsid first last : Nat) : Option Inst :=
  if i.answers.any fun p => p.1 == lsid && (!i.iter || (p.2.1 ≤ last && first ≤ p.2.2)) then none
  else some { i with answers := i.answers ++ [(lsid, first, last)] }

/-- A frame of a cluster is free for a new thread (R93, R236: a reserved frame is not free). -/
def State.frameFree (s : State) (c k : Nat) : Bool :=
  (s.sys.thr c k).st == .free && s.fly.pending.all fun e => e.1 / 1024 != c || !e.2.spawns.contains k

/-- The lowest free frame from 0 to 1,019 (R378, R236). -/
def State.lowestFree (s : State) (c : Nat) : Option Nat := (List.range Config.nQueueFrames).find? (s.frameFree c)

/-- A thread belongs to the drained set of a drain whose marker its cluster has seen (R349). -/
def Sys.draining (y : Sys) (c : Nat) (t : Thr) : Bool :=
  (y.ctx t.ctx).drains.any fun d => d.marked.contains c && (d.col == none || d.col == some t.colour)

/-- A colour of a context is stopped at a cluster: its context does not run, a drain of it has reached the cluster, or its drain is complete (R349, R350). -/
def Sys.stopped (y : Sys) (c x colour : Nat) : Bool :=
  (y.ctx x).st != .running || (y.ctx x).drained.contains colour
  || (y.ctx x).drains.any fun d => d.marked.contains c && (d.col == none || d.col == some colour)

/-! ### Aborting an instance (R97) -/

/-- A waiting token goes with an aborted instance (R97, R100, R394): it is bound for that block under that thread's tag; an injected token
only under an index of the instance. -/
def Entry.ofInst (i : Inst) (k : Nat) (e : Entry) : Bool :=
  e.tok.frame == k && e.tok.colour == i.colour && e.dest.reg == i.reg && e.dest.frm == i.frm && (e.ent.isSome || (if i.iter then e.tok.index < i.n else e.tok.index == 0))

/-- Work that is in flight for an aborted entry: its tokens on the networks and its complete instances. -/
def Work.ofSer (ser : Nat) (w : Work) : Bool :=
  match w.act with
  | .ev .tokenArrival e => e.ent == some ser
  | .fire f => f.ser == ser
  | _ => false

/-- The waiting tokens of a cluster that satisfy `p` are dropped from its matching stores, hold queues and park areas. -/
def Sys.dropTokens (y : Sys) (c : Nat) (p : Entry → Bool) : Sys :=
  let y := (List.range Config.nRegions).foldl (fun y r =>
    y.modRegion c r fun g => { g with arrived := g.arrived.filter (!p ·), entries := g.entries.filter (!p ·), holds := g.holds.filter (!p ·) }) y
  { y with parks := y.parks.filterMap fun e =>
      if e.1 / 4096 = c then
        some (e.1, { e.2 with recs := e.2.recs.filter fun r => !p r.2, pending := e.2.pending.filter fun r => !p r.2.2 })
      else some e }

/-- The event stands on the agenda already, for this object. -/
def Fly.due (f : Fly) (p : Instr → Ev → Bool) : Bool :=
  f.agenda.any fun w => match w.act with
    | .ev i e => p i e
    | _ => false

/-- The event stands on the agenda already, for this object, due by a cycle. -/
def Fly.dueBy (f : Fly) (t : Nat) (p : Instr → Ev → Bool) : Bool :=
  f.agenda.any fun w => w.due ≤ t && match w.act with
    | .ev i e => p i e
    | _ => false

/-- A region looks at its held tokens in this cycle (R40). -/
def wakeRegion (now c r : Nat) (f : Fly) : Fly :=
  if f.due fun i e => i == .holdQueueAdmit && e.clu == c && e.reg == r then f else f.event now .holdQueueAdmit { clu := c, reg := r }

/-- An entry of a colour was freed at a cluster between two states. -/
def freedAt (y0 y : Sys) (c col : Nat) : Bool := (List.range Config.nRegions).any fun r => y.held_ c r col < y0.held_ c r col

/-- The colours of queues at a cluster whose THR fell since `y0` (R41, R110). -/
def calmed (y0 y : Sys) (c : Nat) (f : Fly) : Fly :=
  let cols := ((y.ctx (y.ctxOf c)).queues.filter fun q => q.2.clu == c).map fun q => q.2.colour
  { f with calm := (f.calm.filter fun e => e.2.2 == y.now + 1)
      ++ ((cols.filter fun k => y0.throttled c k && !y.throttled c k).map fun k => (c, k, y.now + 1)) }

/-- Entries of a cluster were freed since `y0`: held tokens may be admitted (R40), firings of R35 are tried again whatever the colour of the
freed entry (log entry 65, DEDUCED), and a colour's paused re-injection resumes when an entry of that colour was freed (R44). -/
def wakeCluster (y0 y : Sys) (c : Nat) (f : Fly) : Fly :=
  let f := calmed y0 y c f
  let f := (List.range Config.nRegions).foldl (fun f r =>
    if (y.region c r).holds.isEmpty && (y.region c r).blocked.isEmpty then f else wakeRegion y.now c r f) f
  y.parks.foldl (fun f e =>
    if e.1 / 4096 == c && e.2.on && e.2.injecting && freedAt y0 y c (e.1 % 4096) then f.event y.now .reInjectionResume { clu := c, col := e.1 % 4096 } else f) f

/-- The lines an access touches, in the order of its requests (R303, R306): line numbers of its addresses. -/
def Access.lines (a : Access) : List Nat :=
  (a.segs.flatMap fun g => (List.range ((g.1 % 64 + g.2.1 + 63) / 64)).map fun k => (g.1 / 64 + k) % 2 ^ 46).eraseDups

/-- The translation of an address by an access, if its page is translated. -/
def Access.pa (a : Access) (va : Nat) : Option Nat :=
  (a.xl.find? fun x => x.page == va / 65536).map fun x => x.pa + va % 65536

def Access.xlat (a : Access) (va : Nat) : Option Xlat := a.xl.find? fun x => x.page == va / 65536

/-- Requests of one cluster to one home slice arrive in the order sent (R15, R190): all go through slice interface 0 (R14, R184), and none arrives
earlier than those on their way. -/
def pathDue (f : Fly) (c slice due : Nat) : Nat :=
  let on (e : Ev) : Bool := e.clu == c && e.col == slice && !e.q
  (f.agenda.filter fun w => match w.act with
    | .ev .accessPerform e | .ev .splicePerform e | .ev .snewPerform e | .ev .sfreePerform e | .ev .ldeWithdrawal e => on e
    | .ev .parking e => e.part == 1 && on e
    | .ev .tableReadFill e => e.part < 5 && on e
    | .ev .translate e => e.part == 4 && on e
    | _ => false).foldl (fun d w => max d w.due) due

/-- The home slice of line part `p` of an access. -/
def Access.slice (a : Access) (p : Nat) : Nat :=
  match a.lines[p]? with
  | some l => homeSlice ((a.pa (l * 64)).getD 0)
  | none => 0

/-- What becomes of an uncommitted access of an aborted instance: a parked LDE is withdrawn (R315), a pin is released as a SUNPIN
releases it (R151), a load or an atomic on its way to the home slice performs there and its response is discarded (R309; for the atomic, whose
write stays, log entry 68, DEDUCED), any other access is dropped. -/
def Fly.abortAccess (now : Nat) (f : Fly) (id : Nat) (a : Access) : Fly :=
  match a.st with
  | .parked =>
    { f.setAcc id { a with dead := true, committed := true, order := f.nextSer } with nextSer := f.nextSer + 1 }.event
      (pathDue f a.clu (a.slice 0) (now + 10)) .ldeWithdrawal { clu := a.clu, reg := a.reg, col := a.slice 0, id := id }
  | .issued => { f.setAcc id { a with dead := true, committed := true, order := f.nextSer } with nextSer := f.nextSer + 1 }
  | .performed | .retired =>
    if a.op = .spin ∧ a.y = 1 then
      -- the SUNPIN is an access of its own: the response of the SPIN finds none
      let f := f.delAcc id
      { f.setAcc f.nextSer { a with op := .sunpin, b := a.b &&& 0xFF, done := 0, released := true, committed := true, dead := true, st := .issued,
                                    order := f.nextSer } with nextSer := f.nextSer + 1 }.event (pathDue f a.clu (a.slice 0) (now + 11)) .accessPerform
        { clu := a.clu, reg := a.reg, col := a.slice 0, id := f.nextSer }
    else f.delAcc id
  | _ => f.delAcc id

/-- The messages of an instance that its commit has not completed leave the mailboxes that took them (R296). -/
def Sys.unsend (y : Sys) (i : Inst) : Sys :=
  if i.sending then
    let ids := i.effs.filterMap fun e => match e.e with
      | .msend _ _ m => some m.id
      | _ => none
    { y with thrs := y.thrs.map fun e => (e.1, { e.2 with mbox := e.2.mbox.filter fun m => m.opened || !ids.contains m.id }) }
  else y

/-- DROPS of the thread of an aborted instance is what it was before the instance's messages were discarded (R97, R296). -/
def Sys.undrop (y : Sys) (c k : Nat) (i : Inst) : Sys :=
  match i.drops0 with
  | some n => y.modThr c k fun t => { t with drops := n }
  | none => y

/-- The entries that an aborted instance's FPOPs have taken return to the heads of their FIFOs, in their order (R176). -/
def Sys.unpop (y : Sys) (c : Nat) (i : Inst) : Sys :=
  i.effs.reverse.foldl (fun y n => match n.e with
    | .fpop b v => y.modBank c b fun u => if u.fifo.contains v then { u with fifo := v :: u.fifo.filter (· != v) } else u
    | _ => y) y

/-- The instance of a thread is aborted (R97, R100): its tokens, buffered stores, register writes, reservations and open copies are gone;
`%seqlast` is what it was before the instance's own accesses retired. -/
def abortInst (s : State) (c k : Nat) : State :=
  match s.fly.inst c k with
  | none => s
  | some i =>
    let y := ((((s.sys.unsend i).undrop c k i).unpop c i).dropTokens c (Entry.ofInst i k)).setPartials c i.reg k []
    let f := s.fly.delInst c k
    let f := { f with agenda := f.agenda.filter (!Work.ofSer i.ser ·) }
    let f := (f.accs.filter fun e => e.2.ser == i.ser && !e.2.committed).foldl (fun f e => f.abortAccess y.now e.1 e.2) f
    let y := match i.seq0 with
      | some v => y.modThr c k fun t => { t with seqlast := v }
      | none => y
    let f := wakeCluster s.sys y c f
    { s with sys := y,
             fly := { f with sleeps := f.sleeps.filter fun e => e.2.f.ser != i.ser,
                             posts := f.posts.filter fun e => !(e.2.ser == i.ser &&
                                (match e.2.act with | .message .. => true | _ => false)) } }

/-! ### Saving a thread (R92, R218, R350) -/

/-- The addresses of the overflow list enter the table, in order, as entries free (R101). -/
def Clu.enlist (v : Clu) : List (Nat × Nat × Nat) → Clu
  | [] => v
  | (b, x, w) :: t =>
    if v.table.any fun e => e.blk == b && e.ctx == x then
      Clu.enlist { v with table := v.table.map fun e => if e.blk == b && e.ctx == x then { e with who := e.who ++ [w] } else e } t
    else if v.table.length < 256 then
      Clu.enlist { v with table := v.table ++ [{ blk := b, ctx := x, who := [w], age := 0, at63 := 0 }] } t
    else Clu.enlist { v with overflow := v.overflow ++ [(b, x, w)] } t

/-- Waiters that satisfy `p` (block, context, who) wait no more; an entry whose count falls to zero leaves the table (R101). -/
def Sys.unwait (y : Sys) (c : Nat) (p : Nat → Nat → Nat → Bool) : Sys :=
  y.modClu c fun v =>
    let t := (v.table.map fun e => { e with who := e.who.filter (!p e.blk e.ctx ·) }).filter fun e => !e.who.isEmpty
    let o := v.overflow.filter fun e => !p e.1 e.2.1 e.2.2
    Clu.enlist { v with table := t, overflow := [] } o

/-- LIVE of the block a thread will enter: the registers outside it read as zero after resume (R218). -/
def liveMask (y : Sys) (t : Thr) : BitVec 32 :=
  match (y.ctx t.ctx).kernel t.ident with
  | none => 0xFFFFFFFF
  | some k => ((k.live.find? fun e => e.1 == t.next).map Prod.snd).getD 0xFFFFFFFF

/-- The registers of a thread kept under LIVE of the block it will enter (R218). -/
def maskRegs (s : State) (c k : Nat) : State :=
  let m := liveMask s.sys (s.sys.thr c k)
  s.setRegs c k ((tabGet [] s.greg (tkey c k)).filter fun e => m.getLsbD e.1)

/-- The thread becomes SAVED before the block it will enter, its registers kept under LIVE. Where a trap is still to be delivered that block is the
handler, and LIVE is applied when it is known. -/
def saveThread (s : State) (c k : Nat) : State :=
  let t := s.sys.thr c k
  let late := t.late || t.pend.isSome || !t.deferred.isEmpty
  let s := if late then s else maskRegs s c k
  s.mapSys fun y => (y.unwait c fun _ x w => x == t.ctx && w == k).setThr c k { t with st := .saved, late := late }

/-! ### Barriers and groups (R114 to R128) -/

/-- `%gmem` names a group (R116). -/
def gmemHas (m : Word) (g : Nat) : Bool :=
  (List.range 4).any fun i => m.getLsbD (16 * i + 15) && fieldOf m (16 * i) 10 == g

/-- The groups that `%gmem` names. -/
def gmemGroups (m : Word) : List Nat :=
  (List.range 4).filterMap fun i => if m.getLsbD (16 * i + 15) then some (fieldOf m (16 * i) 10) else none

/-- JOIN fills the lowest slot whose VALID is 0 (R116). -/
def gmemJoin (m : Word) (g : Nat) : Word :=
  match (List.range 4).find? fun i => !m.getLsbD (16 * i + 15) with
  | some i => setField m (16 * i) 16 (0x8000 + g)
  | none => m

/-- LEAVE clears the slot that names the group (R116). -/
def gmemLeave (m : Word) (g : Nat) : Word :=
  match (List.range 4).find? fun i => m.getLsbD (16 * i + 15) && fieldOf m (16 * i) 10 == g with
  | some i => setField m (16 * i) 16 0
  | none => m

/-- The frames of a cluster whose threads are members of a group of a context, those included that leave it with the effects of a commit (R119). -/
def Sys.members (y : Sys) (c ctx g : Nat) : List Nat :=
  ((List.range Config.nFrames).filter fun k =>
    let t := y.thr c k
    t.st != .free && t.st != .reserved && t.ctx == ctx && gmemHas t.gmem g)
  ++ ((y.clu c).leaving.filter fun e => e.group == g && e.joins.isNone).map Leaving.frm

/-- A new GROUP phase begins (R125): E is LCOUNT, the early arrivals are its arrivals. With LCOUNT 0 it does not begin. -/
def beginGroup (y : Sys) (c : Nat) (b : Bar) : Bar :=
  let e := y.lc c b.group
  if e = 0 then { b with begun := false, expect := 0, members := [], arrived := 0, cur := [] }
  else
    { b with begun := true, expect := e, members := y.members c (y.ctxOf c) b.group, arrived := b.early, early := 0, cur := b.nxt,
             nxt := [], begins := y.now + 1 }

/-- ARRIVED equals E and E is not 0 (R125). -/
def Bar.full (b : Bar) : Bool := b.mode != .free && b.arrived == b.expect && b.expect != 0

/-- A phase ends (R125): SEQ counts it and a new phase begins. -/
def endPhase (y : Sys) (c : Nat) (b : Bar) : Bar :=
  match b.mode with
  | .group => beginGroup y c { b with seq := b.seq + 1, done := some y.now }
  | _ => { b with seq := b.seq + 1, arrived := 0, done := some y.now }

/-- A phase completes when it is full; one that began full does so in the cycle after it began (R125). -/
def completePhase (y : Sys) (c : Nat) (b : Bar) : Bar := if b.full && b.begins != y.now + 1 then endPhase y c b else b

def Sys.settleBar (y : Sys) (c b : Nat) : Sys := y.modBar c b (completePhase y c)

/-- A member leaves a group at a cluster while a phase runs (R121): one that has not arrived lowers E, and the phase completes if the arrivals
now equal E, an E of 0 too. -/
def barLeave (y : Sys) (c k : Nat) (b : Bar) : Bar :=
  if b.members.contains k && !b.cur.contains k then
    let b := { b with expect := b.expect - 1, members := b.members.filter (· != k) }
    if b.arrived = b.expect then endPhase y c b else b
  else b

/-- The barriers of a cluster bound to a group of the context. -/
def Sys.barsOf (y : Sys) (c g : Nat) : List Nat :=
  (List.range 256).filter fun b => (y.bar c b).mode == .group && (y.bar c b).group == g

/-- A thread's membership of a group ends at its cluster (R118, R119, R121). -/
def Sys.leaveLocal (y : Sys) (c k g : Nat) : Sys :=
  let y := y.modThr c k fun t => { t with gmem := gmemLeave t.gmem g }
  let y := y.setLc c g (y.lc c g - 1)
  (y.barsOf c g).foldl (fun y b => y.modBar c b (barLeave y c k)) y

/-- A thread's membership of a group begins at its cluster (R118). -/
def Sys.joinLocal (y : Sys) (c k g : Nat) : Sys :=
  let y := y.modThr c k fun t => { t with gmem := gmemJoin t.gmem g }
  y.setLc c g (y.lc c g + 1)

/-- In the next cycle the barriers bound to these groups release their waiters, complete again if they are full, and after a JOIN (`part` 3) begin a
phase that has not begun (R125, R126). -/
def wakeBars (y : Sys) (c part : Nat) (gs : List Nat) (f : Fly) : Fly :=
  (gs.flatMap fun g => y.barsOf c g).foldl (fun f b => f.event (y.now + 1) .barrierArrival { clu := c, id := b, part := part }) f

/-! ### Monitor samples (R367, R368) -/

/-- A unit is armed for samples of this event of this colour of a context. -/
def Mon.takes (m : Mon) (x colour event : Nat) : Bool := m.armed && m.event == event && m.ctx == x && (m.all || m.colour == colour)

/-- A sample is due, if some unit takes it. -/
def sampleMon (y : Sys) (x colour event v : Nat) (f : Fly) : Fly :=
  if y.mons.any fun e => e.2.takes x colour event then
    f.event y.now .monitorSample { ctx := x, col := colour, id := event, word := BitVec.ofNat 64 v }
  else f

/-! ### Retirement (R94, R119, R106) -/

/-- The staging thread of a pass that still runs or is suspended (R142, R351). -/
def Sys.stages (y : Sys) (c k : Nat) : Bool :=
  let r := y.ring (c / 8)
  (r.pass.toList ++ r.susp).any fun p => p.clu == c && p.frm == k

/-- A RETIRING kernel with no thread and no resident or loading block is discarded, its queues and exit ports with it (R86, R104). -/
def discardKernels (y : Sys) (x : Nat) : Sys :=
  let gone (k : Kernel) : Bool :=
    k.st == .retiring && y.thrs.all (fun e => e.2.st == .free || e.2.ctx != x || e.2.ident != k.ident)
      && y.frames.all (fun e => e.2.st == .empty || e.2.ctx != x || e.2.ident != k.ident)
  y.modCtx x fun v =>
    let ids := (v.kernels.filter gone).map Kernel.ident
    { v with kernels := v.kernels.filter (!gone ·), queues := v.queues.filter fun e => !ids.contains e.2.ident,
             ports := v.ports.filter fun e => !ids.contains e.2.ident }

/-- A token on the networks that is bound for a thread of a cluster. -/
def Work.ofThread (c k : Nat) (w : Work) : Bool :=
  match w.act with
  | .ev .tokenArrival e => e.part < 6 && e.clu == c && e.tok.frame == k
  | _ => false

/-- A control signal goes over the control network to the control entries of region 8 of its own cluster (R13, R29); it is acted on within
the 16 cycles of R29, in the cycle it takes its entry. -/
def signal (s : State) (c : Nat) (t : Ctrl) : State :=
  let g := s.sys.region c 8
  if g.ctrl.length < Config.ctrlEntries then
    (s.mapSys fun y => y.setRegion c 8 { g with ctrl := g.ctrl ++ [t] }).sched s.sys.now .controlTokenDelivery { clu := c, reg := 8 }
  else s.mapSys fun y => y.setRegion c 8 { g with ctrlWait := g.ctrlWait ++ [(t, none)] }

/-- The block scheduler of a cluster sends a kernel's completion token once the kernel is RETIRING and no thread of it is left at the cluster
(R175); `y0` is the state before its last thread retired. -/
def completionSend (y0 : Sys) (s : State) (c x ident : Nat) : State :=
  if ((y0.ctx x).kernel ident).any (·.st == .retiring)
      && (s.sys.thrs.all fun e => e.1 / 1024 != c || e.2.st == .free || e.2.ctx != x || e.2.ident != ident)
  then signal s c (.kernelDone x ident) else s

/-- The released accesses of a thread that are not acknowledged. -/
def Fly.unackedOf (f : Fly) (c k serial : Nat) : List Nat :=
  (f.accs.filter fun e => e.2.clu == c && e.2.frm == k && e.2.owner == serial && e.2.released && e.2.st != .retired).map Prod.fst

/-- A thread that retires leaves its groups; the changes of TOTAL follow its released stores (R118, R119; log entry 34). -/
def leaveGroups (s : State) (c k : Nat) : State :=
  let t := s.sys.thr c k
  let gs := gmemGroups t.gmem
  let y := gs.foldl (fun (y : Sys) g => y.leaveLocal c k g) s.sys
  let waits := s.fly.unackedOf c k t.serial
  let f := gs.foldl (fun (f : Fly) g =>
    let (id, f) := f.fresh
    let f := f.setPost id { ctx := t.ctx, ident := t.ident, clu := c, frm := k, colour := t.colour, ser := 0, owner := t.serial, waits := waits,
                            ready := waits.isEmpty, act := .group g 0 false }
    if waits.isEmpty then f.event (y.now + 1) .groupTotalUpdate { id := id } else f) s.fly
  { s with sys := y, fly := wakeBars y c 1 gs f }

/-- The frame of a thread is freed: tokens that wait for it are dropped, its groups are left, RETIRED of its queue counts it; a task's slot is
free and its entry DONE (R141). A staging thread leaves its groups, and keeps its frame until its pass ends (R142). The changes of TOTAL
perform in the next cycle, or once its stores are acknowledged (log entry 92, DEDUCED). -/
def retireThread (s : State) (c k : Nat) : State :=
  let s := leaveGroups s c k
  let t := s.sys.thr c k
  if s.sys.stages c k then s.mapSys fun y => y.setThr c k { t with held := true, st := .waiting, pend := none }
  else
    let y0 := s.sys
    let y := y0.dropTokens c fun e => e.tok.frame == k
    let y := match t.queue with
      | none => y
      | some q => y.modCtx t.ctx fun v => { v with queues := v.queues.map fun (e : Nat × Queue) =>
          if e.1 = q then (e.1, { e.2 with retired := e.2.retired + 1, live := e.2.live - 1, back := if e.2.live = 1 then y.now + 1 else e.2.back })
          else e }
    let y := match t.task with
      | none => y
      | some n => (y.modMent c (y.tslot c n).entry fun e => { e with st := .done }).setTslot c n TSlot.reset
    let y := if Config.nQueueFrames ≤ y.thrs.length && (s.lowestFree c).isNone then y.modClu c fun v => { v with framed := y.now + 1 } else y
    let y := y.setThr c k Thr.reset
    let y := y.frames.foldl (fun (y : Sys) (e : Nat × BFrame) =>
      if e.2.st == .resident && e.2.ctx == t.ctx && ((y.ctx t.ctx).kernel t.ident).any (·.st == .retiring)
          && (y.thrs.all fun (h : Nat × Thr) => h.2.st == .free || h.2.ctx != t.ctx || h.2.ident != t.ident) && e.2.ident == t.ident
      then { y with frames := tabSet BFrame.reset y.frames e.1 BFrame.reset } else y) y
    let y := discardKernels y t.ctx
    let s := { s with sys := y, greg := tabSet [] s.greg (tkey c k) [] }
    let s := s.mapFly fun f => { f with agenda := f.agenda.filter (!Work.ofThread c k ·) }
    let s := { s with fly := wakeCluster y0 s.sys c s.fly }
    completionSend y0 (if t.task.isSome then signal s c .stopDone else s) c t.ctx t.ident

/-- A thread ends: it retires, a task thread once the stores that it released are acknowledged (R133, R141). -/
def endThread (s : State) (c k : Nat) : State :=
  let t := s.sys.thr c k
  let waits := s.fly.unackedOf c k t.serial
  match (if s.sys.stages c k || waits.isEmpty then none else t.task) with
  | none => retireThread s c k
  | some n =>
    let (id, f) := s.fly.fresh
    let f := f.setPost id { ctx := t.ctx, ident := t.ident, clu := c, frm := k, colour := t.colour, ser := 0, owner := t.serial, waits := waits,
                            ready := false, act := .taskDone n }
    { s with sys := s.sys.setThr c k { t with pend := none }, fly := f }

/-! ### The watchdog (R84, R85) -/

/-- The watchdog of a context counts: RUNNING, no thread of it held by a debugger (one held thread stops the context's count, log entry 79, DESIGN CHOICE),
the device in P0 or P1 (R85). -/
def Sys.counting (y : Sys) (x : Nat) : Bool :=
  (y.ctx x).st == .running && fieldOf y.pstate 0 3 < 2 && y.thrs.all fun e => e.2.st == .free || e.2.ctx != x || e.2.halt != 2

/-- Counted cycles of a context now. -/
def Sys.counted (y : Sys) (x : Nat) : Nat :=
  let v := y.ctx x
  v.wcount * 1024 + v.wrem + if y.counting x then y.now - v.wsince else 0

/-- The cycles counted so far are written into COUNT and its hidden remainder; counting goes on from now. COUNT saturates (R84). -/
def Sys.wsync (y : Sys) (x : Nat) : Sys :=
  let n := y.counted x
  y.modCtx x fun v => { v with wcount := min (n / 1024) (2 ^ 31 - 1), wrem := n % 1024, wsince := y.now }

/-- The expiry of a context's watchdog, if it runs on as it stands. -/
def armWatchdog (y : Sys) (x : Nat) (f : Fly) : Fly :=
  let v := y.ctx x
  if v.wlimit ≠ 0 ∧ y.counting x then
    f.event (max (y.now + 1) (y.now + v.wlimit * 1024 - y.counted x)) .watchdogExpiry { ctx := x }
  else f

/-! ### Context faults (R76, R80) -/

/-- The management core is interrupted: what happened, in which cluster and frame, and the cause in `%tcause` as the thread set it, since a thread
that retires is read no more (R76, R80). -/
def interrupt (s : State) (x fcause c k : Nat) : State :=
  s.mapSys fun y => { y with irqs := y.irqs ++ [(x, fcause, tkey c k, if fcause = 1 then 0 else (y.thr c k).tcause)] }

/-- Transfers of a context that are saved WITHHELD stand at a 64-byte boundary (R350). -/
def Sys.roundXfers (y : Sys) (x : Nat) (p : Nat → Bool) : Sys :=
  { y with xfers := y.xfers.map fun e =>
      if e.2.ctx == x && e.2.st == .withheld && p e.2.colour then (e.1, { e.2 with moved := e.2.moved / 64 * 64 }) else e }

/-- The transfers of a context that are not DONE stop, and are saved WITHHELD (R80, R350). -/
def haltXfers (s : State) (x : Nat) : State :=
  let s := s.mapSys fun y => y.roundXfers x fun _ => true
  (s.sys.xfers.filter fun e => e.2.ctx == x && (e.2.st == .queued || e.2.st == .moving)).foldl (fun s e =>
    s.sched s.sys.now .transferWithhold { clu := e.1 / 32, id := e.1 % 32, col := e.2.gen.toNat, part := 1 }) s

/-- A commit of the thread is decided, and the thread has not gone on from it (R96). -/
def State.leaving (s : State) (c k : Nat) : Bool :=
  (tabFind s.fly.commits (tkey c k)).isSome || s.fly.due fun i e => i == .commit && e.part == 1 && e.clu == c && e.frm == k

/-- A fault event of R80: a RUNNING context other than 0 becomes FAULTED, its queues hold, its live instances are aborted, its state is
saved as for a drain, and the management core is interrupted; in a context that is not RUNNING it is no event. A thread whose commit is decided is
saved when the commit has taken effect. In context 0 the thread retires (R76). -/
def contextFault (s : State) (x fcause c k : Nat) : State :=
  let s := s.mapSys fun y => y.wsync x
  let v := s.sys.ctx x
  let s := if x = 0 ∨ v.st = .running then interrupt s x fcause c k else s
  if x = 0 then
    let s := s.mapSys fun y => y.setCtx 0 { v with fcause := fcause }
    if fcause = 1 then s.mapSys fun y => y.modCtx 0 fun v => { v with wcount := 0, wrem := 0 }
    else endThread (abortInst s c k) c k
  else if v.st = .running then
    let s := s.mapSys fun y => y.setCtx x { v with st := .faulted, fcause := fcause, queues := v.queues.map fun e =>
      (e.1, { e.2 with st := .suspended }) }
    let ks := (s.sys.thrs.filter fun e => e.2.ctx == x && (e.2.st == .active || e.2.st == .waiting)
      && !s.leaving (e.1 / 1024) (e.1 % 1024)).map Prod.fst
    ks.foldl (fun s n =>
      let i := s.fly.inst (n / 1024) (n % 1024)
      let s := abortInst s (n / 1024) (n % 1024)
      let s := match i with
        | some i => s.mapSys fun y => y.modThr (n / 1024) (n % 1024) fun t => { t with next := i.blk }
        | none => s
      saveThread s (n / 1024) (n % 1024)) (haltXfers s x)
  else s

/-- An uncorrectable memory error of an access that thread `owner` of frame `k` issued (R76, R80, R357): in context 0 the thread retires, if it still
is in its frame. -/
def memFault (s : State) (x c k owner : Nat) : State :=
  if x ≠ 0 ∨ (s.sys.thr c k).serial = owner then contextFault s x 4 c k
  else (interrupt s 0 4 c k).mapSys fun y => y.modCtx 0 fun v => { v with fcause := 4 }

/-! ### Taking a trap (R343 to R346, R395) -/

/-- `%tcause` (R344): INDEX, which is 0 for a trap taken at a block entry, DEFER, CONT, CAUSE. -/
def tcauseWord (t : TrapRec) (defer : Bool) : Word :=
  BitVec.ofNat 64 ((if defer then 64 else t.index * 128) + (if t.contained then 32 else 0) + t.cause)

/-- The trap registers as a trap sets them: cause, information, address, and the block the trap names (R343, R344). -/
def Thr.trapped (t : Thr) (r : TrapRec) (blk : Nat) (defer : Bool) : Thr :=
  { t with tcause := tcauseWord r defer, tinfo := r.info, tva := BitVec.ofNat 64 (r.va % 2 ^ 52), tblk := BitVec.ofNat 64 (blk % 2 ^ 52) }

/-- The region whose port reads the vector entry: that of the block which the trap names, region 0 where the block is not resident (log entry 32,
DEDUCED). -/
def trapPort (y : Sys) (c x blk : Nat) : Nat :=
  match y.residentAt c x blk with
  | some (r, _) => r
  | none => 0

/-- TAKING A TRAP, the one shared operation: in the next cycle the thread's four trap registers are set (`trapRegs`), and from then on the vector entry is
read and the handler entered at c+24 (R395, HANDLER_ENTRY). `blk` is the block `%tblk` names; the instance is aborted before, by `deliverTrap`. -/
def takeTrap (s : State) (c k : Nat) (r : TrapRec) (blk : Nat) (defer : Bool) : State :=
  let t := s.sys.thr c k
  let s := s.mapSys fun y => y.setThr c k { t with st := .active, pend := some ({ r with defer := defer }, blk) }
  s.sched (s.sys.now + 1) .handlerEntry { clu := c, frm := k, part := 5 }

/-- The trap of thread `k` a cycle after it was raised (R346, R395): the four trap registers are written; a thread already in a handler faults its
context with FCAUSE 3 (R80), and stays in the handler (R347); otherwise the read of the vector entry goes through the port tile of the thread's region to its home slice, where it performs at c+15. -/
def trapRegs (s : State) (c k : Nat) : State :=
  let t := s.sys.thr c k
  match t.pend with
  | none => s
  | some (r, blk) =>
    let t' := t.trapped r blk r.defer
    if t.handler then contextFault (s.mapSys fun y => y.setThr c k { t' with pend := none }) t.ctx 3 c k
    else (s.mapSys fun y => y.setThr c k t').sched (s.sys.now + 14) .handlerEntry { clu := c, frm := k, reg := trapPort s.sys c t.ctx blk }

/-- The tag word of an instance, where no one token is at fault (R23, R32). -/
def bareTag (colour frame index clu reg : Nat) : Word :=
  BitVec.ofNat 64 (colour * 2 ^ 52 + frame * 2 ^ 42 + index * 2 ^ 32 + clu * 2 ^ 17 + reg * 2 ^ 13)

/-- Of two traps of one cycle the one of the lower instruction index wins, then that of the lower INDEX (R345). -/
def trapBefore (a b : Nat × TrapRec) : Bool := a.1 < b.1 || (a.1 == b.1 && a.2.index < b.2.index)

/-- A trap raised in a live instance under instruction index `idx` (R345; 127 a PAGE of R45, 128 STALL, 129 LAP): of those of one cycle one counts, and
it is delivered when the cycle's firings are done. -/
def raiseTrap (s : State) (c k idx : Nat) (r : TrapRec) : State :=
  match s.fly.inst c k with
  | none => s
  | some i =>
    let put (f : Fly) : Fly := f.setInst c k { i with trap := some (idx, r) }
    match i.trap with
    | none => s.mapFly fun f => (put f).event s.sys.now .handlerEntry { clu := c, frm := k, id := i.ser, part := 4 }
    | some q => if trapBefore (idx, r) q then s.mapFly put else s

/-- The trap of a live instance is delivered (R345): the instance, or the whole iterated entry, is aborted; a contained fault is counted and
logged, and its tag enters the abort record (R32). -/
def deliverTrap (s : State) (c k : Nat) (i : Inst) (r : TrapRec) : State :=
  let s := abortInst s c k
  let s := if r.contained then
      s.mapSys fun y =>
        let y := y.countFault c i.colour
        let y := y.modClu c fun v => { v with faultLog := v.faultLog ++
          [(if r.tag = 0 then bareTag i.colour k r.index c i.reg else r.tag, r.cause, y.now)] }
        y.modThr c k fun t => { t with aborted := (i.blk, r.index) :: t.aborted }
    else s
  takeTrap s c k r i.blk false

/-- A misuse trap (R343): cause, code in `%tinfo`[7:0]. -/
def misuse (cause code index : Nat) : TrapRec :=
  { cause := cause, contained := false, index := index, info := BitVec.ofNat 64 code, va := 0 }

/-! ### Entering a block (R92, R99, R101) -/

/-- The instructions of a block with no expected position: they fire once for each entry, under index 0 (R197). -/
def BFrame.sources (f : BFrame) : List Nat := (List.range f.icount).filter fun i => f.expect.getD i 0 == 0

/-- A thread enters a resident block: a new instance is live, %stall counts from now (R98), instructions without operands fire (R197). -/
def enterBlock (s : State) (c k r b : Nat) : State :=
  let t := s.sys.thr c k
  let f := s.sys.frame c r b
  let raw := fieldOf (s.reg c k f.itreg) 0 11
  let (ser, fl) := s.fly.fresh
  let now := s.sys.now
  let i : Inst := { ser := ser, blk := f.blk, reg := r, frm := b, start := now, asleep := 0, n := if f.iterated then raw else 1,
                    iter := f.iterated, ctx := t.ctx, ident := t.ident, colour := t.colour, exit := none, writes := [],
                    answers := [], emits := [], effs := [], opens := [], lanes := [], spawns := [], tiles := [], combs := [],
                    copies := [], seq0 := none, committing := false, sending := false, sends := 0 }
  let y := (s.sys.setThr c k { t with st := .active, aborted := t.aborted.filter (·.1 != f.blk) }).setFrame c r b { f with entered := now }
  let s := { s with fly := fl, sys := y }
  if f.iterated && (raw == 0 || raw > 1024) then
    takeTrap s c k { cause := 1, contained := false, index := 0, info := BitVec.ofNat 64 (8 + raw * 256), va := 0 } f.blk true
  else
    let fl := (s.fly.setInst c k i).event (now + (s.sys.ctx t.ctx).stall.toNat) .stallExpiry { clu := c, frm := k, id := ser }
    let fl := f.sources.foldl (fun (fl : Fly) n => fl.sched now (.fire
      { clu := c, reg := r, frm := b, idx := n, colour := t.colour, frame := k, index := 0, ser := ser, left := none, right := none,
        pred := none, since := now })) fl
    -- tokens that wait in the block's store under this tag may complete an instruction now (R27, R394)
    let fl := if ((s.sys.region c r).entries ++ (s.sys.region c r).holds ++ (s.sys.region c r).arrived).any (·.tok.frame == k)
      then fl.event now .holdQueueAdmit { clu := c, reg := r } else fl
    { s with fly := fl }

/-- `who` waits for a block that is not resident: it is counted in the block's entry of the waiting table, or stands on the overflow list when
the table is full (R101), and a reload decision follows (R102). -/
def waitBlock (s : State) (c ctx blk who : Nat) : State :=
  let s := s.mapSys fun y => y.modClu c fun v =>
    match v.table.find? fun w => w.blk == blk && w.ctx == ctx with
    | some _ => { v with table := v.table.map fun w => if w.blk == blk && w.ctx == ctx then { w with who := w.who ++ [who] } else w }
    | none =>
      if v.table.length < 256 then { v with table := v.table ++ [{ blk := blk, ctx := ctx, who := [who], age := 0, at63 := 0 }] }
      else { v with overflow := v.overflow ++ [(blk, ctx, who)] }
  s.sched s.sys.now .reloadDecision { clu := c }

/-- A thread's next event is the entry to its block (R92): block address 0 retires it, as an exit's does (R88), where a create record names it too (log
entry 79, DESIGN CHOICE); a deferred trap is taken first (R345); an
address that is no block of its kernel, or an invalid block, takes ILLOP (R88, R87); a drained or suspended thread is SAVED (R349); a thread
that a debugger halts is held (R218). -/
def enterNext (s : State) (c k : Nat) : State :=
  let t := s.sys.thr c k
  let s := s.mapSys fun y => y.setThr c k { t with st := .waiting, baraw := none }
  if s.sys.draining c t || (s.sys.ctx t.ctx).st != .running then saveThread s c k
  else if t.halt ≠ 0 then s.mapSys fun y => (y.wsync t.ctx).setThr c k
    { t with st := .waiting, baraw := none, halt := 2, haltIdx := if t.halt = 2 then t.haltIdx else 0 }
  else if t.next = 0 then endThread s c k
  else
    match t.deferred with
    | r :: rest => takeTrap (s.mapSys fun y => y.modThr c k fun t => { t with deferred := rest, told := r.ser }) c k r t.next true
    | [] =>
      match ((s.sys.ctx t.ctx).kernel t.ident).bind fun q => q.blocks.find? fun b => b.addr == t.next with
      | none => takeTrap s c k (misuse 1 0x09 0) t.next true
      | some b =>
        match b.bad with
        | some info => takeTrap s c k { cause := 1, contained := false, index := 0, info := info, va := 0 } t.next true
        | none =>
          match s.sys.residentAt c t.ctx t.next with
          | some (r, n) => enterBlock s c k r n
          | none => waitBlock s c t.ctx t.next k

/-- A thread goes on after a commit, a wait in BARAW or a resume: to its next block, or to the handler of a trap that stands and is not yet
delivered (R327, R345). SOFT is taken in place of the entry; any other trap keeps its DEFER. -/
def proceed (s : State) (c k : Nat) : State :=
  let t := s.sys.thr c k
  match t.pend with
  | none => enterNext s c k
  | some (r, blk) =>
    if s.sys.draining c t || (s.sys.ctx t.ctx).st != .running then saveThread s c k
    else takeTrap s c k r blk r.defer

/-- The wait of a thread in BARAW is over (R126, R127): its phase has completed, or the barrier is no longer its colour's. -/
def barDone (b : Bar) (colour : Nat) (q : Option (BitVec 16)) : Bool :=
  match q with
  | none => false
  | some q => (b.seq != q && (b.seq - q).toNat < 2 ^ 15) || b.mode == .free || b.colour != colour

/-- Threads that wait in BARAW for a phase that has completed enter their next block (R126). -/
def releaseWaiters (s : State) (c : Nat) : State :=
  let ks := (s.sys.thrs.filter fun e => e.1 / 1024 == c && e.2.st == .waiting &&
    (match e.2.baraw with
     | some (b, q) => barDone (s.sys.bar c b) e.2.colour q
     | none => false)).map Prod.fst
  ks.foldl (fun s n => proceed (s.mapSys fun y => y.modThr c (n % 1024) fun t => { t with baraw := none }) c (n % 1024)) s

/-! ### Deferred traps (R345) -/

/-- A trap of the instance `ser` (none: of no instance) that is taken at the thread's next block entry. Of one instance one trap is delivered, the
first (R345). -/
def deferTrap (s : State) (c k : Nat) (ser : Option Nat) (r : TrapRec) : State :=
  s.mapSys fun y => y.modThr c k fun t =>
    if t.st = .free || (ser.isSome && (t.told == ser || t.deferred.any (·.ser == ser))) then t
    else { t with deferred := t.deferred ++ [{ r with ser := ser }] }

end Sys2Proof.Machine
end

