-- ==== Sys2Proof/Machine/Operands.lean ====
section
/-!
DEFINITION. What every firing shares: the elements of its tokens, the checks of format tags with auto-convert (R31), predicates (R28,
R223), the tokens it yields and where they go, and the three ways a firing ends.
-/
namespace Sys2Proof

/-! ### Elements (R24) -/

/-- Element `e` of a token, at its width; the bits above are ignored (R24). -/
def Token.elem (t : Token) (e : Nat) : Word :=
  let w := t.fmt.width
  BitVec.ofNat 64 ((t.data.toNat / 2 ^ (e * w)) % 2 ^ w)

/-- How many elements a token holds. -/
def Token.n (t : Token) : Nat := t.len + 1

def Token.elems (t : Token) : List Word := (List.range t.n).map t.elem

/-- The data field of a vector token with the elements `xs` (R24). -/
def packElems (w : Nat) : List Word → Nat
  | [] => 0
  | x :: xs => x.toNat % 2 ^ w + 2 ^ w * packElems w xs

/-- The bits of a scalar token's data (R24): I32 is sign-extended, other narrow formats are followed by zeros. -/
def scalarData (f : Fmt) (x : Word) : Word :=
  match f with
  | .i32 => (x.extractLsb' 0 32).signExtend 64
  | f => BitVec.ofNat 64 (x.toNat % 2 ^ f.width)

/-- The scalar value of a token's 64 data bits. -/
def Token.word (t : Token) : Word := t.data.extractLsb' 0 64

/-- A scalar token. -/
def scalarTok (colour frame index : Nat) (f : Fmt) (x : Word) : Token :=
  { colour := colour, frame := frame, index := index, len := 0, fmt := f, vec := false, data := (scalarData f x).setWidth 1024 }

/-- A vector token. -/
def vecTok (colour frame index : Nat) (f : Fmt) (xs : List Word) : Token :=
  { colour := colour, frame := frame, index := index, len := xs.length - 1, fmt := f, vec := true,
    data := BitVec.ofNat 1024 (packElems f.width xs) }

/-- The part of a token from element `lo`, `n` elements long (R34: base, length and data are cut to match). -/
def Token.cut (t : Token) (lo n : Nat) : Token :=
  if t.vec then { t with index := t.index + lo, len := n - 1,
                         data := BitVec.ofNat 1024 ((t.data.toNat / 2 ^ (lo * t.fmt.width)) % 2 ^ (n * t.fmt.width)) }
  else t

/-- The elements `xs` in pieces of at most `w`. -/
def chunks (w : Nat) (xs : List Word) : Nat → List (List Word)
  | 0 => []
  | k + 1 => if xs.isEmpty then [] else xs.take w :: chunks w (xs.drop w) k

/-- A run emitted as successive tokens within the limits of R24 and R25. Elements that would lie beyond index 1,023 are not produced, as R260
has it for VSPL (log entry 71, DEDUCED). -/
def runToks (colour frame index : Nat) (f : Fmt) (xs : List Word) : List Token :=
  let xs := xs.take (1024 - index)
  ((chunks f.maxRun xs xs.length).zipIdx).map fun (c, i) => vecTok colour frame (index + i * f.maxRun) f c

/-- Maximal runs of consecutive elements that fired, with their indices (R223). -/
def groupRuns {α : Type} : Nat → List (Option α) → List (Nat × List α)
  | _, [] => []
  | b, none :: t => groupRuns (b + 1) t
  | b, some x :: t =>
    match groupRuns (b + 1) t with
    | (b', xs) :: r => if b' = b + 1 then (b, x :: xs) :: r else (b, [x]) :: (b', xs) :: r
    | [] => [(b, [x])]

/-- Data that is yielded as it was kept, with its format and length: a run within the limits of R25, or a scalar. -/
def dataToks (colour frame index : Nat) (f : Fmt) (len : Nat) (vec : Bool) (data : BitVec 1024) : List Token :=
  let t : Token := { colour := colour, frame := frame, index := index, len := len, fmt := f, vec := vec, data := data }
  if vec then runToks colour frame index f t.elems else [t]

/-- The targets of format G. -/
def GWord.targets (x : GWord) : List Target := [x.t0, x.t1]

/-- The format that an instruction of type `ty` computes in (R31). -/
def Fmt.compute (ty : Fmt) : Fmt := if ty.narrow then .f32 else ty

namespace Machine

/-! ### How a firing ends -/

/-- A firing yields what it puts in flight, waits for something a later cycle brings, or raises a trap. -/
inductive FireRes where
  | ok (f : Fly)
  | wait
  | trap (r : TrapRec)
deriving DecidableEq, Repr, Inhabited

/-- The firing that waits is offered again in the next cycle, and the later ones of its instruction keep their place behind it (R30, R70). -/
def waitFiring (now : Nat) (c : Firing) (f : Fly) : Fly :=
  let same (w : Work) : Bool := match w.act with
    | .fire g => g.clu == c.clu && g.frame == c.frame && g.idx == c.idx && g.reg == c.reg && g.frm == c.frm
    | _ => false
  (f.agenda.filter same).foldl (fun f w => f.sched (w.due + 1) w.act) ({ f with agenda := f.agenda.filter (!same ·) }.sched (now + 1) (.fire c))

/-- The end of a firing: nothing but what is in flight changes, unless it raises a trap. A firing that waits is offered again in the
next cycle. -/
def finish (s : State) : FireRes → Host.Outcome State Fault Refusal
  | .ok f => .next { s with fly := f }
  | .wait => .next { s with fly := waitFiring s.sys.now s.fly.cur s.fly }
  | .trap r => .next (raiseTrap s s.fly.cur.clu s.fly.cur.frame s.fly.cur.idx r)

/-! ### The firing and its instance -/

/-- The tokens a firing consumed. -/
def Firing.toks (c : Firing) : List Token := c.left.toList ++ c.right.toList ++ c.pred.toList

/-- A firing that consumes any vector token is a vector firing (R223). -/
def Firing.vec (c : Firing) : Bool := c.toks.any (·.vec)

/-- How many elements a firing has. -/
def Firing.n (c : Firing) : Nat := ((c.toks.map Token.n).foldl max 1)

/-- The cycles a vector firing adds to its figure (R224, R250): ⌈(LEN + 1)/4⌉ − 1. -/
def Firing.extra (c : Firing) : Nat := if c.vec then (c.n + 3) / 4 - 1 else 0

def State.inst? (s : State) : Option Inst := s.fly.inst s.fly.cur.clu s.fly.cur.frame

/-- The instance that the firing belongs to (the step fires only in a live one). -/
def State.inst (s : State) : Inst := s.inst?.getD (default : Inst)

def State.thread (s : State) : Thr := s.sys.thr s.fly.cur.clu s.fly.cur.frame

/-- Privileged code: a thread of context 0 (R74). -/
def State.privileged (s : State) : Bool := s.thread.ctx == 0

/-- The block frame that fires. -/
def State.block (s : State) : BFrame := s.sys.frame s.fly.cur.clu s.fly.cur.reg s.fly.cur.frm

/-- Register `n` as the firing's thread finds it: commits write registers only after the instance, so this is the value at entry (R226). -/
def State.g (s : State) (n : Nat) : Word := s.reg s.fly.cur.clu s.fly.cur.frame n

/-- ILLOP with a misuse code (R343). -/
def Firing.illop (c : Firing) (code : Nat) : TrapRec := misuse 1 code c.index

/-- The position at which a firing consumed a token. -/
def Firing.posOf (c : Firing) (t : Token) : Pos := if c.left = some t then .left else if c.right = some t then .right else .pred

/-- The tag word of a token that a firing consumed (R23). -/
def Firing.tagOf (c : Firing) (t : Token) : Word :=
  tagWord { clu := c.clu, reg := c.reg, frm := c.frm, idx := c.idx, pos := c.posOf t } t

/-- A contained fault (R32, R343); its tag word is that of `t`, else of the first token consumed, else the instance's (log entry 69, DEDUCED). -/
def Firing.contained (c : Firing) (cause : Nat) (info : Nat) (t : Option Token) : TrapRec :=
  { cause := cause, contained := true, index := c.index, info := BitVec.ofNat 64 info, va := 0,
    tag := (((t.toList ++ c.toks).head?).map c.tagOf).getD 0 }

/-- FORMAT: the token's FMT, TYPE and the instruction index (R343). -/
def Firing.format (c : Firing) (t : Token) (ty : Fmt) : TrapRec :=
  c.contained 6 (t.fmt.code.toNat + ty.code.toNat * 8 + c.idx * 64) (some t)

/-- OWNER: the instruction index (R343). -/
def Firing.owner (c : Firing) : TrapRec := c.contained 8 c.idx Option.none

/-- PRIV for an instruction (R343). -/
def Firing.priv (c : Firing) : TrapRec := misuse 15 0xFFF c.index

/-! ### Format tags and auto-convert (R31) -/

/-- The conversion of an element to F32; a NaN becomes canonical (R49, R52). -/
def asF32 (f : Fmt) (x : Word) : Word := BitVec.ofNat 64 (fp32.encode .rn (f.value x.toNat))

/-- The exact decode of an element of the instruction's own narrow type to F32 at operand fetch (R31): B16 is bits [31:16] of an F32 (R49), so a NaN's
payload passes. -/
def toF32 (f : Fmt) (x : Word) : Word :=
  match f with
  | .b16 => x <<< 16
  | f => asF32 f x

/-- The conversion of an element to F64, exact; a NaN becomes canonical (R49, R52). -/
def toF64 (f : Fmt) (x : Word) : Word := BitVec.ofNat 64 (fp64.encode .rn (f.value x.toNat))

/-- The encoding of a F32 value in a narrow type, to nearest. -/
def ofF32 (ty : Fmt) (x : Word) : Word :=
  let v := fp32.decode x.toNat
  BitVec.ofNat 64 (match ty with
    | .b16 => fpB16.encode .rn v
    | .t8 => t8enc v
    | .t6 => t6enc v
    | _ => x.toNat)

/-- The conversion of one element from a token's format `f` to an instruction's type `ty`; `none` is the FORMAT fault. A narrow type
decodes to F32; an instruction that moves encodings (`mover`, R222, R247) takes its own type as it is, and has a converted operand of
another narrow type or F32 encoded to nearest (log entry 6, DEDUCED). -/
def convert (mover : Bool) (ty : Fmt) (ac : Bool) (f : Fmt) : Option (Word → Word) :=
  if f = ty then some (if ty.narrow && !mover then toF32 f else id)
  else if !ac then none
  else
    match ty, f with
    | .f32, .b16 | .f32, .t8 | .f32, .t6 | .f32, .f64 => some (asF32 f)
    | .f64, .b16 | .f64, .t8 | .f64, .t6 | .f64, .f32 => some (toF64 f)
    | .b16, .f32 | .t8, .f32 | .t6, .f32 => some (if mover then ofF32 ty else id)
    | .b16, .t8 | .b16, .t6 | .t8, .b16 | .t8, .t6 | .t6, .b16 | .t6, .t8 =>
      some (if mover then fun x => ofF32 ty (asF32 f x) else asF32 f)
    | .x64, .i32 => some fun x => (x.extractLsb' 0 32).signExtend 64
    | _, _ => none

/-- The types that `.ac` converts the left and the right operand of an instruction to: TYPE, but for the positions whose FMT is their own
(R222, R247, R276, R289, R292, R296, R321 to R325) and for addresses, which are X64 (R196); none without `.ac`. -/
def Instr.acTypes (i : Instr) : Option Fmt × Option Fmt :=
  match i.head with
  | none => (none, none)
  | some h =>
    if !h.ac then (none, none)
    else match i with
      | .ldih _ | .exiti _ | .call _ | .rdid _ | .cvtif _ | .pstat _ | .zcvt _ | .tld _ | .sunpin _ | .snew _ | .sidx _ | .slen _ | .snext _
      | .sfree _ | .fpop _ | .bara _ | .baraw _ | .comb _ | .mfs _ | .nop _ => (none, none)
      | .ffma _ | .ffms _ | .fscl _ | .bfq _ | .vperm _ | .vcmpr _ | .rstat _ | .rscl _ => (some h.ty, none)
      | .vcat x => if x.imm = 0 then (some h.ty, some h.ty) else (none, none)
      | .msend _ => (none, some h.ty)
      | .tstage _ | .spin _ | .splice _ | .pref _ | .fence _ | .fencea _ | .copy _ | .copyt _ => (some .x64, none)
      | .ld _ | .st _ | .ldv _ | .stv _ | .ldg _ | .stsc _ | .lde _ | .stf _ | .clrf _ | .aadd _ | .amin _ | .amax _ | .aminn _ | .amaxn _
      | .aand _ | .aor _ | .axor _ | .aswp _ | .acas _ | .afadd _ => (some .x64, some h.ty)
      | _ => (some h.ty, some h.ty)

/-- A firing takes one extra cycle when an operand is converted to the type `ty` of its position (R30, R31); the decode of a narrow type's own
format is free. -/
def converts (ty : Option Fmt) (t : Option Token) : Bool :=
  match ty, t with
  | some ty, some t => t.fmt != ty && (convert false ty true t.fmt).isSome
  | _, _ => false

/-- The elements of the operand at a position, checked against TYPE and converted (R31). -/
def operand (c : Firing) (h : Head) (mover : Bool) : Option Token → Except TrapRec (List Word)
  | none => .ok []
  | some t =>
    match convert mover h.ty h.ac t.fmt with
    | some g => .ok (t.elems.map g)
    | none => .error (c.format t h.ty)

/-- The elements of an operand whose FMT must be one of `fs`, whatever TYPE and `.ac` (the last columns of R222 and R247). -/
def operandOf (c : Firing) (h : Head) (fs : List Fmt) : Option Token → Except TrapRec (List Word)
  | none => .ok []
  | some t => if fs.contains t.fmt then .ok t.elems else .error (c.format t h.ty)

/-- An operand that must be scalar (R223, R249): a vector token there is a FORMAT fault. -/
def scalarOnly (c : Firing) (h : Head) : Option Token → Except TrapRec Unit
  | none => .ok ()
  | some t => if t.vec then .error (c.format t h.ty) else .ok ()

/-- Which elements fire (R28, R223): all of them without predication; else those whose predicate bit matches. -/
def firedMask (c : Firing) (h : Head) : Except TrapRec (List Bool) :=
  match h.pred, c.pred with
  | .always, _ => .ok (List.replicate c.n true)
  | _, none => .ok (List.replicate c.n true)
  | p, some t =>
    if t.fmt != .prd then .error (c.format t h.ty)
    else .ok (t.elems.map fun x => (x.getLsbD 0) == (p == .onTrue))

/-! ### What a firing yields -/

/-- The distance in switch boxes from an instruction to a position (R30, R182): at least one. -/
def distance (i j : Nat) : Nat := max 1 (if peCol i ≤ peCol j then peCol j - peCol i else peCol i - peCol j)

/-- A token to the commit unit: `part` 1 a register's write (`col`), 2 an exit, 3 an LSID answered by NULL, 4 an EMIT answered,
5 a register answered by NULL; it arrives at `at`. -/
def toCommit (c : Firing) (at_ : Nat) (part col : Nat) (t : Token) (f : Fly) : Fly :=
  f.event at_ .tokenArrival
    { clu := c.clu, reg := c.reg, frm := c.frm, part := part, col := col, id := c.idx, ent := some c.ser, tok := t, net := t.net }

/-- A token sent to a target: it leaves the PE at `leave` and crosses the boxes of its network (R13) to its position, or goes to the write slot. -/
def sendTok (c : Firing) (leave : Nat) (t : Token) (tgt : Target) (f : Fly) : Fly :=
  match tgt with
  | .none => f
  | .reg n => toCommit c (leave + 1) 1 n.toNat t f
  | .op p i => f.event (leave + distance c.idx i.toNat) .tokenArrival
      { clu := c.clu, reg := c.reg, frm := c.frm, dest := { clu := c.clu, reg := c.reg, frm := c.frm, idx := i.toNat, pos := p },
        id := c.idx, ent := some c.ser, tok := t, net := t.net }

/-- Tokens sent to each of the targets, in order. -/
def sendAll (c : Firing) (leave : Nat) (tgts : List Target) (ts : List Token) (f : Fly) : Fly :=
  ts.foldl (fun f t => tgts.foldl (fun f g => sendTok c leave t g f) f) f

/-- The results of an element-wise firing as tokens: a scalar, or the maximal runs of the elements that fired (R223). -/
def resultToks (c : Firing) (out : Fmt) (xs : List (Option Word)) : List Token :=
  if c.vec then (groupRuns c.index xs).flatMap fun (i, ys) => runToks c.colour c.frame i out ys
  else match xs with
    | some x :: _ => [scalarTok c.colour c.frame c.index out x]
    | _ => []

/-- The elements that fired, others dropped. -/
def masked : List Bool → List Word → List (Option Word)
  | b :: bs, x :: xs => (if b then some x else none) :: masked bs xs
  | _, _ => []

/-- An element-wise unary instruction (R223): `lat` is its figure of R224 or R250, `g` its element function at element `e`. -/
def mapUnary (s : State) (h : Head) (mover : Bool) (out : Fmt) (lat : Nat) (tgts : List Target) (g : Nat → Word → Word) : FireRes :=
  let c := s.fly.cur
  match operand c h mover c.left with
  | .error r => .trap r
  | .ok xs =>
    match firedMask c h with
    | .error r => .trap r
    | .ok m => .ok (sendAll c (s.sys.now + lat + c.extra) tgts
        (resultToks c out (masked m (xs.zipIdx.map fun (x, e) => g e x))) s.fly)

/-- An element-wise binary instruction (R223). -/
def mapBinary (s : State) (h : Head) (mover : Bool) (out : Fmt) (lat : Nat) (tgts : List Target) (g : Nat → Word → Word → Word) : FireRes :=
  let c := s.fly.cur
  match operand c h mover c.left with
  | .error r => .trap r
  | .ok xs =>
    match operand c h mover c.right with
    | .error r => .trap r
    | .ok ys =>
      match firedMask c h with
      | .error r => .trap r
      | .ok m => .ok (sendAll c (s.sys.now + lat + c.extra) tgts
          (resultToks c out (masked m ((xs.zip ys).zipIdx.map fun (p, e) => g e p.1 p.2))) s.fly)

/-- A firing that must be scalar and that fires or not by its predicate: `k` is its effect (R223, third bullet; R28). -/
def scalarFire (s : State) (h : Head) (k : FireRes) : FireRes :=
  let c := s.fly.cur
  match c.toks.find? (·.vec) with
  | some t => .trap (c.format t h.ty)
  | none =>
    match firedMask c h with
    | .error r => .trap r
    | .ok m => if m.headD true then k else .ok s.fly

/-- One scalar result under the firing's tag. -/
def yieldScalar (s : State) (out : Fmt) (lat : Nat) (tgts : List Target) (x : Word) : FireRes :=
  let c := s.fly.cur
  .ok (sendAll c (s.sys.now + lat + c.extra) tgts [scalarTok c.colour c.frame c.index out x] s.fly)

/-- A change to the instance that the firing belongs to. -/
def Fly.modInst (f : Fly) (c : Firing) (h : Inst → Inst) : Fly :=
  match f.inst c.clu c.frame with
  | some i => f.setInst c.clu c.frame (h i)
  | none => f

/-- An effect that takes place at the commit of the instance. -/
def Fly.addEff (f : Fly) (e : Eff) : Fly :=
  f.modInst f.cur fun i => { i with effs := i.effs ++ [{ idx := f.cur.idx, index := f.cur.index, e := e }] }

end Machine
end Sys2Proof
end

