-- ==== Sys2Proof/Machine/Alu.lean ====
section
/-!
DEFINITION. Instruction reference: dataflow, control and integer (chapter 16): one meaning for each instruction.
-/
namespace Sys2Proof.Machine

/-! ### Shared forms -/

/-- A unary instruction whose left FMT is checked against a list, not against TYPE (R222). -/
def mapUnaryOf (s : State) (h : Head) (fs : List Fmt) (out : Fmt) (lat : Nat) (tgts : List Target) (g : Nat → Word → Word) : FireRes :=
  let c := s.fly.cur
  match operandOf c h fs c.left with
  | .error r => .trap r
  | .ok xs =>
    match firedMask c h with
    | .error r => .trap r
    | .ok m => .ok (sendAll c (s.sys.now + lat + c.extra) tgts
        (resultToks c out (masked m (xs.zipIdx.map fun (x, e) => g e x))) s.fly)

/-- Integer binary, operands read signed, exact, then truncated (R240). -/
def intS (s : State) (x : GWord) (lat : Nat) (f : Nat → Int → Int → Int) : FireRes :=
  let w := intWidth x.h.ty
  mapBinary s x.h false x.h.ty lat x.targets fun _ a b => truncS w (f w (readS w a) (readS w b))

/-- Integer binary, operands read unsigned. -/
def intU (s : State) (x : GWord) (lat : Nat) (f : Nat → Int → Int → Int) : FireRes :=
  let w := intWidth x.h.ty
  mapBinary s x.h false x.h.ty lat x.targets fun _ a b => truncS w (f w (readU w a) (readU w b))

/-- Integer with the immediate, signed. -/
def intI (s : State) (x : GWord) (f : Nat → Int → Int → Int) : FireRes :=
  let w := intWidth x.h.ty
  mapUnary s x.h false x.h.ty 1 x.targets fun _ a => truncS w (f w (readS w a) (readS w (x.imm.signExtend 64)))

/-- Logic and shifts on bits (R242): the token's format keeps the low `w` bits. -/
def bitB (s : State) (x : GWord) (f : Nat → Word → Word → Word) : FireRes :=
  mapBinary s x.h false x.h.ty 1 x.targets fun _ a b => f (intWidth x.h.ty) a b

def bitI (s : State) (x : GWord) (f : Nat → Word → Word → Word) : FireRes :=
  mapUnary s x.h false x.h.ty 1 x.targets fun _ a => f (intWidth x.h.ty) a (x.imm.signExtend 64)

def bitU (s : State) (x : GWord) (f : Nat → Word → Word) : FireRes :=
  mapUnary s x.h false x.h.ty 1 x.targets fun _ a => f (intWidth x.h.ty) a

/-- Compares (R244): signed, unsigned, with the immediate. -/
def compareS (s : State) (x : GWord) (p : Int → Int → Bool) : FireRes :=
  let w := intWidth x.h.ty
  mapBinary s x.h false .prd 1 x.targets fun _ a b => prdBit (p (readS w a) (readS w b))

def compareU (s : State) (x : GWord) (p : Nat → Nat → Bool) : FireRes :=
  let w := intWidth x.h.ty
  mapBinary s x.h false .prd 1 x.targets fun _ a b => prdBit (p (readU w a) (readU w b))

def compareI (s : State) (x : GWord) (p : Int → Int → Bool) : FireRes :=
  let w := intWidth x.h.ty
  mapUnary s x.h false .prd 1 x.targets fun _ a => prdBit (p (readS w a) (readS w (x.imm.signExtend 64)))

/-- PUTG (R227). A vector left operand reaches the write slot as it is, and faults there (R222). -/
def putReg (s : State) (x : GWord) : FireRes :=
  let c := s.fly.cur
  let n := bits x.imm 0 5
  match operand c x.h true c.left with
  | .error r => .trap r
  | .ok xs =>
    match firedMask c x.h with
    | .error r => .trap r
    | .ok m =>
      let lv := s.sys.now + 1 + c.extra
      let out := resultToks c x.h.ty (m.map fun b => if b then some (scalarData x.h.ty (s.g n)) else none)
      let wr := resultToks c x.h.ty (masked m xs)
      .ok (sendAll c lv [.reg (BitVec.ofNat 5 n)] wr (sendAll c lv x.targets out s.fly))

/-- NULL (R230, R224): an unpredicated one answers its LSID for every index of the entry; a predicated one for each index that matches, and in a block that is
not iterated once, whichever elements match (R95). -/
def nullAnswer (s : State) (x : GWord) : FireRes :=
  let c := s.fly.cur
  match firedMask c x.h with
  | .error r => .trap r
  | .ok m =>
    let at_ := s.sys.now + 1 + c.extra
    let blank (i n : Nat) : Token := { scalarTok c.colour c.frame i .x64 0 with len := n - 1 }
    match x.t0 with
    | .reg n => .ok (if m.any id then toCommit c at_ 5 n.toNat (blank c.index 1) s.fly else s.fly)
    | _ =>
      let k := bits x.imm 0 5
      if x.h.pred = .always then .ok (toCommit c at_ 3 k (blank 0 s.inst.n) s.fly)
      else if !s.inst.iter then .ok (if m.any id then toCommit c at_ 3 k (blank 0 1) s.fly else s.fly)
      else .ok ((groupRuns c.index (m.map fun b => if b then some () else none)).foldl
        (fun f r => toCommit c at_ 3 k (blank r.1 r.2.length) f) s.fly)

/-- STEER (R199, R232). -/
def steer (s : State) (x : GWord) : FireRes :=
  let c := s.fly.cur
  match operand c x.h true c.left with
  | .error r => .trap r
  | .ok xs =>
    match firedMask c { x.h with pred := .onTrue } with
    | .error r => .trap r
    | .ok m =>
      let lv := s.sys.now + 1 + c.extra
      .ok (sendAll c lv [x.t1] (resultToks c x.h.ty (masked (m.map not) xs))
        (sendAll c lv [x.t0] (resultToks c x.h.ty (masked m xs)) s.fly))

/-- The block an OFFSET names (R210): block address + 64 × OFFSET, in the 52-bit space. -/
def exitTarget (s : State) (off : BitVec 42) : Nat := (((s.block.blk : Int) + 64 * off.toInt) % 2 ^ 52).toNat

/-- An exit token to the commit unit (R232): `kind` 0 to a block, 1 retire, 2 call, 3 return. -/
def sendExit (s : State) (kind addr ret : Nat) : FireRes :=
  let c := s.fly.cur
  .ok (s.fly.event (s.sys.now + 1) .tokenArrival
    { clu := c.clu, reg := c.reg, frm := c.frm, part := 2, col := kind, id := c.idx, ent := some c.ser, word := BitVec.ofNat 64 addr,
      ctx := ret, tok := scalarTok c.colour c.frame c.index .x64 0 })

/-- An exit that takes its left operand, of FMT 0 (R222). -/
def exitLeft (s : State) (h : Head) (k : Word → FireRes) : FireRes :=
  let c := s.fly.cur
  match operandOf c h [.x64] c.left with
  | .error r => .trap r
  | .ok xs => scalarFire s h (k (xs.headD 0))

/-- RDID's identifier for element `e` (R238). -/
def rdidValue (s : State) (sel e : Nat) : Nat :=
  let c := s.fly.cur
  match sel with
  | 0 => c.colour
  | 1 => c.frame
  | 2 => c.index + e
  | 3 => c.clu
  | 4 => c.clu / 8
  | 5 => c.clu % 8
  | 6 => c.reg
  | 7 => peCol c.idx
  | 8 => s.thread.ctx
  | 9 => s.thread.ident
  | _ => s.inst.n

/-- RDID (R238, R221): with a left operand of any FMT, one result per element; without one, a scalar. -/
def rdid (s : State) (x : GWord) : FireRes :=
  let c := s.fly.cur
  let sel := x.imm.toNat
  match c.left with
  | none => scalarFire s x.h (yieldScalar s .x64 1 x.targets (BitVec.ofNat 64 (rdidValue s sel 0)))
  | some t => mapUnaryOf s x.h [t.fmt] .x64 1 x.targets fun e _ => BitVec.ofNat 64 (rdidValue s sel e)

/-- SPAWN at fire (R236). -/
def spawnFire (s : State) (x : GWord) : FireRes :=
  let c := s.fly.cur
  match operand c x.h false c.left, operand c x.h false c.right with
  | .error r, _ => .trap r
  | _, .error r => .trap r
  | .ok xs, .ok ys =>
    scalarFire s x.h (match s.lowestFree c.clu with
      | none => yieldScalar s .x64 1 x.targets 0xFFFFFFFF
      | some k =>
        let f := (s.fly.modInst c fun i => { i with spawns := i.spawns ++ [k] }).addEff
          (.spawn k ((xs.headD 0).toNat % 2 ^ 52) (ys.headD 0) c.index)
        yieldScalar { s with fly := f } .x64 1 x.targets (BitVec.ofNat 64 k))

/-- The exit port of a number in a context (R105): one that a READY or RETIRING kernel holds. -/
def Ctx.port (v : Ctx) (p : Nat) : Option Port := tabFind v.ports p

/-- EMIT at fire (R237, R113, R224, R377): the records are written at commit; the EMIT is answered for every index it covers. -/
def emitFire (s : State) (x : GWord) : FireRes :=
  let c := s.fly.cur
  let e := bits x.imm 0 12
  match operand c x.h true c.left with
  | .error r => .trap r
  | .ok xs =>
    match firedMask c x.h with
    | .error r => .trap r
    | .ok m =>
      let done (f : Fly) : FireRes :=
        .ok (toCommit c (s.sys.now + 1 + c.extra) 4 c.idx { scalarTok c.colour c.frame c.index .x64 0 with len := c.n - 1 } f)
      if m.all (!·) then done s.fly
      else if c.n * x.h.ty.width > 384 then .trap (c.illop 0x05)
      else
        match (s.sys.ctx s.thread.ctx).port e with
        | none => .trap (c.illop 0x06)
        | some p =>
          if p.colour ≠ c.colour then .trap c.owner
          else
            let ts := if c.vec then (groupRuns c.index (masked m xs)).map fun (i, ys) => vecTok c.colour c.frame i x.h.ty ys
              else [scalarTok c.colour c.frame c.index x.h.ty (xs.headD 0)]
            done (ts.foldl (fun (f : Fly) t => f.modInst c fun i =>
              { i with effs := i.effs ++ [{ idx := c.idx, index := t.index, e := .emit e t }] }) s.fly)

/-- LEA (R245). -/
def leaFire (s : State) (x : GWord) : FireRes :=
  let c := s.fly.cur
  let sc := bits x.imm 0 4
  let off := (x.imm.extractLsb' 4 23).toInt
  let form (a : Word) (i : Int) : Word := BitVec.ofNat 64 (((a.toNat : Int) + i * 2 ^ sc + off) % 2 ^ 52).toNat
  match c.right with
  | none => mapUnary s x.h false .x64 1 x.targets fun _ a => form a 0
  | some _ => mapBinary s x.h false .x64 1 x.targets fun _ a b => form a b.toInt

/-! ### The instructions -/

/-- MOV (R225): the left operand unchanged to both targets. -/
def execMov (x : GWord) (s : State) : Host.Outcome State Fault Refusal :=
  finish s (mapUnary s x.h true x.h.ty 1 x.targets fun _ a => a)

/-- FAN (R225): the left operand unchanged to up to four targets. -/
def execFan (x : GWord) (s : State) : Host.Outcome State Fault Refusal :=
  finish s (mapUnary s x.h true x.h.ty 1 (x.targets ++ [x.t2.getD .none, x.t3.getD .none]) fun _ a => a)

/-- GETG (R226): register N as it stood at entry. -/
def execGetg (x : GWord) (s : State) : Host.Outcome State Fault Refusal :=
  finish s (scalarFire s x.h (yieldScalar s x.h.ty 1 x.targets (s.g (bits x.imm 0 5))))

/-- PUTG (R227): yields what GETG would, under the left operand's tag, and sends the left operand to the write slot. -/
def execPutg (x : GWord) (s : State) : Host.Outcome State Fault Refusal :=
  finish s (putReg s x)

/-- LDI (R228): a constant. -/
def execLdi (x : IWord) (s : State) : Host.Outcome State Fault Refusal :=
  finish s (scalarFire s x.h (yieldScalar s x.h.ty 1 [x.t0] (x.imm.signExtend 64)))

/-- LDIH (R229): the top 27 bits replaced. -/
def execLdih (x : IWord) (s : State) : Host.Outcome State Fault Refusal :=
  finish s (mapUnaryOf s x.h [.x64, .f64] x.h.ty 1 [x.t0] fun _ a =>
    (x.imm.extractLsb' 0 27) ++ (a.extractLsb' 0 37))

/-- NULL (R198, R230): answers an LSID, or a register that stays unchanged. -/
def execNull (x : GWord) (s : State) : Host.Outcome State Fault Refusal :=
  finish s (nullAnswer s x)

/-- SEL (R231): the left operand where its test holds, else the right. -/
def execSel (x : GWord) (s : State) : Host.Outcome State Fault Refusal :=
  finish s (mapBinary s x.h true x.h.ty 1 x.targets fun _ a b => if selOf x.h.ty (bits x.imm 0 2) a then a else b)

/-- STEER (R199, R232): elements whose predicate is true leave by T0, the others by T1. -/
def execSteer (x : GWord) (s : State) : Host.Outcome State Fault Refusal :=
  finish s (steer s x)

/-- MERGE (R199, R232): each token of its left position unchanged to both targets. -/
def execMerge (x : GWord) (s : State) : Host.Outcome State Fault Refusal :=
  finish s (mapUnary s x.h true x.h.ty 1 x.targets fun _ a => a)

/-- EXIT (R233): to block address + 64 × OFFSET, or block address 0. -/
def execExit (x : CWord) (s : State) : Host.Outcome State Fault Refusal :=
  finish s (scalarFire s x.h (sendExit s (if x.retire then 1 else 0) (exitTarget s x.off) 0))

/-- EXITI (R233): to the block at the left operand. -/
def execExiti (x : CWord) (s : State) : Host.Outcome State Fault Refusal :=
  finish s (exitLeft s x.h fun a => sendExit s 0 a.toNat 0)

/-- CALL (R234): to the block of OFFSET; pushes the left operand at commit; ILLOP 0x03 at DEPTH 8. -/
def execCall (x : CWord) (s : State) : Host.Outcome State Fault Refusal :=
  finish s (exitLeft s x.h fun a =>
    if s.thread.stack.length ≥ 8 then .trap (s.fly.cur.illop 0x03)
    else sendExit s 2 (exitTarget s x.off) (a.toNat % 2 ^ 52))

/-- RET (R234): to the address on top of the stack, popped at commit; ILLOP 0x04 at DEPTH 0. -/
def execRet (x : GWord) (s : State) : Host.Outcome State Fault Refusal :=
  finish s (scalarFire s x.h (match s.thread.stack with
    | a :: _ => sendExit s 3 a 0
    | [] => .trap (s.fly.cur.illop 0x04)))

/-- HALT (R235): the thread ends at commit; in a task thread it acts as TDONE (R141). -/
def execHalt (x : GWord) (s : State) : Host.Outcome State Fault Refusal :=
  finish s (scalarFire s x.h (sendExit s 1 0 0))

/-- RDID (R238): an identifier of the thread that fires it. -/
def execRdid (x : GWord) (s : State) : Host.Outcome State Fault Refusal :=
  finish s (rdid s x)

/-- SPAWN (R236): reserves the lowest free frame and yields its number; the thread is created after commit. -/
def execSpawn (x : GWord) (s : State) : Host.Outcome State Fault Refusal :=
  finish s (spawnFire s x)

/-- EMIT (R237): exit records, written at commit. -/
def execEmit (x : GWord) (s : State) : Host.Outcome State Fault Refusal :=
  finish s (emitFire s x)

/-- ADD (R239, R240): a + b. -/
def execAdd (x : GWord) (s : State) : Host.Outcome State Fault Refusal :=
  finish s (intS s x 1 fun _ a b => a + b)

/-- SUB (R239, R240): a − b. -/
def execSub (x : GWord) (s : State) : Host.Outcome State Fault Refusal :=
  finish s (intS s x 1 fun _ a b => a - b)

/-- ADDI (R239, R240): a + the signed immediate. -/
def execAddi (x : GWord) (s : State) : Host.Outcome State Fault Refusal :=
  finish s (intI s x fun _ a b => a + b)

/-- MUL (R239, R240): a × b. -/
def execMul (x : GWord) (s : State) : Host.Outcome State Fault Refusal :=
  finish s (intS s x 3 fun _ a b => a * b)

/-- MULH (R239, R240): ⌊a × b / 2^w⌋, signed. -/
def execMulh (x : GWord) (s : State) : Host.Outcome State Fault Refusal :=
  finish s (intS s x 3 fun _ a b => a * b / (2 ^ intWidth x.h.ty : Nat))

/-- MULHN (R239, R240): ⌊a × b / 2^w⌋, unsigned. -/
def execMulhn (x : GWord) (s : State) : Host.Outcome State Fault Refusal :=
  finish s (intU s x 3 fun _ a b => a * b / (2 ^ intWidth x.h.ty : Nat))

/-- DIV (R241): the quotient, truncated toward zero. -/
def execDiv (x : GWord) (s : State) : Host.Outcome State Fault Refusal :=
  finish s (intS s x (if x.h.ty = .i32 then 12 else 20) fun _ a b => if b = 0 then -1 else a.tdiv b)

/-- DIVN (R241): the unsigned quotient. -/
def execDivn (x : GWord) (s : State) : Host.Outcome State Fault Refusal :=
  finish s (intU s x (if x.h.ty = .i32 then 12 else 20) fun _ a b => if b = 0 then -1 else a / b)

/-- REM (R241): the remainder, with the sign of the dividend. -/
def execRem (x : GWord) (s : State) : Host.Outcome State Fault Refusal :=
  finish s (intS s x (if x.h.ty = .i32 then 12 else 20) fun _ a b => if b = 0 then a else a.tmod b)

/-- REMN (R241): the unsigned remainder. -/
def execRemn (x : GWord) (s : State) : Host.Outcome State Fault Refusal :=
  finish s (intU s x (if x.h.ty = .i32 then 12 else 20) fun _ a b => if b = 0 then a else a % b)

/-- ADDS (R239, R240): a + b, saturated. -/
def execAdds (x : GWord) (s : State) : Host.Outcome State Fault Refusal :=
  finish s (intS s x 1 fun _ a b => saturate (intWidth x.h.ty) (a + b))

/-- SUBS (R239, R240): a − b, saturated. -/
def execSubs (x : GWord) (s : State) : Host.Outcome State Fault Refusal :=
  finish s (intS s x 1 fun _ a b => saturate (intWidth x.h.ty) (a - b))

/-- MIN (R239, R240): the lesser, signed. -/
def execMin (x : GWord) (s : State) : Host.Outcome State Fault Refusal :=
  finish s (intS s x 1 fun _ a b => min a b)

/-- MAX (R239, R240): the greater, signed. -/
def execMax (x : GWord) (s : State) : Host.Outcome State Fault Refusal :=
  finish s (intS s x 1 fun _ a b => max a b)

/-- MINN (R239, R240): the lesser, unsigned. -/
def execMinn (x : GWord) (s : State) : Host.Outcome State Fault Refusal :=
  finish s (intU s x 1 fun _ a b => min a b)

/-- MAXN (R239, R240): the greater, unsigned. -/
def execMaxn (x : GWord) (s : State) : Host.Outcome State Fault Refusal :=
  finish s (intU s x 1 fun _ a b => max a b)

/-- AND (R242). -/
def execAnd (x : GWord) (s : State) : Host.Outcome State Fault Refusal :=
  finish s (bitB s x fun _ a b => a &&& b)

/-- OR (R242). -/
def execOr (x : GWord) (s : State) : Host.Outcome State Fault Refusal :=
  finish s (bitB s x fun _ a b => a ||| b)

/-- XOR (R242). -/
def execXor (x : GWord) (s : State) : Host.Outcome State Fault Refusal :=
  finish s (bitB s x fun _ a b => a ^^^ b)

/-- ANDN (R242). -/
def execAndn (x : GWord) (s : State) : Host.Outcome State Fault Refusal :=
  finish s (bitB s x fun _ a b => a &&& ~~~b)

/-- ANDI (R242): with the immediate sign-extended. -/
def execAndi (x : GWord) (s : State) : Host.Outcome State Fault Refusal :=
  finish s (bitI s x fun _ a b => a &&& b)

/-- ORI (R242): with the immediate sign-extended. -/
def execOri (x : GWord) (s : State) : Host.Outcome State Fault Refusal :=
  finish s (bitI s x fun _ a b => a ||| b)

/-- XORI (R242): with the immediate sign-extended. -/
def execXori (x : GWord) (s : State) : Host.Outcome State Fault Refusal :=
  finish s (bitI s x fun _ a b => a ^^^ b)

/-- SHL (R242): left by the right operand modulo w. -/
def execShl (x : GWord) (s : State) : Host.Outcome State Fault Refusal :=
  finish s (bitB s x fun w a b => a <<< (readU w b % w))

/-- SHR (R242): right, zeros in. -/
def execShr (x : GWord) (s : State) : Host.Outcome State Fault Refusal :=
  finish s (bitB s x fun w a b => BitVec.ofNat 64 (readU w a / 2 ^ (readU w b % w)))

/-- SHA (R242): right, copies of the sign in. -/
def execSha (x : GWord) (s : State) : Host.Outcome State Fault Refusal :=
  finish s (bitB s x fun w a b => truncS w (readS w a / (2 ^ (readU w b % w) : Nat)))

/-- ROL (R242): rotated left within w bits. -/
def execRol (x : GWord) (s : State) : Host.Outcome State Fault Refusal :=
  finish s (bitB s x fun w a b => ((a.setWidth w).rotateLeft (readU w b % w)).setWidth 64)

/-- SHLI (R242). -/
def execShli (x : GWord) (s : State) : Host.Outcome State Fault Refusal :=
  finish s (bitU s x fun _ a => a <<< x.imm.toNat)

/-- SHRI (R242). -/
def execShri (x : GWord) (s : State) : Host.Outcome State Fault Refusal :=
  finish s (bitU s x fun w a => BitVec.ofNat 64 (readU w a / 2 ^ x.imm.toNat))

/-- SHAI (R242). -/
def execShai (x : GWord) (s : State) : Host.Outcome State Fault Refusal :=
  finish s (bitU s x fun w a => truncS w (readS w a / (2 ^ x.imm.toNat : Nat)))

/-- CLZ (R242): leading zeros; w for zero. -/
def execClz (x : GWord) (s : State) : Host.Outcome State Fault Refusal :=
  finish s (bitU s x fun w a => BitVec.ofNat 64 (if readU w a = 0 then w else w - 1 - (readU w a).log2))

/-- POPC (R242): one bits. -/
def execPopc (x : GWord) (s : State) : Host.Outcome State Fault Refusal :=
  finish s (bitU s x fun w a => BitVec.ofNat 64 (((List.range w).filter fun i => a.getLsbD i).length))

/-- BREV (R242): bits reversed within w. -/
def execBrev (x : GWord) (s : State) : Host.Outcome State Fault Refusal :=
  finish s (bitU s x fun w a => ((a.setWidth w).reverse).setWidth 64)

/-- BFX (R243): a field extracted, signed or unsigned. -/
def execBfx (x : GWord) (s : State) : Host.Outcome State Fault Refusal :=
  finish s (bitU s x fun _ a =>
    let f := readU 64 a / 2 ^ bits x.imm 0 6 % 2 ^ (bits x.imm 6 6 + 1)
    if x.imm.getLsbD 12 then truncS (bits x.imm 6 6 + 1) f else BitVec.ofNat 64 f)

/-- BFI (R243): the low m bits of b put into a at p. -/
def execBfi (x : GWord) (s : State) : Host.Outcome State Fault Refusal :=
  finish s (bitB s x fun _ a b => setField a (bits x.imm 0 6) (bits x.imm 6 6 + 1) b.toNat)

/-- TEQ (R244): a = b. -/
def execTeq (x : GWord) (s : State) : Host.Outcome State Fault Refusal :=
  finish s (compareS s x fun a b => a == b)

/-- TNE (R244): a ≠ b. -/
def execTne (x : GWord) (s : State) : Host.Outcome State Fault Refusal :=
  finish s (compareS s x fun a b => a != b)

/-- TLT (R244): a < b, signed. -/
def execTlt (x : GWord) (s : State) : Host.Outcome State Fault Refusal :=
  finish s (compareS s x fun a b => decide (a < b))

/-- TLE (R244): a ≤ b, signed. -/
def execTle (x : GWord) (s : State) : Host.Outcome State Fault Refusal :=
  finish s (compareS s x fun a b => decide (a ≤ b))

/-- TLTN (R244): a < b, unsigned. -/
def execTltn (x : GWord) (s : State) : Host.Outcome State Fault Refusal :=
  finish s (compareU s x fun a b => decide (a < b))

/-- TLEN (R244): a ≤ b, unsigned. -/
def execTlen (x : GWord) (s : State) : Host.Outcome State Fault Refusal :=
  finish s (compareU s x fun a b => decide (a ≤ b))

/-- TEQI (R244): a = the immediate. -/
def execTeqi (x : GWord) (s : State) : Host.Outcome State Fault Refusal :=
  finish s (compareI s x fun a b => a == b)

/-- TLTI (R244): a < the immediate, signed. -/
def execTlti (x : GWord) (s : State) : Host.Outcome State Fault Refusal :=
  finish s (compareI s x fun a b => decide (a < b))

/-- TLEI (R244): a ≤ the immediate, signed. -/
def execTlei (x : GWord) (s : State) : Host.Outcome State Fault Refusal :=
  finish s (compareI s x fun a b => decide (a ≤ b))

/-- PAND (R244): on predicates. -/
def execPand (x : GWord) (s : State) : Host.Outcome State Fault Refusal :=
  finish s (mapBinary s x.h false .prd 1 x.targets fun _ a b => a &&& b)

/-- POR (R244): on predicates. -/
def execPor (x : GWord) (s : State) : Host.Outcome State Fault Refusal :=
  finish s (mapBinary s x.h false .prd 1 x.targets fun _ a b => a ||| b)

/-- PXOR (R244): on predicates. -/
def execPxor (x : GWord) (s : State) : Host.Outcome State Fault Refusal :=
  finish s (mapBinary s x.h false .prd 1 x.targets fun _ a b => a ^^^ b)

/-- PNOT (R244): on predicates. -/
def execPnot (x : GWord) (s : State) : Host.Outcome State Fault Refusal :=
  finish s (mapUnary s x.h false .prd 1 x.targets fun _ a => a ^^^ 1)

/-- ABS (R239, R240). -/
def execAbs (x : GWord) (s : State) : Host.Outcome State Fault Refusal :=
  finish s (bitU s x fun w a => truncS w (readS w a).natAbs)

/-- NEG (R239, R240). -/
def execNeg (x : GWord) (s : State) : Host.Outcome State Fault Refusal :=
  finish s (bitU s x fun w a => truncS w (-(readS w a)))

/-- LEA (R245): a virtual address, wrapped in the 52-bit space. -/
def execLea (x : GWord) (s : State) : Host.Outcome State Fault Refusal :=
  finish s (leaFire s x)

end Sys2Proof.Machine
end

