-- ==== Sys2Proof/Machine/Port.lean ====
section
/-!
DEFINITION. The memory-port tile: address operands and memory layouts (R302, R48), accesses and their program order (R304, R305),
translation (R158 to R163), and issue (R306, R190).
-/
namespace Sys2Proof

/-- Addresses are 52 bits (R157). -/
def vaMod : Nat := 2 ^ 52

/-- Bits that an element of a type takes in memory, by MFMT (R302). -/
def memBits (ty : Fmt) (mf : Nat) : Nat :=
  match mf with
  | 0 => ty.width | 1 => 4 | 2 => 8 | 3 => 16 | 4 => 8 | _ => 16

/-- A loaded element extended to its type (R48): I4, I8, I16 sign-extended, N8, N16 zero-extended. -/
def memLoad (mf : Nat) (x : Nat) : Word :=
  match mf with
  | 1 => ((BitVec.ofNat 4 x).signExtend 32).setWidth 64
  | 2 => ((BitVec.ofNat 8 x).signExtend 32).setWidth 64
  | 3 => ((BitVec.ofNat 16 x).signExtend 32).setWidth 64
  | _ => BitVec.ofNat 64 x

/-- A stored element: saturated to the range of its layout (R48, R47). -/
def memStore (mf : Nat) (x : Word) : Word :=
  let i := (x.setWidth 32).toInt
  match mf with
  | 0 => x
  | 1 => BitVec.ofInt 64 (min (max i (-8)) 7)
  | 2 => BitVec.ofInt 64 (min (max i (-128)) 127)
  | 3 => BitVec.ofInt 64 (min (max i (-32768)) 32767)
  | 4 => BitVec.ofInt 64 (min (max i 0) 255)
  | _ => BitVec.ofInt 64 (min (max i 0) 65535)

namespace Machine

/-! ### Address operands (R196, R302) -/

/-- The elements of an address operand: FMT X64, or I32 when `.ac` is set, whatever TYPE (R196). -/
def addrWords (c : Firing) (h : Head) : Option Token → Except TrapRec (List Word)
  | none => .ok []
  | some t =>
    if t.fmt = .x64 then .ok t.elems
    else if t.fmt = .i32 ∧ h.ac then .ok (t.elems.map fun x => (x.setWidth 32).signExtend 64)
    else .error (c.format t h.ty)

/-- The address (VA + OFFSET) mod 2^52 and MFMT of an address element (R302); `mf` where MFMT may be non-zero. -/
def addrOf (c : Firing) (mf : Bool) (off : BitVec 24) (w : Word) : Except TrapRec (Nat × Nat) :=
  let m := fieldOf w 52 3
  if fieldOf w 55 9 != 0 || m > 5 || (m != 0 && !mf) then .error (c.illop 0xB0)
  else .ok ((((fieldOf w 0 52 : Int) + off.toInt) % 2 ^ 52).toNat, m)

/-- All the addresses of an operand. -/
def addrsOf (c : Firing) (mf : Bool) (off : BitVec 24) : List Word → Except TrapRec (List (Nat × Nat))
  | [] => .ok []
  | w :: ws =>
    match addrOf c mf off w, addrsOf c mf off ws with
    | .ok a, .ok as => .ok (a :: as)
    | .error r, _ => .error r
    | _, .error r => .error r

/-- The bytes of a bit string of elements of `w` bits laid out from `ea`, with the bits that are written (R303). -/
def runBytes (ea w : Nat) (xs : List Word) : List WByte :=
  let bits := xs.length * w
  let v := packElems w xs
  (List.range ((bits + 7) / 8)).map fun k =>
    { va := (ea + k) % vaMod, val := BitVec.ofNat 8 (v / 2 ^ (8 * k)), mask := BitVec.ofNat 8 (2 ^ (min 8 (bits - 8 * k)) - 1) }

/-! ### Accesses -/

/-- A fresh access of the firing, at its port tile on arrival. -/
def newAccess (s : State) (h : Head) (op : AccOp) (released : Bool) : Access :=
  let c := s.fly.cur
  { ser := c.ser, owner := s.thread.serial, ctx := s.thread.ctx, ident := s.thread.ident, clu := c.clu, reg := c.reg, frm := c.frame, bf := c.frm,
    colour := c.colour, idx := c.idx, lsid := none, index := c.index, len := 0, op := op, released := released, committed := false,
    order := 0, fmt := h.ty, n := 1, vec := false, t0 := .none, t1 := .none, ord := .none, scope := .blk, scr := false, segs := [],
    wr := [], a := 0, b := 0, xl := [], st := .buffered, done := 0, got := [], tag := 0, x := 0, y := 0, since := s.sys.now, dead := false }

/-- An access of format M: its LSID, target, order and scope, for the indices of the firing. -/
def newAccessM (s : State) (x : MWord) (op : AccOp) (released : Bool) : Access :=
  { newAccess s x.h op released with iter := s.inst.iter, lsid := some x.lsid.toNat, t0 := x.t0, ord := x.order, scope := x.scope, scr := x.scr }

/-- The access covers index `i`. -/
def Access.covers (a : Access) (i : Nat) : Bool := a.index ≤ i && i ≤ a.index + a.len && !a.skip.contains i

/-- The maximal runs of the `n` indices from `i` on that are not skipped. -/
def runsFrom (skip : List Nat) : Nat → Nat → List (Nat × Nat)
  | _, 0 => []
  | i, n + 1 =>
    let rest := runsFrom skip (i + 1) n
    if skip.contains i then rest
    else match rest with
      | (a, b) :: t => if a = i + 1 then (i, b) :: t else (i, i) :: (a, b) :: t
      | [] => [(i, i)]

/-- The runs of indices, first to last, that an access answers for (R95). -/
def Access.runs (a : Access) : List (Nat × Nat) :=
  if a.skip.isEmpty then [(a.index, a.index + a.len)] else runsFrom a.skip a.index (a.len + 1)

/-- The LSID is answered, or about to be, for one of the indices first to last (R95). -/
def lsidTaken (f : Fly) (i : Inst) (lsid first last : Nat) : Bool :=
  (i.answer lsid first last).isNone ||
  f.accs.any fun e => e.2.ser == i.ser && e.2.lsid == some lsid && (!i.iter || e.2.runs.any fun r => r.1 ≤ last && first ≤ r.2)

/-- When a token sent to the port arrives: one cycle to leave the PE, the boxes of the row, and the elements of a run (R396). -/
def portArrival (s : State) : Nat := s.sys.now + 2 + peCol s.fly.cur.idx + s.fly.cur.extra

/-- The access sent to its port tile; a second answer of its LSID is ILLOP 0x07 (R95). -/
def sendAccess (s : State) (a : Access) (f : Fly) : FireRes :=
  let bad := match a.lsid with
    | some l => a.runs.any fun r => lsidTaken f s.inst l r.1 r.2
    | none => false
  if bad then .trap (s.fly.cur.illop 0x07)
  else
    let (id, f) := f.fresh
    .ok ((f.setAcc id a).event (portArrival s) .translate { clu := a.clu, reg := a.reg, id := id })

/-- The key tag of a page for a colour (R358): a common page is keyed by its context alone. -/
def keyTagOf (x colour : Nat) (t : Xlat) : KeyTag := { ctx := x, common := t.common, colour := if t.common then 0 else colour, ksel := t.ksel }

/-- The key tag under which the access reaches a page (R358). -/
def Access.keyTag (a : Access) (x : Xlat) : KeyTag := keyTagOf a.ctx a.colour x

/-- The key slot that a key tag names (R354). -/
def KeyTag.slot (k : KeyTag) : Nat := (if k.colour = 4097 then 4097 else if k.common then 4096 else k.colour) * 8 + k.ksel

/-- A key slot of a context: as it was written, or as ALLOC drew it (R354). -/
def Ctx.key (v : Ctx) (x slot : Nat) : Key :=
  (tabFind v.keys slot).getD { gen := 0, pair := Config.keyPair x v.drawn slot, tagKey := Config.tagKey x v.drawn slot }

/-- The key that a key tag names. -/
def Sys.keyOf (y : Sys) (k : KeyTag) : Key := (y.ctx k.ctx).key k.ctx k.slot

/-- A line as it would be stored now under a key tag (R356). -/
def Sys.storedAs (y : Sys) (k : KeyTag) : Stored := { tag := k, gen := some (y.keyOf k).gen }

/-- A line passes the integrity check of a fetch under a key tag (R357): it is stored under that tag and the key that the slot still holds. What nothing
has stored since reset passes under any (log entry 84, DEDUCED). -/
def Sys.opens (y : Sys) (v : Line) (k : KeyTag) : Bool := v.ktag.all (· == y.storedAs k)

/-! ### Program order (R304, R305) -/

/-- The request has gone to the home slice or the bank. -/
def Access.gone (a : Access) : Bool :=
  match a.st with
  | .issued | .parked | .performed | .retired => true
  | _ => false

/-- `b` comes before `a` in the program order of their thread (R96): by LSID; in an iterated entry by index first (R100), where a run stands at the first index
that fired (log entry 82, DEDUCED). -/
def Access.precedes (b a : Access) : Bool :=
  if b.committed then (if a.committed then b.order < a.order else true)
  else if a.committed then false
  else if b.released != a.released then !b.released
  else if a.iter then b.index < a.index || (b.index == a.index && b.lsid.getD 0 < a.lsid.getD 0)
  else b.lsid.getD 0 < a.lsid.getD 0

/-- An order at scope `.blk` adds nothing (R305). -/
def Access.acquires (a : Access) : Bool := (a.ord == .acq || a.ord == .ar) && a.scope != .blk
def Access.releases (a : Access) : Bool := (a.ord == .rel || a.ord == .ar) && a.scope != .blk

def Access.done_ (a : Access) : Bool := a.st == .performed || a.st == .retired

/-- The access is an atomic (R316). -/
def AccOp.atomic : AccOp → Bool
  | .atom _ => true
  | _ => false

/-- An engine command performs its own acquire and release (R181, R286). -/
def AccOp.engine : AccOp → Bool
  | .copy | .copyt | .tstage => true
  | _ => false

/-- `b`, earlier in program order, lets `a` issue (R304, R305, R310, R312, R318, R319). A PREF and an access of an aborted instance hold back
nothing; a parked LDE holds back all; a FENCE or FENCEA that waits holds back what the tables of R318 and R319 name, and nothing else. -/
def Access.lets (b a : Access) : Bool :=
  b.op == .pref || b.dead ||
  ((match b.op with
   | .fence => b.st == .retired || (b.scope == .blk && b.gone) || (b.scope != .blk && b.ord == .rel && !(a.released || a.op.atomic))
   | .fencea => b.st == .retired || (b.ord == .acq && a.released) || (b.ord == .rel && !a.released)
   | .lde => b.gone && b.st != .parked && (!b.acquires || b.st == .retired)
   | .spin => b.st == .retired
   | o => b.gone && (o.engine || !b.acquires || b.st == .retired)) &&
  (match a.op with
   | .fence => a.scope == .blk ||
      ((if a.acquires then b.released || b.done_ else true) && (if a.releases then (if b.released then b.st == .retired else b.done_) else true))
   | .fencea => !b.released || b.st == .retired
   | o => o.engine || !a.releases || b.st == .retired))

/-- The operation of an LSID is a PREF, which delays no later access (R310). -/
def prefLsid (b : BFrame) (l : Nat) : Bool :=
  (List.range b.icount).any fun n => match b.instr n with | some (.pref x) => x.lsid.toNat == l | _ => false

/-- Every LSID operation before `a` within its instance that performs before commit has issued or is answered by NULL (R304); a PREF need not have
(R310), and of a FENCE or FENCEA that stands at the port `lets` says what it holds back. -/
def earlierKnown (y : Sys) (f : Fly) (a : Access) : Bool :=
  match f.inst a.clu a.frm, a.lsid with
  | some i, some l =>
    if i.ser != a.ser || a.released then true
    else
      let b := y.frame a.clu i.reg i.frm
      let known (l' i' : Nat) : Bool :=
        (i.answers.any fun p => p.1 == l' && (!i.iter || (p.2.1 ≤ i' && i' ≤ p.2.2))) ||
        f.accs.any fun e => e.2.ser == a.ser && e.2.lsid == some l' && (!i.iter || e.2.covers i') &&
          (e.2.gone || e.2.op == .pref || ((e.2.op == .fence || e.2.op == .fencea) && e.2.st == .atPort))
      (List.range b.lsids).all fun l' =>
        b.h1.getLsbD (32 + l') || prefLsid b l' ||
        (if i.iter then (List.range (a.index + 1)).all fun i' => (i' == a.index && l ≤ l') || known l' i'
         else l ≤ l' || known l' 0)
  | _, _ => true

/-- The access is next in its thread's program order, and no modifier holds it (R304, R305). -/
def mayIssue (y : Sys) (f : Fly) (id : Nat) (a : Access) : Bool :=
  earlierKnown y f a &&
  f.accs.all fun e => e.1 == id || e.2.clu != a.clu || e.2.frm != a.frm || e.2.lsid.isNone || !e.2.precedes a || e.2.lets a

/-- The LSID accesses of a thread in program order. -/
def insertAcc (e : Nat × Access) : List (Nat × Access) → List (Nat × Access)
  | [] => [e]
  | b :: t => if e.2.precedes b.2 then e :: b :: t else b :: insertAcc e t

def threadAccs (f : Fly) (c k : Nat) : List (Nat × Access) :=
  (f.accs.filter fun e => e.2.clu == c && e.2.frm == k && e.2.lsid.isSome).foldl (fun l e => insertAcc e l) []

/-! ### Range tables and page tables (R157 to R159) -/

/-- The physical address of a context's range table of a colour; 4,096 is the common table. -/
def tableBase (y : Sys) (x k : Nat) : Nat := fieldOf (y.ctx x).rtbase 25 27 * 2 ^ 25 + k * 8192

/-- A range entry by its words (R158). -/
def rangeOf (common : Bool) (w : Nat → Word) : Range :=
  { vbase := fieldOf (w 0) 16 36, vlast := fieldOf (w 1) 16 36, paged := (w 0).getLsbD 14, common := common,
    pbase := fieldOf (w 2) 12 40 * 4096, attr := w 3 }

/-- Range entry `e` of a table, if it is valid. -/
def readRange (y : Sys) (m : Memory) (x k e : Nat) : Option Range :=
  let at_ := tableBase y x k + e * 32
  if (readWord m at_).getLsbD 15 then some (rangeOf (k == 4096) fun n => readWord m (at_ + 8 * n)) else none

/-- The valid entries of a table that cover a page. -/
def rangesFor (y : Sys) (m : Memory) (x k page : Nat) : List Range :=
  ((List.range 256).filterMap (readRange y m x k)).filter fun r => r.vbase ≤ page && page ≤ r.vlast

/-- The key tag of the lines of a context's range and page tables: its table key (R354, R356, R159). -/
def tableTag (x : Nat) : KeyTag := { ctx := x, common := true, colour := 4097, ksel := 0 }

/-- Whose line it is: the key tag it is held under, or else stored under. -/
def Line.owner? (v : Line) : Option KeyTag := v.held.orElse fun _ => v.ktag.map Stored.tag

/-- The table key of a line of a range or page table (log entry 74). -/
def Line.table? (v : Line) : Option KeyTag := v.owner?.filter fun k => k.colour == 4097

/-- The key tag under which a table of context `x` is read (R159): its table key, but of a line that privileged code wrote with ordinary stores (R162) the
tag of those (log entry 74, DEDUCED). -/
def Line.readTag (v : Line) (x : Nat) : KeyTag :=
  match v.owner? with
  | some k => if k.ctx = 0 then k else tableTag x
  | none => tableTag x

/-- A table line that does not pass its check: it is held or stored under another tag than a table's, or under a key that is no more (R355, R357, R358). -/
def staleTable (y : Sys) (x pa : Nat) : Bool :=
  let v := y.line (pa / 64)
  match v.held with
  | some k => k != v.readTag x
  | none => !y.opens v (v.readTag x)

/-- A range table of a context that does not pass its check. -/
def staleRanges (y : Sys) (x k : Nat) : Bool :=
  let b := tableBase y x k / 64
  y.lines.any fun e => b ≤ e.1 && e.1 < b + 128 && staleTable y x (e.1 * 64)

/-- The context in whose range tables a line lies (R157). -/
def rangeTableOf (y : Sys) (l : Nat) : Option Nat :=
  (List.range Config.nContexts).find? fun x => (y.ctx x).st != .free && tableBase y x 0 / 64 ≤ l && l < tableBase y x 4097 / 64

/-- A level of the walk: the table at `t` indexed by `i`; a non-leaf entry is V with every reserved bit zero (R159). -/
def walkNext (m : Memory) (t i : Nat) : Option Nat :=
  let w := readWord m (t + 8 * i)
  if w.getLsbD 0 && fieldOf w 52 12 == 0 && fieldOf w 1 11 == 0 then some (fieldOf w 12 40 * 4096) else none

/-- The leaf of a page of a paged range, or none under an invalid non-leaf entry (R159). -/
def walk (m : Memory) (pbase page : Nat) : Option Word :=
  ((walkNext m pbase (page / 2 ^ 27 % 512)).bind fun t2 =>
    (walkNext m t2 (page / 2 ^ 18 % 512)).bind fun t1 => walkNext m t1 (page / 2 ^ 9 % 512)).map
    fun t0 => readWord m (t0 + 8 * (page % 512))

/-- Where a walk reads, level by level, as far as it gets. -/
def walkReads (m : Memory) (pbase page : Nat) : List Nat :=
  let i3 := pbase + 8 * (page / 2 ^ 27 % 512)
  i3 :: match walkNext m pbase (page / 2 ^ 27 % 512) with
    | none => []
    | some t2 => (t2 + 8 * (page / 2 ^ 18 % 512)) :: match walkNext m t2 (page / 2 ^ 18 % 512) with
      | none => []
      | some t1 => (t1 + 8 * (page / 2 ^ 9 % 512)) :: match walkNext m t1 (page / 2 ^ 9 % 512) with
        | none => []
        | some t0 => [t0 + 8 * (page % 512)]

/-- Leaf fields (R159). -/
def leafState (w : Word) : Nat := fieldOf w 3 2
def leafConfig (w : Word) : Nat := fieldOf w 48 16
def leafKsel (w : Word) : Nat := fieldOf w 9 3
def leafSync (w : Word) : Bool := w.getLsbD 8

/-- The permissions that an access needs, whether it writes memory, and whether it needs a synchronised range (R160). -/
structure Need where
  rd : Bool := false
  w : Bool := false
  b : Bool := false
  writes : Bool := false
  sync : Nat := 0
deriving DecidableEq, Repr, Inhabited

def AccOp.need : AccOp → Need
  | .ld | .pref | .tstage | .piece _ | .copy | .copyt => { rd := true }
  | .st | .snew | .sfree => { w := true, writes := true }
  | .lde => { rd := true, sync := 0x53 }
  | .stf | .clrf => { w := true, writes := true, sync := 0x53 }
  | .atom _ => { rd := true, w := true, writes := true }
  | .spin => { rd := true, writes := true }
  | .splice => { w := true, writes := true }
  | .sunpin | .fence | .fencea => {}

/-- What the translation of a page, or of an access, comes to. `uncorrectable` is a line that fails its check (R357); `down` and `wait` are host memory
behind a link that is DOWN, or not up (R193). -/
inductive XRes where
  | ok (x : Xlat)
  | prot (code : Nat)
  | config (leaf : Nat)
  | absent (kind : Nat)
  | migrating
  | miss (leaf : Bool)
  | uncorrectable
  | down
  | wait
deriving DecidableEq, Repr, Inhabited

/-- The checks of R160 on a leaf, in their order. -/
def checkLeaf (ident : Nat) (n : Need) (r : Range) (page : Nat) (w : Word) : XRes :=
  if leafState w = 0 ∨ leafState w = 3 then .absent 0
  else if leafState w = 2 ∧ n.writes then .migrating
  else if (n.rd && !w.getLsbD 5) || (n.w && !w.getLsbD 6) || (n.b && !w.getLsbD 7) then .prot 0x51
  else if leafConfig w ≠ 0 ∧ leafConfig w ≠ ident then .config (leafConfig w)
  else if n.sync ≠ 0 ∧ !leafSync w then .prot n.sync
  else .ok { page := page, pa := if r.paged then fieldOf w 12 36 * 65536 else r.pbase + (page - r.vbase) * 65536, ksel := leafKsel w,
             common := r.common, sync := leafSync w, config := leafConfig w }

/-- The ranges of a port's range cache that cover a page for a colour. -/
def PortT.hits (p : PortT) (x colour page : Nat) : List Range :=
  (p.ranges.filter fun e => e.1 == x && e.2.1 == (if e.2.2.common then 4096 else colour) && e.2.2.vbase ≤ page && page ≤ e.2.2.vlast).map
    fun e => e.2.2

/-- Translation of one page through the port's caches (R160, R161). `twice` says that two ranges of the tables hold the page: the caches, which may
hold one of them only, do not change what it translates to (log entry 75, DEDUCED). -/
def xlatePage (p : PortT) (twice : Bool) (x colour ident : Nat) (n : Need) (page : Nat) : XRes :=
  match p.hits x colour page with
  | [] => .miss false
  | [r] =>
    if twice then .prot 0x52
    else if r.paged then
      match p.leaves.find? fun e => e.1 == x && e.2.1 == (if r.common then 4096 else colour) && e.2.2.1 == page with
      | some e => checkLeaf ident n r page e.2.2.2
      | none => .miss true
    else checkLeaf ident n r page r.attr
  | _ => .prot 0x52

/-- The ranges of the colour's table and of the common table that hold a page. -/
def rangesOf (y : Sys) (m : Memory) (x colour page : Nat) : List Range := rangesFor y m x colour page ++ rangesFor y m x 4096 page

/-- Translation of one page from the tables themselves, as home slices and engines need it. -/
def xlateNow (y : Sys) (m : Memory) (x colour ident : Nat) (n : Need) (page : Nat) : XRes :=
  if staleRanges y x colour || staleRanges y x 4096 then .uncorrectable
  else match rangesOf y m x colour page with
  | [] => .prot 0x50
  | [r] =>
    if r.paged then
      if (walkReads m r.pbase page).any (staleTable y x) then .uncorrectable
      else match walk m r.pbase page with
      | some w => checkLeaf ident n r page w
      | none => .absent 1
    else checkLeaf ident n r page r.attr
  | _ => .prot 0x52

/-- The translation of a page, from the tables, if it is mapped, whatever CONFIG it holds. -/
def locate (y : Sys) (m : Memory) (x colour page : Nat) : Option Xlat :=
  let ident := match xlateNow y m x colour 0 {} page with
    | .config leaf => leaf
    | _ => 0
  match xlateNow y m x colour ident {} page with
  | .ok t => some t
  | _ => none

/-- The physical address of a virtual one, from the tables, if it is mapped, whatever CONFIG its page holds. -/
def resolve (y : Sys) (m : Memory) (x colour va : Nat) : Option Nat := (locate y m x colour (va / 65536)).map fun t => t.pa + va % 65536

/-- The frame that the tables give a page of a version area, whatever its STATE: the home slice reads and writes its slots and is not withheld
(R147, R153; the manual names no withholding there). -/
def frameOf (y : Sys) (m : Memory) (x colour page : Nat) : Option Xlat :=
  let at_ (r : Range) (w : Word) : Xlat :=
    { page := page, pa := if r.paged then fieldOf w 12 36 * 65536 else r.pbase + (page - r.vbase) * 65536, ksel := leafKsel w, common := r.common,
      sync := leafSync w, config := leafConfig w }
  match rangesFor y m x colour page ++ rangesFor y m x 4096 page with
  | [r] => if r.paged then (walk m r.pbase page).map (at_ r) else some (at_ r r.attr)
  | _ => none

/-- The pages that a byte range touches, ascending, each with its first byte (R160). -/
def pagesOf (va n : Nat) : List (Nat × Nat) :=
  (List.range ((va % 65536 + n + 65535) / 65536)).map fun k =>
    let p := (va / 65536 + k) % 2 ^ 36
    (p, if k = 0 then va else p * 65536)

/-- The pages of a splice record with `n` inserted pieces (R153, R160). -/
def recordSpans (a : Access) (n : Nat) : List (Nat × Nat × Need) :=
  (pagesOf (fieldOf a.b 0 52) (64 + 16 * n)).map fun p => (p.1, p.2, { w := true, writes := true, sync := 0x45 })

/-! ### The recently used order of the caches (R161) -/

/-- An entry moved or put at the front, the list kept to `cap`. -/
def touch {α : Type} [DecidableEq α] (cap : Nat) (e : α) (l : List α) : List α := (e :: l.filter (· != e)).take cap

/-- Every page of the spans (range, need), in order, until one does not translate: the translations made, and what stopped. -/
def xlateAll (p : PortT) (twice : Nat → Bool) (x colour ident : Nat) : List (Nat × Nat × Need) → List Xlat → List Xlat × Option (Nat × XRes)
  | [], acc => (acc, none)
  | (page, b, n) :: t, acc =>
    match xlatePage p (twice page) x colour ident n page with
    | .ok v => xlateAll p twice x colour ident t (if acc.contains v then acc else acc ++ [v])
    | r => (acc, some (b, r))

/-! ### Issue (R306, R190, R397) -/

/-- The banks that a scratch access touches (R173). -/
def Access.scrBanks (a : Access) : List Nat :=
  (a.segs.flatMap fun g => [g.1 / 65536 % 16, (g.1 + (g.2.1 - 1)) / 65536 % 16]).eraseDups

/-- The cycle in which a port issues next, and the flight of its requests: `k` requests, one per cycle, from `now + lead` on. -/
def portIssue (y : Sys) (c r lead k : Nat) : Nat × Sys :=
  let p := y.portT c r
  let t := max (y.now + lead) p.nextIssue
  (t, y.setPortT c r { p with nextIssue := t + k })

/-- The slice interface that carries a unit's traffic (R14, R184): interface 0 that of the port tiles and the park channels; 1 to 7 the copy engine's, by
transfer slot, and TSTAGE's, by tile slot (log entry 13); a block fetch goes through the interface that serves the column of each PE. -/
inductive Traffic where
  | port | fetch (col : Nat) | copy (slot : Nat) | tstage (slot : Nat)
deriving DecidableEq, Repr, Inhabited

def Traffic.interface : Traffic → Nat
  | .port => 0
  | .fetch col => col / 2
  | .copy k => 1 + k % 7
  | .tstage q => 1 + q % 7

/-- Requests of one slice interface to one home slice arrive in the order sent (R14, R15, R184, R190): none earlier than what is on its way from interface
`m` of the cluster to the slice. -/
def wayDue (f : Fly) (c m slice due : Nat) : Nat :=
  if m = 0 then pathDue f c slice due
  else (f.agenda.filter fun w => match w.act with
    | .ev .tstageFillComplete e => e.clu == c && e.reg == m && (f.acc e.id).any fun a => (List.range a.lines.length).any fun p => a.slice p == slice
    | _ => false).foldl (fun d w => max d w.due) due

/-- The requests of a translated access, one per line, from cycle `t` (R190: performed 10 cycles after it is handed over). -/
def sendParts (t : Nat) (id : Nat) (a : Access) (f : Fly) : Fly :=
  (List.range a.lines.length).foldl (fun f p =>
    let (d, f) := f.draw
    let due := pathDue f a.clu (a.slice p) (t + p + 10 + d)
    f.event due .accessPerform { clu := a.clu, reg := a.reg, col := a.slice p, id := id, part := p }) f

/-- When a scratch access arrives at its bank: not before an access of its thread that is on its way to the same bank (R335), which arrives by the port of
another region in another cycle. -/
def bankDue (f : Fly) (a : Access) (due : Nat) : Nat :=
  f.agenda.foldl (fun d w => match w.act with
    | .ev .scratchPerform e =>
      match f.acc e.id with
      | some b => if b.clu = a.clu ∧ b.frm = a.frm ∧ b.scrBanks.any (a.scrBanks.contains ·) then max d (if b.reg = a.reg then w.due else w.due + 1) else d
      | none => d
    | _ => d) due

/-- A translated access is issued: `lead` cycles from now at the earliest. Scratch accesses go to the bank (R397); PREF asks each line's home
slice to fetch it (R310); fences perform as they issue (R384). -/
def issueAccess (s : State) (id : Nat) (a : Access) (lead : Nat) : State :=
  -- the reads of a tile go through other slice interfaces (R184): TSTAGE is one command at the port
  let k := if a.op = .tstage then 1 else max 1 a.lines.length
  -- a command goes to the copy engine, not to a slice
  let (t, y) := if a.op = .copy ∨ a.op = .copyt then (s.sys.now + lead, s.sys) else portIssue s.sys a.clu a.reg lead k
  let f := s.fly.setAcc id { a with st := .issued }
  match a.op with
  | .fence | .fencea =>
    { s with sys := y, fly := f.event t .accessRetire { clu := a.clu, reg := a.reg, id := id } }
  | .pref =>
    -- it answers its LSID as it issues; the access is kept until its lines are there
    let f := f.event t .accessRetire { clu := a.clu, reg := a.reg, id := id, part := 1 }
    { s with sys := y, fly := if a.lines.isEmpty then f.event (t + 8) .accessRetire { clu := a.clu, reg := a.reg, id := id } else sendParts t id a f }
  | .splice =>
    let (d, f) := f.draw
    let e : Ev := { clu := a.clu, reg := a.reg, col := a.slice 0, id := id }
    { s with sys := y, fly := f.event (pathDue f a.clu (a.slice 0) (t + 10 + d)) .splicePerform e }
  | .copy | .copyt =>
    { s with sys := y, fly := f.event t .transferStart { clu := a.clu, reg := (Traffic.copy a.x).interface, id := id, part := a.x } }
  | .tstage =>
    let m := (Traffic.tstage a.x).interface
    let due := (List.range a.lines.length).foldl (fun d p => wayDue s.fly a.clu m (a.slice p) d) (t + 24 + a.y / 64)
    { s with sys := y, fly := f.event due .tstageFillComplete { clu := a.clu, reg := m, id := id } }
  | _ =>
    if a.scr then
      let lost := a.released && !a.scrBanks.all fun b => (s.sys.bank a.clu b).mode == .scratch
      if lost then
        -- a bank that is SCRATCH no longer (R172): the store is acknowledged unperformed, the trap taken at the next block entry
        let s := { s with sys := y, fly := f.event t .accessRetire { clu := a.clu, reg := a.reg, id := id } }
        if (s.sys.thr a.clu a.frm).serial = a.owner then deferTrap s a.clu a.frm (some a.ser) (misuse 1 0x61 a.index) else s
      else
        let t := bankDue f a (t + 3)
        let f := (List.range k).foldl (fun f p => f.event (t + p) .scratchPerform { clu := a.clu, reg := a.reg, id := id, part := p }) f
        { s with sys := y, fly := f }
    else { s with sys := y, fly := sendParts t id a f }

/-- A fence performs in the cycle in which what it waits for is acknowledged (R384); the port takes up any other access in the next cycle. -/
def AccOp.turn : AccOp → Nat
  | .fence | .fencea => 0
  | _ => 1

/-- Accesses of a thread that may now go on: a released one that is translated is issued, one that performs before commit is translated at its
turn (R304). One pass in program order suffices, since an access waits only for earlier ones. -/
def advance (s : State) (c k : Nat) : State :=
  (threadAccs s.fly c k).foldl (fun s e =>
    match s.fly.acc e.1 with
    | none => s
    | some a =>
      if a.st == .atPort && mayIssue s.sys s.fly e.1 a then
        if a.released then (if a.committed then issueAccess s e.1 a 1 else s)
        else
          let t : Ev := { clu := c, reg := a.reg, id := e.1, part := if a.scr then 1 else 0 }
          { s with fly := (s.fly.setAcc e.1 { a with st := .buffered }).event (s.sys.now + a.op.turn) .translate t }
      else s) s

end Machine
end Sys2Proof
end

