-- ==== Sys2Proof/Machine/Float.lean ====
section
/-!
DEFINITION. Instruction reference: floating point and conversion (chapter 17, R251 to R258): one meaning for each instruction.
-/
namespace Sys2Proof.Machine

/-! ### Shared forms -/

/-- A unary floating-point instruction: the element's value in the compute format, to an encoding of it (R251). -/
def fpU (s : State) (x : GWord) (lat : Nat) (g : FP → Rnd → FVal → Nat) : FireRes :=
  let p := fpOf x.h.ty.compute
  mapUnary s x.h false x.h.ty.compute lat x.targets fun _ a => BitVec.ofNat 64 (g p x.h.rnd (p.decode a.toNat))

/-- A binary floating-point instruction (R251). -/
def fpB (s : State) (x : GWord) (lat : Nat) (g : FP → Rnd → FVal → FVal → Nat) : FireRes :=
  let p := fpOf x.h.ty.compute
  mapBinary s x.h false x.h.ty.compute lat x.targets fun _ a b =>
    BitVec.ofNat 64 (g p x.h.rnd (p.decode a.toNat) (p.decode b.toNat))

/-- Instructions on encodings in the compute format (R253, R254). -/
def fpBits1 (s : State) (x : GWord) (g : FP → Word → Word) : FireRes :=
  let p := fpOf x.h.ty.compute
  mapUnary s x.h false x.h.ty.compute 1 x.targets fun _ a => g p a

def fpBits2 (s : State) (x : GWord) (lat : Nat) (g : FP → Word → Word → Word) : FireRes :=
  let p := fpOf x.h.ty.compute
  mapBinary s x.h false x.h.ty.compute lat x.targets fun _ a b => g p a b

/-- Floating-point compares (R255). -/
def fpCmp (s : State) (x : GWord) (q : FVal → FVal → Bool) : FireRes :=
  let p := fpOf x.h.ty.compute
  mapBinary s x.h false .prd 1 x.targets fun _ a b => prdBit (q (p.decode a.toNat) (p.decode b.toNat))

/-- A binary instruction whose right FMT is checked against a list, not against TYPE (R247). -/
def mapBinaryOf (s : State) (h : Head) (mover : Bool) (fs : List Fmt) (out : Fmt) (lat : Nat) (tgts : List Target)
    (g : Nat → Word → Word → Word) : FireRes :=
  let c := s.fly.cur
  match operand c h mover c.left with
  | .error r => .trap r
  | .ok xs =>
    match operandOf c h fs c.right with
    | .error r => .trap r
    | .ok ys =>
      match firedMask c h with
      | .error r => .trap r
      | .ok m => .ok (sendAll c (s.sys.now + lat + c.extra) tgts
          (resultToks c out (masked m ((xs.zip ys).zipIdx.map fun (p, e) => g e p.1 p.2))) s.fly)

/-- The divider's figure (R250): each element after the first adds 2 cycles in place of the vector term. -/
def dividerLat (s : State) (ty : Fmt) : Nat :=
  let c := s.fly.cur
  (if ty = .f64 then 26 else 14) + (if c.vec then 2 * (c.n - 1) else 0) - c.extra

/-- The sign bit of an encoding of `p`. -/
def FP.signW (p : FP) : Word := BitVec.ofNat 64 p.signBit

/-- FFMA and FFMS (R251): a · p[31:0] ± p[63:32], one rounding. -/
def fpFused (s : State) (x : GWord) (sub : Bool) : FireRes :=
  mapBinaryOf s x.h false [.x64] .f32 4 x.targets fun _ a b =>
    let u := fp32.decode (b.extractLsb' 0 32).toNat
    let v := fp32.decode (b.extractLsb' 32 32).toNat
    BitVec.ofNat 64 (fp32.encode x.h.rnd (((fp32.decode a.toNat).mul u).add x.h.rnd (if sub then v.neg else v)))

/-- a · 2^n, exact (R251). -/
def FVal.scale (n : Int) : FVal → FVal
  | .fin s m e => if m = 0 then .fin s m e else .fin s m (e + n)
  | v => v

/-- FSCL (R251): by the right operand of FMT 1, or by the immediate. -/
def fpScale (s : State) (x : GWord) : FireRes :=
  let p := fpOf x.h.ty.compute
  match s.fly.cur.right with
  | some _ => mapBinaryOf s x.h false [.i32] x.h.ty.compute 4 x.targets fun _ a b =>
      BitVec.ofNat 64 (p.encode x.h.rnd ((p.decode a.toNat).scale (readS 32 b)))
  | none => fpU s x 4 fun p r v => p.encode r (v.scale x.imm.toInt)

/-- CVTIF (R256). -/
def cvtIF (s : State) (x : GWord) : FireRes :=
  let src := bits x.imm 0 2
  let f := bits x.imm 2 6
  mapUnaryOf s x.h [if src = 0 then .i32 else .x64] x.h.ty 2 x.targets fun _ a =>
    let v : Int := if src = 0 then readS 32 a else if src = 1 then readS 64 a else readU 64 a
    BitVec.ofNat 64 ((fpOf x.h.ty).encode x.h.rnd (.fin (decide (v < 0)) v.natAbs (-(f : Int))))

/-- CVTFI's result (R256): rounded in the mode, then saturated to lo … hi. -/
def cvtFIval (r : Rnd) (f : Nat) (lo hi : Int) : FVal → Int
  | .nan => 0
  | .inf neg => if neg then lo else hi
  | .fin neg m e => min (max (roundInt r neg m (e + f)) lo) hi

/-- CVTFI (R256). -/
def cvtFI (s : State) (x : GWord) : FireRes :=
  let dst := bits x.imm 0 2
  let f := bits x.imm 2 6
  let p := fpOf x.h.ty.compute
  let lo : Int := if dst = 0 then -(2 ^ 31) else if dst = 1 then -(2 ^ 63) else 0
  let hi : Int := if dst = 0 then 2 ^ 31 - 1 else if dst = 1 then 2 ^ 63 - 1 else 2 ^ 64 - 1
  mapUnary s x.h false (if dst = 0 then .i32 else .x64) 2 x.targets fun _ a =>
    BitVec.ofInt 64 (cvtFIval x.h.rnd f lo hi (p.decode a.toNat))

/-- CVTFF (R257): to F64, F32 or B16. -/
def cvtFF (s : State) (x : GWord) : FireRes :=
  let p := fpOf x.h.ty.compute
  let (out, q) : Fmt × FP := if x.imm = 2 then (.f64, fp64) else if x.imm = 3 then (.f32, fp32) else (.b16, fpB16)
  mapUnary s x.h false out 2 x.targets fun _ a => BitVec.ofNat 64 (q.encode x.h.rnd (p.decode a.toNat))

/-- TENC (R257): to T8 or T6. -/
def tencFire (s : State) (x : GWord) : FireRes :=
  let p := fpOf x.h.ty
  let t6 := x.imm.getLsbD 0
  mapUnary s x.h false (if t6 then .t6 else .t8) 2 x.targets fun _ a =>
    BitVec.ofNat 64 (if t6 then t6enc (p.decode a.toNat) else t8enc (p.decode a.toNat))

/-- The elements of a list whose mask bit is set. -/
def kept {α : Type} : List Bool → List α → List α
  | b :: bs, x :: xs => if b then x :: kept bs xs else kept bs xs
  | _, _ => []

/-- A reduction (R248): one scalar over the elements that fire; nothing if none fires. -/
def reduce (s : State) (x : GWord) (out : Fmt) (lat : Nat) (g : List Word → Word) : FireRes :=
  let c := s.fly.cur
  match operand c x.h false c.left with
  | .error r => .trap r
  | .ok xs =>
    match firedMask c x.h with
    | .error r => .trap r
    | .ok m =>
      let ys := kept m xs
      if ys.isEmpty then .ok s.fly else yieldScalar s out lat x.targets (g ys)

/-- How many BFQ instructions stand below index `i` in a block (R60). -/
def BFrame.bfqBelow (f : BFrame) (i : Nat) : Nat :=
  ((List.range i).filter fun k => match f.instr k with | some (.bfq _) => true | _ => false).length

/-- The dither phase of a BFQ firing (R60). -/
def ditherPhase (s : State) : Nat :=
  let c := s.fly.cur
  (s.thread.dphase.toNat + s.block.bfqBelow c.idx + c.index / 32) % 32

/-- BFQ (R258): the left run scaled by the field of its scalar right position and rounded with the dither. -/
def bfqFire (s : State) (x : GWord) : FireRes :=
  let c := s.fly.cur
  match scalarOnly c x.h c.right, operand c x.h false c.left, operandOf c x.h [.i32] c.right with
  | .error r, _, _ => .trap r
  | _, .error r, _ => .trap r
  | _, _, .error r => .trap r
  | .ok _, .ok xs, .ok ys =>
    match firedMask c x.h with
    | .error r => .trap r
    | .ok m =>
      let fld0 := readU 8 (ys.headD 0)
      let fld := if fld0 = 0 then 1 else fld0
      let (sh, lim) := if x.h.mod.getLsbD 0 then (14, 32767) else (6, 127)
      let ph := ditherPhase s
      let q (e : Nat) (a : Word) : Word :=
        if fld = 0xFF then 0
        else BitVec.ofInt 64 (bfqElem sh lim fld (((c.index + e) % 32 + ph) % 32) (fp32.decode a.toNat))
      .ok (sendAll c (s.sys.now + 2 + c.extra) x.targets (resultToks c .i32 (masked m (xs.zipIdx.map fun (a, e) => q e a))) s.fly)

/-! ### The instructions -/

/-- FADD (R251). -/
def execFadd (x : GWord) (s : State) : Host.Outcome State Fault Refusal :=
  finish s (fpB s x 4 fun p r a b => p.encode r (a.add r b))

/-- FSUB (R251). -/
def execFsub (x : GWord) (s : State) : Host.Outcome State Fault Refusal :=
  finish s (fpB s x 4 fun p r a b => p.encode r (a.add r b.neg))

/-- FMUL (R251). -/
def execFmul (x : GWord) (s : State) : Host.Outcome State Fault Refusal :=
  finish s (fpB s x 4 fun p r a b => p.encode r (a.mul b))

/-- FFMA (R251). -/
def execFfma (x : GWord) (s : State) : Host.Outcome State Fault Refusal := finish s (fpFused s x false)

/-- FFMS (R251). -/
def execFfms (x : GWord) (s : State) : Host.Outcome State Fault Refusal := finish s (fpFused s x true)

/-- FDIV (R251). -/
def execFdiv (x : GWord) (s : State) : Host.Outcome State Fault Refusal :=
  finish s (fpB s x (dividerLat s x.h.ty) fun p r a b => p.div r a b)

/-- FSQRT (R251). -/
def execFsqrt (x : GWord) (s : State) : Host.Outcome State Fault Refusal :=
  finish s (fpU s x (dividerLat s x.h.ty) fun p r a => p.sqrt r a)

/-- FRSQ (R251): 1/√a with one rounding. -/
def execFrsq (x : GWord) (s : State) : Host.Outcome State Fault Refusal :=
  finish s (fpU s x (dividerLat s x.h.ty) fun p r a => p.rsqrt r a)

/-- FMIN (R253). -/
def execFmin (x : GWord) (s : State) : Host.Outcome State Fault Refusal :=
  finish s (fpBits2 s x 4 fun p a b => fpPick p true (x.h.mod.getLsbD 0) a b)

/-- FMAX (R253). -/
def execFmax (x : GWord) (s : State) : Host.Outcome State Fault Refusal :=
  finish s (fpBits2 s x 4 fun p a b => fpPick p false (x.h.mod.getLsbD 0) a b)

/-- FABS (R254): the sign bit cleared. -/
def execFabs (x : GWord) (s : State) : Host.Outcome State Fault Refusal :=
  finish s (fpBits1 s x fun p a => a &&& ~~~p.signW)

/-- FNEG (R254): the sign bit inverted. -/
def execFneg (x : GWord) (s : State) : Host.Outcome State Fault Refusal :=
  finish s (fpBits1 s x fun p a => a ^^^ p.signW)

/-- FCPS (R254): the left operand with the right operand's sign bit. -/
def execFcps (x : GWord) (s : State) : Host.Outcome State Fault Refusal :=
  finish s (fpBits2 s x 1 fun p a b => (a &&& ~~~p.signW) ||| (b &&& p.signW))

/-- FEQ (R255). -/
def execFeq (x : GWord) (s : State) : Host.Outcome State Fault Refusal := finish s (fpCmp s x fpEq)

/-- FLT (R255). -/
def execFlt (x : GWord) (s : State) : Host.Outcome State Fault Refusal := finish s (fpCmp s x fpLt)

/-- FLE (R255). -/
def execFle (x : GWord) (s : State) : Host.Outcome State Fault Refusal := finish s (fpCmp s x fpLe)

/-- FUNO (R255). -/
def execFuno (x : GWord) (s : State) : Host.Outcome State Fault Refusal := finish s (fpCmp s x fpUno)

/-- FCLS (R255): the class bit of the operand in IMM[8:0]. -/
def execFcls (x : GWord) (s : State) : Host.Outcome State Fault Refusal :=
  finish s (mapUnary s x.h false .prd 1 x.targets fun _ a =>
    let p := fpOf x.h.ty.compute
    prdBit (x.imm.getLsbD (fpClass p (p.decode a.toNat))))

/-- EX2 (R252). -/
def execEx2 (x : GWord) (s : State) : Host.Outcome State Fault Refusal := finish s (fpU s x 6 fun p r a => p.exp2 r a)

/-- LG2 (R252). -/
def execLg2 (x : GWord) (s : State) : Host.Outcome State Fault Refusal := finish s (fpU s x 6 fun p r a => p.log2 r a)

/-- FRND (R251). -/
def execFrnd (x : GWord) (s : State) : Host.Outcome State Fault Refusal :=
  finish s (fpU s x 4 fun p r a => p.encode r (a.integral r))

/-- FSCL (R251). -/
def execFscl (x : GWord) (s : State) : Host.Outcome State Fault Refusal := finish s (fpScale s x)

/-- CVTIF (R256). -/
def execCvtif (x : GWord) (s : State) : Host.Outcome State Fault Refusal := finish s (cvtIF s x)

/-- CVTFI (R256). -/
def execCvtfi (x : GWord) (s : State) : Host.Outcome State Fault Refusal := finish s (cvtFI s x)

/-- CVTFF (R257). -/
def execCvtff (x : GWord) (s : State) : Host.Outcome State Fault Refusal := finish s (cvtFF s x)

/-- TDEC (R257): the exact F32 decode; a NaN becomes canonical. -/
def execTdec (x : GWord) (s : State) : Host.Outcome State Fault Refusal :=
  finish s (fpU s x 1 fun p r a => p.encode r a)

/-- TENC (R257). -/
def execTenc (x : GWord) (s : State) : Host.Outcome State Fault Refusal := finish s (tencFire s x)

/-- BFQ (R258). -/
def execBfq (x : GWord) (s : State) : Host.Outcome State Fault Refusal := finish s (bfqFire s x)

/-- BFS (R258): the shared-exponent field of the elements that fire. -/
def execBfs (x : GWord) (s : State) : Host.Outcome State Fault Refusal :=
  finish s (reduce s x .i32 2 fun xs => BitVec.ofNat 64 (bfsField (xs.map fun a => fp32.decode a.toNat)))

end Sys2Proof.Machine
end

