-- ==== Sys2Proof/Machine/Runs.lean ====
section
/-!
DEFINITION. Instruction reference: runs and softmax rows (chapter 17, R259 to R268): one meaning for each instruction.
-/
namespace Sys2Proof.Machine

/-! ### Shared forms -/

/-- A binary instruction on runs that sees the whole of both (R261): the result's elements, masked by the predicate. -/
def runB (s : State) (h : Head) (rfmt : Option Fmt) (out : Fmt) (tgts : List Target) (g : List Word → List Word → Nat → Word) : FireRes :=
  let c := s.fly.cur
  match operand c h true c.left with
  | .error r => .trap r
  | .ok xs =>
    match (match rfmt with | some f => operandOf c h [f] c.right | none => operand c h true c.right) with
    | .error r => .trap r
    | .ok ys =>
      match firedMask c h with
      | .error r => .trap r
      | .ok m => .ok (sendAll c (s.sys.now + 1 + c.extra) tgts
          (resultToks c out (masked m ((List.range c.n).map (g xs ys)))) s.fly)

/-- An ILLOP of R268 for a firing in which some element fires. -/
def misuseIf (s : State) (h : Head) (bad : Bool) (code : Nat) (k : FireRes) : FireRes :=
  let c := s.fly.cur
  match firedMask c h with
  | .error r => .trap r
  | .ok m => if bad && m.any id then .trap (c.illop code) else k

/-- VGEN (R200, R259): runs of `gN` + index · d over indices 0 to N − 1, one run per cycle. -/
def vgenFire (s : State) (x : GWord) : FireRes :=
  let c := s.fly.cur
  let g := s.g (bits x.imm 0 5)
  let d : Word := (x.imm.extractLsb' 5 22).signExtend 64
  let n := s.inst.n
  let w := x.h.ty.maxRun
  scalarFire s x.h (.ok ((List.range ((n + w - 1) / w)).foldl (fun f r =>
    let xs := (List.range (min w (n - r * w))).map fun e => g + BitVec.ofNat 64 (r * w + e) * d
    sendAll c (s.sys.now + 1 + r) x.targets [vecTok c.colour c.frame (r * w) x.h.ty xs] f) s.fly))

/-- VSPL (R260): its left operand is a scalar; a run at its predicate position pairs with it as one element (R34, R223). -/
def vsplFire (s : State) (x : GWord) : FireRes :=
  let c := s.fly.cur
  match scalarOnly c x.h c.left, operand c x.h true c.left with
  | .error r, _ => .trap r
  | _, .error r => .trap r
  | .ok _, .ok xs =>
    match firedMask c x.h with
    | .error r => .trap r
    | .ok m =>
      if m.headD true then
        .ok (sendAll c (s.sys.now + 1) x.targets (runToks c.colour c.frame c.index x.h.ty (List.replicate x.imm.toNat (xs.headD 0))) s.fly)
      else .ok s.fly

/-- VLAN (R260): element `e` as a scalar under INDEX + e. -/
def vlanFire (s : State) (x : GWord) : FireRes :=
  let c := s.fly.cur
  let e := x.imm.toNat
  match operand c x.h true c.left with
  | .error r => .trap r
  | .ok xs => misuseIf s x.h (decide (e ≥ c.n)) 0x80
      (match firedMask c x.h with
       | .error r => .trap r
       | .ok m => match (masked m xs).getD e none with
         | none => .ok s.fly
         | some v => .ok (sendAll c (s.sys.now + 1 + c.extra) x.targets [scalarTok c.colour c.frame (c.index + e) x.h.ty v] s.fly))

/-- VINS (R260): element `e` replaced by the scalar at the right position. -/
def vinsFire (s : State) (x : GWord) : FireRes :=
  let c := s.fly.cur
  let e := x.imm.toNat
  match scalarOnly c x.h c.right with
  | .error r => .trap r
  | .ok _ =>
    match operand c x.h true c.left, operand c x.h true c.right with
    | .error r, _ => .trap r
    | _, .error r => .trap r
    | .ok xs, .ok ys => misuseIf s x.h (decide (e ≥ c.n)) 0x80
        (match firedMask c x.h with
         | .error r => .trap r
         | .ok m => .ok (sendAll c (s.sys.now + 1 + c.extra) x.targets
             (resultToks c x.h.ty (masked m (xs.set e (ys.headD 0)))) s.fly))

/-- VSLD (R261). -/
def vsldFire (s : State) (x : GWord) : FireRes :=
  let c := s.fly.cur
  let k := x.imm.toNat
  let len := c.n - 1
  let r := runB s x.h none x.h.ty x.targets fun a b e => if e + k ≤ len then a.getD (e + k) 0 else b.getD (e + k - len - 1) 0
  match r with
  | .ok f => misuseIf s x.h (decide (k > len + 1)) 0x81 (.ok f)
  | r => r

/-- VCAT (R261). -/
def vcatFire (s : State) (x : GWord) : FireRes :=
  let lo (a : Word) : Word := (a.extractLsb' 0 32).setWidth 64
  if x.imm = 0 then
    mapBinary s x.h true .x64 1 x.targets fun _ a b => lo a ||| (lo b <<< 32)
  else
    mapUnaryOf s x.h [.x64] x.h.ty 1 x.targets fun _ a => if x.imm = 1 then lo a else a >>> 32

/-- VCMPR (R262): the kept elements to T0, their count to T1. -/
def vcmprFire (s : State) (x : GWord) : FireRes :=
  let c := s.fly.cur
  match operand c x.h true c.left with
  | .error r => .trap r
  | .ok xs =>
    match operandOf c x.h [.prd] c.right with
    | .error r => .trap r
    | .ok ys =>
      match firedMask c x.h with
      | .error r => .trap r
      | .ok m =>
        if m.all (!·) then .ok s.fly
        else
          let ks := kept (List.zipWith (fun b y => b && y.getLsbD 0) m ys) xs
          let lv := s.sys.now + 1 + c.extra
          let t0 := if ks.isEmpty then [] else
            if c.vec then runToks c.colour c.frame c.index x.h.ty ks else [scalarTok c.colour c.frame c.index x.h.ty (ks.headD 0)]
          .ok (sendAll c lv [x.t1] [scalarTok c.colour c.frame c.index .i32 (BitVec.ofNat 64 ks.length)]
            (sendAll c lv [x.t0] t0 s.fly))

/-- The value of an element of VSUM, VDOT and VSCAN. -/
def termOf (ty : Fmt) (a : Word) : FVal := (fpOf ty).decode a.toNat

/-- The exact sum of floating-point terms, with the special cases and zero signs of R264. -/
def exactSum (r : Rnd) (ts : List FVal) : FVal :=
  match ts.foldl (FVal.add r) (FVal.fin false 0 0) with
  | .fin _ 0 _ =>
    if ts.all fun t => match t with | .fin s 0 _ => s | _ => false then .fin true 0 0
    else .fin (decide (r = .rm)) 0 0
  | v => v

/-- The sum of a run (R264). -/
def sumOf (ty : Fmt) (r : Rnd) (xs : List Word) : Word :=
  if ty.isInt then truncS (intWidth ty) ((xs.map (readS (intWidth ty))).sum)
  else BitVec.ofNat 64 ((fpOf ty).encode r (exactSum r (xs.map (termOf ty))))

/-- The greatest or least element of a run (R265). -/
def pickOf (ty : Fmt) (least num : Bool) (xs : List Word) : Word :=
  match xs with
  | [] => 0
  | a :: t =>
    if ty.isInt then
      let w := intWidth ty
      t.foldl (fun a b => if least then (if readS w b < readS w a then b else a) else (if readS w b > readS w a then b else a)) a
    else
      let p := fpOf ty
      -- a single NaN is made canonical by picking it against itself
      t.foldl (fpPick p least num) (fpPick p least num a a)

/-- VDOT (R264): exact products, exact sum, one rounding. -/
def dotOf (ty : Fmt) (r : Rnd) (ps : List (Word × Word)) : Word :=
  if ty.isInt then
    let w := intWidth ty
    truncS w ((ps.map fun p => readS w p.1 * readS w p.2).sum)
  else BitVec.ofNat 64 ((fpOf ty).encode r (exactSum r (ps.map fun p => (termOf ty p.1).mul (termOf ty p.2))))

/-- VDOT's firing: a reduction of two runs (R248). -/
def vdotFire (s : State) (x : GWord) : FireRes :=
  let c := s.fly.cur
  match operand c x.h false c.left with
  | .error r => .trap r
  | .ok xs =>
    match operand c x.h false c.right with
    | .error r => .trap r
    | .ok ys =>
      match firedMask c x.h with
      | .error r => .trap r
      | .ok m =>
        let ps := kept m (xs.zip ys)
        if ps.isEmpty then .ok s.fly
        else yieldScalar s x.h.ty.compute 4 x.targets (dotOf x.h.ty.compute x.h.rnd ps)

/-- VSCAN (R264, R265): each element that fires gets the result over the run's elements up to it, whether they fired or not: VSCAN is none of the
reductions of R248. -/
def vscanFire (s : State) (x : GWord) : FireRes :=
  let c := s.fly.cur
  let ty := x.h.ty.compute
  match operand c x.h false c.left with
  | .error r => .trap r
  | .ok xs =>
    match firedMask c x.h with
    | .error r => .trap r
    | .ok m =>
      let f (ys : List Word) : Word :=
        if x.imm = 0 then sumOf ty x.h.rnd ys else pickOf ty (x.imm = 2) (x.h.mod.getLsbD 0) ys
      let rs := (List.range c.n).map fun e => f (xs.take (e + 1))
      .ok (sendAll c (s.sys.now + 4 + c.extra) x.targets (resultToks c ty (masked m rs)) s.fly)

/-- The two elements of a group that rank highest (R71), as positions in ascending order. -/
def top2 (ty : Fmt) (g : List Word) : Nat × Nat :=
  let beats (i j : Nat) : Bool :=   -- i ranks above j
    let a := rankVal ty (g.getD i 0)
    let b := rankVal ty (g.getD j 0)
    ranksAbove a b || (!ranksAbove b a && i < j)
  let ks := (List.range 4).filter fun i => ((List.range 4).filter fun j => j != i && beats j i).length < 2
  (ks.getD 0 0, ks.getD 1 0)

/-- SEL24 (R263). -/
def sel24Fire (s : State) (x : GWord) : FireRes :=
  let c := s.fly.cur
  match operand c x.h true c.left with
  | .error r => .trap r
  | .ok xs => misuseIf s x.h (!c.vec || c.index % 4 != 0 || c.n % 4 != 0) 0x82
      (match firedMask c x.h with
       | .error r => .trap r
       | .ok m =>
         let groups := (List.range (c.n / 4)).map fun q =>
           if ((List.range 4).all fun j => m.getD (4 * q + j) false) then
             let g := (xs.drop (4 * q)).take 4
             let (i, j) := top2 x.h.ty g
             some ((g.getD i 0, g.getD j 0), BitVec.ofNat 64 (i + 4 * j))
           else none
         let rs := groupRuns 0 groups
         let lv := s.sys.now + 4 + c.extra
         let t0 := rs.flatMap fun (b, gs) =>
           runToks c.colour c.frame (c.index / 2 + 2 * b) x.h.ty (gs.flatMap fun g => [g.1.1, g.1.2])
         let t1 := rs.flatMap fun (b, gs) => runToks c.colour c.frame (c.index / 4 + b) .i32 (gs.map Prod.snd)
         .ok (sendAll c lv [x.t1] t1 (sendAll c lv [x.t0] t0 s.fly)))

/-- round(a − b) and EX2 of it, as F32 encodings (R266, R267); +0 for a score of −infinity. -/
def weight (r : Rnd) (a b : Word) : Word :=
  match fp32.decode a.toNat with
  | .inf true => 0
  | v => BitVec.ofNat 64 (fp32.exp2 r (fp32.decode (fp32.encode r (v.add r (fp32.decode b.toNat).neg))))

/-- RSTAT on a run of scores and a state (R266): the new state and the step. -/
def rstatOf (r : Rnd) (ss : List Word) (q : Word) : Word × Word :=
  let lo (a : Word) : Word := (a.extractLsb' 0 32).setWidth 64
  let m := lo q
  let l := q >>> 32
  let mx := pickOf .f32 false false ss
  let m2 := if (fp32.decode m.toNat).isNan || (fp32.decode mx.toNat).isNan then BitVec.ofNat 64 fp32.qnan
    else fpPick fp32 false false m mx
  let c := weight r m m2
  let ps := ss.map fun a => weight r a m2
  let l2 := BitVec.ofNat 64 (fp32.encode r (exactSum r
    ((fp32.decode l.toNat).mul (fp32.decode c.toNat) :: ps.map fun p => fp32.decode p.toNat)))
  ((l2 <<< 32) ||| m2, (c <<< 32) ||| m2)

/-- RSTAT's firing: over the elements that fire. -/
def rstatFire (s : State) (x : GWord) : FireRes :=
  let c := s.fly.cur
  match scalarOnly c x.h c.right with
  | .error r => .trap r
  | .ok _ =>
    match operand c x.h false c.left, operandOf c x.h [.x64] c.right with
    | .error r, _ => .trap r
    | _, .error r => .trap r
    | .ok xs, .ok ys =>
      match firedMask c x.h with
      | .error r => .trap r
      | .ok m =>
        let ss := kept m xs
        if ss.isEmpty then .ok s.fly
        else
          let (t0, t1) := rstatOf x.h.rnd ss (ys.headD 0)
          let lv := s.sys.now + 8 + c.extra
          .ok (sendAll c lv [x.t1] [scalarTok c.colour c.frame c.index .x64 t1]
            (sendAll c lv [x.t0] [scalarTok c.colour c.frame c.index .x64 t0] s.fly))

/-- RSCL on one element (R267). -/
def rsclOf (r : Rnd) (k : Nat) (q a : Word) : Word :=
  let lo (a : Word) : Word := (a.extractLsb' 0 32).setWidth 64
  let v := fp32.decode a.toNat
  let h := fp32.decode (q >>> 32).toNat
  match k with
  | 0 => weight r a (lo q)
  | 1 => BitVec.ofNat 64 (fp32.encode r (v.mul h))
  | _ => BitVec.ofNat 64 (fp32.div r v h)

/-- RSCL's firing. -/
def rsclFire (s : State) (x : GWord) : FireRes :=
  let c := s.fly.cur
  match scalarOnly c x.h c.right with
  | .error r => .trap r
  | .ok _ =>
    match operand c x.h false c.left, operandOf c x.h [.x64] c.right with
    | .error r, _ => .trap r
    | _, .error r => .trap r
    | .ok xs, .ok ys =>
      match firedMask c x.h with
      | .error r => .trap r
      | .ok m => .ok (sendAll c (s.sys.now + 6 + c.extra) x.targets
          (resultToks c .f32 (masked m (xs.map (rsclOf x.h.rnd x.imm.toNat (ys.headD 0))))) s.fly)

/-! ### The instructions -/

/-- VGEN (R259). -/
def execVgen (x : GWord) (s : State) : Host.Outcome State Fault Refusal := finish s (vgenFire s x)

/-- VSPL (R260). -/
def execVspl (x : GWord) (s : State) : Host.Outcome State Fault Refusal := finish s (vsplFire s x)

/-- VLAN (R260). -/
def execVlan (x : GWord) (s : State) : Host.Outcome State Fault Refusal := finish s (vlanFire s x)

/-- VINS (R260). -/
def execVins (x : GWord) (s : State) : Host.Outcome State Fault Refusal := finish s (vinsFire s x)

/-- VSLD (R261). -/
def execVsld (x : GWord) (s : State) : Host.Outcome State Fault Refusal := finish s (vsldFire s x)

/-- VCAT (R261). -/
def execVcat (x : GWord) (s : State) : Host.Outcome State Fault Refusal := finish s (vcatFire s x)

/-- VPERM (R261): element `j` of the left run, `j` the right element read as unsigned 32 bits; zero beyond the run. -/
def execVperm (x : GWord) (s : State) : Host.Outcome State Fault Refusal :=
  finish s (runB s x.h (some .i32) x.h.ty x.targets fun a b e => a.getD (readU 32 (b.getD e 0)) 0)

/-- VCMPR (R262). -/
def execVcmpr (x : GWord) (s : State) : Host.Outcome State Fault Refusal := finish s (vcmprFire s x)

/-- VSEL (R261): the right element where lo ≤ (INDEX + e) mod 32 ≤ hi. -/
def execVsel (x : GWord) (s : State) : Host.Outcome State Fault Refusal :=
  finish s (mapBinary s x.h true x.h.ty 1 x.targets fun e a b =>
    let i := (s.fly.cur.index + e) % 32
    if bits x.imm 0 5 ≤ i && i ≤ bits x.imm 5 5 then b else a)

/-- VSUM (R264). -/
def execVsum (x : GWord) (s : State) : Host.Outcome State Fault Refusal :=
  finish s (reduce s x x.h.ty.compute 4 (sumOf x.h.ty.compute x.h.rnd))

/-- VMAX (R265). -/
def execVmax (x : GWord) (s : State) : Host.Outcome State Fault Refusal :=
  finish s (reduce s x x.h.ty.compute 4 (pickOf x.h.ty.compute false (x.h.mod.getLsbD 0)))

/-- VMIN (R265). -/
def execVmin (x : GWord) (s : State) : Host.Outcome State Fault Refusal :=
  finish s (reduce s x x.h.ty.compute 4 (pickOf x.h.ty.compute true (x.h.mod.getLsbD 0)))

/-- VDOT (R264). -/
def execVdot (x : GWord) (s : State) : Host.Outcome State Fault Refusal := finish s (vdotFire s x)

/-- VSCAN (R264, R265). -/
def execVscan (x : GWord) (s : State) : Host.Outcome State Fault Refusal := finish s (vscanFire s x)

/-- SEL24 (R263). -/
def execSel24 (x : GWord) (s : State) : Host.Outcome State Fault Refusal := finish s (sel24Fire s x)

/-- RSTAT (R266). -/
def execRstat (x : GWord) (s : State) : Host.Outcome State Fault Refusal := finish s (rstatFire s x)

/-- RSCL (R267). -/
def execRscl (x : GWord) (s : State) : Host.Outcome State Fault Refusal := finish s (rsclFire s x)

end Sys2Proof.Machine
end

