-- ==== Sys2Proof/Machine/Wide.lean ====
section
/-!
DEFINITION. Instruction reference: the multiplier bank (chapter 18, R269 to R284): one meaning for each instruction.
-/
namespace Sys2Proof

/-- The targets of layout XW. -/
def XWWord.targets (x : XWWord) : List Target := [x.t0, x.t1]

/-- The packed accumulator that an instruction acts on. -/
def Instr.pacc : Instr → Option Nat
  | .guard x | .wmul x | .wconv x | .wmulf x | .wmulz x | .xtr x | .xtrf x | .pclr x | .pclrFree x => some x.acc.toNat
  | _ => none

namespace Machine

/-! ### Whole positions (R269) -/

/-- The predicate of a firing with whole positions: a scalar PRD token (R269); `k` where it matches. -/
def predFire (s : State) (h : Head) (k : FireRes) : FireRes :=
  let c := s.fly.cur
  match c.pred with
  | some t =>
    if t.vec || t.fmt != .prd then .trap (c.format t h.ty)
    else
      match firedMask { c with left := none, right := none } h with
      | .error r => .trap r
      | .ok m => if m.headD true then k else .ok s.fly
  | none => k

/-- A scalar operand at a whole position, checked against TYPE (R269, R31). -/
def scalarOp (c : Firing) (h : Head) (t : Option Token) : Except TrapRec Word :=
  match scalarOnly c h t, operand c h false t with
  | .error r, _ => .error r
  | _, .error r => .error r
  | .ok _, .ok xs => .ok (xs.headD 0)

/-- A scalar operand of a fixed FMT. -/
def scalarOpOf (c : Firing) (h : Head) (f : Fmt) (t : Option Token) : Except TrapRec Word :=
  match scalarOnly c h t, operandOf c h [f] t with
  | .error r, _ => .error r
  | _, .error r => .error r
  | .ok _, .ok xs => .ok (xs.headD 0)

/-- Tokens leave at the cycle `lat` after issue (R274). -/
def yieldToks (s : State) (lat : Nat) (tgts : List Target) (ts : List Token) : FireRes :=
  .ok (sendAll s.fly.cur (s.sys.now + lat) tgts ts s.fly)

/-- A run under the firing's INDEX, as tokens within the limits of R25. -/
def yieldRun (s : State) (out : Fmt) (lat : Nat) (tgts : List Target) (xs : List Word) : FireRes :=
  let c := s.fly.cur
  yieldToks s lat tgts (runToks c.colour c.frame c.index out xs)

/-- One scalar under the firing's tag. -/
def yieldOne (s : State) (out : Fmt) (lat : Nat) (tgts : List Target) (x : Word) : FireRes :=
  let c := s.fly.cur
  yieldToks s lat tgts [scalarTok c.colour c.frame c.index out x]

/-! ### Packed accumulators (R271 to R276) -/

/-- Another live instance of the cluster holds accumulator `p` (R272). -/
def heldElsewhere (s : State) (p : Nat) : Bool :=
  let c := s.fly.cur
  s.fly.pending.any fun e => e.1 / 1024 == c.clu && e.1 % 1024 != c.frame && (tabFind e.2.opens p).isSome

/-- A firing of another thread of the cluster that became complete earlier still waits for accumulator `p` (R272). -/
def olderWaits (s : State) (p : Nat) : Bool :=
  let c := s.fly.cur
  s.fly.agenda.any fun w => match w.act with
    | .fire f => f.clu == c.clu && f.frame != c.frame && f.since < c.since
        && ((s.sys.frame f.clu f.reg f.frm).instr f.idx).any (·.pacc == some p)
    | _ => false

/-- The copy of accumulator `p` that the acting instance sees (R272). -/
def openCopy (s : State) (p : Nat) : PAcc := (tabFind s.inst.opens p).getD (s.sys.pacc s.fly.cur.clu p)

/-- The flight with the open copy of `p` changed. -/
def setOpen (f : Fly) (p : Nat) (v : PAcc) : Fly := f.modInst f.cur fun i => { i with opens := tabPut i.opens p v }

/-- A GUARD trap (R284): the code, the accumulator and its count. -/
def guardTrap (c : Firing) (code p : Nat) (v : PAcc) : TrapRec :=
  { cause := 9, contained := false, index := c.index, info := BitVec.ofNat 64 (code + p * 2 ^ 8 + v.count.toNat * 2 ^ 16), va := 0 }

/-- An instruction on accumulator `p`: it waits while another instance holds `p`, and behind the firings that have waited for `p` longer; `k` has
the open copy (R272). -/
def onAcc (s : State) (h : Head) (p : Nat) (k : PAcc → FireRes) : FireRes :=
  predFire s h (if heldElsewhere s p || ((tabFind s.inst.opens p).isNone && olderWaits s p) then .wait else k (openCopy s p))

/-- The checks that every instruction but GUARD and PSTAT makes of its accumulator: FREE, then colour, then mode (R276 to R280, R284). -/
def accOk (c : Firing) (p : Nat) (v : PAcc) (modeOk : Bool) : Option TrapRec :=
  if !v.bound then some (guardTrap c 0x9A p v)
  else if v.colour ≠ c.colour then some c.owner
  else if !modeOk then some (guardTrap c 0x99 p v)
  else none

/-- The open copy becomes `v` and PRD true is yielded. -/
def accDone (s : State) (lat : Nat) (tgts : List Target) (p : Nat) (v : PAcc) : FireRes :=
  yieldOne { s with fly := setOpen s.fly p v } .prd lat tgts 1

/-- The guard budget of a mode (R61, R64). -/
def budget (mode : BitVec 3) : Nat :=
  if mode = 0 then 8589934591 else if mode = 2 then 127 else 65535

/-- k and s of an integer mode (R61). -/
def modeKS (mode : BitVec 3) : Nat × Nat :=
  if mode = 0 then (1, 64) else if mode = 1 then (2, 32) else if mode = 2 then (4, 16) else (2, 32)

/-- The element range of an integer mode (R61): its width. -/
def modeWidth (mode : BitVec 3) : Nat := if mode = 0 then 16 else if mode = 2 then 4 else 8

/-- Saturation to the element range (R277). -/
def satElem (mode : BitVec 3) (x : Word) : Int := saturate (modeWidth mode) (readS 32 x)

/-- A long operand's 1,024 bits: the elements of a run, zero beyond LEN. -/
def longBits (xs : List Word) : Nat := packElems 64 (xs.take 16)

/-- Lane `j` of an accumulator in modes 4 and 5 (R279). -/
def PAcc.fp (v : PAcc) (j : Nat) : FVal := fp64.decode ((v.value.toNat / 2 ^ (64 * j)) % 2 ^ 64)

/-- Eight F64 lanes as an accumulator value. -/
def fpLanes (zs : List Nat) : BitVec 1088 := BitVec.ofNat 1088 (packElems 64 (zs.map (BitVec.ofNat 64)))

/-- The slots of an accumulator from the least significant up, with borrows (R65). -/
def slots (s : Nat) : Nat → Nat → Nat → List Int
  | 0, _, _ => []
  | n + 1, val, borrow =>
    let v := val % 2 ^ s + borrow
    if v ≥ 2 ^ (s - 1) then ((v : Int) - 2 ^ s) :: slots s n (val / 2 ^ s) 1
    else (v : Int) :: slots s n (val / 2 ^ s) 0

/-- The selected slots of a mode in ascending order (R61, R280). -/
def selected (mode : BitVec 3) : List Nat :=
  if mode = 3 then List.range 33
  else
    let k := (modeKS mode).1
    (List.range 16).map fun c => k * c + k - 1

/-! ### Lanes (R273, R281 to R284) -/

/-- Lane `l` is reserved by a live instance: the acting one, or another. -/
def laneMine (s : State) (l : Nat) : Bool := s.inst.lanes.contains l
def laneReserved (s : State) (l : Nat) : Bool :=
  s.fly.pending.any fun e => e.1 / 1024 == s.fly.cur.clu && e.2.lanes.contains l

def laneFree (s : State) (l : Nat) : Bool := !(s.sys.lane s.fly.cur.clu l).alloc && !laneReserved s l

/-- The check of lanes base to base + n − 1 (R284): base and range, then the states of the lanes. -/
def lanesOk (s : State) (base : Word) (n : Nat) : Option TrapRec :=
  let c := s.fly.cur
  let b := base.toNat
  if b ≥ 4096 || b + n > 4096 then some (c.illop 0x90)
  else
    let ls := (List.range n).map (b + ·)
    if ls.any fun l => !laneMine s l && !(s.sys.lane c.clu l).alloc then some (c.illop 0x91)
    else if ls.any fun l => !laneMine s l && (s.sys.lane c.clu l).colour != c.colour then some c.owner
    else none

/-- An instruction on the lanes at its left operand: `k` has the base (R282). -/
def onLanes (s : State) (h : Head) (n : Nat) (base : Except TrapRec Word) (k : Nat → FireRes) : FireRes :=
  match base with
  | .error r => .trap r
  | .ok b => predFire s h (match lanesOk s b n with | some r => .trap r | none => k b.toNat)

/-- The flight with lane effects added, one per lane from `base`. -/
def laneEffs (f : Fly) (base : Nat) (ops : List LaneOp) : Fly :=
  (ops.zipIdx).foldl (fun f (o, j) => f.addEff (.lane (base + j) o)) f

/-- Where the lowest run of `n` free lanes begins: `bs` says which lanes from `at_` on are free, `r` how many just before `at_` are. -/
def lowestRun (n : Nat) : List Bool → Nat → Nat → Option Nat
  | [], at_, r => if r ≥ n then some (at_ - r) else none
  | b :: bs, at_, r => if r ≥ n then some (at_ - r) else lowestRun n bs (at_ + 1) (if b then r + 1 else 0)

/-! ### Firings -/

/-- GUARD (R276). -/
def guardFire (s : State) (x : XWWord) : FireRes :=
  let c := s.fly.cur
  let p := x.acc.toNat
  onAcc s x.h p fun v =>
    if v.bound && v.colour != c.colour then .trap c.owner
    else accDone s 2 x.targets p { bound := true, colour := c.colour, mode := x.mode, value := 0, count := 0 }

/-- PCLR and PCLR.free (R276). -/
def pclrFire (s : State) (x : XWWord) (free : Bool) : FireRes :=
  let p := x.acc.toNat
  onAcc s x.h p fun v =>
    match accOk s.fly.cur p v true with
    | some r => .trap r
    | none => accDone s 2 x.targets p (if free then PAcc.reset else { v with value := 0, count := 0 })

/-- PSTAT's word (R276). -/
def PAcc.status (v : PAcc) : Word :=
  if v.bound then BitVec.ofNat 64 (v.colour * 2 ^ 52 + 2 ^ 51 + v.mode.toNat * 2 ^ 48 + v.count.toNat)
  else BitVec.ofNat 64 (7 * 2 ^ 48)

/-- PSTAT (R276): it never waits. -/
def pstatFire (s : State) (x : XWWord) : FireRes :=
  let c := s.fly.cur
  predFire s x.h
    (let v := openCopy s x.acc.toNat
     if v.bound && v.colour != c.colour then .trap c.owner else yieldOne s .x64 2 x.targets v.status)

/-- PACKS (R277). -/
def packsFire (s : State) (x : XWWord) : FireRes :=
  let c := s.fly.cur
  match operand c x.h false c.left with
  | .error r => .trap r
  | .ok xs =>
    let (k, sz) := modeKS x.mode
    predFire s x.h
      (if xs.length > k then .trap (c.illop 0x92)
       else
        let a : Int := (xs.zipIdx.map fun (v, i) => satElem x.mode v * 2 ^ (sz * i)).sum
        yieldOne s .x64 2 x.targets (BitVec.ofInt 64 a))

/-- PACKL's 1,024 bits (R277). -/
def packlOf (mode : BitVec 3) (us : List Word) : BitVec 1024 :=
  if mode = 3 then BitVec.ofInt 1024 ((us.zipIdx.map fun (v, m) => satElem mode v * 2 ^ (32 * m)).sum)
  else
    let (k, sz) := modeKS mode
    BitVec.ofInt 1024 ((us.zipIdx.map fun (v, q) => satElem mode v * 2 ^ (sz * (k * (q % 16) + k - 1 - q / 16))).sum)

/-- PACKL (R277). -/
def packlFire (s : State) (x : XWWord) : FireRes :=
  let c := s.fly.cur
  match operand c x.h false c.left, operand c x.h false c.right with
  | .error r, _ => .trap r
  | _, .error r => .trap r
  | .ok xs, .ok ys =>
    predFire s x.h
      (if x.mode = 0 ∧ xs.length > 16 then .trap (c.illop 0x92)
       else
        -- the right run's elements are numbered from 32
        let us := (xs ++ List.replicate (32 - xs.length) 0).take 32 ++ ys
        yieldRun s .x64 3 x.targets ((List.range 16).map fun e => (packlOf x.mode us).extractLsb' (64 * e) 64))

/-- WMUL and WCONV (R278). -/
def wmulFire (s : State) (x : XWWord) (conv : Bool) : FireRes :=
  let c := s.fly.cur
  let p := x.acc.toNat
  match scalarOp c x.h c.left, operand c x.h false c.right with
  | .error r, _ => .trap r
  | _, .error r => .trap r
  | .ok a, .ok ys =>
    onAcc s x.h p fun v =>
      match accOk c p v (if conv then v.mode = 3 else v.mode.toNat ≤ 2) with
      | some r => .trap r
      | none =>
        if v.count.toNat = budget v.mode then .trap (guardTrap c 0x98 p v)
        else
          let b : Int := (BitVec.ofNat 1024 (longBits ys)).toInt
          accDone s 6 x.targets p { v with value := v.value + BitVec.ofInt 1088 (a.toInt * b), count := v.count + 1 }

/-- WMULF and WMULZ (R279, R67, R68). -/
def wmulfFire (s : State) (x : XWWord) (cplx : Bool) : FireRes :=
  let c := s.fly.cur
  let p := x.acc.toNat
  match scalarOp c x.h c.left, operand c x.h false c.right with
  | .error r, _ => .trap r
  | _, .error r => .trap r
  | .ok a, .ok ys =>
    onAcc s x.h p fun v =>
      match accOk c p v (v.mode = if cplx then 5 else 4) with
      | some r => .trap r
      | none =>
        let av := fp64.decode a.toNat
        let b (j : Nat) : FVal := fp64.decode (ys.getD j 0).toNat
        let im (q : Nat) : FVal := if x.jf then (b (2 * q + 1)).neg else b (2 * q + 1)
        let u (j : Nat) : FVal :=
          if !cplx then b j
          else if j % 2 = 0 then (if x.xf then (im (j / 2)).neg else b j)
          else (if x.xf then b (j - 1) else im (j / 2))
        let zs := (List.range 8).map fun j => fp64.encode x.h.rnd ((v.fp j).add x.h.rnd (av.mul (u j)))
        accDone s 9 x.targets p
          { v with value := fpLanes zs, count := if v.count = BitVec.allOnes 34 then v.count else v.count + 1 }

/-- XTR (R280). -/
def xtrFire (s : State) (x : XWWord) : FireRes :=
  let c := s.fly.cur
  let p := x.acc.toNat
  match scalarOp c x.h c.left with
  | .error r => .trap r
  | .ok base =>
    onAcc s x.h p fun v =>
      let n := if v.bound && v.mode = 3 then 33 else 16
      match lanesOk s base n with
      | some r => .trap r
      | none =>
        match accOk c p v (v.mode.toNat ≤ 3) with
        | some r => .trap r
        | none =>
          let sz := (modeKS v.mode).2
          let cs := slots sz (1088 / sz) v.value.toNat 0
          let f := laneEffs s.fly base.toNat ((selected v.mode).map fun m => .add (cs.getD m 0))
          accDone { s with fly := f } 5 x.targets p { v with value := 0, count := 0 }

/-- XTRF (R280). -/
def xtrfFire (s : State) (x : XWWord) : FireRes :=
  let c := s.fly.cur
  let p := x.acc.toNat
  match scalarOp c x.h c.left with
  | .error r => .trap r
  | .ok base =>
    onAcc s x.h p fun v =>
      match lanesOk s base 8 with
      | some r => .trap r
      | none =>
        match accOk c p v (v.mode = 4 || v.mode = 5) with
        | some r => .trap r
        | none =>
          let mode := bits x.h.mod 1 2
          let f := laneEffs s.fly base.toNat ((List.range 8).map fun j =>
            .fadd (BitVec.ofNat 64 ((v.value.toNat / 2 ^ (64 * j)) % 2 ^ 64)) mode)
          accDone { s with fly := f } 5 x.targets p { v with value := 0, count := 0 }

/-- ZALLOC (R281). -/
def zallocFire (s : State) (x : XWWord) : FireRes :=
  let c := s.fly.cur
  let n := x.count.toNat
  predFire s x.h
    (match lowestRun n ((List.range 4096).map (laneFree s)) 0 0 with
     | none => yieldOne s .x64 2 x.targets 0xFFFFFFFF
     | some b =>
       let f := s.fly.modInst c fun i => { i with lanes := i.lanes ++ (List.range n).map (b + ·) }
       yieldOne { s with fly := f } .x64 2 x.targets (BitVec.ofNat 64 b))

/-- ZRD (R282). -/
def zrdFire (s : State) (x : XWWord) : FireRes :=
  let c := s.fly.cur
  onLanes s x.h x.count.toNat (scalarOp c x.h c.left) fun b =>
    let xs := (List.range x.count.toNat).map fun j => if laneMine s (b + j) then 0 else (s.sys.lane c.clu (b + j)).val
    yieldRun s .x64 3 x.targets xs

/-- ZWR (R282). -/
def zwrFire (s : State) (x : XWWord) : FireRes :=
  let c := s.fly.cur
  match operand c x.h false c.right with
  | .error r => .trap r
  | .ok ys =>
    match scalarOp c x.h c.left with
    | .error r => .trap r
    | .ok base =>
      predFire s x.h
        (if base.toNat ≥ 4096 || base.toNat + x.count.toNat > 4096 then .trap (c.illop 0x90)
         else if ys.length ≠ x.count.toNat then
          -- the lane checks of R284 come first
          match lanesOk s base x.count.toNat with
          | some r => .trap r
          | none => .trap (c.illop 0x93)
         else
          match lanesOk s base x.count.toNat with
          | some r => .trap r
          | none => .ok (laneEffs s.fly base.toNat (ys.map .put)))

/-- One lane of ZCVT (R283). -/
def zcvtLane (r : Rnd) (n : Int) (v : Word) : Word :=
  if v.getLsbD 56 then BitVec.ofNat 64 fp64.qnan
  else
    let i := readS 56 v
    BitVec.ofNat 64 (fp64.encode r (.fin (decide (i < 0)) i.natAbs n))

/-- ZCVT (R283): every lane is read before any is written. -/
def zcvtFire (s : State) (x : XWWord) : FireRes :=
  let c := s.fly.cur
  match scalarOpOf c x.h .i32 c.right with
  | .error r => .trap r
  | .ok e =>
    onLanes s x.h x.count.toNat (scalarOpOf c x.h .x64 c.left) fun b =>
      let ops := (List.range x.count.toNat).map fun j =>
        LaneOp.put (zcvtLane x.h.rnd (readS 32 e) (if laneMine s (b + j) then 0 else (s.sys.lane c.clu (b + j)).val))
      yieldOne { s with fly := laneEffs s.fly b ops } .prd 4 x.targets 1

/-! ### The instructions -/

/-- GUARD (R276). -/
def execGuard (x : XWWord) (s : State) : Host.Outcome State Fault Refusal := finish s (guardFire s x)

/-- PACKS (R277). -/
def execPacks (x : XWWord) (s : State) : Host.Outcome State Fault Refusal := finish s (packsFire s x)

/-- PACKL (R277). -/
def execPackl (x : XWWord) (s : State) : Host.Outcome State Fault Refusal := finish s (packlFire s x)

/-- WMUL (R278). -/
def execWmul (x : XWWord) (s : State) : Host.Outcome State Fault Refusal := finish s (wmulFire s x false)

/-- WCONV (R278). -/
def execWconv (x : XWWord) (s : State) : Host.Outcome State Fault Refusal := finish s (wmulFire s x true)

/-- WMULF (R279, R67). -/
def execWmulf (x : XWWord) (s : State) : Host.Outcome State Fault Refusal := finish s (wmulfFire s x false)

/-- WMULZ (R279, R68). -/
def execWmulz (x : XWWord) (s : State) : Host.Outcome State Fault Refusal := finish s (wmulfFire s x true)

/-- XTR (R280). -/
def execXtr (x : XWWord) (s : State) : Host.Outcome State Fault Refusal := finish s (xtrFire s x)

/-- XTRF (R280). -/
def execXtrf (x : XWWord) (s : State) : Host.Outcome State Fault Refusal := finish s (xtrfFire s x)

/-- PCLR (R276). -/
def execPclr (x : XWWord) (s : State) : Host.Outcome State Fault Refusal := finish s (pclrFire s x false)

/-- PCLR.free (R276): the accumulator becomes FREE at commit. -/
def execPclrFree (x : XWWord) (s : State) : Host.Outcome State Fault Refusal := finish s (pclrFire s x true)

/-- PSTAT (R276). -/
def execPstat (x : XWWord) (s : State) : Host.Outcome State Fault Refusal := finish s (pstatFire s x)

/-- ZALLOC (R281). -/
def execZalloc (x : XWWord) (s : State) : Host.Outcome State Fault Refusal := finish s (zallocFire s x)

/-- ZFREE (R281): the lanes are freed at commit. -/
def execZfree (x : XWWord) (s : State) : Host.Outcome State Fault Refusal :=
  finish s (onLanes s x.h x.count.toNat (scalarOp s.fly.cur x.h s.fly.cur.left) fun b => .ok (s.fly.addEff (.zfree b x.count.toNat)))

/-- ZCLR (R282): the lanes become zero at commit. -/
def execZclr (x : XWWord) (s : State) : Host.Outcome State Fault Refusal :=
  finish s (onLanes s x.h x.count.toNat (scalarOp s.fly.cur x.h s.fly.cur.left) fun b =>
    .ok (laneEffs s.fly b (List.replicate x.count.toNat (.put 0))))

/-- ZRD (R282). -/
def execZrd (x : XWWord) (s : State) : Host.Outcome State Fault Refusal := finish s (zrdFire s x)

/-- ZWR (R282). -/
def execZwr (x : XWWord) (s : State) : Host.Outcome State Fault Refusal := finish s (zwrFire s x)

/-- ZCVT (R283). -/
def execZcvt (x : XWWord) (s : State) : Host.Outcome State Fault Refusal := finish s (zcvtFire s x)

end Machine
end Sys2Proof
end

