-- ==== Sys2Proof/Machine/MemI.lean ====
section
/-!
DEFINITION. Instruction reference: memory operations, full/empty words, atomics, fences and engine commands (chapter 19, R301 to R321): one
meaning for each instruction. A firing sends its access to the region's port tile; what the access does there and at the home slice is the
meaning of the events TRANSLATE, ACCESS_PERFORM and ACCESS_RETIRE.
-/
namespace Sys2Proof.Machine

/-! ### Shared forms -/

/-- The data operand at a whole right position, checked against TYPE (R301); `scalar` where a run is not admitted. -/
def dataOp (c : Firing) (h : Head) (scalar : Bool) : Except TrapRec (List Word) :=
  match (if scalar then scalarOnly c h c.right else .ok ()), operand c h true c.right with
  | .error r, _ => .error r
  | _, .error r => .error r
  | .ok _, .ok ds => .ok ds

/-- A firing with a scalar address at its left whole position: both operands are checked, then the predicate (R28); `k` has the address, its MFMT
and the data (R301, R302). -/
def onAddr (s : State) (x : MWord) (mf scalar : Bool) (k : Nat → Nat → List Word → FireRes) : FireRes :=
  let c := s.fly.cur
  match scalarOnly c x.h c.left, addrWords c x.h c.left, dataOp c x.h scalar with
  | .error r, _, _ => .trap r
  | _, .error r, _ => .trap r
  | _, _, .error r => .trap r
  | .ok _, .ok ws, .ok ds =>
    predFire s x.h <|
      match addrOf c mf x.off (ws.headD 0) with
      | .error r => .trap r
      | .ok (ea, m) => k ea m ds

/-- MFMT may be non-zero at TYPE I32 alone (R302). -/
def mfOk (x : MWord) : Bool := x.h.ty == .i32

/-- MISALIGN with its code; `%tva` is the faulting address (R343). -/
def misalign (c : Firing) (code va : Nat) : TrapRec := { misuse 2 code c.index with va := va }

/-- LD and LDV (R308): `n` elements from one address. -/
def loadFire (s : State) (x : MWord) (n : Nat) (vec : Bool) : FireRes :=
  onAddr s x (mfOk x) false fun ea m _ =>
    sendAccess s { newAccessM s x .ld false with n := n, vec := vec, segs := [(ea, (n * memBits x.h.ty m + 7) / 8, m)] } s.fly

/-- ST and STV (R308): a run of elements from one address. -/
def storeFire (s : State) (x : MWord) (scalar : Bool) : FireRes :=
  onAddr s x (mfOk x) scalar fun ea m ds =>
    let w := memBits x.h.ty m
    let a := newAccessM s x .st true
    sendAccess s { a with n := ds.length, segs := [(ea, (ds.length * w + 7) / 8, m)], wr := runBytes ea w (ds.map (memStore m)) } s.fly

/-- LDG and STSC (R308): each element has its own address; positions pair by overlap, and a per-element predicate selects elements. A firing is
one access of the elements that fire (R95, R167), from the first of them to the last; `skip` are the indices between that do not. -/
def gatherFire (s : State) (x : MWord) (scatter : Bool) : FireRes :=
  let c := s.fly.cur
  match addrWords c x.h c.left, operand c x.h true c.right with
  | .error r, _ => .trap r
  | _, .error r => .trap r
  | .ok ws, .ok ds =>
    match firedMask c x.h with
    | .error r => .trap r
    | .ok m =>
      let els := ((m.zip ws).zipIdx.filter fun p => p.1.1).map fun p => (p.2, p.1.2)
      match addrsOf c (mfOk x) x.off (els.map Prod.snd), els with
      | .error r, _ => .trap r
      | .ok _, [] => .ok s.fly
      | .ok as, e0 :: _ =>
        let es := (els.zip as).map fun p => (p.1.1, p.2.1, p.2.2)
        let last := (es.getLastD (e0.1, 0, 0)).1
        let a := newAccessM s x (if scatter then .st else .ld) scatter
        sendAccess s { a with
          index := c.index + e0.1, len := last - e0.1, n := es.length, vec := c.vec, y := 1,
          skip := ((List.range (last - e0.1)).filter fun k => !m.getD (e0.1 + k) true).map (c.index + e0.1 + ·),
          segs := es.map fun e => (e.2.1, (memBits x.h.ty e.2.2 + 7) / 8, e.2.2),
          wr := es.flatMap fun e => match ds[e.1]? with
            | some d => runBytes e.2.1 (memBits x.h.ty e.2.2) [memStore e.2.2 d]
            | none => [] } s.fly

/-- PREF (R310): an address or a run of addresses. -/
def prefFire (s : State) (x : MWord) : FireRes :=
  let c := s.fly.cur
  match addrWords c x.h c.left with
  | .error r => .trap r
  | .ok ws =>
    predFire s x.h <|
      match addrsOf c false x.off ws with
      | .error r => .trap r
      | .ok as => sendAccess s { newAccessM s x .pref false with len := as.length - 1, segs := as.map fun a => (a.1, 1, 0) } s.fly

/-- LDE, STF and CLRF (R311): one aligned word. -/
def wordFire (s : State) (x : MWord) (op : AccOp) (released : Bool) : FireRes :=
  let c := s.fly.cur
  onAddr s x false true fun ea _ ds =>
    if ea % 8 ≠ 0 then .trap (misalign c 0xB2 ea)
    else sendAccess s { newAccessM s x op released with segs := [(ea, 8, 0)], wr := if op = .stf then runBytes ea 64 ds else [] } s.fly

/-- The width of an atomic by the shape of its right operand (R316), if the table admits it: for ASWP an X64 run of 2, for ACAS a run of 2
or an X64 run of 4, else a scalar. -/
def atomWidth (op : Atom) (ty : Fmt) (vec : Bool) (n : Nat) : Option Nat :=
  let w := ty.width / 8
  match op with
  | .cas => if vec && n == 2 then some w else if vec && n == 4 && ty == .x64 then some 16 else none
  | .swp => if !vec then some w else if n == 2 && ty == .x64 then some 16 else none
  | _ => if vec then none else some w

/-- An atomic (R316, R317): shape, then alignment, then the access. -/
def atomFire (s : State) (x : MWord) (op : Atom) : FireRes :=
  let c := s.fly.cur
  onAddr s x false false fun ea _ ds =>
    match atomWidth op x.h.ty (c.right.any (·.vec)) ds.length with
    | none => .trap (c.illop 0xB4)
    | some w =>
      if ea % w ≠ 0 then .trap (misalign c 0xB1 ea)
      else
        let a := newAccessM s x (.atom op) false
        sendAccess s { a with n := w, vec := w == 16, segs := [(ea, w, 0)], a := BitVec.ofNat 256 (packElems 64 ds) } s.fly

/-- FENCE and FENCEA (R318, R319): with a trigger token under its tag, its FMT checked as an address's is (R196, R301), else once for the entry,
answering every index (R95). -/
def fenceFire (s : State) (x : MWord) (op : AccOp) : FireRes :=
  match addrWords s.fly.cur x.h s.fly.cur.left with
  | .error r => .trap r
  | .ok _ => predFire s x.h <| sendAccess s
      { newAccessM s x op false with len := if s.fly.cur.left.isNone && s.inst.iter then s.inst.n - 1 else 0 } s.fly

/-- COPY commands of live instances of the cluster that hold slot `k`. -/
def slotClaims (f : Fly) (c k : Nat) : Nat :=
  (f.accs.filter fun e => e.2.clu == c && e.2.op.engine && e.2.op != .tstage && !e.2.committed && e.2.x == k).length

/-- The transfer slot that a command takes: the one with the fewest transfers on it, lowest first (R178). -/
def pickSlot (s : State) : Nat :=
  let c := s.fly.cur.clu
  let load (k : Nat) : Nat := (if (s.sys.xfer c k).st = .free then 0 else 1) + slotClaims s.fly c k
  (List.range 32).foldl (fun b k => if load k < load b then k else b) 0

/-- COPY and COPYT (R177, R321): the command goes to the port; the transfer token names the slot and the generation it will have. The promise
of a token is PCUR at commit; what a token that is used before the commit carries there is left open (free value, log entry 7). -/
def copyFire (s : State) (x : MWord) (t : Bool) : FireRes :=
  let c := s.fly.cur
  onAddr s x false false fun ea _ _ =>
    if ea % 64 ≠ 0 then .trap (misalign c 0xB3 ea)
    else
      let k := pickSlot s
      let g := ((s.sys.xfer c.clu k).gen.toNat + slotClaims s.fly c.clu k + 1) % 2048
      let tok := BitVec.ofNat 64 (g * 2 ^ 53 + k * 2 ^ 48 + (Config.freeValue s.fly.nextSer).toNat % 2 ^ 48)
      let f := sendAll c (s.sys.now + 1) [x.t0] [scalarTok c.colour c.frame c.index .x64 tok] s.fly
      let f := f.modInst c fun i => { i with copies := i.copies ++ [(f.nextSer, tok)] }
      sendAccess s { newAccessM s x (if t then .copyt else .copy) true with t0 := .none, segs := [(ea, 64, 0)], x := k, y := g } f

/-! ### The instructions -/

/-- LD (R308): a scalar of TYPE. -/
def execLd (x : MWord) (s : State) : Host.Outcome State Fault Refusal := finish s (loadFire s x 1 false)

/-- ST (R308): a scalar, released at commit. -/
def execSt (x : MWord) (s : State) : Host.Outcome State Fault Refusal := finish s (storeFire s x true)

/-- LDV (R308): a run of N. -/
def execLdv (x : MWord) (s : State) : Host.Outcome State Fault Refusal := finish s (loadFire s x (MWord.run x) true)

/-- STV (R308): a run, released at commit. -/
def execStv (x : MWord) (s : State) : Host.Outcome State Fault Refusal := finish s (storeFire s x false)

/-- LDG (R308): gather. -/
def execLdg (x : MWord) (s : State) : Host.Outcome State Fault Refusal := finish s (gatherFire s x false)

/-- STSC (R308): scatter, released at commit. -/
def execStsc (x : MWord) (s : State) : Host.Outcome State Fault Refusal := finish s (gatherFire s x true)

/-- PREF (R310): each line is fetched by its home slice. -/
def execPref (x : MWord) (s : State) : Host.Outcome State Fault Refusal := finish s (prefFire s x)

/-- LDE (R312): the word when it is full. -/
def execLde (x : MWord) (s : State) : Host.Outcome State Fault Refusal := finish s (wordFire s x .lde false)

/-- STF (R313): the word is written and set full. -/
def execStf (x : MWord) (s : State) : Host.Outcome State Fault Refusal := finish s (wordFire s x .stf true)

/-- CLRF (R314): the word is set empty. -/
def execClrf (x : MWord) (s : State) : Host.Outcome State Fault Refusal := finish s (wordFire s x .clrf true)

/-- AADD (R316): old + d. -/
def execAadd (x : MWord) (s : State) : Host.Outcome State Fault Refusal := finish s (atomFire s x .add)

/-- AMIN (R316): the lesser, signed. -/
def execAmin (x : MWord) (s : State) : Host.Outcome State Fault Refusal := finish s (atomFire s x .min)

/-- AMAX (R316): the greater, signed. -/
def execAmax (x : MWord) (s : State) : Host.Outcome State Fault Refusal := finish s (atomFire s x .max)

/-- AMINN (R316): the lesser, unsigned. -/
def execAminn (x : MWord) (s : State) : Host.Outcome State Fault Refusal := finish s (atomFire s x .minn)

/-- AMAXN (R316): the greater, unsigned. -/
def execAmaxn (x : MWord) (s : State) : Host.Outcome State Fault Refusal := finish s (atomFire s x .maxn)

/-- AAND (R316). -/
def execAand (x : MWord) (s : State) : Host.Outcome State Fault Refusal := finish s (atomFire s x .and)

/-- AOR (R316). -/
def execAor (x : MWord) (s : State) : Host.Outcome State Fault Refusal := finish s (atomFire s x .or)

/-- AXOR (R316). -/
def execAxor (x : MWord) (s : State) : Host.Outcome State Fault Refusal := finish s (atomFire s x .xor)

/-- ASWP (R316): d. -/
def execAswp (x : MWord) (s : State) : Host.Outcome State Fault Refusal := finish s (atomFire s x .swp)

/-- ACAS (R316): d if old = c. -/
def execAcas (x : MWord) (s : State) : Host.Outcome State Fault Refusal := finish s (atomFire s x .cas)

/-- AFADD (R316): round(old + d). -/
def execAfadd (x : MWord) (s : State) : Host.Outcome State Fault Refusal := finish s (atomFire s x .fadd)

/-- FENCE (R318). -/
def execFence (x : MWord) (s : State) : Host.Outcome State Fault Refusal := finish s (fenceFire s x .fence)

/-- FENCEA (R319). -/
def execFencea (x : MWord) (s : State) : Host.Outcome State Fault Refusal := finish s (fenceFire s x .fencea)

/-- COPY (R177). -/
def execCopy (x : MWord) (s : State) : Host.Outcome State Fault Refusal := finish s (copyFire s x false)

/-- COPYT (R177). -/
def execCopyt (x : MWord) (s : State) : Host.Outcome State Fault Refusal := finish s (copyFire s x true)

end Sys2Proof.Machine
end

