-- ==== Sys2Proof/Machine/RingI.lean ====
section
/-!
DEFINITION. Instruction reference: rings (R285 to R291, R143, R144): one meaning for each instruction. Beats are the meaning of BEAT0 and BEAT.
-/
namespace Sys2Proof.Machine

/-! ### Tiles and entries -/

/-- Size of a tile in bytes, its elements, and the TYPE that TLD reads it as (R130, R289). -/
def tileBytes (elem : Nat) : Nat := if elem = 2 then 128 else if elem ≤ 1 then 256 else 512
def tileCount (elem : Nat) : Nat := if elem ≤ 2 then 256 else 64
def tileType (elem : Nat) : Fmt := if elem = 1 then .t8 else if elem = 0 ∨ elem = 2 then .i32 else .f64

/-- Element `e` of a tile in row-major order (R289, R48). -/
def tileElem (elem : Nat) (d : BitVec 4096) (e : Nat) : Word :=
  let get (w : Nat) : Nat := d.toNat / 2 ^ (e * w) % 2 ^ w
  match elem with
  | 0 => ((BitVec.ofNat 8 (get 8)).signExtend 32).setWidth 64
  | 1 => BitVec.ofNat 64 (get 8)
  | 2 => ((BitVec.ofNat 4 (get 4)).signExtend 32).setWidth 64
  | _ => BitVec.ofNat 64 (get 64)

/-- SLOT, ISTOP and KSTOP of an entry's word 0 (R133). -/
def entryTriple (w0 : Word) : Nat × Nat × Nat := (fieldOf w0 57 4, fieldOf w0 54 3, fieldOf w0 51 3)

/-- The pair of an entry meets at stop `s` (R134). -/
def pairMeets (s i j : Nat) : Bool := (i + j) % 8 == 2 * s % 8

/-- Another entry of the stop holds the triple (R134). -/
def tripleTaken (y : Sys) (c e : Nat) (q : Nat × Nat × Nat) : Bool :=
  (List.range 256).any fun n => n != e && (y.ment c n).st != .empty && ((y.ment c n).slot, (y.ment c n).istop, (y.ment c n).kstop) == q

/-- An entry that a pass uses (R143, 0x32). -/
def MEnt.busy (m : MEnt) : Bool := m.st != .empty && m.st != .loaded

/-- Entry as TMATCH or CFGLD writes it: LOADED (R133). -/
def loadEntry (w0 param : Word) : MEnt :=
  let (q, i, j) := entryTriple w0
  { st := .loaded, slot := q, istop := i, kstop := j, misses := 0, task := fieldOf w0 0 46, param := param }

/-- The ring is reserved by a TGO that has fired in a live instance (R288). -/
def ringReserved (f : Fly) (g : Nat) : Bool :=
  f.pending.any fun e => e.1 / 1024 / 8 == g && e.2.effs.any fun x => match x.e with
    | .tgo .. => true
    | _ => false

/-- The ring has no pass, and none is about to start (R136). -/
def ringFree (s : State) (g : Nat) : Bool := (s.sys.ring g).pass.isNone && !ringReserved s.fly g

/-- The FILLING and STAGED tiles of slot `q` at the stops of ring `g`. -/
def slotTiles (y : Sys) (g q : Nat) : List Tile :=
  ((List.range 16).map fun n => y.tile (g * 8 + n / 2) (n % 2) q).filter fun t => t.st == .filling || t.st == .staged

/-- Header of a tile of a pass at a beat (R131). -/
def PTile.header (t : PTile) (slot beat : Nat) : Word :=
  BitVec.ofNat 64 (t.colour * 2 ^ 52 + t.fam * 2 ^ 51 + t.origin * 2 ^ 48 + slot * 2 ^ 44 + t.elem * 2 ^ 41 + beat / 8 % 256 * 2 ^ 33
    + t.remain * 2 ^ 29 + t.tag.toNat)

/-- The pass status word (R144). -/
def trstatWord (s : State) (g : Nat) : Word :=
  let r := s.sys.ring g
  let w (st q lap b8 stop live beat : Nat) : Word :=
    BitVec.ofNat 64 (st * 2 ^ 62 + r.last * 2 ^ 60 + q * 2 ^ 56 + lap * 2 ^ 48 + b8 * 2 ^ 47 + stop * 2 ^ 44 + live * 2 ^ 39 + beat % 2 ^ 32)
  match r.pass with
  | some p => w (if p.st = .starting then 1 else 2) p.slot p.laplim p.beat8 p.stop (if p.armed then p.tiles.length else (slotTiles s.sys g p.slot).length) p.beat
  | none => w (if ringReserved s.fly g then 1 else 0) r.slot r.laplim r.beat8 r.stop 0 r.beat

/-! ### Firings -/

/-- TSTAGE (R286): the address must be aligned and the slot EMPTY; the firing reserves it. -/
def tstageFire (s : State) (x : XRWord) : FireRes :=
  let c := s.fly.cur
  match scalarOnly c x.h c.left, addrWords c x.h c.left with
  | .error r, _ => .trap r
  | _, .error r => .trap r
  | .ok _, .ok ws =>
    predFire s x.h <|
      let va := fieldOf (ws.headD 0) 0 52
      let key := (if x.fam then 1 else 0) * 16 + x.slot.toNat
      if va % 64 ≠ 0 then .trap (misalign c 0xB3 va)
      else if (s.sys.tile c.clu (key / 16) (key % 16)).st ≠ .empty ∨ (s.fly.pending.any fun e => e.1 / 1024 == c.clu && e.2.tiles.contains key) then
        .trap (c.illop 0x30)
      else
        let a := newAccess s x.h .tstage true
        let n := tileBytes x.elem.toNat
        sendAccess s { a with lsid := some x.lsid.toNat, ord := decodeOrder (x.p.extractLsb' 6 2),
                              scope := (decodeScope (x.p.extractLsb' 3 3)).getD .blk, segs := [(va, n, 0)], x := key, y := n,
                              b := BitVec.ofNat 64 (x.elem.toNat * 2 ^ 16 + bits x.p 8 16) }
          (s.fly.modInst c fun i => { i with tiles := i.tiles ++ [key] })

/-- TMATCH (R287): its checks are made at fire. -/
def tmatchFire (s : State) (x : XRWord) : FireRes :=
  let c := s.fly.cur
  match scalarOp c x.h c.left, operand c x.h false c.right with
  | .error r, _ => .trap r
  | _, .error r => .trap r
  | .ok l, .ok rs =>
    predFire s x.h <|
      let e := if c.left.isSome then fieldOf l 0 8 else bits x.p 0 8
      match rs with
      | [w0, param] =>
        let q := entryTriple w0
        if !pairMeets (c.clu % 8) q.2.1 q.2.2 || tripleTaken s.sys c.clu e q then .trap (c.illop 0x31)
        else if (s.sys.ment c.clu e).busy then .trap (c.illop 0x32)
        else .ok (s.fly.addEff (.tmatch e w0 param))
      | _ => .trap (c.illop 0x38)

/-- TMCLR (R287). -/
def tmclrFire (s : State) (x : XRWord) : FireRes :=
  let c := s.fly.cur
  let first := bits x.p 0 8
  let last := bits x.p 8 8
  predFire s x.h <|
    if (List.range 256).any fun e => first ≤ e && e ≤ last && (s.sys.ment c.clu e).busy then .trap (c.illop 0x32)
    else .ok (s.fly.addEff (.tmclr first last))

/-- The tiles of every slot state of slot `q` at the stops of ring `g`, those of a suspended pass too (R351). -/
def heldTiles (y : Sys) (g q : Nat) : List Tile := ((List.range 16).map fun n => y.tile (g * 8 + n / 2) (n % 2) q).filter fun t => t.st != .empty

/-- TGO (R288): waits while the ring has a pass or a reservation; then checks, and reserves the ring by its effect. Of
the eight barriers b it looks at that of its own cluster alone (log entry 93, DESIGN CHOICE). -/
def tgoFire (s : State) (x : XRWord) : FireRes :=
  let c := s.fly.cur
  let g := c.clu / 8
  let q := x.slot.toNat
  let b := bits x.p 16 8
  predFire s x.h <|
    if !ringFree s g then .wait
    else
      let ts := slotTiles s.sys g q
      let v := s.sys.bar c.clu b
      if (heldTiles s.sys g q).any fun t => t.colour != c.colour || t.ctx != s.thread.ctx then .trap c.owner
      else if v.mode != .free && v.colour != c.colour then .trap c.owner
      else if ts.any fun t => tileBytes t.elem > (if (s.sys.clu c.clu).beat8 = 0 then 256 else 512) then .trap (c.illop 0x34)
      else if ts.isEmpty then .trap (c.illop 0x36)
      else if v.mode != .count then .trap (misuse 13 0x27 c.index)
      else .ok (s.fly.addEff (.tgo q b ((decodeScope (x.p.extractLsb' 13 3)).getD .blk)))

/-- TLD (R289): elements of the task slot's copy. -/
def tldFire (s : State) (x : XRWord) : FireRes :=
  let c := s.fly.cur
  let n := bits x.p 0 6
  match scalarOnly c x.h c.left, operandOf c x.h [.x64] c.left with
  | .error r, _ => .trap r
  | _, .error r => .trap r
  | .ok _, .ok us =>
    predFire s x.h <|
      match s.thread.task with
      | none => .trap (c.illop 0x35)
      | some k =>
        let t := s.sys.tslot c.clu k
        let elem := if x.fam then t.kelem else t.ielem
        let d := if x.fam then t.kdata else t.idata
        let u := fieldOf (us.headD 0) 0 32
        if x.h.ty ≠ tileType elem ∨ u + n > tileCount elem then .trap (c.illop 0x37)
        else yieldToks s ((n + 3) / 4) [x.t0]
          (runToks c.colour c.frame c.index x.h.ty ((List.range n).map fun e => tileElem elem d (u + e)))

/-- TRECALL (R290). -/
def trecallFire (s : State) (x : XRWord) : FireRes :=
  let c := s.fly.cur
  predFire s x.h <|
    match (s.sys.ring (c.clu / 8)).pass with
    | some p => if p.colour ≠ c.colour ∨ p.ctx ≠ s.thread.ctx then .trap c.owner else .ok (s.fly.addEff .trecall)
    | none => .ok (s.fly.addEff .trecall)

/-- TPASS (R135, R287). -/
def tpassFire (s : State) (x : XRWord) : FireRes :=
  let c := s.fly.cur
  match scalarOp c x.h c.left with
  | .error r => .trap r
  | .ok l =>
    predFire s x.h <|
      let v := if c.left.isSome then l else x.p.setWidth 64
      let lap := fieldOf v 15 8
      let tasks := fieldOf v 12 3
      if lap = 0 ∨ tasks = 0 ∨ tasks > 4 ∨ !ringFree s (c.clu / 8) then .trap (c.illop 0x33)
      else .ok (s.fly.addEff (.tpass (fieldOf v 23 1) lap tasks))

/-! ### The instructions -/

/-- TSTAGE (R286). -/
def execTstage (x : XRWord) (s : State) : Host.Outcome State Fault Refusal := finish s (tstageFire s x)

/-- TMATCH (R287). -/
def execTmatch (x : XRWord) (s : State) : Host.Outcome State Fault Refusal := finish s (tmatchFire s x)

/-- TMCLR (R287). -/
def execTmclr (x : XRWord) (s : State) : Host.Outcome State Fault Refusal := finish s (tmclrFire s x)

/-- TGO (R288). -/
def execTgo (x : XRWord) (s : State) : Host.Outcome State Fault Refusal := finish s (tgoFire s x)

/-- TLD (R289). -/
def execTld (x : XRWord) (s : State) : Host.Outcome State Fault Refusal := finish s (tldFire s x)

/-- TDONE (R290): HALT in a task thread; elsewhere ILLOP 0x35 (R143). -/
def execTdone (x : XRWord) (s : State) : Host.Outcome State Fault Refusal :=
  finish s (predFire s x.h (if s.thread.task.isSome then sendExit s 1 0 0 else .trap (s.fly.cur.illop 0x35)))

/-- TRSTAT (R290): the pass status word, at fire. -/
def execTrstat (x : XRWord) (s : State) : Host.Outcome State Fault Refusal :=
  finish s (predFire s x.h (yieldOne s .x64 1 [x.t0] (trstatWord s (s.fly.cur.clu / 8))))

/-- TRECALL (R290). -/
def execTrecall (x : XRWord) (s : State) : Host.Outcome State Fault Refusal := finish s (trecallFire s x)

/-- TPASS (R287). -/
def execTpass (x : XRWord) (s : State) : Host.Outcome State Fault Refusal := finish s (tpassFire s x)

end Sys2Proof.Machine
end

