-- ==== Sys2Proof/Machine/Stitch.lean ====
section
/-!
DEFINITION. Instruction reference: stitched tensors (R145 to R156, R292 to R294): one meaning for each instruction. What SPIN, SUNPIN, SPLICE,
SNEW and SFREE do at the descriptor's home slice is the meaning of the events ACCESS_PERFORM, SPLICE_PERFORM, SNEW_PERFORM, SFREE_PERFORM.
-/
namespace Sys2Proof.Machine

/-! ### Handles (R150) -/

/-- The pin entry of a handle (R150, R155): 0x40 where the entry is free or of another generation, OWNER where it is another colour's. -/
def pinOf (s : State) (h : Word) : Except TrapRec (Nat × Pin) :=
  let c := s.fly.cur
  let e := fieldOf h 8 8
  let p := s.sys.pin c.clu e
  if !p.held || p.gen != fieldOf h 0 8 then .error (c.illop 0x40)
  else if p.colour != c.colour || p.ctx != s.thread.ctx then .error c.owner
  else .ok (e, p)

/-- A firing with scalar operands of TYPE X64, which `.ac` converts (R31, R321, R322, R325). -/
def onScalars (s : State) (h : Head) (k : Word → Word → FireRes) : FireRes :=
  let c := s.fly.cur
  match scalarOp c h c.left, scalarOp c h c.right with
  | .error r, _ => .trap r
  | _, .error r => .trap r
  | .ok l, .ok r => predFire s h (k l r)

/-- A firing with scalar X64 operands (R292). -/
def onWords (s : State) (h : Head) (k : Word → Word → FireRes) : FireRes :=
  let c := s.fly.cur
  match scalarOpOf c h .x64 c.left, scalarOpOf c h .x64 c.right with
  | .error r, _ => .trap r
  | _, .error r => .trap r
  | .ok l, .ok r => predFire s h (k l r)

/-- A firing of an LSID operation with a scalar address at its left position, which R196 admits as I32 with `.ac`, and a scalar X64 operand, if
any, at its right (log entry 72, DEDUCED). -/
def onAddrWord (s : State) (h : Head) (k : Word → Word → FireRes) : FireRes :=
  let c := s.fly.cur
  match scalarOnly c h c.left, addrWords c h c.left, scalarOpOf c h .x64 c.right with
  | .error r, _, _ => .trap r
  | _, .error r, _ => .trap r
  | _, _, .error r => .trap r
  | .ok _, .ok ws, .ok r => predFire s h (k (ws.headD 0) r)

/-- A firing with a handle at its left position. -/
def onHandle (s : State) (h : Head) (k : Nat → Pin → Word → FireRes) : FireRes :=
  onWords s h fun l r =>
    match pinOf s l with
    | .error t => .trap t
    | .ok (e, p) => k e p r

/-- An address of 52 bits with the OFFSET added. -/
def baseOff (w : Word) (off : BitVec 24) : Nat := (((fieldOf w 0 52 : Int) + off.toInt) % 2 ^ 52).toNat

/-- The address of slot `m` of a version area (R147). -/
def slotAddr (area m : Nat) : Nat := area + m * 65536

/-- The piece entry of a pinned version that covers index `x`, and the one of a number, among those the pin holds. -/
def Pin.covering (p : Pin) (x : Nat) : Option (Nat × Nat × Nat × Nat) := p.pieces.find? fun e => e.2.2.1 ≤ x && x < e.2.2.1 + e.2.2.2
def Pin.piece (p : Pin) (n : Nat) : Option (Nat × Nat × Nat × Nat) := p.pieces.find? fun e => e.1 == n

/-- The address of piece entry `n` of a pinned version (R147). -/
def pieceAt (p : Pin) (n : Nat) : Nat := (slotAddr p.area p.slot + 64 + 16 * n) % vaMod

/-- A read of piece entries from the pinned slot (R294): SNEXT reads the entry it names, SIDX searches by FIRST; operand `a` of the access keeps
the bounds of the search, the lower in [15:0], the upper in [31:16]. -/
def pieceRead (s : State) (x : GWord) (snext : Bool) (e : Nat) (p : Pin) (n : Nat) : FireRes :=
  let a := newAccess s x.h (.piece snext) false
  let k := if snext then n else p.npieces / 2
  if p.npieces = 0 then .trap (s.fly.cur.illop 0x46)
  else sendAccess s { a with t0 := x.t0, t1 := x.t1, segs := [(pieceAt p k, 16, 0)], a := BitVec.ofNat 256 (p.npieces * 65536), x := e, y := n } s.fly

/-- SIDX (R152): BASE + (x − FIRST) × 2^ESIZE. -/
def sidxAddr (esize x base first : Nat) : Word := BitVec.ofNat 64 ((base + (x - first) * 2 ^ esize) % 2 ^ 52)

/-- The cycle figure of a firing that reads its pin entry (R294). -/
def yieldPin (s : State) (x : GWord) (lat : Nat) (v : Word) : FireRes := yieldOne s .x64 lat x.targets v

/-- SNEW (R152, R293). -/
def snewFire (s : State) (x : GWord) : FireRes :=
  let c := s.fly.cur
  onWords s x.h fun l r =>
    let d := fieldOf l 0 52
    let area := fieldOf r 0 52
    let esize := bits x.imm 0 4
    let fllog := bits x.imm 4 4
    if d % 64 ≠ 0 then .trap (misalign c 0xB3 d)
    else if area % 2 ^ 22 ≠ 0 then .trap (misalign c 0xB3 area)
    else if esize > 12 ∨ fllog < 4 ∨ fllog > 12 then .trap (c.illop 0x42)
    else
      let a := newAccess s x.h .snew true
      sendAccess s { a with segs := [(d, 64, 0)], b := BitVec.ofNat 64 area, x := esize, y := fllog } s.fly

/-- SPLICE (R153, R293). -/
def spliceFire (s : State) (x : MWord) : FireRes :=
  let c := s.fly.cur
  onAddrWord s x.h fun l r =>
    let d := baseOff l x.off
    let rec_ := fieldOf r 0 52
    if d % 64 ≠ 0 then .trap (misalign c 0xB3 d)
    else if rec_ % 64 ≠ 0 then .trap (misalign c 0xB3 rec_)
    else sendAccess s { newAccessM s x .splice true with t0 := .none, segs := [(d, 64, 0)], b := BitVec.ofNat 64 rec_ } s.fly

/-- SPIN (R151, R293). -/
def spinFire (s : State) (x : MWord) : FireRes :=
  let c := s.fly.cur
  onAddrWord s x.h fun l _ =>
    let d := baseOff l x.off
    if d % 64 ≠ 0 then .trap (misalign c 0xB3 d)
    else sendAccess s { newAccessM s x .spin false with segs := [(d, 64, 0)] } s.fly

/-- SUNPIN (R151): the descriptor's line is the one the pin names. -/
def sunpinFire (s : State) (x : MWord) : FireRes :=
  onHandle s x.h fun e p _ =>
    let pa := p.desc * 64
    let a := newAccessM s x .sunpin true
    sendAccess s { a with t0 := .none, segs := [(pa, 64, 0)], x := e, y := p.slot, b := BitVec.ofNat 64 p.gen,
                          xl := [{ page := pa / 65536, pa := pa / 65536 * 65536, ksel := 0, common := false, sync := false, config := 0 }] } s.fly

/-- SFREE (R152, R293). -/
def sfreeFire (s : State) (x : GWord) : FireRes :=
  let c := s.fly.cur
  onWords s x.h fun l _ =>
    let d := fieldOf l 0 52
    if d % 64 ≠ 0 then .trap (misalign c 0xB3 d)
    else
      let a := newAccess s x.h .sfree true
      sendAccess s { a with segs := [(d, 64, 0)] } s.fly

/-- SIDX (R152, R294). -/
def sidxFire (s : State) (x : GWord) : FireRes :=
  onHandle s x.h fun e p r =>
    let n := fieldOf r 0 32
    if n ≥ p.length then .trap (s.fly.cur.illop 0x41)
    else match p.covering n with
      | some (_, base, first, _) => yieldPin s x 2 (sidxAddr p.esize n base first)
      | none => pieceRead s x false e p n

/-- SNEXT (R152, R294). -/
def snextFire (s : State) (x : GWord) : FireRes :=
  onHandle s x.h fun e p r =>
    let n := fieldOf r 0 32
    if n ≥ p.npieces then yieldPin s x 2 (BitVec.ofNat 64 (p.length * 2 ^ 32))
    else match p.piece n with
      | some (_, _, first, count) => yieldPin s x 2 (BitVec.ofNat 64 (first * 2 ^ 32 + count))
      | none => pieceRead s x true e p n

/-! ### The instructions -/

/-- SNEW (R152). -/
def execSnew (x : GWord) (s : State) : Host.Outcome State Fault Refusal := finish s (snewFire s x)

/-- SPLICE (R152). -/
def execSplice (x : MWord) (s : State) : Host.Outcome State Fault Refusal := finish s (spliceFire s x)

/-- SPIN (R152). -/
def execSpin (x : MWord) (s : State) : Host.Outcome State Fault Refusal := finish s (spinFire s x)

/-- SUNPIN (R152). -/
def execSunpin (x : MWord) (s : State) : Host.Outcome State Fault Refusal := finish s (sunpinFire s x)

/-- SIDX (R152). -/
def execSidx (x : GWord) (s : State) : Host.Outcome State Fault Refusal := finish s (sidxFire s x)

/-- SLEN (R152): PIECES, ESIZE, VERSION and LENGTH of the pinned version. -/
def execSlen (x : GWord) (s : State) : Host.Outcome State Fault Refusal :=
  finish s (onHandle s x.h fun _ p _ =>
    yieldPin s x 1 (BitVec.ofNat 64 (p.npieces * 2 ^ 52 + p.esize * 2 ^ 48 + p.version.toNat * 2 ^ 32 + p.length)))

/-- SNEXT (R152). -/
def execSnext (x : GWord) (s : State) : Host.Outcome State Fault Refusal := finish s (snextFire s x)

/-- SFREE (R152). -/
def execSfree (x : GWord) (s : State) : Host.Outcome State Fault Refusal := finish s (sfreeFire s x)

end Sys2Proof.Machine
end

