-- ==== Sys2Proof/Machine/Msg.lean ====
section
/-!
DEFINITION. Instruction reference: messages (R295 to R300): one meaning for each instruction.
-/
namespace Sys2Proof.Machine

/-- A cluster lies on a ring of the context (R72). -/
def Sys.owns (y : Sys) (x c : Nat) : Bool := c < Config.nClusters && y.ctxOf c == x

/-- Mailbox entries of the acting thread that no MRECV of its instance has reserved (R297). -/
def unreserved (s : State) : List Msg :=
  s.thread.mbox.filter fun m => m.opened && !s.inst.effs.any fun e => match e.e with
    | .mrecv n => n.id == m.id
    | _ => false

/-- MSEND (R296). -/
def msendFire (s : State) (x : GWord) : FireRes :=
  let c := s.fly.cur
  match scalarOpOf c x.h .x64 c.left, operand c x.h true c.right with
  | .error r, _ => .trap r
  | _, .error r => .trap r
  | .ok l, .ok ds =>
    predFire s x.h <|
      if fieldOf l 17 47 ≠ 0 then .trap (c.illop 0xA0)
      else if !s.sys.owns s.thread.ctx (fieldOf l 10 7) then .trap (c.illop 0xA1)
      else
        let vec := c.right.any (·.vec)
        let t := if vec then vecTok c.colour c.frame c.index x.h.ty ds else scalarTok c.colour c.frame c.index x.h.ty (ds.headD 0)
        let (id, f) := s.fly.fresh
        .ok (f.addEff (.msend (fieldOf l 10 7) (fieldOf l 0 10)
          { id := id, sclu := c.clu, sfrm := c.frame, fmt := x.h.ty, len := t.len, vec := vec, data := t.data, opened := false }))

/-- MRECV (R297): the oldest entry that is not reserved; waits for one. -/
def mrecvFire (s : State) (x : GWord) : FireRes :=
  let c := s.fly.cur
  predFire s x.h <|
    match unreserved s with
    | [] => .wait
    | m :: _ =>
      let f := sendAll c (s.sys.now + 1) [x.t0] (dataToks c.colour c.frame c.index m.fmt m.len m.vec m.data) (s.fly.addEff (.mrecv m))
      .ok (sendAll c (s.sys.now + 1) [x.t1] [scalarTok c.colour c.frame c.index .x64 (BitVec.ofNat 64 (m.sclu * 1024 + m.sfrm))] f)

/-- MPOLL (R298): DROPS and the number of unreserved entries; `.clr` clears DROPS at commit. -/
def mpollFire (s : State) (x : GWord) : FireRes :=
  let c := s.fly.cur
  predFire s x.h <|
    let v := BitVec.ofNat 64 (s.thread.drops * 2 ^ 56 + (unreserved s).length)
    let f := if x.h.mod.getLsbD 0 then s.fly.addEff .mpollClr else s.fly
    .ok (sendAll c (s.sys.now + 1) x.targets [scalarTok c.colour c.frame c.index .x64 v] f)

/-- MSEND (R296). -/
def execMsend (x : GWord) (s : State) : Host.Outcome State Fault Refusal := finish s (msendFire s x)

/-- MRECV (R297). -/
def execMrecv (x : GWord) (s : State) : Host.Outcome State Fault Refusal := finish s (mrecvFire s x)

/-- MPOLL (R298). -/
def execMpoll (x : GWord) (s : State) : Host.Outcome State Fault Refusal := finish s (mpollFire s x)

end Sys2Proof.Machine
end

