-- ==== Sys2Proof/Machine/Sync.lean ====
section
/-!
DEFINITION. Instruction reference: transfers, banks, barriers, groups and COMB (R168 to R181, R114 to R128, R321 to R323): one meaning for
each instruction.
-/
namespace Sys2Proof.Machine

/-- Firings of a cluster on the agenda whose instruction satisfies `p`, other than the one that issues: those that wait. -/
def waitersOn (s : State) (c : Nat) (p : Instr → Bool) : List Firing :=
  s.fly.agenda.filterMap fun w => match w.act with
    | .fire f => if f.clu == c && (match (s.sys.frame f.clu f.reg f.frm).instr f.idx with
        | some i => p i
        | none => false) then some f else none
    | _ => none

/-! ### Transfers (R177 to R181) -/

/-- `a` is later than `b`, modulo 2^48 (chapter 12: less than 2^47 ahead). -/
def later48 (a b : Nat) : Bool := 0 < (a + 2 ^ 48 - b % 2 ^ 48) % 2 ^ 48 && (a + 2 ^ 48 - b % 2 ^ 48) % 2 ^ 48 < 2 ^ 47

/-- Fields of a transfer token. -/
def tokGen (w : Word) : Nat := fieldOf w 53 11
def tokSlot (w : Word) : Nat := fieldOf w 48 5
def tokPromise (w : Word) : Nat := fieldOf w 0 48

/-- The token is that of a command of the instance that fired `q`: its transfer is not yet any slot's (R202). -/
def Fly.ownsTok (f : Fly) (q : Firing) (w : Word) : Bool :=
  (f.inst q.clu q.frame).any fun i => i.ser == q.ser && i.copies.any fun p => p.2 == w

/-- The slot of a token while the token's transfer is the slot's (R178), which the transfer of an instance's `own` command is not yet (R202). -/
def curXfer (y : Sys) (c : Nat) (own : Bool) (w : Word) : Option Xfer :=
  let v := y.xfer c (tokSlot w)
  if !own && v.gen.toNat == tokGen w then some v else none

/-- The transfer of a token is DONE (R178). -/
def tokDone (y : Sys) (c : Nat) (own : Bool) (w : Word) : Bool :=
  match curXfer y c own w with
  | some v => v.st == .free
  | none => true

/-- The token's PCUR: its slot's, or its own promise where the slot's transfer is another (R178, R179). -/
def tokPcur (y : Sys) (c : Nat) (own : Bool) (w : Word) : Nat :=
  match curXfer y c own w with
  | some v => v.pcur.toNat
  | none => tokPromise w

/-- The later of the token's promise and the slot's PCUR (R180). -/
def wakeAt (y : Sys) (c : Nat) (own : Bool) (w : Word) : Nat :=
  let p := tokPcur y c own w
  if later48 p (tokPromise w) then p else tokPromise w

/-- The cycle, from now on, in which `%now`[47:0] reaches a value. -/
def cycleOf (now p : Nat) : Nat := if later48 p now then now + (p + 2 ^ 48 - now % 2 ^ 48) % 2 ^ 48 else now

/-- A transfer token of a scalar operand; OWNER for another colour's transfer, one that is DONE too while its slot has started no other (R178, R321). -/
def onTransfer (s : State) (x : GWord) (k : Word → FireRes) : FireRes :=
  let c := s.fly.cur
  onScalars s x.h fun w _ =>
    match curXfer s.sys c.clu (s.fly.ownsTok c w) w with
    | some v => if v ≠ Xfer.reset ∧ (v.colour ≠ c.colour ∨ v.ctx ≠ s.thread.ctx) then .trap c.owner else k w
    | none => k w

/-- WAITT (R180): sleeps until the later of the promise and PCUR. -/
def waittFire (s : State) (x : GWord) : FireRes :=
  let c := s.fly.cur
  onTransfer s x fun w =>
    let (id, f) := s.fly.fresh
    let at_ := cycleOf s.sys.now (wakeAt s.sys c.clu (s.fly.ownsTok c w) w)
    let since := match s.fly.sleeps.find? fun e => e.2.f.ser == c.ser with
      | some e => e.2.slept
      | none => s.sys.now
    .ok ({ f with sleeps := tabPut f.sleeps id { f := c, start := s.sys.now, t0 := x.t0, t1 := x.t1, until_ := at_, slept := since } }.event at_ .waittWake
      { clu := c.clu, frm := c.frame, id := id, word := w })

/-- CPST (R180): the slot's state and PCUR. -/
def cpstFire (s : State) (x : GWord) : FireRes :=
  onTransfer s x fun w =>
    let v := s.sys.xfer s.fly.cur.clu (tokSlot w)
    let st := if tokDone s.sys s.fly.cur.clu (s.fly.ownsTok s.fly.cur w) w then 0 else match v.st with
      | .free => 0 | .queued => 1 | .moving => 2 | .withheld => 3
    yieldOne s .x64 1 x.targets (BitVec.ofNat 64 (st * 2 ^ 62 + v.pcur.toNat))

/-! ### Banks (R168 to R176) -/

/-- The bank is bound to another colour, and is no shared CACHE binding (R172). -/
def Bank.foreign (b : Bank) (colour : Nat) : Bool := b.bound && b.colour != colour && !(b.mode == .cache && b.shared)

def bankModeOf (n : Nat) : BankMode := if n = 0 then .scratch else if n = 1 then .cache else .fifo

/-- Two intervals of pages overlap. -/
def pagesMeet (a n b m : Nat) : Bool := a < b + m && b < a + n

/-- A writable binding of the device, one that a PENDING bank has not released (R171), or one that a live instance is about to make, overlaps these pages of the context and colour (R172,
0x62). -/
def bindingMeets (s : State) (x colour : Nat) (shared : Bool) (page n : Nat) : Bool :=
  let meets (c col : Nat) (sh : Bool) (base pages : Nat) : Bool :=
    s.sys.ctxOf c == x && (shared == sh) && (sh || col == colour) && pagesMeet page n base pages
  (s.sys.banks.any fun e => (e.2.mode == .cache || (e.2.mode == .pending && e.2.next == .cache)) && !e.2.rdonly
    && meets (e.1 / 16) e.2.colour e.2.shared e.2.cbase e.2.cpages)
  || (s.sys.banks.any fun e => e.2.old.any fun o => meets (e.1 / 16) o.colour o.shared o.base o.pages)
  || s.fly.pending.any fun e => e.2.effs.any fun f => match f.e with
    | .bankm _ .cache false sh base pages => meets (e.1 / 1024) e.2.colour sh base pages
    | _ => false

/-- The pages lie within one valid entry of the colour's table or the common table; all of them lie in common ranges (R170, R172). -/
def inOneRange (y : Sys) (m : Memory) (x colour page n : Nat) : Bool :=
  ((List.range 256).filterMap (readRange y m x colour) ++ (List.range 256).filterMap (readRange y m x 4096)).any fun r =>
    r.vbase ≤ page && page + n ≤ r.vlast + 1

def allCommon (y : Sys) (m : Memory) (x page n : Nat) : Bool :=
  let rs := (List.range 256).filterMap (readRange y m x 4096)
  (List.range n).all fun k => rs.any fun r => r.vbase ≤ page + k && page + k ≤ r.vlast

/-- FIFO entries of a bank that no live FPOP has removed, and their number (R176). -/
def fifoLeft (f : Fly) (c b : Nat) (v : Bank) : List FEnt :=
  v.fifo.filter fun n => !f.pending.any fun e => e.1 / 1024 == c && e.2.effs.any fun x => match x.e with
    | .fpop b' m => b' == b && m.id == n.id
    | _ => false

/-- A bank-naming effect or waiting instruction of FPUSH or FPOP (R172, 0x63). -/
def fifoWaits (s : State) (c b : Nat) : Bool :=
  (s.fly.pending.any fun e => e.1 / 1024 == c && e.2.committing && e.2.effs.any fun x => match x.e with
    | .fpush b' _ => b' == b
    | _ => false)
  || !(waitersOn s c fun i => match i with
    | .fpop g => bits g.imm 0 4 == b
    | _ => false).isEmpty

/-- BANKM (R170): checked at fire, in effect at commit. -/
def bankmFire (s : State) (x : GWord) : FireRes :=
  let c := s.fly.cur
  let b := bits x.imm 0 4
  let m := bankModeOf (bits x.imm 4 2)
  let ro := x.imm.getLsbD 6
  onScalars s x.h fun l r =>
    let v := s.sys.bank c.clu b
    let base := fieldOf l 0 52
    let page := base / 65536
    let n := r.toNat
    let ctx := s.thread.ctx
    if m = .cache ∧ base % 65536 ≠ 0 then .trap (misalign c 0xB3 base)
    else if m = .cache ∧ (n = 0 ∨ n > 65535) then .trap (c.illop 0xBA)
    else if v.foreign c.colour then .trap c.owner
    else if v.mode = .pending ∨ (v.mode = .fifo ∧ (!(fifoLeft s.fly c.clu b v).isEmpty ∨ fifoWaits s c.clu b)) then .trap (c.illop 0x63)
    else
      let shared := m = .cache ∧ allCommon s.sys s.mem ctx page n
      if m = .cache ∧ !ro ∧ (!inOneRange s.sys s.mem ctx c.colour page n ∨ bindingMeets s ctx c.colour shared page n) then
        .trap (c.illop 0x62)
      else .ok (s.fly.addEff (.bankm b m (m = .cache ∧ ro) shared (if m = .cache then page else 0) (if m = .cache then n else 0)))

/-- A FIFO bank that the acting colour may use (R172). -/
def onFifo (s : State) (b : Nat) (k : Bank → FireRes) : FireRes :=
  let c := s.fly.cur
  let v := s.sys.bank c.clu b
  if v.foreign c.colour then .trap c.owner
  else if v.mode ≠ .fifo then .trap (c.illop 0x61)
  else k v

/-- FPUSH (R176): appended at commit. -/
def fpushFire (s : State) (x : GWord) : FireRes :=
  let c := s.fly.cur
  let b := bits x.imm 0 4
  match operand c x.h true c.left with
  | .error r => .trap r
  | .ok ds =>
    predFire s x.h <|
      onFifo s b fun _ =>
        let vec := c.left.any (·.vec)
        let t := if vec then vecTok c.colour c.frame c.index x.h.ty ds else scalarTok c.colour c.frame c.index x.h.ty (ds.headD 0)
        let (id, f) := s.fly.fresh
        .ok (f.addEff (.fpush b { id := id, fmt := x.h.ty, len := t.len, vec := vec, data := t.data }))

/-- FPOP (R176): the oldest entry after those that firings which have waited longer take in this cycle; waits while there is none. -/
def fpopFire (s : State) (x : GWord) : FireRes :=
  let c := s.fly.cur
  let b := bits x.imm 0 4
  predFire s x.h <|
    onFifo s b fun v =>
      let ahead := ((waitersOn s c.clu fun i => match i with
        | .fpop g => bits g.imm 0 4 == b
        | _ => false).filter fun f => f.since < c.since).length
      match (fifoLeft s.fly c.clu b v)[ahead]? with
      | none => .wait
      | some e =>
        if e.fmt ≠ x.h.ty then .trap (c.contained 6 (e.fmt.code.toNat + x.h.ty.code.toNat * 8 + c.idx * 64) none)
        else
          .ok (sendAll c (s.sys.now + 1) x.targets (dataToks c.colour c.frame c.index e.fmt e.len e.vec e.data) (s.fly.addEff (.fpop b e)))

/-! ### Barriers (R122 to R128) -/

/-- BARRIER with its code (R343). -/
def barTrap (c : Firing) (code : Nat) : TrapRec := misuse 13 code c.index

/-- A barrier of another colour (R122). -/
def Bar.foreign (b : Bar) (colour : Nat) : Bool := b.mode != .free && b.colour != colour

/-- A thread waits on the barrier: in BARAW, or with a BARW whose value SEQ still equals (R126, R127, 0x21). One that a completion has released
waits no more (R125). -/
def barWaited (s : State) (c b : Nat) : Bool :=
  let v := s.sys.bar c b
  (s.sys.thrs.any fun e => e.1 / 1024 == c && (match e.2.baraw with
    | some (n, q) => n == b && !barDone v e.2.colour q
    | none => false))
  || (waitersOn s c fun i => match i with
    | .barw g => bits g.imm 0 8 == b
    | _ => false).any fun f => v.seq.toNat == fieldOf ((f.left.map fun t => t.data.setWidth 64).getD 0) 0 16

/-- The group word of a context (R114). -/
def Ctx.group (x : Ctx) (g : Nat) : Grp := tabGet Grp.reset x.groups g

/-- The checks of a BARI, at fire and again at commit (R127): `none` where it passes, else the code, 0 for OWNER.
A BARI.grp's OWNER, of the barrier or of the group, comes first (log entry 93, DESIGN CHOICE). -/
def bariCheck (s : State) (c ctx colour : Nat) : Eff → Option Nat
  | .bariCnt b n =>
    let v := s.sys.bar c b
    if v.foreign colour then some 0 else if v.mode ≠ .free then some 0x20 else if n = 0 ∨ n > 1024 then some 0x22 else none
  | .bariGrp b g =>
    let v := s.sys.bar c b
    let w := (s.sys.ctx ctx).group g
    if v.foreign colour ∨ (w.live ∧ w.colour ≠ colour) then some 0 else if v.mode ≠ .free then some 0x20
    else if !w.live then some 0x22 else none
  | .bariFree b =>
    let v := s.sys.bar c b
    if v.foreign colour then some 0
    else if v.mode ≠ .free ∧ (v.arrived ≠ 0 ∨ v.early ≠ 0 ∨ barWaited s c b ∨ v.pass ∨ v.owed ≠ 0) then some 0x21 else none
  | _ => none

/-- A scalar trigger or operand whose FMT is not checked: a vector token is FORMAT (R322). -/
def onTrigger (s : State) (h : Head) (k : FireRes) : FireRes :=
  let c := s.fly.cur
  match scalarOnly c h c.left with
  | .error r => .trap r
  | .ok _ => predFire s h k

/-- A field of the left operand, or of the immediate without one (R322). -/
def leftOr (s : State) (x : GWord) (lo n : Nat) (k : Nat → FireRes) : FireRes :=
  let c := s.fly.cur
  match scalarOp c x.h c.left with
  | .error r => .trap r
  | .ok l => predFire s x.h <| k (if c.left.isSome then fieldOf l 0 n else bits x.imm lo (min n (27 - lo)))

/-- A BARI: its checks at fire, its effect at commit (R126). -/
def bariFire (s : State) (e : Eff) : FireRes :=
  let c := s.fly.cur
  match bariCheck s c.clu s.thread.ctx c.colour e with
  | none => .ok (s.fly.addEff e)
  | some 0 => .trap c.owner
  | some k => .trap (barTrap c k)

/-- An arrival (R126, R127): `k` has whether it is an early one. -/
def arriveFire (s : State) (b : Nat) (wait : Bool) (k : Fly → Bar → Bool → FireRes) : FireRes :=
  let c := s.fly.cur
  let v := s.sys.bar c.clu b
  let grp := v.mode == .group
  if v.foreign c.colour then .trap c.owner
  else if v.mode = .free then .trap (barTrap c 0x23)
  else if grp && !gmemHas s.thread.gmem v.group then .trap (barTrap c 0x24)
  else if grp && v.nxt.contains c.frame then .trap (barTrap c 0x25)
  else if s.inst.effs.any fun e => match e.e with
      | .arrive .. => true
      | _ => false then .trap (barTrap c 0x26)
  else k (s.fly.addEff (.arrive b wait)) v (grp && !(v.members.contains c.frame && !v.cur.contains c.frame))

/-- BARA (R126): yields SEQ, one more where the arrival is early. -/
def baraFire (s : State) (x : GWord) : FireRes :=
  let c := s.fly.cur
  onTrigger s x.h <| arriveFire s (bits x.imm 0 8) false fun f v early =>
    .ok (sendAll c (s.sys.now + 1) x.targets
      [scalarTok c.colour c.frame c.index .x64 (BitVec.ofNat 64 ((v.seq.toNat + if early then 1 else 0) % 65536))] f)

/-- BARW (R126): fires once SEQ differs from the token's, in the cycle after the phase's completion at the earliest, as BARAW's threads go on
then. -/
def barwFire (s : State) (x : GWord) : FireRes :=
  let c := s.fly.cur
  let v := s.sys.bar c.clu (bits x.imm 0 8)
  onScalars s x.h fun l _ =>
    if v.foreign c.colour then .trap c.owner
    else if v.mode = .free then .trap (barTrap c 0x23)
    else if v.seq.toNat = fieldOf l 0 16 ∨ (v.done = some s.sys.now ∧ v.seq.toNat = (fieldOf l 0 16 + 1) % 65536) then .wait
    else yieldOne s .x64 1 x.targets l

/-! ### Groups (R114 to R121) -/

/-- A JOIN or LEAVE has fired in the instance (R118). -/
def joined (i : Inst) : Bool :=
  i.effs.any fun e => match e.e with
    | .join _ | .leave _ => true
    | _ => false

/-- JOIN (R118); where several checks fail, code 0x13 comes before 0x11, and that before 0x10 (log entry 79, DESIGN CHOICE). -/
def joinFire (s : State) (x : GWord) : FireRes :=
  let c := s.fly.cur
  leftOr s x 0 10 fun g =>
    if joined s.inst then .trap (barTrap c 0x13)
    else if gmemHas s.thread.gmem g then .trap (barTrap c 0x11)
    else if (gmemGroups s.thread.gmem).length = 4 then .trap (barTrap c 0x10)
    else .ok (s.fly.addEff (.join g))

/-- LEAVE (R118); code 0x13 comes before 0x12 (log entry 79, DESIGN CHOICE). -/
def leaveFire (s : State) (x : GWord) : FireRes :=
  let c := s.fly.cur
  leftOr s x 0 10 fun g =>
    if joined s.inst then .trap (barTrap c 0x13)
    else if !gmemHas s.thread.gmem g then .trap (barTrap c 0x12)
    else .ok (s.fly.addEff (.leave g))

/-- GRPQ (R120). -/
def grpqFire (s : State) (x : GWord) : FireRes :=
  let c := s.fly.cur
  leftOr s x 0 10 fun g =>
    let w := (s.sys.ctx s.thread.ctx).group g
    if w.live ∧ w.colour ≠ c.colour then .trap c.owner
    else yieldOne s .x64 1 x.targets (BitVec.ofNat 64
      (w.epoch.toNat * 2 ^ 48 + (if w.live then 2 ^ 47 else 0) + s.sys.lc c.clu g * 2 ^ 18 + w.total))

/-! ### COMB (R323) -/

/-- One combination of two values. -/
def combOp (h : Head) (op : Nat) (a b : Word) : Word :=
  match h.ty with
  | .f64 | .f32 =>
    let p := fpOf h.ty
    match op with
    | 0 => BitVec.ofNat 64 (p.encode h.rnd ((p.decode a.toNat).add h.rnd (p.decode b.toNat)))
    | 1 => fpPick p true false a b
    | _ => fpPick p false false a b
  | ty =>
    let w := intWidth ty
    match op with
    | 0 => truncS w (readS w a + readS w b)
    | 1 => truncS w (min (readS w a) (readS w b))
    | 2 => truncS w (max (readS w a) (readS w b))
    | _ => truncS w (readS w (a ||| b))

/-- The elements folded into the partial, `n` to a value; the values completed, in order. -/
def combFold (h : Head) (op n : Nat) : List Word → Option (Word × Nat) → Option (Word × Nat) × List Word
  | [], p => (p, [])
  | x :: xs, p =>
    let (v, k) := match p with
      | none => (x, 1)
      | some (v, k) => (combOp h op v x, k + 1)
    if k = n then
      let (q, ys) := combFold h op n xs none
      (q, v :: ys)
    else combFold h op n xs (some (v, k))

/-- The colour of the firing may take one more entry in its region (R40); a colour with no valid entry has no quota. -/
def combRoom (s : State) : Bool :=
  let c := s.fly.cur
  (s.sys.centOf c.clu c.colour).isNone || mayTake s.sys c.clu c.reg c.colour (s.sys.holdQ c.clu c.reg c.colour).isEmpty

/-- COMB (R323): the partial of the entry is held with its instance, in one matching entry of its colour. A firing that would leave a partial for which
its colour may take no entry waits, as one of R35 does (log entry 21, DEDUCED). -/
def combFire (s : State) (x : GWord) : FireRes :=
  let c := s.fly.cur
  let op := bits x.imm 0 2
  let n := if bits x.imm 2 11 = 0 then s.inst.n else bits x.imm 2 11
  match operand c x.h false c.left with
  | .error r => .trap r
  | .ok xs =>
    match firedMask c x.h with
    | .error r => .trap r
    | .ok m =>
      let old := (s.inst.combs.find? fun p => p.idx == c.idx).map fun p => (p.v, p.k)
      let (q, ys) := combFold x.h op n (kept m xs) old
      let f := s.fly.modInst c fun i =>
        { i with combs := (i.combs.filter fun p => p.idx != c.idx) ++ (q.map fun (v, k) => { idx := c.idx, v := v, k := k : Comb }).toList }
      let f := if old.isSome == q.isSome then f
        else f.event s.sys.now .tokenArrival { clu := c.clu, reg := c.reg, frm := c.frame, part := 8 }
      if old.isNone && q.isSome && !combRoom s then .wait
      else .ok (sendAll c (s.sys.now + 1 + c.extra) x.targets (ys.map fun v => scalarTok c.colour c.frame 0 x.h.ty v) f)

/-! ### The instructions -/

/-- WAITT (R180). -/
def execWaitt (x : GWord) (s : State) : Host.Outcome State Fault Refusal := finish s (waittFire s x)

/-- CPST (R180). -/
def execCpst (x : GWord) (s : State) : Host.Outcome State Fault Refusal := finish s (cpstFire s x)

/-- BANKM (R170). -/
def execBankm (x : GWord) (s : State) : Host.Outcome State Fault Refusal := finish s (bankmFire s x)

/-- FPUSH (R176). -/
def execFpush (x : GWord) (s : State) : Host.Outcome State Fault Refusal := finish s (fpushFire s x)

/-- FPOP (R176). -/
def execFpop (x : GWord) (s : State) : Host.Outcome State Fault Refusal := finish s (fpopFire s x)

/-- BARI.cnt (R126): n from left[10:0] or IMM[18:8]. -/
def execBariCnt (x : GWord) (s : State) : Host.Outcome State Fault Refusal :=
  finish s (leftOr s x 8 11 fun n => bariFire s (.bariCnt (bits x.imm 0 8) n))

/-- BARI.grp (R126): g from left[9:0] or IMM[17:8]. -/
def execBariGrp (x : GWord) (s : State) : Host.Outcome State Fault Refusal :=
  finish s (leftOr s x 8 10 fun g => bariFire s (.bariGrp (bits x.imm 0 8) g))

/-- BARI.free (R126). -/
def execBariFree (x : GWord) (s : State) : Host.Outcome State Fault Refusal :=
  finish s (onTrigger s x.h (bariFire s (.bariFree (bits x.imm 0 8))))

/-- BARA (R126). -/
def execBara (x : GWord) (s : State) : Host.Outcome State Fault Refusal := finish s (baraFire s x)

/-- BARW (R126). -/
def execBarw (x : GWord) (s : State) : Host.Outcome State Fault Refusal := finish s (barwFire s x)

/-- BARAW (R126): arrives at commit, and waits after it. -/
def execBaraw (x : GWord) (s : State) : Host.Outcome State Fault Refusal :=
  finish s (onTrigger s x.h (arriveFire s (bits x.imm 0 8) true fun f _ _ => .ok f))

/-- JOIN (R118). -/
def execJoin (x : GWord) (s : State) : Host.Outcome State Fault Refusal := finish s (joinFire s x)

/-- LEAVE (R118). -/
def execLeave (x : GWord) (s : State) : Host.Outcome State Fault Refusal := finish s (leaveFire s x)

/-- GRPQ (R120). -/
def execGrpq (x : GWord) (s : State) : Host.Outcome State Fault Refusal := finish s (grpqFire s x)

/-- COMB (R323). -/
def execComb (x : GWord) (s : State) : Host.Outcome State Fault Refusal := finish s (combFire s x)

end Sys2Proof.Machine
end

