-- ==== Sys2Proof/Machine/SysI.lean ====
section
/-!
DEFINITION. Instruction reference: system registers and system instructions (R324 to R332, R74, R75): one meaning for each instruction.
-/
namespace Sys2Proof.Machine

/-! ### System registers (R325) -/

/-- Whether the privileged and the unprivileged view of a register exist (R325); none where the number is reserved. -/
def regViews (r : Nat) : Option (Bool × Bool) :=
  match r with
  | 0x000 | 0x001 | 0x002 | 0x003 | 0x004 | 0x005 | 0x006 | 0x010 | 0x011 | 0x012 | 0x013 | 0x018 | 0x01A | 0x020 | 0x021 | 0x022 | 0x023
  | 0x024 | 0x030 | 0x031 | 0x032 | 0x033 | 0x042 | 0x043 | 0x061 | 0x062 => some (true, true)
  | 0x019 | 0x040 | 0x041 | 0x044 | 0x045 | 0x048 | 0x049 | 0x04A | 0x050 | 0x060 => some (true, false)
  | _ => none

/-- The context that a per-context register names: `%cxsel` in the privileged view, else the thread's own (R75). -/
def regCtx (y : Sys) (t : Thr) : Nat := if t.ctx = 0 then fieldOf y.cxsel 0 4 else t.ctx

def CtxSt.code : CtxSt → Nat
  | .free => 0 | .allocated => 1 | .running => 2 | .suspended => 3 | .faulted => 4 | .destroying => 5

/-- RINGS of a context: context 0 holds what no other does (R72). -/
def ringsOf (y : Sys) (x : Nat) : Nat :=
  ((List.range 16).map fun g => if y.ctxOf (g * 8) = x then 2 ^ g else 0).sum

/-- `%cxdesc` (R81). -/
def cxdescWord (y : Sys) (x : Nat) : Word :=
  let v := y.ctx x
  BitVec.ofNat 64 (ringsOf y x * 2 ^ 48 + v.drcnt.toNat * 2 ^ 32 + v.drcol * 2 ^ 20 + v.fcause * 16 + v.st.code)

/-- `%cxcmd` as it reads (R78). -/
def cxcmdWord (y : Sys) : Word := BitVec.ofNat 64 (y.cxStatus * 2 ^ 12 + y.cxSeq.toNat * 16)

/-- `%bar`: word 0 or 1 of the selected barrier (R123); zero for an unprivileged read of another colour's. -/
def barWord (y : Sys) (c : Nat) (sel : Word) (colour : Option Nat) : Word :=
  let b := y.bar c (fieldOf sel 0 8)
  match colour with
  | some k => if b.foreign k then 0 else word b
  | none => word b
where
  word (b : Bar) : Word :=
    if sel.getLsbD 8 then BitVec.ofNat 64 b.group
    else
      let m := match b.mode with | .free => 0 | .count => 1 | .group => 2
      BitVec.ofNat 64 (m * 2 ^ 62 + b.colour * 2 ^ 50 + b.seq.toNat * 2 ^ 34 + b.expect * 2 ^ 23 + b.arrived * 2 ^ 12 + b.early * 2
        + if b.pass then 1 else 0)

def BankMode.code : BankMode → Nat
  | .scratch => 0 | .cache => 1 | .fifo => 2 | .pending => 3

/-- The scratch bytes of bank `b` meet a byte range of the cluster's scratch space. -/
def bankMeets (b off n : Nat) : Bool := off < (b + 1) * 65536 && b * 65536 < off + n

/-- The byte runs (address, size) that a transfer reads, and those it writes (R177). -/
def Xfer.runs (v : Xfer) : List (Nat × Nat) × List (Nat × Nat) :=
  let e := 2 ^ v.esz
  if v.copyt then
    ((List.range v.rows).map fun r => (v.src + r * v.spitch, v.cols * e), (List.range v.cols).map fun c => (v.dst + c * v.dpitch, v.rows * e))
  else ([(v.src, v.len)], [(v.dst, v.len)])

/-- The transfer has a byte of its source or destination in the bank (R169, INFL). -/
def Xfer.inBank (v : Xfer) (b : Nat) : Bool :=
  v.st != .free && ((v.sscr && v.runs.1.any fun r => bankMeets b r.1 r.2) || (v.dscr && v.runs.2.any fun r => bankMeets b r.1 r.2))

/-- INFL of a bank (R169). -/
def inflight (y : Sys) (c b : Nat) : Nat := ((List.range 32).filter fun k => (y.xfer c k).inBank b).length

/-- `%bkcfg`: word 0 or 1 of the selected bank (R169). -/
def bankWord (y : Sys) (f : Fly) (c : Nat) (sel : Word) (colour : Option Nat) : Word :=
  let n := fieldOf sel 0 4
  let b := y.bank c n
  let word : Word :=
    if sel.getLsbD 4 then BitVec.ofNat 64 (b.cbase * 2 ^ 16 + b.cpages)
    else BitVec.ofNat 64 (b.mode.code * 2 ^ 62 + b.next.code * 2 ^ 60 + b.colour * 2 ^ 48 + (if b.bound then 2 ^ 47 else 0)
      + (if b.rdonly then 2 ^ 46 else 0) + inflight y c n * 2 ^ 40 + (fifoLeft f c n b).length)
  match colour with
  | some k => if b.bound ∧ b.colour ≠ k then 0 else word
  | none => word

/-- `%rtop` (R234). -/
def rtopWord (t : Thr) : Word := BitVec.ofNat 64 (t.stack.length * 2 ^ 60 + t.stack.headD 0)

/-- `%wdog` as it reads (R84). -/
def wdogWord (y : Sys) (x : Nat) : Word :=
  BitVec.ofNat 64 ((y.ctx x).wlimit * 2 ^ 33 + min (y.counted x / 1024) (2 ^ 31 - 1) * 2)

/-- The cluster and entry that `%ctsel` names, and its word (R326). -/
def ctselOf (y : Sys) : Nat × Nat × Bool := (fieldOf y.ctsel 7 7, fieldOf y.ctsel 0 6, y.ctsel.getLsbD 6)

/-- `%audit` of a colour (R369). -/
def auditWord (y : Sys) (x colour : Nat) : Word :=
  let a := tabGet Audit.reset (y.ctx x).audits colour
  BitVec.ofNat 64 (a.attempts * 2 ^ 32 + a.last)

/-- A register as MFS reads it at fire (R325), for the thread of frame `k` of cluster `c`; write-only fields read as zero. -/
def readReg (s : State) (c k r : Nat) : Word :=
  let y := s.sys
  let t := y.thr c k
  let priv := t.ctx == 0
  let x := regCtx y t
  let own := if priv then none else some t.colour
  match r with
  | 0x000 => BitVec.ofNat 64 y.now
  | 0x001 => BitVec.ofNat 64 t.colour
  | 0x002 => BitVec.ofNat 64 k
  | 0x003 => BitVec.ofNat 64 c
  | 0x004 => BitVec.ofNat 64 (c / 8)
  | 0x005 => BitVec.ofNat 64 (c % 8)
  | 0x006 => BitVec.ofNat 64 t.ctx
  | 0x010 => t.tcause
  | 0x011 => t.tinfo
  | 0x012 => t.tva
  | 0x013 => t.tblk
  | 0x018 => (y.ctx x).stall.setWidth 64
  | 0x019 => (y.ctx x).ftlim.setWidth 64
  | 0x01A => wdogWord y x
  | 0x020 => t.dphase.setWidth 64
  | 0x021 => t.sprog
  | 0x022 => t.gmem
  | 0x023 => rtopWord t
  | 0x024 => t.seqlast
  | 0x030 => (y.clu c).barsel
  | 0x031 => barWord y c (y.clu c).barsel own
  | 0x032 => (y.clu c).bksel
  | 0x033 => bankWord y s.fly c (y.clu c).bksel own
  | 0x040 => y.cxsel
  | 0x041 => cxcmdWord y
  | 0x042 => cxdescWord y x
  | 0x043 => (y.ctx x).cxvec
  | 0x044 => (y.ctx x).rtbase
  | 0x045 => 0
  | 0x048 => (y.clu c).mscfg
  | 0x049 => y.ctsel
  | 0x04A =>
    let (cl, e, w) := ctselOf y
    if w then (y.cent cl e).w1 else y.centWord0 cl e
  | 0x050 => y.lnk
  | 0x060 => y.lattol
  | 0x061 => y.pstate
  | 0x062 => if priv then
      let (cl, e, _) := ctselOf y
      auditWord y x (y.cent cl e).colour
    else auditWord y x t.colour
  | _ => 0

/-! ### Firings -/

/-- PRIV for a register (R343). -/
def privReg (c : Firing) (r : Nat) : TrapRec := misuse 15 r c.index

/-- A register that the acting code may name (R74); `k` otherwise PRIV. -/
def onReg (s : State) (r : Nat) (k : FireRes) : FireRes :=
  match regViews r with
  | some (_, unpriv) => if s.privileged || unpriv then k else .trap (privReg s.fly.cur r)
  | none => k

/-- A TRAP or TRET has fired in the instance (R327, R328). -/
def trapFired (i : Inst) : Bool :=
  i.effs.any fun e => match e.e with
    | .trap _ | .tret => true
    | _ => false

/-- TRAP (R327): `%tinfo` is left[63:0] or IMM[15:0]. -/
def trapFire (s : State) (x : GWord) : FireRes :=
  let c := s.fly.cur
  match scalarOp c x.h c.left with
  | .error r => .trap r
  | .ok l =>
    predFire s x.h <|
      if trapFired s.inst then .trap (c.illop 0xB7)
      else .ok (s.fly.addEff (.trap (if c.left.isSome then l else BitVec.ofNat 64 (bits x.imm 0 16))))

/-- TRET (R328). -/
def tretFire (s : State) (x : GWord) : FireRes :=
  let c := s.fly.cur
  predFire s x.h <|
    if !s.thread.handler then .trap (c.illop 0xB6)
    else if trapFired s.inst then .trap (c.illop 0xB7)
    else .ok (s.fly.addEff .tret)

/-- LAUNCH (R329): the record goes to the queue after the commit. -/
def launchFire (s : State) (x : GWord) : FireRes :=
  let c := s.fly.cur
  let q := bits x.imm 4 12
  match operand c x.h false c.left with
  | .error r => .trap r
  | .ok ws =>
    predFire s x.h <|
      match tabFind (s.sys.ctx s.thread.ctx).queues q with
      | none => .trap (c.illop 0xB5)
      | some v =>
        if ws.length ≠ 8 then .trap (c.illop 0xB5)
        else if !s.privileged && v.colour != c.colour then .trap c.owner
        else .ok (s.fly.addEff (.launch q ws))

/-- QSUSP and QRES.q (R330). -/
def queueFire (s : State) (x : GWord) (e : Nat → Nat → Eff) : FireRes :=
  let c := s.fly.cur
  let ctx := bits x.imm 0 4
  let q := bits x.imm 4 12
  predFire s x.h <|
    if !s.privileged && ctx != s.thread.ctx then .trap c.priv
    else
      match tabFind (s.sys.ctx ctx).queues q with
      | none => .trap (c.illop 0xB9)
      | some v => if !s.privileged && v.colour != c.colour then .trap c.owner else .ok (s.fly.addEff (e ctx q))

/-- A context holds a colour: it is valid in a colour table of one of its clusters (R73, R330). -/
def holdsColour (y : Sys) (x colour : Nat) : Bool :=
  (List.range Config.nClusters).any fun c => y.ctxOf c == x && (y.centOf c colour).isSome

/-- QRES.col and DRAIN.col (R330). -/
def colourFire (s : State) (x : GWord) (e : Nat → Nat → Eff) : FireRes :=
  let c := s.fly.cur
  let ctx := bits x.imm 0 4
  let col := bits x.imm 4 12
  predFire s x.h <|
    if !s.privileged then .trap c.priv
    else if !holdsColour s.sys ctx col then .trap (c.illop 0xB9)
    else .ok (s.fly.addEff (e ctx col))

/-- QRES.ctx and DRAIN.ctx (R330). -/
def ctxFire (s : State) (x : GWord) (e : Nat → Eff) : FireRes :=
  predFire s x.h <| if !s.privileged then .trap s.fly.cur.priv else .ok (s.fly.addEff (e (bits x.imm 0 4)))

/-- CFGLD and RELAT (R331): privileged; the record is 64-byte aligned, in a synchronised range. -/
def recordFire (s : State) (x : GWord) (e : Nat → Eff) : FireRes :=
  let c := s.fly.cur
  match scalarOp c x.h c.left with
  | .error r => .trap r
  | .ok l =>
    predFire s x.h <|
      if !s.privileged then .trap c.priv
      else
        let va := fieldOf l 0 52
        if va % 64 ≠ 0 then .trap (misalign c 0xB3 va)
        else
          match xlateNow s.sys s.mem s.thread.ctx c.colour s.thread.ident {} (va / 65536) with
          | .ok t => if t.sync then .ok (s.fly.addEff (e va)) else .trap { misuse 3 0x53 c.index with va := va }
          | .prot 0x52 => .trap { misuse 3 0x52 c.index with va := va }
          | _ => .trap { misuse 3 0x53 c.index with va := va }

/-- A monitor unit that the acting code may use (R367). -/
def onUnit (s : State) (x : GWord) (k : Nat → FireRes) : FireRes :=
  let c := s.fly.cur
  let u := bits x.imm 0 6
  let v := s.sys.mon u
  predFire s x.h <|
    if s.privileged || (32 ≤ u && (!v.armed || (v.owner == c.colour && v.ctx == s.thread.ctx))) then k u else .trap c.priv

/-- MON ARM (R367): the select word is checked. -/
def monArmFire (s : State) (x : GWord) : FireRes :=
  let c := s.fly.cur
  match scalarOp c x.h c.left with
  | .error r => .trap r
  | .ok w =>
    onUnit s x fun u =>
      if fieldOf w 8 43 ≠ 0 ∨ fieldOf w 0 8 > 4 then .trap (c.illop 0xBB)
      else if w.getLsbD 51 && !s.privileged then .trap c.priv
      else .ok (s.fly.addEff (.monArm u w))

/-- Word `w` of a monitor record (R368). -/
def Mon.word (m : Mon) (w : Nat) : Word :=
  match w with
  | 0 => m.min
  | 1 => m.max
  | 2 => m.count
  | n => m.bins.getD (n - 3) 0

/-! ### The instructions -/

/-- MFS (R325): the register at fire. -/
def execMfs (x : GWord) (s : State) : Host.Outcome State Fault Refusal :=
  finish s (onTrigger s x.h (onReg s (bits x.imm 0 12)
    (yieldOne s .x64 1 x.targets (readReg s s.fly.cur.clu s.fly.cur.frame (bits x.imm 0 12)))))

/-- MTS (R325): writes at commit. -/
def execMts (x : GWord) (s : State) : Host.Outcome State Fault Refusal :=
  finish s (onScalars s x.h fun v _ => onReg s (bits x.imm 0 12) (.ok (s.fly.addEff (.mts (bits x.imm 0 12) v))))

/-- TRAP (R327). -/
def execTrap (x : GWord) (s : State) : Host.Outcome State Fault Refusal := finish s (trapFire s x)

/-- TRET (R328). -/
def execTret (x : GWord) (s : State) : Host.Outcome State Fault Refusal := finish s (tretFire s x)

/-- LAUNCH (R329). -/
def execLaunch (x : GWord) (s : State) : Host.Outcome State Fault Refusal := finish s (launchFire s x)

/-- QSUSP (R330). -/
def execQsusp (x : GWord) (s : State) : Host.Outcome State Fault Refusal := finish s (queueFire s x .qsusp)

/-- QRES.q (R330). -/
def execQresQ (x : GWord) (s : State) : Host.Outcome State Fault Refusal := finish s (queueFire s x .qresQ)

/-- QRES.col (R330). -/
def execQresCol (x : GWord) (s : State) : Host.Outcome State Fault Refusal := finish s (colourFire s x .qresCol)

/-- QRES.ctx (R330). -/
def execQresCtx (x : GWord) (s : State) : Host.Outcome State Fault Refusal := finish s (ctxFire s x .qresCtx)

/-- DRAIN.col (R330). -/
def execDrainCol (x : GWord) (s : State) : Host.Outcome State Fault Refusal := finish s (colourFire s x .drainCol)

/-- DRAIN.ctx (R330). -/
def execDrainCtx (x : GWord) (s : State) : Host.Outcome State Fault Refusal := finish s (ctxFire s x .drainCtx)

/-- CFGLD (R331). -/
def execCfgld (x : GWord) (s : State) : Host.Outcome State Fault Refusal := finish s (recordFire s x fun va => .cfgld va false)

/-- CFGLD.rt (R331). -/
def execCfgldRt (x : GWord) (s : State) : Host.Outcome State Fault Refusal := finish s (recordFire s x fun va => .cfgld va true)

/-- RELAT (R166, R331). -/
def execRelat (x : GWord) (s : State) : Host.Outcome State Fault Refusal := finish s (recordFire s x .relat)

/-- MON ARM (R332). -/
def execMonArm (x : GWord) (s : State) : Host.Outcome State Fault Refusal := finish s (monArmFire s x)

/-- MON READ (R332): word w of the record, at fire. -/
def execMonRead (x : GWord) (s : State) : Host.Outcome State Fault Refusal :=
  finish s (onUnit s x fun u => yieldOne s .x64 1 x.targets ((s.sys.mon u).word (bits x.imm 8 5)))

/-- MON CLEAR (R332). -/
def execMonClear (x : GWord) (s : State) : Host.Outcome State Fault Refusal :=
  finish s (onUnit s x fun u => .ok (s.fly.addEff (.monClear u)))

/-- MON STOP (R332). -/
def execMonStop (x : GWord) (s : State) : Host.Outcome State Fault Refusal :=
  finish s (onUnit s x fun u => .ok (s.fly.addEff (.monStop u)))

/-- NOP (R332): consumes a left token, whose FMT is not checked, and changes nothing; its PRD position takes FMT 7 alone (R31). -/
def nopFire (s : State) (x : GWord) : FireRes :=
  match s.fly.cur.pred with
  | some t => if t.fmt != .prd then .trap (s.fly.cur.format t x.h.ty) else .ok s.fly
  | none => .ok s.fly

/-- NOP (R332). -/
def execNop (x : GWord) (s : State) : Host.Outcome State Fault Refusal := finish s (nopFire s x)

end Sys2Proof.Machine
end

