-- ==== Sys2Proof/Machine/EvQueue.lean ====
section
/-!
DEFINITION. Device events of queues and exit ports (R104 to R113, R236): records arrive, start and create threads or deliver tokens. An event
finds its objects in `s.fly.ev`; one that finds them gone leaves the state as it is.
-/
namespace Sys2Proof.Machine

/-! ### Queues -/

/-- A queue of a context. -/
def Sys.queue (y : Sys) (x q : Nat) : Option Queue := tabFind (y.ctx x).queues q
def Sys.setQueue (y : Sys) (x q : Nat) (v : Queue) : Sys := y.modCtx x fun k => { k with queues := tabPut k.queues q v }

/-- FREE (R106): slots neither filled nor reserved. -/
def Queue.free (q : Queue) : Nat := q.depth - q.buf.length - q.resv

/-- A record is discarded with a code of R108: ERRS counts it, LASTERR keeps the code. -/
def Queue.discard (q : Queue) (code : Nat) : Queue := { q with errs := min 255 (q.errs + 1), lasterr := code }

/-- The queue status word (R106); `st` is STATE as it reads. -/
def Queue.status (q : Queue) (st : QSt) : Word :=
  let k : Nat := match st with
    | .opened => 0 | .throttled => 1 | .suspended => 2 | .draining => 3
  BitVec.ofNat 64 (k * 2 ^ 62 + q.free * 2 ^ 49 + q.lasterr * 2 ^ 40 + q.errs * 2 ^ 32 + q.retired.toNat)

/-- The exit status word (R113). -/
def Port.status (p : Port) : Word := p.tail ++ p.head

/-- KIND, B and block address of a record (R107). -/
def recKind (r : List Word) : Nat := fieldOf (r.headD 0) 62 2
def recB (r : List Word) : Bool := (r.headD 0).getLsbD 61
def recBlock (r : List Word) : Nat := if recKind r = 0 then fieldOf (r.headD 0) 0 52 else fieldOf (r.getD 1 0) 0 52

/-- Fields of word 0 of an inject record (R107). -/
def recFmt (r : List Word) : Fmt := Fmt.ofCode ((r.headD 0).extractLsb' 58 3)
def recPos (r : List Word) : Nat := fieldOf (r.headD 0) 56 2
def recIdx (r : List Word) : Nat := fieldOf (r.headD 0) 49 7
def recFrame (r : List Word) : Nat := fieldOf (r.headD 0) 39 10
def recIndex (r : List Word) : Nat := fieldOf (r.headD 0) 29 10
def recLen (r : List Word) : Nat := fieldOf (r.headD 0) 24 5

def posOfCode (n : Nat) : Pos := if n = 1 then .left else if n = 2 then .right else .pred

/-- Code 2 of R108: the form of a record is wrong. -/
def recBad (r : List Word) : Bool :=
  let w0 := r.headD 0
  let w1 := r.getD 1 0
  match recKind r with
  | 0 => fieldOf w0 52 9 != 0 || fieldOf w0 0 6 != 0
  | 1 => fieldOf w0 0 24 != 0 || fieldOf w1 52 12 != 0 || fieldOf w1 0 6 != 0 || recPos r == 0 || recIdx r == 127
      || (recLen r + 1) * (recFmt r).width > 384 || recIndex r + recLen r > 1023
  | _ => true

/-- The code with which a record is discarded on arrival (R108), the lowest where several cases hold (log entry 79, DESIGN CHOICE); `whole` an aligned 64-byte write, `slot` a slot free or reserved for it. -/
def arrivalCode (y : Sys) (x : Nat) (q : Queue) (r : List Word) (whole slot : Bool) : Option Nat :=
  if !whole then some 1
  else if recBad r then some 2
  else if !slot then some 3
  else if ((y.ctx x).kernel q.ident).any (·.st == .retiring) then some 4
  else none

/-- The queue looks at its head in cycle `due`, unless it is to do so already. -/
def offerQueue (f : Fly) (due x q : Nat) : Fly :=
  if f.agenda.any fun w => match w.act with
    | .ev .recordStart e => e.part != 1 && e.ctx == x && e.id == q
    | _ => false
  then f else f.event due .recordStart { ctx := x, id := q, part := 2 }

/-- The block of an inject record is no block of the kernel, or an invalid one (R108, code 7). -/
def injectLost (y : Sys) (x : Nat) (q : Queue) (r : List Word) : Bool :=
  recKind r == 1 && !(((y.ctx x).kernel q.ident).any fun k => k.blocks.any fun b => b.addr == recBlock r && b.bad.isNone)

/-- Inject records that reach the head and whose block is lost are discarded at once (R108 code 7, R110). -/
def Queue.prune (lost : List Word → Bool) : List (List Word) → Queue → Queue
  | [], v => { v with buf := [] }
  | r :: t, v => if lost r then Queue.prune lost t { v.discard 7 with waiting := false } else { v with buf := r :: t }

/-- A queue with a new head. -/
def Sys.putQueue (y : Sys) (x q : Nat) (v : Queue) : Sys := y.setQueue x q (Queue.prune (injectLost y x v) v.buf v)

/-- A record arrives at a queue (R107, R108, R110); a LAUNCH record fills its reserved slot. -/
def arriveRecord (s : State) (x q : Nat) (r : List Word) (whole launch : Bool) : State :=
  match s.sys.queue x q with
  | none => s
  | some v =>
    let code := arrivalCode s.sys x v r whole (launch || 0 < v.free)
    let v := if launch then { v with resv := v.resv - 1 } else v
    match code with
    | some k => s.mapSys fun y => y.setQueue x q (v.discard k)
    | none =>
      let s := s.mapSys fun y => y.putQueue x q { v with buf := v.buf ++ [r] }
      s.mapFly fun f => offerQueue f s.sys.now x q

/-- The conditions of R110 on the head record; what made one of them hold must have come before this cycle (R110, R378). -/
def mayStart (s : State) (x : Nat) (v : Queue) (r : List Word) : Bool :=
  let now := s.sys.now
  s.sys.qState v == .opened && v.opened ≤ now && !s.fly.calm.contains (v.clu, v.colour, now + 1) && v.next ≤ now
  && (!recB r || (v.live == 0 && v.back ≤ now)) &&
  (if recKind r = 0 then (s.lowestFree v.clu).isSome && (s.sys.clu v.clu).framed ≤ now
   else match s.sys.residentAt v.clu x (recBlock r) with
    | some (g, n) => (s.sys.frame v.clu g n).loaded ≤ now
    | none => false)

/-- The head's block counts one waiting thread while it is not resident (R110). -/
def countHead (s : State) (x q : Nat) (v : Queue) (r : List Word) : State :=
  if recKind r = 1 && !v.waiting && (s.sys.residentAt v.clu x (recBlock r)).isNone && v.st == .opened then
    waitBlock (s.mapSys fun y => y.setQueue x q { v with waiting := true }) v.clu x (recBlock r) (1024 + q)
  else s

/-- The queue looks at its head as a cycle begins (R110), or as a record reaches it: the start follows in the same cycle, or it looks again in the
next. A head whose block has become invalid is discarded (R108, code 7). -/
def offerHead (s : State) (x q : Nat) : State :=
  match s.sys.queue x q with
  | none => s
  | some v =>
    match v.buf with
    | [] => s
    | r :: rest =>
      let again (s : State) := s.sched (s.sys.now + 1) .recordStart { ctx := x, id := q, part := 2 }
      if injectLost s.sys x v r then again (s.mapSys fun y => y.putQueue x q { v.discard 7 with buf := rest, waiting := false })
      else if mayStart s x v r then s.sched s.sys.now .recordStart { ctx := x, id := q, part := 0 }
      else if v.st == .opened then again (countHead s x q v r)
      else s

/-- The queue of a cluster that starts in this cycle: round robin by number from the one that started last (R110). Before any start the turn is the
one after queue 0's (log entry 79, DESIGN CHOICE). -/
def roundRobin (rr q : Nat) : Nat := (q + 4095 - rr) % 4096

/-- A new thread in a free frame (R93, R107): WAITING for its block, the registers of the record. -/
def newThread (ctx ident colour next : Nat) : Thr := { Thr.reset with st := .waiting, ctx := ctx, ident := ident, colour := colour, next := next }

def createThread (s : State) (c k : Nat) (t : Thr) (gs : List Word) : State :=
  let (n, f) := s.fly.fresh
  let s := { s with fly := f, sys := s.sys.setThr c k { t with serial := n + 1 } }
  s.setRegs c k ((gs.zipIdx.map fun (w, i) => (i + 1, w)).filter fun e => e.2 != 0)

/-- The token of an inject record (R107, R24): scalar when LEN is 0; its LEN + 1 elements. -/
def injectTok (colour : Nat) (r : List Word) : Token :=
  if recLen r = 0 then scalarTok colour (recFrame r) (recIndex r) (recFmt r) (r.getD 2 0)
  else
    let d := packElems 64 (r.drop 2) % 2 ^ ((recLen r + 1) * (recFmt r).width)
    { colour := colour, frame := recFrame r, index := recIndex r, len := recLen r, fmt := recFmt r, vec := true, data := BitVec.ofNat 1024 d }

/-- The code with which an inject record is discarded at its start (R108), the lower where both cases hold (log entry 79, DESIGN CHOICE). -/
def startCode (y : Sys) (x : Nat) (v : Queue) (r : List Word) : Option Nat :=
  let t := y.thr v.clu (recFrame r)
  if !(((y.ctx x).kernel v.ident).any fun k => k.injects.contains (recBlock r, recIdx r, posOfCode (recPos r))) then some 5
  else if t.st == .free || t.st == .reserved || t.ctx != x || t.colour != v.colour then some 6
  else none

/-- The head record starts (R110, R111): a create record makes a thread in the lowest free frame, which enters its block in the next cycle
(R378); an inject record delivers its token at once (R394). -/
def startHead (s : State) (x q : Nat) : State :=
  match s.sys.queue x q with
  | none => s
  | some v =>
    match v.buf with
    | [] => s
    | r :: rest =>
      let now := s.sys.now
      let again (due part : Nat) (s : State) := s.sched due .recordStart { ctx := x, id := q, part := part }
      let cl := s.sys.clu v.clu
      let ahead := s.fly.agenda.any fun w => w.due ≤ now && match w.act with
        | .ev .recordStart e => e.part == 0 && ((s.sys.queue e.ctx e.id).any (·.clu == v.clu)) && roundRobin cl.rr e.id < roundRobin cl.rr q
        | _ => false
      if cl.started = now + 1 then again (now + 1) 2 s
      else if ahead then again now 0 s
      else
        let gone := { v with buf := rest, waiting := false }
        let v := { gone with next := now + 2 }
        let mark (s : State) := s.mapSys fun y => y.setClu v.clu { cl with rr := q, started := now + 1 }
        if recKind r = 0 then
          match s.lowestFree v.clu with
          | none => again (now + 1) 2 s
          | some k =>
            let s := mark (s.mapSys fun y => y.putQueue x q { v with live := v.live + 1 })
            let s := createThread s v.clu k { newThread x v.ident v.colour (recBlock r) with queue := some q } (r.drop 1)
            again (now + 2) 2 (s.sched (now + 1) .recordStart { clu := v.clu, frm := k, part := 1 })
        else
          match startCode s.sys x v r, s.sys.residentAt v.clu x (recBlock r) with
          | some k, _ => again (now + 1) 2 (s.mapSys fun y => y.putQueue x q (gone.discard k))
          | none, none => again (now + 1) 2 s
          | none, some (g, n) =>
            let s := mark (s.mapSys fun y => y.putQueue x q { v with retired := v.retired + 1 })
            again (now + 2) 2 (s.sched now .tokenArrival
              { clu := v.clu, reg := g, frm := n, tok := injectTok v.colour r,
                dest := { clu := v.clu, reg := g, frm := n, idx := recIdx r, pos := posOfCode (recPos r) } })

/-- A thread that was WAITING since its creation enters its block (R92). -/
def enterCreated (s : State) (c k : Nat) : State := if (s.sys.thr c k).st = .waiting then enterNext s c k else s

/-! ### The host port (R193, R365) -/

/-- STATE of `%pstate` (R366). -/
def Sys.power (y : Sys) : Nat := fieldOf y.pstate 0 3

/-- Wake latency of a C state in cycles of `%now` (R364): 2 µs, 40 µs, 2 ms. -/
def wakeLatency (st : Nat) : Nat := if st = 2 then 1880 else if st = 3 then 37600 else 1880000

/-- What the event does while the device is awake; in a C state the event wakes the device, and is taken up then (R365). -/
def whenAwake (s : State) (i : Instr) (k : State → State) : State :=
  if s.sys.power < 2 then k s
  else
    let w := s.fly.agenda.find? fun w => match w.act with
      | .ev .wake _ => true
      | _ => false
    match w with
    | some w => s.sched (max w.due (s.sys.now + 1)) i { s.fly.ev with q := true }
    | none =>
      let due := s.sys.now + wakeLatency s.sys.power
      (s.sched due .wake {}).sched due i { s.fly.ev with q := true }

/-- STATE of `%lnksts` (R192). -/
def Sys.lnkState (y : Sys) : Nat := fieldOf y.lnk 4 3

/-- An access of the host at the CXL port (R193): it acts in L0, waits in L1 and RECOVERY, ahead of those that come
later (R193: in order), and is lost in every other state. -/
def atHostPort (s : State) (i : Instr) (k : State → State) : State :=
  match s.sys.lnkState with
  | 2 => whenAwake s i k
  | 3 =>
    let s := s.sched (s.sys.now + 1) i { s.fly.ev with q := true }
    if s.fly.due fun i _ => i == .l1Exit then s else s.sched s.sys.now .l1Exit {}
  | 4 => s.sched (s.sys.now + 1) i { s.fly.ev with q := true }
  | _ => s

/-! ### The aperture (R105) -/

/-- Context, window and offset within the window of an aperture offset (R105). -/
def apertureOf (off : Nat) : Nat × Nat × Nat := (off / 4096 / 8192 % 16, off / 4096 % 8192, off % 4096)

/-- The word that the host reads at an aperture offset (R105, R106, R113): the status word of a queue or exit port at 0x040, zero elsewhere. -/
def apertureWord (y : Sys) (off : Nat) : Word :=
  let (x, w, o) := apertureOf off
  if o / 8 ≠ 8 then 0
  else if w < 4096 then match y.queue x w with
    | some q => q.status (y.qState q)
    | none => 0
  else match tabFind (y.ctx x).ports (w - 4096) with
    | some p => p.status
    | none => 0

/-! ### The events -/

/-- HOST_RECORD_WRITE (R105, R107, R108, R193): the host writes `bytes` at offset `col` of the aperture. A write from offset 0x040 of a window on is
ignored. -/
def execHostRecordWrite (s : State) : Host.Outcome State Fault Refusal :=
  let e := s.fly.ev
  let (x, w, o) := apertureOf e.col
  .next (atHostPort s .hostRecordWrite fun s =>
    if 4096 ≤ w ∨ 64 ≤ o then s else arriveRecord s x w (leWords 8 e.bytes) (o == 0 && e.bytes.length == 64) false)

/-- RECORD_START (R110, R111): of queue `id` of context `ctx`; as the cycle begins the queue looks at its head (part 2), at its end the record
starts (part 0), and in the next cycle the thread of frame `frm` of cluster `clu` enters its block (part 1). -/
def execRecordStart (s : State) : Host.Outcome State Fault Refusal :=
  let e := s.fly.ev
  .next (if e.part = 2 then offerHead s e.ctx e.id else if e.part = 1 then enterCreated s e.clu e.frm else startHead s e.ctx e.id)

/-- EXIT_HEAD_WRITE (R105, R113): the host writes `word` at offset `col` of the aperture, offset 0x040 of an exit-port window: HEAD is bits [31:0].
Ignored if more than S records would be unread. -/
def execExitHeadWrite (s : State) : Host.Outcome State Fault Refusal :=
  let e := s.fly.ev
  let (x, w, o) := apertureOf e.col
  .next (atHostPort s .exitHeadWrite fun s =>
    if w < 4096 ∨ o ≠ 64 then s
    else match tabFind (s.sys.ctx x).ports (w - 4096) with
    | none => s
    | some p =>
      let h := e.word.setWidth 32
      if (p.tail - h).toNat > p.size then s
      else s.mapSys fun y => y.modCtx x fun v => { v with ports := tabPut v.ports (w - 4096) { p with head := h } })

/-- LAUNCH_APPEND (R112): the stores before the LAUNCH of post `id` are acknowledged, and its record reaches the queue. -/
def execLaunchAppend (s : State) : Host.Outcome State Fault Refusal :=
  let id := s.fly.ev.id
  .next (whenAwake s .launchAppend fun s =>
    match tabFind s.fly.posts id with
    | some { ctx := x, act := .launch q ws, .. } => arriveRecord (s.mapFly (·.delPost id)) x q ws true true
    | _ => s)

/-- SPAWN_CREATE (R236): the reserved frame of post `id` becomes a thread, which waits on its block as on an exit target. -/
def execSpawnCreate (s : State) : Host.Outcome State Fault Refusal :=
  let id := s.fly.ev.id
  .next (whenAwake s .spawnCreate fun s =>
    match tabFind s.fly.posts id with
    | some { ctx := x, ident := n, clu := c, colour := k, act := .spawn frm addr g1 g2 g3, .. } =>
      let s := createThread (s.mapFly (·.delPost id)) c frm (newThread x n k addr) [g1, g2, g3]
      s.sched (s.sys.now + 1) .recordStart { clu := c, frm := frm, part := 1 }
    | _ => s)

end Sys2Proof.Machine
end

