-- ==== Sys2Proof/Machine/Ev.lean ====
section
/-!
DEFINITION. What several device events share: bytes that the device itself writes and reads at virtual addresses, fault tickets (R163), and
contained faults that a token's arrival raises (R32, R345).
-/
namespace Sys2Proof.Machine

/-! ### Bytes the device writes and reads itself -/

/-- A home slice recalls a line from the bank that holds it writable (R174): the bank writes it back and drops it. -/
def recallLine (y : Sys) (l : Nat) : Sys :=
  match (y.line l).holder with
  | none => y
  | some (c, b) =>
    let wrote := (tabFind (y.bank c b).lines l).any Prod.snd
    (y.modLine l fun v => { v with holder := none, dirty := v.dirty || wrote }).modBank c b fun v => { v with lines := tabDel v.lines l }

/-- The next tag of a line: 1 follows 65,535 (R382). -/
def Line.nextTag (v : Line) : BitVec 16 := if v.tag = 0xFFFF then 1 else v.tag + 1

/-- A perform on a line (R382), which writes it where `w`. -/
def Sys.stamp (y : Sys) (l : Nat) (w : Bool) : Sys :=
  y.modLine l fun v => { v with tag := v.nextTag, last := some y.now, dirty := v.dirty || w }

/-- Lines above the device's 512 GiB are host memory, reached through the CXL port (log entry 47, DEDUCED). -/
def hostLine (l : Nat) : Bool := l ≥ 2 ^ 33

/-- The lines that a home slice holds. -/
def Sys.heldAt (y : Sys) (h : Nat) : List Nat := (y.lines.filter fun e => e.2.held.isSome && homeSlice (e.1 * 64) == h).map Prod.fst

/-- A home slice gives up a line: it is written back under its own key tag (R358), a line that was only read where `clean`. -/
def Sys.giveUp (y : Sys) (l : Nat) (clean : Bool) : Sys :=
  let y := recallLine y l
  let v := y.line l
  match v.held with
  | none => y
  | some k => y.setLine l { v with ktag := if clean || v.dirty then some (y.storedAs k) else v.ktag, held := none, dirty := false }

/-- A line that is fetched finds a place in its set; from a full set one goes, written back under its key tag (R2; which is a free value). Nothing
is full while the slice holds no more lines than a set has. -/
def makeRoom (y : Sys) (l : Nat) : Sys :=
  let ls := y.heldAt (homeSlice (l * 64))
  if ls.length < Config.sliceWays then y
  else
    let set := ls.filter fun n => Config.sliceSet n % 2048 == Config.sliceSet l % 2048
    if set.length < Config.sliceWays then y
    else match set[Config.sliceVictim y.fetches % set.length]? with
      | some n => y.giveUp n false
      | none => y

/-- The line comes from its memory channel and is held under key tag `k` (R17, R357): its check passes, if ECC does and the line is stored
under no other key; the tags of the line begin again (R382). -/
def Sys.fetched (y : Sys) (l : Nat) (k : KeyTag) : Option Sys :=
  let v := y.line l
  if Config.eccOk y.fetches && y.opens v k then some ((makeRoom y l).setLine l { v with held := some k, tag := 0, dirty := false }) else none

/-- A line held under another key tag is written back under its own (R358). -/
def Sys.unhold (y : Sys) (l : Nat) : Sys := y.giveUp l true

/-- What a unit of the device asks of a line's home slice: to read the line under a key tag, or to write it. -/
structure Ask where
  line : Nat
  key : KeyTag
  w : Bool
deriving DecidableEq, Repr, Inhabited

/-- What a unit of the device meets at its lines' home slices. -/
inductive LineRes where
  | ok (s : State)
  | wait (s : State)
  | down
  | bad (s : State)
deriving DecidableEq, Repr, Inhabited

/-- An access to host memory takes the link out of L1 (R193). -/
def leaveL1 (s : State) : State :=
  if s.sys.lnkState = 3 && !s.fly.due (fun i _ => i == .l1Exit) then s.sched (s.sys.now + 1) .l1Exit {} else s

/-- A unit acts on a line whose turn it is: a bank that holds the line gives it back (R174), a line not held under the tag is fetched and checked (R357,
R358), and the perform takes a sequence tag (R382). -/
def openLine (s : State) (q : Ask) : LineRes :=
  if (s.sys.line q.line).held = some q.key then .ok (s.mapSys fun y => (recallLine y q.line).stamp q.line q.w)
  else
    let y := s.sys.unhold q.line
    match y.fetched q.line q.key with
    | some z => .ok { s with sys := { z with fetches := y.fetches + 1 }.stamp q.line q.w }
    | none => .bad { s with sys := { y with fetches := y.fetches + 1 } }

/-- The lines one after the other. -/
def openAll : List Ask → State → LineRes
  | [], s => .ok s
  | q :: t, s =>
    match openLine s q with
    | .ok s => openAll t s
    | r => r

/-- Each line once, to be written if one of its asks is to write it. -/
def mergeAsks (l : List Ask) : List Ask :=
  l.foldl (fun t q => if t.any (·.line == q.line) then t.map fun p => if p.line = q.line then { p with w := p.w || q.w } else p else t ++ [q]) []

/-- A home slice, the copy engine, a TSTAGE, a block fetch, a park channel or the management core acts on lines in this cycle (R16), all or none: host memory
needs the link (R193), and a line performs once in a cycle (R383). -/
def openLines (l : List Ask) (s : State) : LineRes :=
  let l := mergeAsks l
  if l.any (fun q => hostLine q.line) && s.sys.lnkState = 5 then .down
  else if l.any (fun q => hostLine q.line) && s.sys.lnkState ≠ 2 then .wait (leaveL1 s)
  else if l.any fun q => (s.sys.line q.line).last == some s.sys.now then .wait s
  else openAll l s

/-- A line is stored in memory under a key tag by what passes no home slice (the management core's loads, R87). -/
def Sys.storeLine (y : Sys) (l : Nat) (k : KeyTag) : Sys :=
  (recallLine y l).modLine l fun v => { v with ktag := some (y.storedAs k), held := none, dirty := false }

/-- The first byte of a range whose page does not translate, with the reason. -/
def firstBad (y : Sys) (m : Memory) (x colour ident : Nat) (n : Need) : List (Nat × Nat) → Option (Nat × XRes)
  | [] => none
  | (p, b) :: t =>
    match xlateNow y m x colour ident n p with
    | .ok _ => firstBad y m x colour ident n t
    | r => some (b, r)

/-- The physical lines, with their key tags, of the `n` bytes from an address, on the pages that translate. -/
def linesOf (y : Sys) (m : Memory) (x colour va n : Nat) (w : Bool) : List Ask :=
  ((List.range ((va % 64 + n + 63) / 64)).filterMap fun k =>
    let a := (va / 64 + k) % 2 ^ 46 * 64
    (locate y m x colour (a / 65536)).map fun t => { line := (t.pa + a % 65536) / 64, key := keyTagOf x colour t, w := w }).eraseDups

/-- Bytes written at translated addresses. -/
def putVirt (s : State) (x colour ident : Nat) : Nat → List Byte → State
  | _, [] => s
  | va, b :: bs =>
    let s := match xlateNow s.sys s.mem x colour ident {} (va / 65536) with
      | .ok t => { s with mem := writeByte s.mem (t.pa + va % 65536) b }
      | _ => s
    putVirt s x colour ident ((va + 1) % vaMod) bs

/-- A write by the device itself: nothing is written unless every page translates and every line is there. A line that fails its check is an
uncorrectable memory error of the context (R357): `c` and `k` name whom the management core is told. -/
def writeVirt (s : State) (x colour ident va : Nat) (bs : List Byte) : Except (Nat × XRes × State) State :=
  match firstBad s.sys s.mem x colour ident { w := true, writes := true } (pagesOf va bs.length) with
  | some (b, r) => .error (b, r, s)
  | none =>
    match openLines (linesOf s.sys s.mem x colour va bs.length true) s with
    | .ok s => .ok (putVirt s x colour ident va bs)
    | .wait s => .error (va, .wait, s)
    | .down => .error (va, .down, s)
    | .bad s => .error (va, .uncorrectable, s)

/-- A read by the device itself, if every byte is mapped. -/
def readVirt (y : Sys) (m : Memory) (x colour : Nat) (va : Nat) : Nat → Option (List Byte)
  | 0 => some []
  | n + 1 =>
    match resolve y m x colour va, readVirt y m x colour ((va + 1) % vaMod) n with
    | some a, some bs => some (readByte m a :: bs)
    | _, _ => none

/-- A read by the device itself at its lines' home slices: the bytes, or why there are none. -/
def takeVirt (s : State) (x colour va n : Nat) : Except (XRes × State) (List Byte × State) :=
  match readVirt s.sys s.mem x colour va n with
  | none => .error (.absent 0, s)
  | some bs =>
    match openLines (linesOf s.sys s.mem x colour va n false) s with
    | .ok s => .ok (bs, s)
    | .wait s => .error (.wait, s)
    | .down => .error (.down, s)
    | .bad s => .error (.uncorrectable, s)

/-! ### Tickets (R163, R164) -/

/-- LIMIT of a context: below 1,024 it acts as 1,024 (R164). -/
def ftLimit (y : Sys) (x : Nat) : Nat := max 1024 (y.ctx x).ftlim.toNat

/-- The ticket of a withheld access: the open one of its port and page, or a new one with its fault record (R163). `kind` is KIND. Every colour has
the same page of a common range. -/
def withhold (s : State) (x colour c r byte kind : Nat) : Nat × State :=
  let common := !(rangesFor s.sys s.mem x 4096 (byte / 65536)).isEmpty
  match s.sys.tickets.find? fun e =>
    e.2.ctx == x && (common || e.2.colour == colour) && e.2.clu == c && e.2.reg == r && e.2.page == byte / 65536 with
  | some e => (e.1, s)
  | none =>
    let n := s.sys.nextTicket
    let now := s.sys.now
    let rec_ := [BitVec.ofNat 64 (colour * 2 ^ 52 + byte % 2 ^ 52), BitVec.ofNat 64 (x * 2 ^ 60 + c * 2 ^ 53 + r * 2 ^ 49 + kind * 2 ^ 47 + n),
                 BitVec.ofNat 64 (now % 2 ^ 48), 0]
    let k : Ticket := { ctx := x, colour := colour, clu := c, reg := r, page := byte / 65536, since := now }
    (n, s.mapSys fun y => { y with tickets := tabPut y.tickets n k, nextTicket := (n + 1) % 2 ^ 32, faultq := y.faultq ++ [rec_] })

/-! ### Contained faults at a token's arrival (R28, R32, R345) -/

/-- The contained-fault log of a cluster (R32, step 4). -/
def logFault (y : Sys) (c : Nat) (d : Dest) (t : Token) (cause : Nat) : Sys :=
  y.modClu c fun v => { v with faultLog := v.faultLog ++ [(tagWord d t, cause, y.now)] }

/-- Tokens of one tag held for a block are dropped, those bound for its commit unit included (R32, step 1). -/
def dropTag (s : State) (c : Nat) (d : Dest) (t : Token) : State :=
  let y0 := s.sys
  let s := s.mapSys fun y => y.dropTokens c fun e =>
    e.dest.reg == d.reg && e.dest.frm == d.frm && e.tok.colour == t.colour && e.tok.frame == t.frame && e.tok.index == t.index
  s.mapFly fun f => wakeCluster y0 s.sys c <| match f.inst c t.frame with
    | some i => if i.reg == d.reg && i.frm == d.frm then f.setInst c t.frame { i with exit := none, writes := [] } else f
    | none => f

/-- A contained fault strikes at the arrival of a token (R32): in the thread's live instance at that block, or, where the thread is elsewhere,
counted and logged at once and taken at its next block entry. A colour with no valid entry only loses its tokens. -/
def faultAt (s : State) (c : Nat) (d : Dest) (t : Token) (cause info : Nat) : State :=
  let blk := (s.sys.frame c d.reg d.frm).blk
  let r : TrapRec := { cause := cause, contained := true, index := t.index, info := BitVec.ofNat 64 info, va := 0, tag := tagWord d t }
  if (s.sys.centOf c t.colour).isNone then (dropTag s c d t).mapSys fun y => logFault y c d t cause
  else
    match s.fly.inst c t.frame with
    | some i =>
      if i.reg = d.reg ∧ i.frm = d.frm ∧ i.colour = t.colour then raiseTrap s c t.frame d.idx r
      else elsewhere s blk r
    | none => elsewhere s blk r
where
  elsewhere (s : State) (blk : Nat) (r : TrapRec) : State :=
    let s := dropTag s c d t
    let s := s.mapSys fun y => (logFault (y.countFault c t.colour) c d t cause).modThr c t.frame fun h =>
      if h.st = .free then h else { h with aborted := (blk, t.index) :: h.aborted }
    deferTrap s c t.frame none r

/-! ### Posts: what follows the acknowledgement of released accesses -/

/-- What a post does in cycle `due`, its accesses acknowledged. A change of TOTAL performs in that cycle, with no time for its path (log entry 92, DEDUCED). -/
def firePost (s : State) (due id : Nat) (p : Post) : State :=
  match p.act with
  | .arrive .. => s.sched due .barrierArrival { clu := p.clu, frm := p.frm, id := id, part := 0 }
  | .launch .. => s.sched due .launchAppend { id := id }
  | .spawn .. => s.sched due .spawnCreate { id := id }
  | .message .. => s.sched due .messageSend { id := id }
  | .group .. => s.sched due .groupTotalUpdate { id := id }
  | .perform n =>
    let s := s.mapFly (·.delPost id)
    match s.fly.acc n with
    | some a =>
      let s := s.mapFly fun f => f.setAcc n { a with st := .issued }
      let e : Ev := { clu := a.clu, reg := a.reg, col := a.slice 0, id := n }
      let t := pathDue s.fly a.clu (a.slice 0) (due + 10)
      if a.op = .sfree then s.sched t .sfreePerform e else s.sched t .snewPerform e
    | none => s
  | .taskDone k =>
    let s := s.mapFly (·.delPost id)
    if (s.sys.thr p.clu p.frm).serial = p.owner ∧ (s.sys.thr p.clu p.frm).task = some k then endThread s p.clu p.frm else s

/-- A post entered in cycle `due`: it acts then, or once its accesses are acknowledged. -/
def addPost (s : State) (due : Nat) (p : Post) : State :=
  let (id, f) := s.fly.fresh
  let p := { p with ready := p.waits.isEmpty }
  let s := { s with fly := f.setPost id p }
  if p.ready then firePost s due id p else s

/-- An access is acknowledged: what waited for it alone goes on. -/
def ackAccess (s : State) (id : Nat) : State :=
  s.fly.posts.foldl (fun s e =>
    if e.2.waits.contains id then
      let p := { e.2 with waits := e.2.waits.filter (· != id) }
      let p := { p with ready := p.waits.isEmpty }
      let s := s.mapFly (·.setPost e.1 p)
      if p.ready then firePost s s.sys.now e.1 p else s
    else s) s

/-! ### Faults that the next block entry takes -/

/-- A contained fault of instance `ser` that is taken at the thread's next block entry (R118, R127): counted and logged now (R32), under a tag without
region and with no entry of the abort record, as its instance is complete (log entry 83, DESIGN CHOICE). -/
def deferContained (s : State) (c k : Nat) (ser : Option Nat) (r : TrapRec) : State :=
  let t := s.sys.thr c k
  if t.st == .free then s
  else
    let s := s.mapSys fun y => (y.countFault c t.colour).modClu c fun v => { v with faultLog := v.faultLog ++
      [(BitVec.ofNat 64 (t.colour * 2 ^ 52 + k * 2 ^ 42 + r.index * 2 ^ 32 + c * 2 ^ 17), r.cause, y.now)] }
    deferTrap s c k ser r

/-- OWNER, contained (R343). -/
def ownerRec (idx : Nat) : TrapRec := { cause := 8, contained := true, index := 0, info := BitVec.ofNat 64 idx, va := 0 }

end Sys2Proof.Machine
end

