-- ==== Sys2Proof/Machine/EvToken.lean ====
section
/-!
DEFINITION. Device events of the matching store (R23 to R46): tokens arrive, pair, fire or are placed; colours are parked and re-injected;
control tokens pass.
-/
namespace Sys2Proof.Machine

/-! ### Pairing (R27, R34, R199, R249, R269) -/

/-- Instructions whose positions pair whole (R269, R301): the multiplier bank, rings, stitched tensors, messages, memory, synchronisation and
system. LDG, STSC, LEA, COMB, SPAWN and EMIT pair by overlap. -/
def pairsWhole (op : Nat) : Bool := op == 0x7C || (op ≥ 0x80 && !([0xB4, 0xB5, 0xB7, 0xE7, 0xFB, 0xFC].contains op))

/-- BFQ, VINS, RSTAT and RSCL: the right position is scalar and pairs whole (R249). -/
def scalarRight (op : Nat) : Bool := [0x55, 0x63, 0x70, 0x71].contains op

/-- The tokens that wait for an instruction of a region, each with where it stands: 1 an entry, 2 a hold queue, 3 arrived and not placed. -/
def waitingFor (g : Region) (d : Dest) : List (Nat × Entry) :=
  ((g.entries.map fun e => (1, e)) ++ (g.holds.map fun e => (2, e)) ++ (g.arrived.map fun e => (3, e))).filter
    fun e => e.2.dest.frm == d.frm && e.2.dest.idx == d.idx

/-- Waiting tokens in order of their first arrival (R27). -/
def insertFirst (e : Nat × Entry) : List (Nat × Entry) → List (Nat × Entry)
  | [] => [e]
  | b :: t => if e.2.first < b.2.first then e :: b :: t else b :: insertFirst e t

def byArrival (l : List (Nat × Entry)) : List (Nat × Entry) := l.foldl (fun l e => insertFirst e l) []

/-- A token for each of the positions, all of one tag (or, by overlap, with a common range from `lo` to `hi`), oldest first. -/
def findParts (ws : List (Nat × Entry)) (t : Token) (whole : Bool) : List Pos → Nat → Nat → Option (List (Nat × Entry) × Nat × Nat)
  | [], lo, hi => some ([], lo, hi)
  | p :: ps, lo, hi =>
    (ws.filter fun e => e.2.dest.pos == p && e.2.tok.colour == t.colour && e.2.tok.frame == t.frame).findSome? fun e =>
      if whole then
        if e.2.tok.index = t.index then (findParts ws t whole ps lo hi).map fun r => (e :: r.1, r.2) else none
      else
        let lo := max lo e.2.tok.index
        let hi := min hi (e.2.tok.index + e.2.tok.len)
        if lo ≤ hi then (findParts ws t whole ps lo hi).map fun r => (e :: r.1, r.2) else none

/-- The positions of an expected set (R26). -/
def positions (m : Nat) : List Pos :=
  (if m % 2 = 1 then [.left] else []) ++ (if m / 2 % 2 = 1 then [.right] else []) ++ (if m / 4 % 2 = 1 then [.pred] else [])

/-- The parts of a token below and above a range (R34). -/
def remainders (e : Entry) (lo hi : Nat) : List Entry :=
  let t := e.tok
  (if t.index < lo then [{ e with tok := t.cut 0 (lo - t.index) }] else []) ++
  (if hi < t.index + t.len then [{ e with tok := t.cut (hi + 1 - t.index) (t.index + t.len - hi) }] else [])

/-- Remainders are placed in ascending INDEX (R34). -/
def insertIndex (e : Entry) : List Entry → List Entry
  | [] => [e]
  | b :: t => if e.tok.index < b.tok.index then e :: b :: t else b :: insertIndex e t

def byIndex (l : List Entry) : List Entry := l.foldl (fun l e => insertIndex e l) []

/-- The first occurrence of an entry is replaced. -/
def replaceEntry (e : Entry) (r : Option Entry) : List Entry → List Entry
  | [] => []
  | b :: t => if b = e then r.toList ++ t else b :: replaceEntry e r t

/-- What a firing leaves of a token (R34): one that held an entry keeps it for its first remainder; others are placed as new arrivals. -/
def consume (lo hi : Nat) (whole : Bool) (acc : Region × List Entry) (p : Nat × Entry) : Region × List Entry :=
  let (g, new) := acc
  let rs := if whole then [] else remainders p.2 lo hi
  match p.1 with
  | 1 => ({ g with entries := replaceEntry p.2 rs.head? g.entries }, new ++ rs.tail)
  | 2 => ({ g with holds := replaceEntry p.2 none g.holds }, new ++ rs)
  | 3 => ({ g with arrived := replaceEntry p.2 none g.arrived }, new ++ rs)
  | _ => (g, new ++ rs)

/-- The live instance that a token's instruction belongs to (R26, R394). -/
def liveFor (s : State) (c : Nat) (e : Entry) : Option Inst :=
  match s.fly.inst c e.tok.frame with
  | some i => if i.reg = e.dest.reg ∧ i.frm = e.dest.frm ∧ i.colour = e.tok.colour ∧ e.ent.all (· == i.ser) then some i else none
  | none => none

/-- The token that a part brings to a position. -/
def partAt (ps : List (Nat × Entry)) (lo hi : Nat) (whole : Bool) (p : Pos) : Option Token :=
  (ps.find? fun e => e.2.dest.pos == p).map fun e => if whole then e.2.tok else e.2.tok.cut (lo - e.2.tok.index) (hi + 1 - lo)

/-- The first cycle in which `f` may issue after a firing `w` of the agenda: one instruction's firings under one tag follow each other (R30,
R232), and those of COMB keep their order whatever their INDEX (R70, R323). -/
def afterFiring (comb : Bool) (f : Firing) (w : Work) : Nat :=
  match w.act with
  | .fire g =>
    if g.clu == f.clu && g.frame == f.frame && g.idx == f.idx && g.reg == f.reg && g.frm == f.frm then
      if g.index == f.index || comb then w.due + 1 else 0
    else 0
  | _ => 0

/-- The cycles until the result of a division leaves its PE (R224). -/
def divCycles : Instr → Option Nat
  | .div x | .divn x | .rem x | .remn x => some (if x.h.ty = .x64 then 20 else 12)
  | _ => none

/-- The divider of the PE of instruction `idx` of a region is held (R224): the event that frees it stands on the agenda. -/
def dividerBusy (f : Fly) (c r idx : Nat) : Bool :=
  f.due fun i e => i == .tokenArrival && e.part == 10 && e.clu == c && e.reg == r && e.col == idx % 16

/-- A division that issues at `due` holds the divider of its PE until its result leaves (R224). -/
def holdDivider (i : Option Instr) (f : Firing) (due : Nat) (fl : Fly) : Fly :=
  match i.bind divCycles with
  | some n => fl.event (due + n + f.extra) .tokenArrival { clu := f.clu, reg := f.reg, part := 10, col := f.idx % 16 }
  | none => fl

/-- A firing of an instruction completes (R28, R30): it issues two cycles later, three where an operand is converted, and after the
firings of its instruction that are older. -/
def schedFire (now : Nat) (i : Option Instr) (f : Firing) (fl : Fly) : Fly :=
  let ty := (i.map Instr.acTypes).getD (none, none)
  let comb := match i with | some (.comb _) => true | _ => false
  let due := now + 2 + if converts ty.1 f.left || converts ty.2 f.right then 1 else 0
  let due := fl.agenda.foldl (fun d w => max d (afterFiring comb f w)) due
  holdDivider i f due (fl.sched due (.fire f))

/-- The entries of a completed instance are free in the next cycle (R30: tag compare; R379). -/
def freeNext (now c r : Nat) (f : Fly) : Fly :=
  if f.due fun i e => i == .tokenArrival && e.part == 7 && e.clu == c && e.reg == r then f else f.event (now + 1) .tokenArrival { clu := c, reg := r, part := 7 }

/-- The entries that the completions of the last cycle free (R40). -/
def freeEntries (s : State) (c r : Nat) : State :=
  let y := s.sys.modRegion c r fun g => { g with freeing := [] }
  { s with sys := y, fly := wakeCluster s.sys y c s.fly }

/-- A token completes its instruction, if it can (R27, R34): the firing takes its tokens, and what remains of them is given back to be placed.
A firing of R35 that has no room for its remainder does not take place; its colour counts as at quota in the region. A division waits while the divider of
its PE is held (R224). -/
def tryFire (s : State) (c r loc : Nat) (e : Entry) : Except State (State × List Entry) :=
  match liveFor s c e with
  | none => .error s
  | some i =>
    let b := s.sys.frame c r e.dest.frm
    let g := s.sys.region c r
    let op := fieldOf (b.word e.dest.idx) 56 8
    let whole := pairsWhole op || scalarRight op
    let need := (positions (b.expect.getD e.dest.idx 0)).filter (· != e.dest.pos)
    let held := ((b.instr e.dest.idx).bind divCycles).isSome && dividerBusy s.fly c r e.dest.idx
    match (findParts (byArrival (waitingFor g e.dest)) e.tok whole need e.tok.index (e.tok.index + e.tok.len)).filter fun _ => !held with
    | none => .error s
    | some (ps, lo, hi) =>
      let all := (loc, e) :: ps
      let left := if whole then 0 else (all.map fun p => (remainders p.2 lo hi).length).sum
      if left > all.length && !mayTake s.sys c r e.tok.colour (s.sys.holdQ c r e.tok.colour).isEmpty then
        .error (s.mapSys fun y => y.setRegion c r { g with blocked := if g.blocked.contains e.tok.colour then g.blocked else e.tok.colour :: g.blocked })
      else
        let (g, new) := all.foldl (consume lo hi whole) (g, [])
        let n := (all.filter fun p => p.1 == 1 && (whole || (remainders p.2 lo hi).isEmpty)).length
        let g := { g with freeing := g.freeing ++ List.replicate n e.tok.colour }
        let f : Firing :=
          { clu := c, reg := r, frm := e.dest.frm, idx := e.dest.idx, colour := e.tok.colour, frame := e.tok.frame, ser := i.ser,
            index := if whole then e.tok.index else lo, since := s.sys.now,
            left := partAt all lo hi whole .left, right := partAt all lo hi whole .right, pred := partAt all lo hi whole .pred }
        let y := s.sys.setRegion c r g
        let fl := schedFire y.now (b.instr e.dest.idx) f s.fly
        let fl := if n = 0 then fl else freeNext y.now c r fl
        .ok ({ s with sys := y, fly := if all.any (·.1 == 2) then wakeCluster s.sys y c fl else fl }, byIndex new)

/-- Tokens offered to their instructions in turn; those that complete nothing are placed at the end of the cycle. -/
def offerAll : Nat → State → Nat → Nat → List Entry → State
  | 0, s, _, _, _ => s
  | _ + 1, s, _, _, [] => s
  | n + 1, s, c, r, e :: es =>
    match tryFire s c r 0 e with
    | .ok (s, new) => offerAll n s c r (new ++ es)
    | .error s => offerAll n (s.mapSys fun y => y.modRegion c r fun g => { g with arrived := g.arrived ++ [e] }) c r es

/-- Tokens that this cycle brought are placed after all its arrivals (R40). -/
def placeLater (s : State) (c r : Nat) : State :=
  if s.fly.due fun i e => i == .tokenArrival && e.part == 9 && e.clu == c && e.reg == r then s
  else s.sched s.sys.now .tokenArrival { clu := c, reg := r, part := 9 }

/-- Waiting tokens look again for partners: the block was entered, or a firing of R35 has room (R35, R394). -/
def retryWaiting (s : State) (c r : Nat) : State :=
  let g := s.sys.region c r
  let ws := byArrival ((g.entries.map fun e => (1, e)) ++ (g.holds.map fun e => (2, e)) ++ (g.arrived.map fun e => (3, e)))
  ws.foldl (fun s p =>
    let g := s.sys.region c r
    if (if p.1 = 1 then g.entries else if p.1 = 2 then g.holds else g.arrived).contains p.2 then
      match tryFire s c r p.1 p.2 with
      | .ok (s, new) => placeLater (offerAll 128 s c r new) c r
      | .error s => s
    else s) s

/-! ### Parking (R42, R43, R45) -/

/-- Bytes of a token's data (R24). -/
def tokBytes (t : Token) : Nat := if t.vec then ((t.len + 1) * t.fmt.width + 7) / 8 else 8

/-- CONT of a park record (R43). -/
def contOf (t : Token) : Nat := (tokBytes t + 15) / 64

/-- The bytes of a park record with its continuation records (R43). -/
def parkBytes (e : Entry) (origin : Nat) : List Byte :=
  let k := contOf e.tok
  let w1 := (if e.tok.vec then 2 ^ 63 else 0) + k * 2 ^ 61 + origin * 2 ^ 59 + e.first % 2 ^ 48
  leBytes 8 (tagWord e.dest e.tok).toNat ++ leBytes 8 w1 ++ leBytes (48 + 64 * k) (e.tok.data.toNat % 2 ^ (8 * tokBytes e.tok))

/-- The token of a park record as it reads (R43). -/
def parkEntry (ent : Option Nat) (bs : List Byte) : Entry :=
  let w0 := BitVec.ofNat 64 (leNat (bs.take 8))
  let w1 := BitVec.ofNat 64 (leNat ((bs.drop 8).take 8))
  let slot := fieldOf w0 4 5
  { dest := { clu := fieldOf w0 17 7, reg := fieldOf w0 13 4, frm := slot / 8, idx := slot % 8 * 16 + fieldOf w0 9 4,
              pos := posOfCode (fieldOf w0 2 2) }
    ent := ent
    tok := { colour := fieldOf w0 52 12, frame := fieldOf w0 42 10, index := fieldOf w0 32 10, len := fieldOf w0 27 5,
             fmt := Fmt.ofCode (w0.extractLsb' 24 3), vec := w1.getLsbD 63, data := BitVec.ofNat 1024 (leNat (bs.drop 16)) }
    first := fieldOf w1 0 48 }

/-- Every live instance of a colour at a cluster is aborted, its tokens with it, and its thread takes PAGE at a park address (R45). A token of no live
instance that finds no room is lost, and the colour stays parked (log entry 85, DEDUCED). -/
def parkOverflow (s : State) (c col code va : Nat) : State :=
  let ks := (s.fly.insts.filter fun e => e.1 / 1024 == c && e.2.colour == col).map Prod.fst
  ks.foldl (fun s n => raiseTrap s c (n % 1024) 127 { misuse 4 code 0 with va := va }) s

/-- Records that the park channel of a region buffers because their write is withheld, whatever their colour (R43). -/
def parkBuffered (y : Sys) (c r : Nat) : Nat :=
  (y.parks.flatMap fun e => if e.1 / 4096 = c
    then (e.2.pending.filter fun q => q.2.2.dest.reg == r && !e.2.sent.contains q.1).map fun q => 1 + contOf q.2.2.tok else []).sum

/-- An uncorrectable memory error of a park record (R357, R76): the thread is the token's, where it is still in its frame. -/
def tokenFault (s : State) (c : Nat) (e : Entry) : State :=
  let k := e.tok.frame
  let t := s.sys.thr c k
  let here := t.st != .free && t.colour == e.tok.colour && e.ent.all fun n => (s.fly.inst c k).any (·.ser == n)
  memFault s (s.sys.ctxOf c) c k (if here then t.serial else t.serial + 1)

/-- The event that writes a park record: colour `frm`, place `id`. -/
def parkEvent (c r slice col i : Nat) (q : Bool) : Ev := { clu := c, reg := r, col := slice, frm := col, id := i, part := 1, q := q }

/-- A park write at byte `b` of colour `col` that is not done (R45): an absent page takes a ticket, a MIGRATING page takes none (R162), the link or the
line is awaited (R193, R383), and a line that fails its check is a memory error (R357). -/
def parkWithheld (s : State) (c r col b : Nat) (q : Nat × Nat × Entry) : XRes → State
  | .migrating => s
  | .wait => (s.mapSys fun y => y.modPark c col fun p => { p with sent := q.1 :: p.sent }).sched (s.sys.now + 1) .parking (parkEvent c r 0 col q.1 true)
  | .uncorrectable => tokenFault s c q.2.2
  | .down => raiseTrap s c q.2.2.tok.frame q.2.2.dest.idx { misuse 3 0x54 q.2.2.tok.index with va := b }
  | _ => (withhold s (s.sys.ctxOf c) col c r b 2).2

/-- The park area of a colour at a cluster (R37). -/
def Sys.parkAt (y : Sys) (c col i : Nat) : Nat := (((y.centOf c col).map fun n => (y.cent c n).parkBase).getD 0) + i * 64

/-- The first byte of a park record whose page does not translate, with the reason. -/
def parkBad (s : State) (c col : Nat) (q : Nat × Nat × Entry) : Option (Nat × XRes) :=
  firstBad s.sys s.mem (s.sys.ctxOf c) col (s.sys.thr c q.2.2.tok.frame).ident { w := true, writes := true }
    (pagesOf (s.sys.parkAt c col q.1) (64 * (1 + contOf q.2.2.tok)))

/-- The write of a park record goes to its home slice through the port tile's park channel (R43), in the order of the pair's requests (R190), or is
withheld (R45). -/
def sendPark (s : State) (c r col : Nat) (q : Nat × Nat × Entry) : State :=
  match parkBad s c col q with
  | some (b, why) => parkWithheld s c r col b q why
  | none =>
    let slice := homeSlice ((resolve s.sys s.mem (s.sys.ctxOf c) col (s.sys.parkAt c col q.1)).getD 0)
    let (d, f) := s.fly.draw
    { s with sys := s.sys.modPark c col fun p => { p with sent := q.1 :: p.sent },
             fly := f.event (pathDue f c slice (s.sys.now + 13 + d)) .parking (parkEvent c r slice col q.1 false) }

/-- Park records whose write was withheld at a port are sent again (R45). -/
def rewriteParks (s : State) (c r col : Nat) : State :=
  let p := s.sys.park c col
  (p.pending.filter fun q => q.2.2.dest.reg == r && !p.sent.contains q.1).foldl (fun s q => sendPark s c r col q) s

/-- A token is appended to its colour's park queue (R43, R45): written to the park area, or withheld in the park channel while its page is
absent. ORIGIN 0 a matching entry, 1 the hold queue, 2 an arrival. -/
def parkTok (s : State) (c r col origin : Nat) (e : Entry) : State :=
  match (if e.ent.any fun n => !(s.fly.inst c e.tok.frame).any (·.ser == n) then none else s.sys.centOf c col) with
  | none => s
  | some n =>
    let v := s.sys.cent c n
    let p := s.sys.park c col
    let k := 1 + contOf e.tok
    if (p.wr + k) * 64 > v.parkSize then parkOverflow s c col 0x57 (v.parkBase + v.parkSize)
    else
      let q := (p.wr, origin, e)
      let s' := sendPark (s.mapSys fun y => y.setPark c col { p with wr := p.wr + k, recs := p.recs ++ [(p.wr, e)], pending := p.pending ++ [q] }) c r col q
      if parkBuffered s'.sys c r ≤ 16 then s' else parkOverflow s c col 0x56 (((parkBad s c col q).map Prod.fst).getD (v.parkBase + p.wr * 64))

/-- A colour is parked at a cluster (R42): its unmatched entries in region order and by age, then its held tokens. -/
def parkColour (s : State) (c col : Nat) : State :=
  let y := s.sys
  let at_ (f : Region → List Entry) : List (Nat × Entry) := (List.range Config.nRegions).flatMap fun r =>
    (byArrival (((f (y.region c r)).filter fun e => e.tok.colour == col).map fun e => (r, e)))
  let es := at_ Region.entries
  let hs := at_ Region.holds
  let retry := match y.centOf c col with
    | some n => (y.cent c n).retry
    | none => 0
  let y := (List.range Config.nRegions).foldl (fun y r => y.modRegion c r fun g =>
    { g with entries := g.entries.filter (·.tok.colour != col), holds := g.holds.filter (·.tok.colour != col),
             blocked := g.blocked.filter (· != col) }) y
  let y := y.modPark c col fun p => { p with on := true, retryAt := if retry = 0 then none else some (y.now + retry) }
  -- the entries that parking frees resume no re-injection of this colour
  let s := { s with sys := y, fly := wakeCluster y y c s.fly }
  let s := (List.range Config.nRegions).foldl (fun s r => if (s.sys.region c r).arrived.isEmpty then s else placeLater s c r) s
  let s := if retry = 0 then s else s.sched (y.now + retry) .retryTimerExpiry { clu := c, col := col }
  let s := es.foldl (fun s e => parkTok s c e.1 col 0 e.2) s
  hs.foldl (fun s e => parkTok s c e.1 col 1 e.2) s

/-! ### Placement (R40) and the low-water mark (R42) -/

/-- The oldest held token of each colour takes an entry while it may (R40). Where several colours' may, the one first in the region's hold
queues, in the order in which they were held, takes it (log entry 70, DESIGN CHOICE). -/
def admitHolds (c r : Nat) : Nat → Sys → Sys
  | 0, y => y
  | n + 1, y =>
    let g := y.region c r
    let firsts := g.holds.filter fun e => (y.holdQ c r e.tok.colour).head? == some e
    match firsts.find? fun e => mayTake y c r e.tok.colour true with
    | none => y
    | some e => admitHolds c r n (y.setRegion c r { g with holds := replaceEntry e none g.holds, entries := g.entries ++ [e] })

/-- One token placed by the first row of R40 that applies. -/
def placeTok (s : State) (c r : Nat) (e : Entry) : State :=
  let col := e.tok.colour
  let take := s.mapSys fun y => y.modRegion c r fun g => { g with entries := g.entries ++ [e] }
  if s.sys.parked c col then parkTok s c r col 2 e
  else if mayTake s.sys c r col (s.sys.holdQ c r col).isEmpty then take
  else if (s.sys.holdQ c r col).length < 4 then s.mapSys fun y => y.modRegion c r fun g => { g with holds := g.holds ++ [e] }
  else parkTok (parkColour s c col) c r col 2 e

/-- The region parks a colour, or may have to (R42). -/
def lowWater (y : Sys) (c r : Nat) : Bool := y.freeShared c r < (fieldOf (y.clu c).mscfg 16 9 : Nat)

/-- The region looks at its low-water mark in cycle `due`. -/
def parkCheck (y : Sys) (c r due : Nat) (f : Fly) : Fly :=
  if !lowWater y c r || (y.region c r).entries.isEmpty || (f.dueBy due fun i e => i == .parking && e.part == 0 && e.clu == c && e.reg == r) then f
  else f.event due .parking { clu := c, reg := r }

/-- Every region of a cluster looks at its low-water mark now (R42). -/
def parkChecks (s : State) (c : Nat) : State :=
  s.mapFly fun f => (List.range Config.nRegions).foldl (fun f r => parkCheck s.sys c r s.sys.now f) f

/-- The colours of a cluster's queues whose THR fell since `s0` (R41, R110). -/
def calmSince (s0 s : State) (c : Nat) : State := s.mapFly (calmed s0.sys s.sys c)

/-- A token's firing has no room for its remainder (R35). -/
def waitsRoom (s : State) (c r : Nat) (e : Entry) : Bool :=
  match tryFire (s.mapSys fun y => y.modRegion c r fun g => { g with blocked := [] }) c r 3 e with
  | .error t => !(t.sys.region c r).blocked.isEmpty
  | .ok _ => false

/-- The tokens of the cycle are placed, but those of a firing that waits under R35, unless their colour is parked. -/
def placeAll (s : State) (c r : Nat) : State :=
  let s0 := s
  let (stay, es) := (s.sys.region c r).arrived.partition fun e => !s.sys.parked c e.tok.colour && waitsRoom s c r e
  let s := s.mapSys fun y => admitHolds c r 256 (y.modRegion c r fun g => { g with arrived := stay })
  let s := calmSince s0 (es.foldl (fun s e => placeTok s c r e) s) c
  s.mapFly (parkCheck s.sys c r s.sys.now)

/-! ### Re-injection (R44) -/

/-- Records are read in order and offered to placement, past the first row of R40; the first that cannot take an entry stops it. -/
def reinject (c col : Nat) : Nat → State → State
  | 0, s => s
  | n + 1, s =>
    let p := s.sys.park c col
    match p.recs with
    | [] => s.mapSys fun y => y.setPark c col Park.reset
    | (i, q) :: rest =>
      let x := s.sys.ctxOf c
      let stop (s : State) := s.mapSys fun y => y.modPark c col fun p => { p with injecting := true }
      if (s.sys.centOf c col).isNone || p.pending.any (·.1 == i) then stop s
      else match takeVirt s x col ((s.sys.cent c ((s.sys.centOf c col).getD 0)).parkBase + i * 64) (64 * (1 + contOf q.tok)) with
      | .error (.uncorrectable, s) => tokenFault (stop s) c q
      | .error (.wait, s) => (stop s).sched (s.sys.now + 1) .reInjectionResume { clu := c, col := col }
      | .error (_, s) => stop s
      | .ok (bs, s) =>
        let e := { parkEntry q.ent bs with first := q.first - q.first % 2 ^ 48 + (parkEntry q.ent bs).first }
        -- an injected token stays bound for its block, wherever that is resident (R394)
        let e := if q.ent.isNone then { e with dest := q.dest } else e
        let go (s : State) := s.mapSys fun y => y.setPark c col { p with recs := rest, rd := i + 1 + contOf q.tok, injecting := true }
        match tryFire s c e.dest.reg 0 e with
        | .ok (s, new) => reinject c col n (placeLater (offerAll 128 (go s) c e.dest.reg new) c e.dest.reg)
        | .error s =>
          if mayTake s.sys c e.dest.reg col (s.sys.holdQ c e.dest.reg col).isEmpty then
            reinject c col n ((go s).mapSys fun y => y.modRegion c e.dest.reg fun g => { g with entries := g.entries ++ [e] })
          else stop s

/-- Re-injection of a parked colour begins or resumes. -/
def reinjectColour (s : State) (c col : Nat) : State :=
  let p := s.sys.park c col
  if p.on then parkChecks (calmSince s (reinject c col (p.recs.length + 1) s) c) c else s

/-- A park record is written at its home slice, and a re-injection that waits for it goes on (R43, R44). -/
def writePark (s : State) (c r col i : Nat) : State :=
  match (s.sys.park c col).pending.find? (·.1 == i) with
  | none => s
  | some q =>
    let s := s.mapSys fun y => y.modPark c col fun p => { p with sent := p.sent.filter (· != i) }
    match writeVirt s (s.sys.ctxOf c) col (s.sys.thr c q.2.2.tok.frame).ident (s.sys.parkAt c col i) (parkBytes q.2.2 q.2.1) with
    | .ok s =>
      let s := s.mapSys fun y => y.modPark c col fun p => { p with pending := p.pending.filter (·.1 != i) }
      if (s.sys.park c col).injecting then reinjectColour s c col else s
    | .error (b, why, s) => parkWithheld s c r col b q why

/-! ### The commit unit (R95, R378) -/

/-- A trap that a token raises at the commit unit, under the index of the instruction that sent it (R345). -/
def commitTrap (s : State) (e : Ev) (code : Nat) : State := raiseTrap s e.clu e.tok.frame e.id (misuse 1 code e.tok.index)

/-- A token reaches the commit unit: an exit, a register's write, or what NULL and EMIT answer. A second answer aborts the instance (R95). -/
def toCommitUnit (s : State) (e : Ev) (i : Inst) : State :=
  let put (i : Inst) : State := s.mapFly fun f => checkReady s.sys e.clu e.tok.frame (f.setInst e.clu e.tok.frame i)
  match e.part with
  | 1 =>
    if e.tok.vec then
      let ty := (((s.sys.frame e.clu e.reg e.frm).instr e.id).bind Instr.head).map fun h => h.ty.code.toNat * 8
      let info := BitVec.ofNat 64 (e.tok.fmt.code.toNat + ty.getD 0 + e.id * 64)
      let tag := bareTag i.colour e.tok.frame e.tok.index e.clu e.reg + BitVec.ofNat 64 (e.tok.len * 2 ^ 27 + e.tok.fmt.code.toNat * 2 ^ 24)
      raiseTrap s e.clu e.tok.frame e.id { cause := 6, contained := true, index := e.tok.index, info := info, va := 0, tag := tag }
    else if i.writes.any (·.1 == e.col) then commitTrap s e 0x02
    else put { i with writes := i.writes ++ [(e.col, some e.tok.word)] }
  | 2 =>
    if i.exit.isSome then commitTrap s e 0x01
    else put { i with exit := some (match e.col with
      | 0 => .goto e.word.toNat | 1 => .retire | 2 => .call e.word.toNat e.ctx | _ => .ret e.word.toNat) }
  | 3 =>
    let last := e.tok.index + e.tok.len
    match i.answer e.col e.tok.index last with
    | none => commitTrap s e 0x07
    | some j => if lsidTaken s.fly i e.col e.tok.index last then commitTrap s e 0x07 else advance (put j) e.clu e.tok.frame
  | 4 => put { i with emits := i.emits ++ [(e.col, e.tok.index, e.tok.index + e.tok.len)] }
  | _ =>
    if i.writes.any (·.1 == e.col) then commitTrap s e 0x02
    else put { i with writes := i.writes ++ [(e.col, none)] }

/-! ### Arrival at a region -/

/-- An operand token reaches its region (R28): its colour is checked, then whether a vector token stands at a scalar position (R249), then it
completes an instruction or waits. -/
def arriveTok (s : State) (e : Ev) : State :=
  let c := e.clu
  let d := e.dest
  let b := s.sys.frame c d.reg d.frm
  let t := e.tok
  let dropped := (s.sys.thr c t.frame).aborted.contains (b.blk, t.index)
    || e.ent.any fun n => !(s.fly.inst c t.frame).any (·.ser == n)
  if dropped then s
  else if !((s.sys.centOf c t.colour).any fun n => (s.sys.cent c n).admits b.cls) then faultAt s c d t 7 (b.cls + d.idx * 16)
  else if d.pos == .right && t.vec && scalarRight (fieldOf (b.word d.idx) 56 8) then
    let ty := ((b.instr d.idx).bind Instr.head).map fun h => h.ty.code.toNat
    faultAt s c d t 6 (t.fmt.code.toNat + ty.getD 0 * 8 + d.idx * 64)
  else placeLater (offerAll 128 s c d.reg [{ dest := d, ent := e.ent, tok := t, first := s.sys.now }]) c d.reg

/-! ### The events -/

/-- Each partial of COMB of a thread's live instance holds one matching entry of its colour (R323). -/
def settlePartials (s : State) (c r k : Nat) : State :=
  let ps := match s.fly.inst c k with
    | some i => if i.reg = r then i.combs.map fun p => (i.colour, k, p.idx) else []
    | none => []
  let y := s.sys.setPartials c r k ps
  parkChecks { s with sys := y, fly := wakeCluster s.sys y c s.fly } c

/-- TOKEN_ARRIVAL (R28, R40, R95): part 0, the token `tok` of entry `ent` reaches position `dest` of cluster `clu`; parts 1 to 5, it reaches
the commit unit; part 9, the tokens that region `reg` received in this cycle are placed; part 8, the partials of COMB
of thread `frm` take or free their entries (R323); part 7, the entries that the last cycle's completions in region `reg` took are free; part 6, an answer of
an LSID reaches the commit unit of thread `frm`; part 10, the divider of column `col` is free (R224). -/
def execTokenArrival (s : State) : Host.Outcome State Fault Refusal :=
  let e := s.fly.ev
  .next (if e.part = 9 then placeAll s e.clu e.reg
    else if e.part = 7 then freeEntries s e.clu e.reg
    else if e.part = 8 then settlePartials s e.clu e.reg e.frm
    else if e.part = 6 then s.mapFly (checkReady s.sys e.clu e.frm)
    else if e.part = 10 then retryWaiting s e.clu e.reg
    else if e.part = 0 then arriveTok s e
    else match s.fly.inst e.clu e.tok.frame with
      | some i => if e.ent = some i.ser then toCommitUnit s e i else s
      | none => s)

/-- HOLD_QUEUE_ADMIT (R40, R35): region `reg` of cluster `clu`; entries were freed, or a block with waiting tokens was entered. -/
def execHoldQueueAdmit (s : State) : Host.Outcome State Fault Refusal :=
  let e := s.fly.ev
  let s0 := s
  let s := s.mapSys fun y => y.modRegion e.clu e.reg fun g => { g with blocked := [] }
  let s := retryWaiting s e.clu e.reg
  let s := calmSince s0 (s.mapSys (admitHolds e.clu e.reg 256)) e.clu
  let s := if (s.sys.region e.clu e.reg).arrived.isEmpty then s else placeLater s e.clu e.reg
  .next (s.mapFly (parkCheck s.sys e.clu e.reg s.sys.now))

/-- PARKING (R42): part 1, the write of record `id` of colour `frm` through the park channel of region `reg` performs; part 0, while region `reg` of cluster `clu` is below its low-water mark, the colour with the oldest qualifying entry is
parked; of two entries of one age, that of the entry listed first (log entry 70, DESIGN CHOICE). A PARKAGE of 0 admits any age. -/
def execParking (s : State) : Host.Outcome State Fault Refusal :=
  let e := s.fly.ev
  let y := s.sys
  if e.part = 1 then .next (writePark s e.clu e.reg e.frm e.id)
  else if !lowWater y e.clu e.reg then .next s
  else
    let ages := (y.region e.clu e.reg).entries.filterMap fun t => (y.centOf e.clu t.tok.colour).map fun n =>
      (t.first, t.tok.colour, if (y.cent e.clu n).parkAge = 0 then 0 else t.first + (y.cent e.clu n).parkAge + 1)
    let oldest (l : List (Nat × Nat × Nat)) : Option (Nat × Nat × Nat) := l.foldl (fun b a => match b with
      | none => some a
      | some b => some (if a.1 < b.1 then a else b)) none
    match oldest (ages.filter fun a => a.2.2 ≤ y.now) with
    | some a =>
      let s := parkColour s e.clu a.2.1
      .next (s.mapFly (parkCheck s.sys e.clu e.reg s.sys.now))
    | none =>
      match ages.map fun a => a.2.2 with
      | [] => .next s
      | d :: ds => .next (s.mapFly (parkCheck y e.clu e.reg (ds.foldl min d)))

/-- RETRY_TIMER_EXPIRY (R44): colour `col`, parked at cluster `clu`; the timer runs again while the colour stays parked. -/
def execRetryTimerExpiry (s : State) : Host.Outcome State Fault Refusal :=
  let e := s.fly.ev
  let p := s.sys.park e.clu e.col
  if !p.on || !p.retryAt.any (· ≤ s.sys.now) then .next s
  else if 2 ≤ s.sys.power then .next (whenAwake s .retryTimerExpiry id)
  else
    -- a colour that is stopped is re-injected when it resumes (R350)
    let s := if s.sys.stopped e.clu (s.sys.ctxOf e.clu) e.col then s else reinjectColour s e.clu e.col
    match (s.sys.park e.clu e.col).on, s.sys.centOf e.clu e.col with
    | true, some n =>
      let due := s.sys.now + (s.sys.cent e.clu n).retry
      if due = s.sys.now then .next s
      else .next ((s.mapSys fun y => y.modPark e.clu e.col fun p => { p with retryAt := some due }).sched due .retryTimerExpiry
        { clu := e.clu, col := e.col })
    | _, _ => .next s

/-- RE_INJECTION_RESUME (R44): one of the entries of colour `col` at cluster `clu` was freed while its re-injection was paused. -/
def execReInjectionResume (s : State) : Host.Outcome State Fault Refusal :=
  let e := s.fly.ev
  if (s.sys.park e.clu e.col).injecting && !s.sys.stopped e.clu (s.sys.ctxOf e.clu) e.col then .next (reinjectColour s e.clu e.col) else .next s

/-- What a region does with a control token (R29): a drain marker is forwarded, a control signal is delivered to its ring stop or to the block
scheduler. -/
def actOnCtrl (s : State) (c : Nat) : Ctrl → State
  | .marker x col => s.sched s.sys.now .drainMarkerArrival { clu := c, ctx := x, col := col.getD 0, p := col.isSome }
  | .stopDone => s.sched s.sys.now .stopCompletion { clu := c }
  | .kernelDone x ident => s.sched s.sys.now .completionToken { ctx := x, clu := c, id := ident }

/-- CONTROL_TOKEN_DELIVERY (R29): the oldest control entry of region `reg` of cluster `clu` is acted on and freed. The first control token that
waited in the switch box takes an entry, and is acted on 16 cycles later; one behind it moves up into the box, and its ring buffer is freed. -/
def execControlTokenDelivery (s : State) : Host.Outcome State Fault Refusal :=
  let e := s.fly.ev
  let g := s.sys.region e.clu e.reg
  match g.ctrl with
  | [] => .next s
  | t :: rest =>
    let s := s.mapSys fun y => y.setRegion e.clu e.reg
      { g with ctrl := rest ++ (g.ctrlWait.take 1).map Prod.fst, ctrlWait := g.ctrlWait.drop 1 }
    let s := if g.ctrlWait.isEmpty then s else s.sched (s.sys.now + 16) .controlTokenDelivery { clu := e.clu, reg := e.reg }
    let s := match (g.ctrlWait.drop 2).head? with
      | some (_, some (d, ch)) => s.sched (s.sys.now + 1) .flitTransfer { clu := e.clu, part := 4 + d, col := ch }
      | _ => s
    .next (actOnCtrl s e.clu t)

end Sys2Proof.Machine
end

