-- ==== Sys2Proof/Machine/EvXfer.lean ====
section
/-!
DEFINITION. Device events of the copy engine (R177 to R181): transfers start, are withheld, complete; sleeping WAITTs wake.
-/
namespace Sys2Proof.Machine

/-! ### The bytes of a transfer (R177) -/

/-- Word `n` of the command record that an access has read (R177). -/
def Access.recWord (a : Access) (n : Nat) : Word := a.a.extractLsb' (64 * n) 64

/-- The transfer that a command record describes (R177). -/
def Access.command (a : Access) : Xfer :=
  let w := a.recWord
  let copyt := a.op == .copyt
  { Xfer.reset with
      ctx := a.ctx, colour := a.colour, copyt := copyt,
      conj := copyt && (w 2).getLsbD 35, sscr := (w 0).getLsbD 52, dscr := (w 1).getLsbD 52, src := fieldOf (w 0) 0 52,
      dst := fieldOf (w 1) 0 52, len := fieldOf (w 2) 0 32, rows := fieldOf (w 2) 0 16, cols := fieldOf (w 2) 16 16,
      esz := fieldOf (w 2) 32 3, spitch := fieldOf (w 3) 0 32, dpitch := fieldOf (w 3) 32 32, order := a.ord, scope := a.scope }

/-- The pages that a transfer touches, with the permission each needs: source pages, then destination pages. -/
def Xfer.spans (v : Xfer) : List (Nat × Nat × Need) :=
  let of_ (scr : Bool) (n : Need) (base pitch count size : Nat) : List (Nat × Nat × Need) :=
    if scr then [] else (List.range count).flatMap fun k => (pagesOf ((base + k * pitch) % vaMod) size).map fun p => (p.1, p.2, n)
  let e := 2 ^ v.esz
  let rd : Need := { rd := true }
  let wr : Need := { w := true, writes := true }
  if v.copyt then of_ v.sscr rd v.src v.spitch v.rows (v.cols * e) ++ of_ v.dscr wr v.dst v.dpitch v.cols (v.rows * e)
  else of_ v.sscr rd v.src 0 1 v.len ++ of_ v.dscr wr v.dst 0 1 v.len

/-- The banks that a transfer names. -/
def Xfer.scrBanks (v : Xfer) : List Nat :=
  let of_ (scr : Bool) (l : List (Nat × Nat)) : List Nat :=
    if scr then (l.flatMap fun r => (List.range ((r.1 % 65536 + r.2 + 65535) / 65536)).map fun k => r.1 / 65536 + k) else []
  (of_ v.sscr v.runs.1 ++ of_ v.dscr v.runs.2).eraseDups

/-- The bytes that a transfer moves. -/
def Xfer.total (v : Xfer) : Nat := if v.copyt then v.rows * v.cols * 2 ^ v.esz else v.len

/-- Byte `k` of a transfer: where it is read and where it is written (R177). COPYT takes the elements row by row. -/
def Xfer.srcAt (v : Xfer) (k : Nat) : Nat :=
  if v.copyt then
    let e := k / 2 ^ v.esz
    v.src + e / v.cols * v.spitch + e % v.cols * 2 ^ v.esz + k % 2 ^ v.esz
  else v.src + k

def Xfer.dstAt (v : Xfer) (k : Nat) : Nat :=
  if v.copyt then
    let e := k / 2 ^ v.esz
    v.dst + e % v.cols * v.dpitch + e / v.cols * 2 ^ v.esz + k % 2 ^ v.esz
  else v.dst + k

/-- With CONJ, bit 127 of each 16-byte element is flipped (R177, R51). -/
def Xfer.conjByte (v : Xfer) (k : Nat) (b : Byte) : Byte := if v.conj && k % 16 == 15 then b ^^^ 0x80 else b

/-- Cycles of `%now` that the engine spends on `w` bytes: 64 in a cycle of its clock, which runs at 70/94 of the reference in P1 (R179, R364). -/
def engineCycles (y : Sys) (w : Nat) : Nat := if fieldOf y.pstate 0 3 = 1 then (w * 94 + 4479) / 4480 else (w + 63) / 64

/-- The engine takes a step in this cycle: in P1 its clock runs at 70/94 of the reference (R179, R364). -/
def engineTicks (y : Sys) : Bool := fieldOf y.pstate 0 3 != 1 || (y.now + 1) * 70 / 94 != y.now * 70 / 94

/-- The bytes that one step of the engine moves (R179). -/
def Xfer.step (v : Xfer) : Nat := if v.copyt then 32 else 64

/-- The address of byte `k` that does not translate now, and why, if it does not: a page that is ABSENT or MIGRATING withholds a transfer, as its
source too (R178). -/
def Xfer.stopAt (y : Sys) (m : Memory) (v : Xfer) (ident k : Nat) : Option (Nat × XRes) :=
  let bad (scr : Bool) (n : Need) (va : Nat) : Option (Nat × XRes) :=
    if scr then none
    else match xlateNow y m v.ctx v.colour ident n (va % vaMod / 65536) with
      | .ok _ => none
      | r => some (va % vaMod, r)
  match bad v.sscr { rd := true, writes := true } (v.srcAt k) with
  | some a => some a
  | none => bad v.dscr { w := true, writes := true } (v.dstAt k)

/-- The first of the `n` bytes from `k` on that does not translate: its number, its address, and why. -/
def Xfer.firstStop (y : Sys) (m : Memory) (v : Xfer) (ident : Nat) : Nat → Nat → Option (Nat × Nat × XRes)
  | 0, _ => none
  | n + 1, k =>
    match v.stopAt y m ident k with
    | some a => some (k, a)
    | none => Xfer.firstStop y m v ident n (k + 1)

/-- Byte `k` is moved. -/
def moveByte (s : State) (c : Nat) (v : Xfer) (k : Nat) : State :=
  let a := v.srcAt k % vaMod
  let d := v.dstAt k % vaMod
  let b : Byte := if v.sscr then s.sys.scr c a else match resolve s.sys s.mem v.ctx v.colour a with
    | some p => readByte s.mem p
    | none => 0
  let b := v.conjByte k b
  if v.dscr then s.mapSys fun y => y.setScr c d b
  else match resolve s.sys s.mem v.ctx v.colour d with
    | some p => { s with mem := writeByte s.mem p b }
    | none => s

/-- The line of one byte of a transfer, read or written; none in the scratch space. -/
def Xfer.lineAt (s : State) (v : Xfer) (scr w : Bool) (va : Nat) : Option Ask :=
  if scr then none
  else (locate s.sys s.mem v.ctx v.colour (va % vaMod / 65536)).map fun t =>
    { line := (t.pa + va % 65536) / 64, key := keyTagOf v.ctx v.colour t, w := w }

/-- The lines that the `n` bytes from `k` on touch at source and destination, each once. -/
def Xfer.linesIn (s : State) (v : Xfer) (k n : Nat) : List Ask :=
  ((List.range n).flatMap fun j => (v.lineAt s v.sscr false (v.srcAt (k + j))).toList ++ (v.lineAt s v.dscr true (v.dstAt (k + j))).toList).eraseDups

/-- The `n` bytes from `k` on are moved. -/
def moveBytes (s : State) (c : Nat) (v : Xfer) (k n : Nat) : State := (List.range n).foldl (fun s j => moveByte s c v (k + j)) s

/-! ### Promises (R179) -/

/-- Unmoved bytes of a transfer, doubled for COPYT (R179). -/
def Xfer.unmoved (v : Xfer) : Nat := (if v.copyt then 2 else 1) * (v.total - v.moved)

/-- Unmoved bytes of the transfers of a cluster ahead of one (R179). -/
def aheadBytes (y : Sys) (c seq : Nat) : Nat :=
  ((List.range 32).map fun k =>
    let v := y.xfer c k
    if (v.st = .queued ∨ v.st = .moving) ∧ v.seq < seq then v.unmoved else 0).sum

/-- PCUR at commit and at a return to MOVING (R179). -/
def promise (y : Sys) (w : Nat) : BitVec 48 := BitVec.ofNat 48 (y.now + 256 + engineCycles y w)

/-- WAITTs asleep on a slot whose PCUR has fallen wake by the new one (R180). -/
def wakeSleeps (s : State) (c k : Nat) : State :=
  s.fly.sleeps.foldl (fun s e =>
    let w : Word := (e.2.f.left.map fun t => t.data.setWidth 64).getD 0
    let due := cycleOf s.sys.now (wakeAt s.sys c (s.fly.ownsTok e.2.f w) w)
    if e.2.f.clu = c ∧ tokSlot w = k ∧ due < e.2.until_ then
      (s.mapFly fun f => { f with sleeps := tabPut f.sleeps e.1 { e.2 with until_ := due } }).sched due .waittWake
        { clu := c, frm := e.2.f.frame, id := e.1, word := w }
    else s) s

/-- The kernel identity under which a transfer's pages were checked. -/
def xferIdent (f : Fly) (v : Xfer) : Nat := match f.acc v.acc with
  | some a => a.ident
  | none => 0

/-- The engine moves the transfer now: it is MOVING, and its last step is not done. -/
def Xfer.active (v : Xfer) : Bool := v.st == .moving && v.ends == 0

/-- The engine of a cluster moves a transfer (R178). -/
def engineBusy (y : Sys) (c : Nat) : Bool := (List.range 32).any fun k => (y.xfer c k).active

/-- Among transfers that are to move, the engine serves the first in commit order (R178). -/
def engineServes (y : Sys) (c k : Nat) : Bool := (List.range 32).all fun n => !(y.xfer c n).active || (y.xfer c k).seq ≤ (y.xfer c n).seq

/-- The next transfer in commit order starts when the engine is free (R178). -/
def startNext (y : Sys) (c : Nat) (f : Fly) : Fly :=
  (List.range 32).foldl (fun f k =>
    let v := y.xfer c k
    if v.st = .queued ∧ f.accs.any (fun e => e.1 == v.acc && e.2.st == .issued) ∧ !(f.due fun i e => i == .transferStart && e.clu == c && e.part == k)
    then f.event (y.now + 1) .transferStart { clu := c, id := v.acc, part := k } else f) f

/-! ### The engine at work -/

/-- A transfer is withheld at a byte (R178): PCUR is set (R179), WAITTs asleep on it look at it again (R180), and the engine takes up the next. -/
def stopXfer (s : State) (c k byte ticket : Nat) : State :=
  let s := s.mapSys fun y => y.modXfer c k fun v => { v with st := .withheld, ticket := ticket, wva := byte,
                                                              pcur := BitVec.ofNat 48 (y.now + ftLimit y v.ctx) }
  let s := wakeSleeps s c k
  s.mapFly (startNext s.sys c)

/-- No ticket names what the engine has stopped for a fault or a halt (R80, R350). -/
def noTicket : Nat := 2 ^ 32

/-- What the thread that commanded a transfer is told: `h` has its command, if the thread is still there. -/
def onCommander (s : State) (v : Xfer) (h : Access → State) : State :=
  match s.fly.acc v.acc with
  | some q => if (s.sys.thr q.clu q.frm).serial = q.owner then h q else s
  | none => s

/-- A line of a transfer fails its check: the transfer stops, and its context faults (R357, R76). -/
def xferError (s : State) (c k byte : Nat) : State :=
  let v := s.sys.xfer c k
  let s := stopXfer s c k byte noTicket
  match s.fly.acc v.acc with
  | some q => memFault s v.ctx c q.frm q.owner
  | none => contextFault s v.ctx 4 c 0

/-- A transfer is withheld at a page (R178, R163): a fault record is written, with KIND as the walk found it. -/
def withholdXfer (s : State) (c k byte : Nat) (why : XRes) : State :=
  let v := s.sys.xfer c k
  let r := match s.fly.acc v.acc with
    | some a => a.reg
    | none => 0
  match why with
  | .uncorrectable => xferError s c k byte
  | .absent kind =>
    let (n, s) := withhold s v.ctx v.colour c r byte kind
    stopXfer s c k byte n
  | _ =>
    let (n, s) := withhold s v.ctx v.colour c r byte 0
    stopXfer s c k byte n

/-- A transfer is DONE, and its slot FREE (R178); its command is acknowledged. -/
def finishXfer (s : State) (c k : Nat) : State :=
  let v := s.sys.xfer c k
  let s := s.mapSys fun y => y.setXfer c k { v with st := .free, moved := 0 }
  s.mapFly fun f => if (f.acc v.acc).isSome then f.event s.sys.now .accessRetire { clu := c, id := v.acc } else f

/-- The last step of the engine for a transfer is done: the outcome comes at `due`, and the next transfer may start. -/
def engineLeaves (s : State) (c k due : Nat) (i : Instr) : State :=
  let v := s.sys.xfer c k
  let s := s.mapSys fun y => y.setXfer c k { v with ends := y.now + 1 }
  (s.mapFly (startNext s.sys c)).sched due i { clu := c, id := k, col := v.gen.toNat }

/-- When the last write of a transfer, made now, is acknowledged: by its promise, while that stands (R179). -/
def doneAt (y : Sys) (v : Xfer) : Nat :=
  let p := v.pcur.toNat
  if later48 p y.now then min (y.now + 256) (cycleOf y.now p) else y.now + 256

/-- A step of the engine (R179): the next bytes of a transfer are moved, as far as they translate. After the last byte the outcome is known 256 cycles
later, at a byte that does not translate 255. A step waits for what its slice
interface has sent to the same slice before (R190). Host memory is awaited while its link is not up; in DOWN the transfer stops, and its thread takes PROT at
its next block entry (R193; log entry 78, DEDUCED). -/
def engineStep (s : State) (c k : Nat) : State :=
  let v := s.sys.xfer c k
  let again (q : Bool) (s : State) : State := s.sched (s.sys.now + 1) .transferDone { clu := c, id := k, col := v.gen.toNat, part := 1, q := q }
  if !engineServes s.sys c k || !engineTicks s.sys then again false s
  else
    let left := min v.step (v.total - v.moved)
    let n := match v.firstStop s.sys s.mem (xferIdent s.fly v) left v.moved with
      | some (b, _) => b - v.moved
      | none => left
    if n = 0 then engineLeaves s c k (s.sys.now + 255) .transferWithhold
    else
      let at_ := v.srcAt v.moved % vaMod
      let asks := v.linesIn s v.moved n
      if asks.any fun q => s.sys.now < wayDue s.fly c (Traffic.copy k).interface (homeSlice (q.line * 64)) 0 then again false s
      else match openLines asks s with
      | .ok s =>
        let s := (moveBytes s c v v.moved n).mapSys fun y => y.setXfer c k { v with moved := v.moved + n }
        if v.moved + n < v.total then again false s else engineLeaves s c k (doneAt s.sys v) .transferDone
      | .wait s => again true s
      | .down =>
        let s := stopXfer s c k at_ noTicket
        onCommander s v fun q => deferTrap s c q.frm (some q.ser) { misuse 3 0x54 q.index with va := at_ }
      | .bad s => xferError s c k at_

/-- A transfer moves, from its first unmoved byte on (R178). -/
def beginMove (s : State) (c k at_ : Nat) : State :=
  let s := s.mapSys fun y => y.modXfer c k fun v => { v with st := .moving, starts := at_, ends := 0 }
  if at_ = s.sys.now then engineStep s c k
  else s.sched at_ .transferDone { clu := c, id := k, col := (s.sys.xfer c k).gen.toNat, part := 1 }

/-- A withheld transfer returns to MOVING (R178), with a new PCUR (R179). -/
def moveAgain (s : State) (c k : Nat) : State :=
  let s := s.mapSys fun y => y.modXfer c k fun v => { v with pcur := promise y v.unmoved }
  wakeSleeps (beginMove s c k (s.sys.now + 1)) c k

/-- A transfer of a FAULTED context stops at a 64-byte boundary and is saved WITHHELD, with the bytes moved (R80, R350). -/
def haltXfer (s : State) (c k : Nat) : State :=
  let s := s.mapSys fun y => y.modXfer c k fun v => { v with moved := v.moved / 64 * 64 }
  let v := s.sys.xfer c k
  stopXfer s c k (v.srcAt v.moved % vaMod) noTicket

/-- A transfer that was stopped without a ticket waits for the engine again (R350, R353). -/
def resumeXfer (s : State) (c k : Nat) : State :=
  let v := s.sys.xfer c k
  if v.st = .withheld ∧ v.ticket = noTicket then
    let s := s.mapSys fun y => y.setXfer c k { v with st := .queued, pcur := promise y v.unmoved }
    let s := wakeSleeps s c k
    s.mapFly (startNext s.sys c)
  else s

/-! ### The events -/

/-- TRANSFER_START (R178, R181): the engine of cluster `clu` reaches the transfer of slot `part`, commanded by access `id`, in commit order. Where the
engine is not free, it is looked at again when the engine leaves a transfer. -/
def execTransferStart (s : State) : Host.Outcome State Fault Refusal :=
  let e := s.fly.ev
  let v := s.sys.xfer e.clu e.part
  if v.st ≠ .queued ∨ v.acc ≠ e.id then .next s
  else
    let earlier := (List.range 32).any fun n => (s.sys.xfer e.clu n).st == .queued && (s.sys.xfer e.clu n).seq < v.seq
    if engineBusy s.sys e.clu || earlier then .next s else .next (beginMove s e.clu e.part s.sys.now)

/-- TRANSFER_WITHHOLD (R178): slot `id` of cluster `clu`, of generation `col`, has met a page that does not translate; it moves on if the page does now.
Part 1, its context has faulted (R80). -/
def execTransferWithhold (s : State) : Host.Outcome State Fault Refusal :=
  let e := s.fly.ev
  let v := s.sys.xfer e.clu e.id
  if v.gen.toNat ≠ e.col then .next s
  else if e.part = 1 then .next (if v.st = .moving ∨ v.st = .queued then haltXfer s e.clu e.id else s)
  else if v.st ≠ .moving ∨ v.ends = 0 then .next s
  else match v.stopAt s.sys s.mem (xferIdent s.fly v) v.moved with
    | some (a, r) => .next (withholdXfer s e.clu e.id a r)
    | none => .next (beginMove s e.clu e.id (s.sys.now + 1))

/-- TRANSFER_DONE (R178, R179): slot `id` of cluster `clu`, of generation `col`: its last write is acknowledged; part 1, the engine takes a step of it. -/
def execTransferDone (s : State) : Host.Outcome State Fault Refusal :=
  let e := s.fly.ev
  let v := s.sys.xfer e.clu e.id
  if v.st ≠ .moving ∨ v.gen.toNat ≠ e.col then .next s
  else if e.part = 1 then .next (if v.ends = 0 then engineStep s e.clu e.id else s)
  else if v.ends = 0 ∨ v.moved < v.total then .next s
  else .next (finishXfer s e.clu e.id)

/-- A sleep ends; the time its instance slept is not counted by `%stall` (R180). -/
def endSleep (s : State) (id : Nat) (v : Sleep) : State :=
  s.mapFly fun f =>
    let f := { f with sleeps := tabDel f.sleeps id }
    match f.inst v.f.clu v.f.frame with
    | some i => if f.sleeps.any fun e => e.2.f.ser == i.ser then f
        else f.setInst v.f.clu v.f.frame { i with asleep := i.asleep + (s.sys.now - v.slept) }
    | none => f

/-- WAITT_WAKE (R180): the sleep `id` of a WAITT on token `word`: it sleeps on to a later PCUR, fires when the transfer is DONE, or takes
PROMISE. -/
def execWaittWake (s : State) : Host.Outcome State Fault Refusal :=
  let e := s.fly.ev
  match tabFind s.fly.sleeps e.id with
  | none => .next s
  | some v =>
    let c := e.clu
    -- the transfer of a command of the same instance is not yet the slot's (R202)
    let own := s.fly.ownsTok v.f e.word
    let due := cycleOf s.sys.now (wakeAt s.sys c own e.word)
    if s.sys.now < due then
      .next ((s.mapFly fun f => { f with sleeps := tabPut f.sleeps e.id { v with until_ := due } }).sched due .waittWake e)
    else
      let s := endSleep s e.id v
      let late := cycleOf s.sys.now (tokPcur s.sys c own e.word) - s.sys.now
      let s := (s.mapFly (sampleMon s.sys (s.sys.thr c v.f.frame).ctx v.f.colour 3 late)).mapFly
        (sampleMon s.sys (s.sys.thr c v.f.frame).ctx v.f.colour 4 (s.sys.now - v.start))
      if tokDone s.sys c own e.word && !own then
        .next (s.mapFly (sendAll v.f (s.sys.now + 1) [v.t0, v.t1] [scalarTok v.f.colour v.f.frame v.f.index .x64 e.word]))
      else
        let k := tokSlot e.word
        let x := s.sys.xfer c k
        let held := x.st == .withheld && !own
        let s := if held then s.mapSys fun y => y.setXfer c k { x with pcur := BitVec.ofNat 48 (y.now + ftLimit y x.ctx) } else s
        .next (raiseTrap s c v.f.frame v.f.idx
          { cause := 10, contained := false, index := v.f.index, info := setField e.word 0 48 (tokPcur s.sys c own e.word),
            va := if held then x.wva else 0 })

end Sys2Proof.Machine
end

