-- ==== Sys2Proof/Machine/EvRing.lean ====
section
/-!
DEFINITION. Device events of ring passes (R131 to R144, R286, R351): tiles are staged, a pass begins, beats, completes, is suspended and
resumes.
-/
namespace Sys2Proof.Machine

/-! ### A pass and its barriers (R129, R136) -/

/-- The clusters of a ring. -/
def ringClus (g : Nat) : List Nat := (List.range Config.nStops).map fun p => g * 8 + p

def Sys.modPass (y : Sys) (g : Nat) (h : Pass → Pass) : Sys := y.modRing g fun r => { r with pass := r.pass.map h }

/-- PASS of barrier `b` at every stop, as the passes of the ring name it (R129). -/
def Sys.markPass (y : Sys) (g b : Nat) : Sys :=
  let r := y.ring g
  let on := (r.pass.toList ++ r.susp).any fun p => p.bar == b
  (ringClus g).foldl (fun y c => y.modBar c b fun v => { v with pass := on }) y

/-- Cycles of a beat (R137). -/
def Pass.len (p : Pass) : Nat := if p.beat8 = 0 then 4 else 8

/-- The start of beat `t` (R137). -/
def Pass.start (p : Pass) (t : Nat) : Nat := p.g + t * p.len

/-- The tile of family `f` and origin `o` that still circulates. -/
def Pass.tile (p : Pass) (f o : Nat) : Option PTile := p.tiles.find? fun t => t.fam == f && t.origin == o

/-! ### Completion (R129, R142) -/

/-- A stop's part of the pass is complete (R142). -/
def stopDone (y : Sys) (p : Pass) (c : Nat) : Bool :=
  p.armed && p.tiles.isEmpty && p.entries.all fun e => e.1 != c || (y.ment e.1 e.2).st == .done

/-- The stops whose part is complete are looked at, once each. -/
def checkStops (y : Sys) (g : Nat) (f : Fly) : Fly :=
  match (y.ring g).pass with
  | none => f
  | some p => (ringClus g).foldl (fun f c =>
      if stopDone y p c && !p.arrived.contains c then f.event y.now .stopCompletion { clu := c } else f) f

/-! ### Starting (R136) -/

/-- The entries of slot `q` whose two tiles are STAGED, as (cluster, entry) (R136, step 2). -/
def armable (y : Sys) (g q : Nat) : List (Nat × Nat) :=
  (ringClus g).flatMap fun c => ((List.range 256).filter fun e =>
    let m := y.ment c e
    m.st == .loaded && m.slot == q && (y.tile (g * 8 + m.istop) 0 q).st == .staged && (y.tile (g * 8 + m.kstop) 1 q).st == .staged).map
      fun e => (c, e)

/-- The tiles of slot `q` as they are injected, REMAIN counted over the armed entries (R136, step 3). -/
def passTiles (y : Sys) (g q : Nat) (es : List (Nat × Nat)) : List PTile :=
  (List.range 16).filterMap fun n =>
    let f := n / 8
    let o := n % 8
    let t := y.tile (g * 8 + o) f q
    let k := (es.filter fun e => (if f = 0 then (y.ment e.1 e.2).istop else (y.ment e.1 e.2).kstop) == o).length
    if t.st == .staged then some { fam := f, origin := o, colour := t.colour, elem := t.elem, tag := t.tag, remain := k, data := t.data }
    else none

/-- Steps 1 to 3 of R136, once no tile of the slot is FILLING; beat 0 begins 24 cycles later. -/
def tryArm (s : State) (g : Nat) : State :=
  match (s.sys.ring g).pass with
  | none => s
  | some p =>
    if p.armed || (slotTiles s.sys g p.slot).any (·.st == .filling) then s
    else
      let es := armable s.sys g p.slot
      let ts := passTiles s.sys g p.slot es
      let y := es.foldl (fun y e => y.modMent e.1 e.2 fun m => { m with st := .armed, misses := 0 }) s.sys
      let y := (ts.filter fun t => t.remain == 0).foldl (fun y t => y.setTile (g * 8 + t.origin) t.fam p.slot Tile.reset) y
      let p := { p with armed := true, g := y.now + 24, tiles := ts.filter fun t => t.remain != 0, entries := es }
      let s := { s with sys := y.modRing g fun r => { r with pass := some p } }
      -- with no pair armed every tile is retired here, and the stops are complete (R142)
      (s.sched p.g .beat0 { id := g }).mapFly fun f => if p.tiles.isEmpty then checkStops s.sys g f else f

/-- TGO takes effect (R136, R288): the ring has a pass that is starting. -/
def startPass (s : State) (c k q b : Nat) (scope : Scope) : State :=
  let g := c / 8
  let t := s.sys.thr c k
  let v := s.sys.clu c
  let p : Pass :=
    { st := .starting, ctx := t.ctx, ident := t.ident, slot := q, bar := b, scope := scope, stop := c % 8, clu := c, frm := k,
      colour := t.colour, laplim := v.laplim, beat8 := v.beat8, tasks := (ringClus g).map fun c => (s.sys.clu c).tasks, g := 0, beat := 0,
      armed := false, tiles := [], entries := [], arrived := [] }
  tryArm (s.mapSys fun y => (y.modRing g fun r => { r with pass := some p }).markPass g b) g

/-! ### Ending (R142, R143) -/

/-- Entries of an ended pass return to LOADED once none of them is RUNNING. -/
def unload (y : Sys) (es : List (Nat × Nat)) : Sys :=
  es.foldl (fun y e => y.modMent e.1 e.2 fun m => { m with st := .loaded }) y

/-- An entry of a pass is RUNNING: its task has not ended. -/
def runs (y : Sys) (p : Pass) : Bool := p.entries.any fun e => (y.ment e.1 e.2).st == .running

/-- Ended passes whose tasks have all ended return their entries (R142, R143). -/
def settleTails (y : Sys) (g : Nat) : Sys :=
  let r := y.ring g
  let y := (r.tails.filter fun p => !runs y p).foldl (fun y p => unload y p.entries) y
  y.modRing g fun r => { r with tails := r.tails.filter (runs y) }

/-- A staging thread that was held until its pass ended retires (R142); one that is a task itself once its stores are acknowledged (R141). -/
def releaseHeld (s : State) (p : Pass) : State :=
  let t := s.sys.thr p.clu p.frm
  if t.held then endThread (s.mapSys fun y => y.setThr p.clu p.frm { t with held := false }) p.clu p.frm else s

/-- The beats of a ring's pass that lie ahead are not begun. -/
def dropBeats (s : State) (g : Nat) : State :=
  s.mapFly fun f => { f with agenda := f.agenda.filter fun w => match w.act with
    | .ev .beat e => e.part != 0 || e.id != g
    | .ev .beat0 e => e.id != g
    | _ => true }

/-- A pass ends: 1 complete, 2 at its lap limit, 3 recalled. Live tiles are dropped, PASS clears, TRSTAT keeps what it read last. -/
def endPass (s : State) (g code : Nat) : State :=
  match (s.sys.ring g).pass with
  | none => s
  | some p =>
    let y := p.tiles.foldl (fun y t => y.setTile (g * 8 + t.origin) t.fam p.slot Tile.reset) s.sys
    let y := y.modRing g fun r => { r with pass := none, last := code, slot := p.slot, laplim := p.laplim, beat8 := p.beat8, stop := p.stop,
                                           beat := p.beat, tails := r.tails ++ [{ p with tiles := [] }] }
    let y := settleTails (y.markPass g p.bar) g
    let s := dropBeats { s with sys := y } g
    if code = 2 then s else releaseHeld s p

/-- The lap limit (R142): the pass fails, and its staging thread takes LAP, at once, at its next block entry, or in place of retiring. -/
def failPass (s : State) (g : Nat) (p : Pass) : State :=
  let first := (p.tiles.filter fun t => t.fam == 0) ++ (p.tiles.filter fun t => t.fam == 1)
  let info := match first with
    | t :: _ => t.header p.slot p.beat
    | [] => 0
  let r : TrapRec := { cause := 12, contained := false, index := 0, info := info, va := 0 }
  let s := endPass s g 2
  let t := s.sys.thr p.clu p.frm
  if t.held then takeTrap (s.mapSys fun y => y.setThr p.clu p.frm { t with held := false }) p.clu p.frm r 0 true
  else if (s.fly.inst p.clu p.frm).isSome then raiseTrap s p.clu p.frm 129 r
  else deferTrap s p.clu p.frm none r

/-- TRECALL takes effect (R143): at the next beat, or at once before beat 0, which begins after the commits of its cycle. By now the ring may have a
pass of another colour: nothing changes, and the thread `k` takes OWNER at its next block entry (log entry 77, DEDUCED). -/
def recallPass (s : State) (c k ser x colour idx : Nat) : State :=
  let g := c / 8
  match (s.sys.ring g).pass with
  | none => s
  | some p =>
    if p.colour ≠ colour ∨ p.ctx ≠ x then deferContained s c k (some ser) (ownerRec idx) else
    if p.st == .starting then
      let y := unload s.sys p.entries
      let y := (List.range 16).foldl (fun y n => y.modTile (g * 8 + n % 8) (n / 8) p.slot fun t =>
        match t.st with
        | .filling => { t with doomed := true }
        | .staged => Tile.reset
        | .empty | .circulating => t) y
      endPass { s with sys := y.modPass g fun p => { p with tiles := [], entries := [] } } g 3
    else s.mapSys fun y => y.modPass g fun p => { p with st := .recalled }

/-! ### Suspension (R351) -/

/-- The staging thread of a pass belongs to the drained set at every stop of the ring, its colour is drained, or its context no longer runs. -/
def passDrained (y : Sys) (g : Nat) (p : Pass) : Bool :=
  (y.ctx p.ctx).st != .running || (y.ctx p.ctx).drained.contains p.colour || (ringClus g).all fun c => y.draining c { y.thr p.clu p.frm with ctx := p.ctx, colour := p.colour }

/-- The pass leaves the ring with its tiles, entries and beat kept; PASS stays set. -/
def suspendPass (y : Sys) (g : Nat) (p : Pass) : Sys :=
  y.modRing g fun r => { r with pass := none, slot := p.slot, laplim := p.laplim, beat8 := p.beat8, stop := p.stop, beat := p.beat,
                                susp := r.susp ++ [p] }

/-! ### Beats (R137 to R142) -/

/-- The stop of a tile at the start of beat `t` (R137). -/
def PTile.stop (t : PTile) (b : Nat) : Nat := if t.fam = 0 then (t.origin + b) % 8 else (t.origin + 7 * b) % 8

/-- One more meeting missed (R140). -/
def missOnce (m : MEnt) : MEnt := { m with st := .missed, misses := min 31 (m.misses + 1) }

/-- The registers of a task (R141): PARAM, the two headers as they were before the decrement, and where and when the pair met. -/
def taskRegs (p : Pass) (c e : Nat) (m : MEnt) (a b : PTile) : List Word :=
  [m.param, a.header p.slot p.beat, b.header p.slot p.beat, BitVec.ofNat 64 (e * 2 ^ 56 + c % 8 * 2 ^ 53 + p.beat % 2 ^ 32)]

/-- An entry's pair is at its stop in this beat (R140): a free task slot takes copies of both tiles, or the meeting is missed. A tile whose
REMAIN reaches 0 retires (R142). -/
def meet (s : State) (g : Nat) (ce : Nat × Nat) : State :=
  match (s.sys.ring g).pass with
  | none => s
  | some p =>
    let (c, e) := ce
    let m := s.sys.ment c e
    if m.st != .armed && m.st != .missed then s
    else
      match p.tile 0 m.istop, p.tile 1 m.kstop with
      | some a, some b =>
        if a.stop p.beat != c % 8 || b.stop p.beat != c % 8 then s
        else
          let free := (List.range 4).filter fun k => !(s.sys.tslot c k).busy
          match free with
          | k :: _ =>
            if 4 - free.length < p.tasks.getD (c % 8) 4 then
              let dec (t : PTile) : PTile :=
                if (t.fam, t.origin) = (0, a.origin) ∨ (t.fam, t.origin) = (1, b.origin) then { t with remain := t.remain - 1 } else t
              let ts := p.tiles.map dec
              let gone := ts.filter fun t => t.remain == 0
              let y := s.sys.setMent c e { m with st := .running }
              let y := y.setTslot c k { busy := true, entry := e, ielem := a.elem, kelem := b.elem, idata := a.data, kdata := b.data }
              let y := gone.foldl (fun y t => y.setTile (g * 8 + t.origin) t.fam p.slot Tile.reset) y
              let y := y.modPass g fun p => { p with tiles := ts.filter fun t => t.remain != 0 }
              let f := gone.foldl (fun f t => sampleMon y p.ctx t.colour 2 (p.beat / 8) f) s.fly
              { s with sys := y, fly := f }.sched (p.start (p.beat + 1)) .beat
                { ctx := p.ctx, clu := c, frm := 1020 + k, col := p.colour, id := p.ident, part := 1,
                  word := BitVec.ofNat 64 (m.task * 64), bytes := (taskRegs p c e m a b).flatMap fun (w : Word) => leBytes 8 w.toNat }
            else s.mapSys fun y => y.setMent c e (missOnce m)
          | [] => s.mapSys fun y => y.setMent c e (missOnce m)
      | _, _ => s

/-- The start of beat `t` (R139, R140, R142, R143, R351). -/
def doBeat (s : State) (g t : Nat) : State :=
  let s := s.mapSys fun y => y.modPass g fun p => { p with beat := t }
  match (s.sys.ring g).pass with
  | none => s
  | some p =>
    if p.st == .recalled then endPass s g 3
    else if passDrained s.sys g p then { s with sys := suspendPass s.sys g p }
    else if t ≥ 8 * p.laplim ∧ !p.tiles.isEmpty then failPass s g p
    else
      let s := p.entries.foldl (fun s e => meet s g e) s
      let s := s.mapFly (checkStops s.sys g)
      s.sched (p.start (t + 1)) .beat { id := g, col := t + 1 }

/-- A task thread is created and enters its block (R93, R140, R141). -/
def createTask (s : State) (e : Ev) : State :=
  let t := { newThread e.ctx e.id e.col e.word.toNat with task := some (e.frm - 1020) }
  enterNext (createThread s e.clu e.frm t (leWords 4 e.bytes)) e.clu e.frm

/-! ### The events -/

/-- TSTAGE_FILL_COMPLETE (R132, R286): the last byte of the tile of access `id` of cluster `clu` has been written; the slot is STAGED, or, when
its pass was recalled, EMPTY. The command is acknowledged. -/
def execTstageFillComplete (s : State) : Host.Outcome State Fault Refusal :=
  let e := s.fly.ev
  match s.fly.acc e.id with
  | none => .next s
  | some a =>
    let f := a.x / 16
    let q := a.x % 16
    let t := s.sys.tile a.clu f q
    let va := (a.segs.headD (0, 0, 0)).1
    let ls := a.lines.filterMap fun l => (a.xlat (l * 64)).map fun x => ({ line := (x.pa + l * 64 % 65536) / 64, key := a.keyTag x, w := false } : Ask)
    let filled (s : State) (v : Tile) : State :=
      let s := if t.st == .filling && t.acc == e.id then s.mapSys fun y => y.setTile a.clu f q v else s
      tryArm (s.sched s.sys.now .accessRetire { clu := a.clu, id := e.id }) (a.clu / 8)
    match openLines ls s with
    | .ok s =>
      let bs := (List.range a.y).map fun k => match a.pa ((va + k) % vaMod) with
        | some p => readByte s.mem p
        | none => 0
      .next (filled s (if t.doomed then Tile.reset else { t with st := .staged, data := BitVec.ofNat 4096 (leNat bs) }))
    | .wait s => .next (s.sched (s.sys.now + 1) .tstageFillComplete { e with q := true })
    | .down =>
      -- host memory behind a link that is DOWN (R193; log entry 78, DEDUCED)
      let s := filled s Tile.reset
      .next (if (s.sys.thr a.clu a.frm).serial = a.owner then deferTrap s a.clu a.frm (some a.ser) { misuse 3 0x54 a.index with va := va } else s)
    | .bad s => .next (memFault (filled s Tile.reset) a.ctx a.clu a.frm a.owner)

/-- BEAT0 (R136): beat 0 of the pass of ring `id`: its tiles are injected, and the first meetings take place. -/
def execBeat0 (s : State) : Host.Outcome State Fault Refusal :=
  let g := s.fly.ev.id
  match (s.sys.ring g).pass with
  | none => .next s
  | some p =>
    if p.st != .starting || !p.armed || p.start p.beat != s.sys.now then .next s
    else
      let y := p.tiles.foldl (fun y t => y.modTile (g * 8 + t.origin) t.fam p.slot fun v => { v with st := .circulating }) s.sys
      let y := y.modPass g fun p => { p with st := .running }
      .next (doBeat { s with sys := y } g p.beat)

/-- BEAT (R137 to R142): part 0, the start of beat `col` of the pass of ring `id`; part 1, the task of a pair that met in the beat before is created
in frame `frm` of cluster `clu`. -/
def execBeat (s : State) : Host.Outcome State Fault Refusal :=
  let e := s.fly.ev
  .next (if e.part = 1 then createTask s e else doBeat s e.id e.col)

/-- STOP_COMPLETION (R129, R142): of cluster `clu`: its part of the pass is complete, and it counts an arrival on the pass's barrier; the last
stop ends the pass. Ended passes whose last task has retired return their entries. -/
def execStopCompletion (s : State) : Host.Outcome State Fault Refusal :=
  let c := s.fly.ev.clu
  let g := c / 8
  let s := s.mapSys fun y => settleTails y g
  match (s.sys.ring g).pass with
  | none => .next s
  | some p =>
    if !stopDone s.sys p c || p.arrived.contains c then .next s
    else
      let arr := p.arrived ++ [c]
      let s := s.mapSys fun y => y.modPass g fun p => { p with arrived := arr }
      let s := s.sched s.sys.now .barrierArrival { clu := c, id := p.bar, col := p.colour, part := 2 }
      .next (if arr.length = Config.nStops then endPass s g 1 else s)

/-- PASS_RESUME (R351): the suspended pass of thread `frm` of cluster `clu` waits for its ring as a TGO does, and starts again at its beat. -/
def execPassResume (s : State) : Host.Outcome State Fault Refusal :=
  let e := s.fly.ev
  let g := e.clu / 8
  match (s.sys.ring g).susp.find? fun p => p.clu == e.clu && p.frm == e.frm with
  | none => .next s
  | some p =>
    if passDrained s.sys g p then .next s
    else if !ringFree s g then .next (s.sched (s.sys.now + 1) .passResume e)
    else
      let q := { p with g := s.sys.now + 24 - p.beat * p.len }
      let s := s.mapSys fun y => y.modRing g fun r => { r with pass := some q, susp := r.susp.filter fun p => !(p.clu == e.clu && p.frm == e.frm) }
      .next (s.sched (s.sys.now + 24) .beat { id := g, col := p.beat })

end Sys2Proof.Machine
end

