-- ==== Sys2Proof/Machine/EvLink.lean ====
section
/-!
DEFINITION. Device events of the token network between clusters: flits on the ring links (R183, R185 to R189) and the fence routers (R359).
-/
namespace Sys2Proof.Machine

/-! ### Routes (R186, R189) -/

/-- Where a packet leaves its ring's links: its own cluster, or stop 0, where the fence router sits. -/
def Packet.exitStop (p : Packet) (g : Nat) : Nat := if p.dst / 8 = g then p.dst % 8 else 0

/-- The direction with fewer hops, clockwise at four: 0 clockwise, 1 counter-clockwise. -/
def direction (a b : Nat) : Nat := if (b + 8 - a) % 8 ≤ 4 then 0 else 1

/-- The next stop in a direction. -/
def nextStop (a d : Nat) : Nat := if d = 0 then (a + 1) % 8 else (a + 7) % 8

/-- The link out of stop `a` in direction `d` crosses the dateline between stop 7 and stop 0. -/
def dateline (a d : Nat) : Bool := (a == 7 && d == 0) || (a == 0 && d == 1)

/-- The number of a link: sending stop and direction. -/
def linkNo (a d : Nat) : Nat := a * 2 + d

/-- Channel of a packet: 0 VC0, 1 VC1, 2 VE. -/
def Packet.ch (p : Packet) : Nat := if p.ve then 2 else if p.vc1 then 1 else 0

def Link.free (l : Link) (ch : Nat) : Nat := if ch = 2 then l.ve else if ch = 1 then l.vc1 else l.vc0

/-- The free-slot count of a channel changed. -/
def Link.modFree (l : Link) (ch : Nat) (h : Nat → Nat) : Link :=
  if ch = 2 then { l with ve := h l.ve } else if ch = 1 then { l with vc1 := h l.vc1 } else { l with vc0 := h l.vc0 }

/-- Flits of a token: its tag word and 56 bytes in the first, 64 in each further one (R185). -/
def flitsOf (bytes : Nat) : Nat := 1 + (bytes - 56 + 63) / 64

/-- A link looks for a flit to send in cycle `due`. -/
def wakeLink (f : Fly) (due c d : Nat) : Fly :=
  if f.due fun i e => i == .flitTransfer && e.clu == c && e.part == d then f else f.event due .flitTransfer { clu := c, part := d }

/-! ### Delivery -/

/-- What a packet does when it reaches its cluster: a message enters it through the switch box of column 15 of region 8, where the mailboxes take it
(R183; log entry 13), a control token takes a control entry of region 8 or waits for one
(R29, R183); `from_` is the direction and channel of the ring buffer that it came out of. -/
def deliver (s : State) (p : Packet) (from_ : Option (Nat × Nat)) : State :=
  match p.ctrl, p.post with
  | some t, _ =>
    let g := s.sys.region p.dst 8
    if g.ctrl.length < Config.ctrlEntries then
      (s.mapSys fun y => y.setRegion p.dst 8 { g with ctrl := g.ctrl ++ [t] }).sched (s.sys.now + 16) .controlTokenDelivery
        { clu := p.dst, reg := 8 }
    else s.mapSys fun y => y.setRegion p.dst 8 { g with ctrlWait := g.ctrlWait ++ [(t, if g.ctrlWait.length < 2 then none else from_)] }
  | none, some id => s.sched (s.sys.now + 1) .messageArrival { clu := p.dst, id := id, col := p.since }
  | none, none => s

/-- The packets in the fence router of a ring: part 0 bound outwards, part 1 inwards. -/
def Sys.router (y : Sys) (g part : Nat) : List Packet := tabGet [] y.routers (g * 2 + part)
def Sys.setRouter (y : Sys) (g part : Nat) (v : List Packet) : Sys := { y with routers := tabSet [] y.routers (g * 2 + part) v }

/-- A packet stands at a stop of a ring: it is delivered, goes to the fence router (12 cycles, R190), or is queued on its next link. -/
def atStop (s : State) (g a d : Nat) (p : Packet) : State :=
  if p.dst = g * 8 + a then deliver s p none
  else if p.exitStop g = a then
    (s.mapSys fun y => y.setRouter g 0 (y.router g 0 ++ [p])).sched (s.sys.now + 12) .fenceRouterPass { id := g, part := 0 }
  else
    let p := { p with left := p.flits, vc1 := !p.ve && (p.vc1 || dateline a d) }
    let s := s.mapSys fun y => y.modLink g (linkNo a d) fun l => { l with queue := l.queue ++ [p] }
    s.mapFly fun f => wakeLink f s.sys.now (g * 8 + a) d

/-- A packet is injected at its source cluster. -/
def inject (s : State) (p : Packet) : State :=
  let g := p.src / 8
  atStop s g (p.src % 8) (direction (p.src % 8) (p.exitStop g)) p

/-! ### The links (R185 to R187) -/

/-- A tile of the running pass takes this cycle of the link out of stop `a` (R139, R185). -/
def tileCrosses (y : Sys) (g a d : Nat) : Bool :=
  match (y.ring g).pass with
  | some p => p.st != .starting && p.start p.beat ≤ y.now &&
      (let t := (y.now - p.g) / p.len
       p.tiles.any fun t' => t'.fam == d && t'.stop t == a && (y.now - p.g) % p.len < tileBytes t'.elem / 64)
  | none => false

/-- The packet whose flit a link sends: the first of VE, then of VC1, then of VC0, where its channel has a free slot. -/
def pickPacket (l : Link) : Option Packet :=
  [2, 1, 0].findSome? fun ch => if l.free ch = 0 then none else l.queue.find? fun p => p.ch == ch

/-- One flit of the first occurrence of a packet is sent; a packet that is whole on the link leaves the queue. -/
def sendFlit (p : Packet) : List Packet → List Packet
  | [] => []
  | q :: t => if q = p then (if p.left = 1 then t else { p with left := p.left - 1 } :: t) else q :: sendFlit p t

/-- A link in one cycle. -/
def linkCycle (s : State) (c d : Nat) : State :=
  let g := c / 8
  let a := c % 8
  let l := s.sys.link g (linkNo a d)
  if l.queue.isEmpty then s
  else
    let again (s : State) := s.mapFly fun f => wakeLink f (s.sys.now + 1) c d
    -- one flit crosses the link in a direction in a cycle (R185)
    if l.sent = s.sys.now + 1 || tileCrosses s.sys g a d then again s
    else
      match pickPacket l with
      | none => again s
      | some p =>
        let l := { l.modFree p.ch (· - 1) with sent := s.sys.now + 1, queue := sendFlit p l.queue, flight := if p.left = 1 then l.flight ++ [p] else l.flight }
        let s := s.mapSys fun y => y.setLink g (linkNo a d) l
        let s := match p.inCh with
          | some ch => s.sched (s.sys.now + 1) .flitTransfer { clu := c, part := 4 + d, col := ch }
          | none => s
        let s := if p.left = 1 then s.sched (s.sys.now + 2) .flitTransfer { clu := g * 8 + nextStop a d, part := 2 + d } else s
        if l.queue.isEmpty then s else again s

/-- The link that ends at stop `a` in direction `d`: its sending stop. -/
def prevStop (a d : Nat) : Nat := if d = 0 then (a + 7) % 8 else (a + 1) % 8

/-- The oldest packet in flight on the link into a stop arrives there whole. -/
def arrivePacket (s : State) (c d : Nat) : State :=
  let g := c / 8
  let a := c % 8
  let n := linkNo (prevStop a d) d
  let l := s.sys.link g n
  match l.flight with
  | [] => s
  | p :: rest =>
    let s := s.mapSys fun y => y.setLink g n { l with flight := rest }
    let ch := p.ch
    if p.dst = c ∧ p.ctrl.isSome ∧ 2 ≤ (s.sys.region c 8).ctrlWait.length then deliver s p (some (d, ch))
    else if p.exitStop g = a then
      let s := (List.range p.flits).foldl (fun s _ => s.sched (s.sys.now + 1) .flitTransfer { clu := c, part := 4 + d, col := ch }) s
      atStop s g a d { p with inCh := none }
    else atStop s g a d { p with inCh := some ch }

/-- A slot of channel `ch` of the buffer at a stop is free again: the sender's count rises, and it may send. -/
def slotFreed (s : State) (c d ch : Nat) : State :=
  let g := c / 8
  let b := prevStop (c % 8) d
  let s := s.mapSys fun y => y.modLink g (linkNo b d) fun l => l.modFree ch (· + 1)
  if (s.sys.link g (linkNo b d)).queue.isEmpty then s else s.mapFly fun f => wakeLink f s.sys.now (g * 8 + b) d

/-! ### The events -/

/-- FLIT_TRANSFER (R185 to R187): parts 0 and 1, a cycle of the link out of cluster `clu` clockwise and counter-clockwise; parts 2 and 3, a
packet arrives whole at cluster `clu` in that direction; parts 4 and 5, a slot of channel `col` of its buffer is free again. -/
def execFlitTransfer (s : State) : Host.Outcome State Fault Refusal :=
  let e := s.fly.ev
  .next (if e.part < 2 then linkCycle s e.clu e.part
    else if e.part < 4 then arrivePacket s e.clu (e.part - 2)
    else slotFreed s e.clu (e.part - 4) e.col)

/-- FENCE_ROUTER_PASS (R189, R359): the first packet in the router of ring `id`: part 0, it is sealed and goes through the Clos network to its
ring's router; part 1, it is checked there and opened, and goes on from stop 0. A failed check drops it and faults its context with FCAUSE 4
(R76, R359). -/
def execFenceRouterPass (s : State) : Host.Outcome State Fault Refusal :=
  let e := s.fly.ev
  match s.sys.router e.id e.part with
  | [] => .next s
  | p :: rest =>
    let s := s.mapSys fun y => y.setRouter e.id e.part rest
    if e.part = 0 then
      let g := p.dst / 8
      let k := p.ctx * 256 + e.id * 16 + g
      let sealed (y : Sys) : Sys := { y with seals := tabSet 0 y.seals k (tabGet 0 y.seals k + 1) }
      .next ((s.mapSys fun y => (sealed y).setRouter g 1 (y.router g 1 ++ [p])).sched (s.sys.now + 18) .fenceRouterPass { id := g, part := 1 })
    else
      let n := s.sys.freeIx
      let s := s.mapSys fun y => { y with freeIx := n + 1 }
      if Config.streamOk n then
        .next (atStop s e.id 0 (direction 0 (p.dst % 8)) { p with vc1 := false, inCh := none })
      else
        match p.post.bind (tabFind s.fly.posts) with
        | some q => .next (memFault s p.ctx q.clu q.frm q.owner)
        | none => .next (memFault s p.ctx p.src 0 ((s.sys.thr p.src 0).serial + 1))

end Sys2Proof.Machine
end

