-- ==== Sys2Proof/Machine/EvSync.lean ====
section
/-!
DEFINITION. Device events of barriers, groups, messages and banks (R114 to R128, R168 to R176, R295 to R299), and what waits for the
acknowledgement of released accesses.
-/
namespace Sys2Proof.Machine

/-! ### Barriers (R124 to R129) -/

/-- Barrier `b` completes its phase if it is full; in the next cycle its waiters are released, and it is looked at again. -/
def settleNow (s : State) (c b : Nat) : State :=
  let s := s.mapSys fun y => y.settleBar c b
  s.sched (s.sys.now + 1) .barrierArrival { clu := c, id := b, part := 1 }

/-- An arrival is counted (R124): the barrier with it, and the phase that counts it. -/
def countArrival (b : Bar) (k : Nat) : Bar × BitVec 16 :=
  if b.mode = .group then
    if b.members.contains k && !b.cur.contains k then ({ b with arrived := b.arrived + 1, cur := k :: b.cur }, b.seq)
    else ({ b with early := b.early + 1, nxt := k :: b.nxt }, b.seq + 1)
  else ({ b with arrived := b.arrived + 1 }, b.seq)

/-- The arrival of a thread (R127, R128): dropped, with a trap at its next block entry, on a barrier that is FREE or another colour's. -/
def threadArrives (s : State) (p : Post) (b idx : Nat) (wait : Bool) : State :=
  let c := p.clu
  let v := s.sys.bar c b
  let lost := v.mode == .free || v.colour != p.colour
  let t := s.sys.thr c p.frm
  let live := t.serial == p.owner
  let waits := wait && live && t.baraw == some (b, none)
  if lost then
    let s := s.mapSys fun y => y.setBar c b { v with owed := v.owed - 1 }
    let s := if !live then s else if v.mode == .free then deferTrap s c p.frm (some p.ser) (misuse 13 0x23 0)
      else deferContained s c p.frm (some p.ser) (ownerRec idx)
    -- a thread in BARAW is released at once; one that its commit has not yet sent into the wait goes on at c+3
    if waits then
      let s := s.mapSys fun y => y.modThr c p.frm fun t => { t with baraw := none }
      if t.st = .waiting then proceed s c p.frm else s
    else s
  else
    let (v', q) := countArrival v p.frm
    let s := s.mapSys fun y => y.setBar c b { v' with owed := v.owed - 1, hit := y.now + 1 }
    let s := if waits then s.mapSys fun y => y.modThr c p.frm fun t => { t with baraw := some (b, some q) } else s
    settleNow s c b

/-- The arrival of a ring stop for a pass of colour `mine` (R129): it takes no arrival-map bit; PASS clears. It is lost on a barrier that is
FREE or another colour's. -/
def stopArrives (s : State) (c b mine : Nat) : State :=
  let v := s.sys.bar c b
  if v.mode = .free ∨ v.colour ≠ mine then s.mapSys fun y => y.setBar c b { v with pass := false }
  else settleNow (s.mapSys fun y => y.setBar c b { v with pass := false, arrived := v.arrived + 1, hit := y.now + 1 }) c b

/-- The cycle after a change (R125, R126): a phase that is full completes, waiters are released; after a JOIN (`joined`) a GROUP phase that has not
begun begins. -/
def settleBarrier (s : State) (c b : Nat) (joined : Bool) : State :=
  let v := s.sys.bar c b
  let s := if joined ∧ v.mode = .group ∧ !v.begun ∧ s.sys.lc c v.group ≠ 0 then s.mapSys fun y => y.modBar c b (beginGroup y c) else s
  let s := if (s.sys.bar c b).full then settleNow s c b else s
  releaseWaiters s c

/-- BARRIER_ARRIVAL (R125 to R129): part 0, the arrival of post `id`; part 1, the cycle after a change of barrier `id` of cluster `clu`, part 3 after a
JOIN of its group; part 2, the arrival of a ring stop for a pass of colour `col` on it. -/
def execBarrierArrival (s : State) : Host.Outcome State Fault Refusal :=
  let e := s.fly.ev
  if e.part = 1 ∨ e.part = 3 then .next (settleBarrier s e.clu e.id (e.part == 3))
  else if e.part = 2 then .next (stopArrives s e.clu e.id e.col)
  else
    match tabFind s.fly.posts e.id with
    | some p =>
      match p.act with
      | .arrive b idx wait => .next (threadArrives (s.mapFly (·.delPost e.id)) p b idx wait)
      | _ => .next s
    | none => .next s

/-! ### Groups (R114, R117, R118) -/

/-- The changes of TOTAL of a group that one thread has released, in the order sent: they perform in it (R118, R190). -/
def groupPosts (f : Fly) (p : Post) (g : Nat) : List (Nat × Post) :=
  f.posts.filter fun e => e.2.clu == p.clu && e.2.frm == p.frm && e.2.owner == p.owner && (match e.2.act with
    | .group n _ _ => n == g
    | _ => false)

/-- A change of TOTAL performs at the home slice of the group word (R117, R118). A JOIN that reaches a LIVE group of another colour is undone: a
LEAVE that stands behind it does not reach the group; without one the slot is cleared and LCOUNT restored, which acts on a running phase as a
LEAVE does (log entry 76, DEDUCED), and stands for the LEAVE of a commit that is retiring the thread. A thread that still lives takes OWNER. -/
def groupUpdate (s : State) (p : Post) (g idx : Nat) (join : Bool) : State :=
  let x := s.sys.ctx p.ctx
  let w := tabGet Grp.reset x.groups g
  let put (s : State) (w : Grp) : State := s.mapSys fun y => y.modCtx p.ctx fun v => { v with groups := tabSet Grp.reset v.groups g w }
  if join then
    if !w.live then put s { epoch := w.epoch + 1, live := true, colour := p.colour, total := 1 }
    else if w.colour = p.colour then put s { w with total := w.total + 1 }
    else
      let live := (s.sys.thr p.clu p.frm).serial == p.owner
      let s := match groupPosts s.fly p g with
        | e :: _ => s.mapFly (·.delPost e.1)
        | [] =>
          let quits (e : Leaving) : Bool := e.frm == p.frm && e.group == g && e.serial == p.owner && e.joins.isNone
          if (live && gmemHas (s.sys.thr p.clu p.frm).gmem g) || (s.sys.clu p.clu).leaving.any quits then
            let s := s.mapSys fun y => (y.modClu p.clu fun v => { v with leaving := v.leaving.filter (!quits ·) }).leaveLocal p.clu p.frm g
            s.mapFly (wakeBars s.sys p.clu 1 [g])
          else s
      if live then deferContained s p.clu p.frm (some p.ser) (ownerRec idx) else s
  else if w.live && w.colour == p.colour then put s { w with total := w.total - 1, live := w.total > 1 }
  else s

/-- GROUP_TOTAL_UPDATE (R117, R118): the change of post `id`, once the changes that the thread sent before it have performed; then the next that
is ready. -/
def execGroupTotalUpdate (s : State) : Host.Outcome State Fault Refusal :=
  let id := s.fly.ev.id
  match tabFind s.fly.posts id with
  | some p =>
    match p.act with
    | .group g idx join =>
      if (groupPosts s.fly p g).any fun e => e.1 < id then .next s
      else
        let s := groupUpdate (s.mapFly (·.delPost id)) p g idx join
        match groupPosts s.fly p g with
        | e :: _ => .next (if e.2.ready then s.sched s.sys.now .groupTotalUpdate { id := e.1 } else s)
        | [] => .next s
    | _ => .next s
  | none => .next s

/-! ### Messages (R295, R296) -/

/-- The MSENDs of an instance in ascending instruction index, then index (R296). -/
def insertEff (e : EffAt) : List EffAt → List EffAt
  | [] => [e]
  | b :: t => if e.idx < b.idx || (e.idx == b.idx && e.index < b.index) then e :: b :: t else b :: insertEff e t

def sortEffs (l : List EffAt) : List EffAt := l.foldl (fun l e => insertEff e l) []

def Inst.msends (i : Inst) : List (Nat × Nat × Msg) :=
  (sortEffs i.effs).filterMap fun e => match e.e with
    | .msend c k m => some (c, k, m)
    | _ => none

/-- The next message of a sending instance, once the accesses `waits` are acknowledged; with none left, the commit goes on. -/
def nextMessage (s : State) (c k : Nat) (waits : List Nat) : State :=
  match s.fly.inst c k with
  | none => s
  | some i =>
    match i.msends[i.sends]? with
    | some (dc, dk, m) =>
      addPost s s.sys.now { ctx := i.ctx, ident := i.ident, clu := c, frm := k, colour := i.colour, ser := i.ser, owner := (s.sys.thr c k).serial, waits := waits, ready := false,
                            act := .message dc dk m }
    | none => s.sched s.sys.now .commit { clu := c, frm := k, id := i.ser, col := s.sys.now }

/-- Switch boxes from the PE of the message that an instance sends next to the ring stop at column 15 of region 8 (R182, R183). -/
def Inst.stopDistance (i : Inst) : Nat :=
  let ms := (sortEffs i.effs).filter fun e => match e.e with
    | .msend .. => true
    | _ => false
  match ms[i.sends]? with
  | some n => max 1 (15 - peCol n.idx + (if i.reg ≤ 8 then 8 - i.reg else i.reg - 8))
  | none => 1

/-- The message of a post is put on its way (R296, R183): over the switch boxes to its cluster's ring stop. One for its own cluster reaches its
mailbox in the next cycle (log entry 13). -/
def sendMessage (s : State) (id : Nat) : State :=
  match tabFind s.fly.posts id with
  | some p =>
    match p.act with
    | .message dc _ _ =>
      if dc = p.clu then s.sched (s.sys.now + 1) .messageArrival { clu := dc, id := id, col := s.sys.now }
      else
        let d := match s.fly.inst p.clu p.frm with
          | some i => i.stopDistance
          | none => 1
        s.sched (s.sys.now + d) .messageSend { id := id, part := 1, col := s.sys.now }
    | _ => s
  | none => s

/-- The message of a post, sent in cycle `since`, is handed to the ring stop (R183). -/
def stopMessage (s : State) (id since : Nat) : State :=
  match tabFind s.fly.posts id with
  | some { ctx := x, clu := c, act := .message dc _ m, .. } =>
      let n := flitsOf (if m.vec then ((m.len + 1) * m.fmt.width + 7) / 8 else 8)
      inject s { ctx := x, ve := false, vc1 := false, src := c, dst := dc, flits := n, left := n, ctrl := none, post := some id, inCh := none,
                 since := since }
  | _ => s

/-- MESSAGE_SEND (R183, R296): the stores of the instance are acknowledged; the message of post `id` is sent; part 1, sent in cycle `col`, it reaches the
ring stop of its cluster. -/
def execMessageSend (s : State) : Host.Outcome State Fault Refusal :=
  .next (if s.fly.ev.part = 1 then stopMessage s s.fly.ev.id s.fly.ev.col else sendMessage s s.fly.ev.id)

/-- MESSAGE_RESEND (R296): a refused message is sent again, 64 cycles after it was sent. -/
def execMessageResend (s : State) : Host.Outcome State Fault Refusal := .next (sendMessage s s.fly.ev.id)

/-- The message is accepted or discarded: the instance sends its next one. -/
def messageDone (s : State) (id : Nat) (p : Post) : State :=
  let s := s.mapFly fun f =>
    let f := f.delPost id
    match f.inst p.clu p.frm with
    | some i => if i.ser = p.ser then f.setInst p.clu p.frm { i with sends := i.sends + 1 } else f
    | none => f
  nextMessage s p.clu p.frm []

/-- A message is discarded: DROPS of its sender counts it (R296), and the instance keeps what DROPS was before its first. -/
def dropMessage (s : State) (p : Post) : State :=
  let t := s.sys.thr p.clu p.frm
  if t.serial ≠ p.owner then s
  else
    let s := s.mapFly fun f => match f.inst p.clu p.frm with
      | some i => if i.ser = p.ser ∧ i.drops0.isNone then f.setInst p.clu p.frm { i with drops0 := some t.drops } else f
      | none => f
    s.mapSys fun y => y.setThr p.clu p.frm { t with drops := min 255 (t.drops + 1) }

/-- MESSAGE_ARRIVAL (R295, R296): the message of post `id`, sent in cycle `col`, reaches its cluster: accepted, refused or discarded. -/
def execMessageArrival (s : State) : Host.Outcome State Fault Refusal :=
  let e := s.fly.ev
  match tabFind s.fly.posts e.id with
  | some p =>
    match p.act with
    | .message dc dk m =>
      let t := s.sys.thr dc dk
      if t.st == .free || t.st == .reserved || t.colour != p.colour || t.ctx != p.ctx then
        .next (messageDone (dropMessage s p) e.id p)
      else if t.st == .saved || t.mbox.length ≥ 4 then .next (s.sched (max (s.sys.now + 1) (e.col + 64)) .messageResend { id := e.id })
      else .next (messageDone (s.mapSys fun y => y.setThr dc dk { t with mbox := t.mbox ++ [m] }) e.id p)
    | _ => .next s
  | none => .next s

/-! ### Banks (R168 to R175) -/

/-- The banks that an access of the scratch space touches. -/
def Access.inBank (a : Access) (b : Nat) : Bool := a.scr && a.segs.any fun g => bankMeets b g.1 g.2.1

/-- Every line that a bank holds is written back and dropped, and its binding released (R171). -/
def flushBank (y : Sys) (c b : Nat) : Sys :=
  let y := (y.bank c b).lines.foldl (fun y e => if (y.line e.1).holder = some (c, b) then recallLine y e.1 else y) y
  y.modBank c b fun v => { v with lines := [], old := none }

/-- The 64 KiB of a bank read as zero, and no FIFO entry is left (R171). -/
def zeroBank (y : Sys) (c b : Nat) : Sys :=
  { y with scratch := y.scratch.filter fun e => !(c * 1048576 + b * 65536 ≤ e.1 && e.1 < c * 1048576 + (b + 1) * 65536) }.modBank c b fun v => { v with fifo := [] }

/-- Dirty lines of a writable CACHE bank are written back and acknowledged (R175); the bank keeps them clean. -/
def cleanBank (y : Sys) (c b : Nat) : Sys :=
  let y := (y.bank c b).lines.foldl (fun y e => if e.2.2 then y.modLine e.1 fun v => { v with dirty := true } else y) y
  y.modBank c b fun v => { v with lines := v.lines.map fun e => (e.1, (e.2.1, false)) }

/-- BANK_PENDING_COMPLETE (R171): bank `id` of cluster `clu`; part 0, it waits until nothing is in flight to it, then its lines are written back
and its bytes zeroed, which takes 512 cycles; part 1, it enters NEXT. -/
def execBankPendingComplete (s : State) : Host.Outcome State Fault Refusal :=
  let e := s.fly.ev
  let v := s.sys.bank e.clu e.id
  if v.mode ≠ .pending then .next s
  else if e.part = 1 then .next (s.mapSys fun y => y.setBank e.clu e.id { v with mode := v.next, next := .scratch })
  else
    let busy := inflight s.sys e.clu e.id ≠ 0 ∨ s.fly.accs.any fun a => a.2.clu == e.clu && a.2.inBank e.id && a.2.st == .issued
    if busy then .next (s.sched (s.sys.now + 1) .bankPendingComplete e)
    else
      .next ((s.mapSys fun y => zeroBank (flushBank y e.clu e.id) e.clu e.id).sched (s.sys.now + 512) .bankPendingComplete
        { clu := e.clu, id := e.id, part := 1 })

/-- COMPLETION_TOKEN (R175): of kernel `id` of context `ctx` at cluster `clu`: the writable CACHE banks of its colours are clean. -/
def execCompletionToken (s : State) : Host.Outcome State Fault Refusal :=
  let e := s.fly.ev
  .next (s.mapSys fun y => (List.range 16).foldl (fun y b =>
    if (y.bank e.clu b).mode = .cache ∧ !(y.bank e.clu b).rdonly ∧ y.ctxOf e.clu = e.ctx then cleanBank y e.clu b else y) y)

end Sys2Proof.Machine
end

