-- ==== Sys2Proof/Machine/EvCtx.lean ====
section
/-!
DEFINITION. Device events of contexts: queue states, drains and resumes (R109, R349 to R353), context commands (R77 to R82), the watchdog (R84),
fault time limits (R163, R164, R348), shoot-downs (R165), and writes to system registers (R325, R326).
-/
namespace Sys2Proof.Machine

/-! ### Queues (R109, R330) -/

/-- Queues of a context that satisfy `p` change state. -/
def Ctx.modQueues (x : Ctx) (p : Queue → Bool) (h : Queue → Queue) : Ctx :=
  { x with queues := x.queues.map fun e => if p e.2 then (e.1, h e.2) else e }

/-- Every OPEN queue of a context looks at its head in the next cycle (R378). -/
def wakeQueues (y : Sys) (x : Nat) (f : Fly) : Fly :=
  (y.ctx x).queues.foldl (fun f e => if e.2.st == .opened && !e.2.buf.isEmpty then offerQueue f (y.now + 1) x e.1 else f) f

/-- The drained set holds a colour. -/
def Drain.has (d : Drain) (colour : Nat) : Bool := d.col == none || d.col == some colour

/-- SUSPENDED queues that satisfy `p` return to OPEN or THROTTLED, but for those of a RETIRING kernel (R330, R353); no record of a set that is being
drained starts, so its queues are DRAINING (R349). -/
def openQueues (s : State) (x : Nat) (p : Nat → Queue → Bool) : State :=
  let retiring (q : Queue) : Bool := ((s.sys.ctx x).kernel q.ident).any (·.st == .retiring)
  let s := s.mapSys fun y => y.modCtx x fun v =>
    let back (e : Nat × Queue) : Nat × Queue :=
      if p e.1 e.2 && e.2.st == .suspended && !retiring e.2 then
        (e.1, { e.2 with st := if v.drains.any (·.has e.2.colour) then .draining else .opened, opened := y.now + 1 })
      else e
    { v with queues := v.queues.map back }
  s.mapFly (wakeQueues s.sys x)

/-- QSUSP takes effect (R330): the queue is SUSPENDED, unless it is DRAINING. -/
def suspendQueue (s : State) (x q : Nat) : State :=
  let stop (e : Nat × Queue) : Nat × Queue :=
    if e.1 = q ∧ (e.2.st = .opened ∨ e.2.st = .throttled) then (e.1, { e.2 with st := .suspended }) else e
  s.mapSys fun y => y.modCtx x fun v => { v with queues := v.queues.map stop }

/-- QRES.q takes effect (R330): nothing changes unless the context is RUNNING. -/
def resumeQueue (s : State) (x q : Nat) : State :=
  if (s.sys.ctx x).st = .running then openQueues s x fun n _ => n == q else s

/-! ### Resuming threads (R92, R353) -/

/-- A SAVED thread becomes WAITING, and goes on: to its block, to a trap not yet delivered, or to its wait in BARAW. One that a ticket
checkpointed stays SAVED until its ticket is served (R348). -/
def resumeThread (s : State) (c k : Nat) : State :=
  let t := s.sys.thr c k
  if t.st ≠ .saved ∨ t.ticket.isSome then s
  else
    let s := s.mapSys fun y => y.setThr c k { t with st := .waiting }
    if t.held then s
    else match t.baraw with
      | some (b, q) => if barDone (s.sys.bar c b) t.colour q then proceed (s.mapSys fun y => y.setThr c k { t with st := .waiting, baraw := none }) c k
                       else s
      | none => proceed s c k

/-- Threads of a context that satisfy `p` resume. -/
def resumeThreads (s : State) (x : Nat) (p : Thr → Bool) : State :=
  ((s.sys.thrs.filter fun e => e.2.st == .saved && e.2.ctx == x && p e.2).map Prod.fst).foldl
    (fun s n => resumeThread s (n / 1024) (n % 1024)) s

/-- The clusters of a context. -/
def Sys.clusters (y : Sys) (x : Nat) : List Nat := (List.range Config.nClusters).filter fun c => y.ctxOf c == x

/-- Park records of the colours that satisfy `p` are re-injected (R44). -/
def reinjectColours (s : State) (x : Nat) (p : Nat → Bool) : State :=
  let ks := (s.sys.parks.filter fun e => e.2.on && p (e.1 % 4096) && s.sys.ctxOf (e.1 / 4096) == x).map Prod.fst
  ks.foldl (fun s n => reinjectColour s (n / 4096) (n % 4096)) s

/-- Suspended passes wait for their ring (R351). -/
def resumePasses (y : Sys) (x : Nat) (p : Nat → Bool) (f : Fly) : Fly :=
  (List.range Config.nRings).foldl (fun f g => (y.ring g).susp.foldl (fun f v =>
    if v.ctx == x && p v.colour then f.event y.now .passResume { clu := v.clu, frm := v.frm } else f) f) f

/-- What QRES restores, for the colours that satisfy `p` (R353). -/
def restore (s : State) (x : Nat) (p : Nat → Bool) : State :=
  let s := openQueues s x fun _ q => p q.colour
  let s := resumeThreads s x fun t => p t.colour
  let s := reinjectColours s x p
  let s := (s.sys.xfers.filter fun e => e.2.ctx == x && p e.2.colour).foldl (fun s e => resumeXfer s (e.1 / 32) (e.1 % 32)) s
  s.mapFly (resumePasses s.sys x p)

/-- QRES.col takes effect (R330, R353): nothing changes unless the colour was drained and the context is RUNNING. -/
def resumeColour (s : State) (x col : Nat) : State :=
  let v := s.sys.ctx x
  if v.st = .running ∧ v.drained.contains col then
    restore (s.mapSys fun y => y.setCtx x { v with drained := v.drained.filter (· != col) }) x (· == col)
  else s

/-- QRES.ctx takes effect (R77, R330): a SUSPENDED context is RUNNING; colours that are drained on their own stay so.
A drain that was under way when the context stopped is over, and DRCNT does not count it (log entry 91, DEDUCED). -/
def resumeCtx (s : State) (x : Nat) : State :=
  let v := s.sys.ctx x
  if v.st = .suspended then
    let s := s.mapSys fun y => (y.wsync x).modCtx x fun v => { v with st := .running, drains := [] }
    let s := s.mapFly (armWatchdog s.sys x)
    restore s x fun k => !v.drained.contains k
  else s

/-! ### Drains (R349, R350, R352, R353) -/

/-- DRAIN takes effect (R330, R349): queues are DRAINING, and the management core sends a marker from the fence router of each of the context's
rings to each of its clusters. Nothing changes when the context is not RUNNING, for context 0 as a whole, or when the drain is under way or
done. -/
def beginDrain (s : State) (x : Nat) (col : Option Nat) : State :=
  let v := s.sys.ctx x
  let again := (v.drains.any fun d => d.col == col) || col.any v.drained.contains
  if v.st ≠ .running ∨ again ∨ (x = 0 ∧ col = none) then s
  else
    let now := s.sys.now
    let d : Drain := { col := col, at_ := now, marked := [], halted := false }
    let v := v.modQueues (fun q => d.has q.colour && (q.st == .opened || q.st == .throttled)) fun q => { q with st := .draining }
    let s := s.mapSys fun y => y.setCtx x { v with drains := v.drains ++ [d] }
    let s := (s.sys.clusters x).foldl (fun s c => inject s
      { ctx := x, ve := true, vc1 := false, src := c / 8 * 8, dst := c, flits := 1, left := 1, ctrl := some (.marker x col), post := none,
        inCh := none, since := now }) s
    let e : Ev := { ctx := x, col := col.getD 0, p := col.isSome, id := now }
    -- by c+64 every cluster has its marker, whatever stands on the links (R349)
    let s := (s.sys.clusters x).foldl (fun s c => s.sched (now + 64) .drainMarkerArrival { e with clu := c, part := 1 }) s
    (s.sched (now + 940) .drainAbort e).sched (now + 1880) .drainHalt e

/-- The colour that an event of a drain names. -/
def drainCol (e : Ev) : Option Nat := if e.p then some e.col else none

/-- The drain that an event names, if it is under way. -/
def drainOf (y : Sys) (e : Ev) : Option Drain := (y.ctx e.ctx).drains.find? fun d => d.col == drainCol e && d.at_ == e.id

/-- Threads of the drained set, as (cluster, frame). -/
def drainedThreads (y : Sys) (x : Nat) (d : Drain) : List (Nat × Nat) :=
  (y.thrs.filter fun e => e.2.st != .free && e.2.st != .reserved && e.2.ctx == x && d.has e.2.colour).map fun e => (e.1 / 1024, e.1 % 1024)

/-- DRAIN_MARKER_ARRIVAL (R349, R175): the marker of context `ctx` (of colour `col` where `p`) is acted on at cluster `clu`: WAITING threads of the
set are SAVED, and no thread of it enters a block; writable CACHE banks are clean. Part 1, 64 cycles after the DRAIN of cycle `id`. -/
def execDrainMarkerArrival (s : State) : Host.Outcome State Fault Refusal :=
  let e := s.fly.ev
  if e.part = 1 && (drainOf s.sys e).all (·.marked.contains e.clu) then .next s else
  let mark (d : Drain) : Drain := if d.col = drainCol e ∧ !d.marked.contains e.clu then { d with marked := e.clu :: d.marked } else d
  let s := s.mapSys fun y => y.modCtx e.ctx fun v => { v with drains := v.drains.map mark }
  let s := s.mapSys fun y => (List.range 16).foldl (fun y b =>
    if (y.bank e.clu b).mode = .cache ∧ !(y.bank e.clu b).rdonly then cleanBank y e.clu b else y) y
  let ks := (s.sys.thrs.filter fun t => t.1 / 1024 == e.clu && t.2.st == .waiting && s.sys.draining e.clu t.2).map Prod.fst
  .next (ks.foldl (fun s n => saveThread s e.clu (n % 1024)) s)

/-- The live instance of a thread is aborted and the thread SAVED before the block it re-runs (R97, R348, R349). -/
def abortSave (s : State) (c k : Nat) : State :=
  match s.fly.inst c k with
  | none => s
  | some i => saveThread ((abortInst s c k).mapSys fun y => y.modThr c k fun t => { t with next := i.blk }) c k

/-- DRAIN_ABORT (R349): at c+940 every live instance of the drained set is aborted. -/
def execDrainAbort (s : State) : Host.Outcome State Fault Refusal :=
  let e := s.fly.ev
  match drainOf s.sys e with
  | none => .next s
  | some d => .next ((drainedThreads s.sys e.ctx d).foldl (fun s t => abortSave s t.1 t.2) s)

/-- DRAIN_HALT (R349, R350): by c+1,880 every thread of the drained set is SAVED; completion follows. -/
def execDrainHalt (s : State) : Host.Outcome State Fault Refusal :=
  let e := s.fly.ev
  match drainOf s.sys e with
  | none => .next s
  | some d =>
    let ts := (drainedThreads s.sys e.ctx d).filter fun t => (s.sys.thr t.1 t.2).st == .waiting
    let s := ts.foldl (fun s t => saveThread s t.1 t.2) s
    let s := s.mapSys fun y => y.modCtx e.ctx fun v => { v with drains := v.drains.map fun d' => if d' = d then { d with halted := true } else d' }
    .next (s.sched s.sys.now .drainCompletion e)

/-- R342: nothing that a commit of the drained set released is outstanding, its transfers are DONE or WITHHELD, and the
park records that are saved with it are written (R45). -/
def drainQuiet (s : State) (x : Nat) (d : Drain) : Bool :=
  (drainedThreads s.sys x d).all (fun t => (s.sys.thr t.1 t.2).st == .saved)
  && s.fly.accs.all (fun e => e.2.ctx != x || !d.has e.2.colour || e.2.op == .copy || e.2.op == .copyt || !e.2.released || !e.2.committed
      || e.2.st == .retired)
  && s.fly.posts.all (fun e => e.2.ctx != x || !d.has e.2.colour)
  && s.fly.commits.all (fun e => e.2.ctx != x || !d.has e.2.colour)
  && s.sys.xfers.all (fun e => e.2.ctx != x || !d.has e.2.colour || e.2.st == .free || e.2.st == .withheld)
  && s.sys.parks.all fun e => s.sys.ctxOf (e.1 / 4096) != x || !d.has (e.1 % 4096) || e.2.sent.isEmpty

/-- The colour drain of `k` is complete (R353). -/
def Ctx.colourDone (v : Ctx) (k : Nat) : Ctx :=
  let v := v.modQueues (fun q => q.colour == k && q.st == .draining) fun q => { q with st := .suspended }
  { v with drains := v.drains.filter (·.col != some k), drcol := k, drcnt := v.drcnt + 1, drained := k :: v.drained }

/-- The management core is told of a drain (R353): 5 a context's, 6 a colour's. -/
def drainTold (s : State) (x what k : Nat) : State := s.mapSys fun y => { y with irqs := y.irqs ++ [(x, what, k, 0)] }

/-- DRAIN_COMPLETION (R342, R353): once R342 holds, the context is SUSPENDED, or the colour's queues are and DRCOL and DRCNT tell it; the
management core receives an interrupt. Drains of colours that are under way when their context's is complete are complete with it, since their sets lie
in its set. -/
def execDrainCompletion (s : State) : Host.Outcome State Fault Refusal :=
  let e := s.fly.ev
  match drainOf s.sys e with
  | none => .next s
  | some d =>
    let v := s.sys.ctx e.ctx
    if v.st ≠ .running then .next s
    else if !drainQuiet s e.ctx d then .next (s.sched (s.sys.now + 1) .drainCompletion e)
    else
      let s := s.mapSys fun y => y.roundXfers e.ctx d.has
      match d.col with
      | none =>
        let ks := v.drains.filterMap Drain.col
        let s := ks.foldl (fun s k => drainTold (s.mapSys fun y => y.modCtx e.ctx (·.colourDone k)) e.ctx 6 k) s
        let s := s.mapSys fun y => (y.wsync e.ctx).modCtx e.ctx fun w =>
          { w.modQueues (·.st == .draining) (fun q => { q with st := .suspended }) with st := .suspended, drains := [] }
        .next (drainTold s e.ctx 5 0)
      | some k => .next (drainTold (s.mapSys fun y => y.modCtx e.ctx (·.colourDone k)) e.ctx 6 k)

/-! ### The management interface (R370) -/

/-- The requester that an event names may command the management core: the interface is unlocked, or it holds the lock (R370). -/
def mayCommand (y : Sys) (who : Nat) : Bool := y.msOwner == 0 || y.msOwner.toNat == who

/-- A command of a requester that does not hold the lock is refused with BUSY (R370): status 1 of the management core (log entry 57). -/
def refuseBusy (s : State) : State := s.mapSys fun y => { y with mgmtStatus := 1 }

/-- A command of requester `who` to the management core, which wakes the device (R365, R370). -/
def onManagement (s : State) (who : Nat) (i : Instr) (k : State → State) : State :=
  whenAwake s i fun s => if mayCommand s.sys who then k s else refuseBusy s

/-! ### Context commands (R77 to R82) -/

/-- A command ends with a status (R78). -/
def endCmd (y : Sys) (st : Nat) : Sys := { y with cxStatus := st }

/-- A write to `%cxcmd` (R79): discarded while BUSY; else a CMD that is not 0 is accepted and passed to the management core. -/
def writeCxcmd (s : State) (v : Word) : State :=
  let cmd := fieldOf v 0 4
  if cmd = 0 ∨ s.sys.cxStatus = 1 then s
  else
    let s := s.mapSys fun y => { y with cxSeq := y.cxSeq + 1, cxStatus := 1 }
    let e : Ev := { ctx := fieldOf v 8 4, word := v }
    let (d, f) := s.fly.draw
    let s := { s with fly := f }
    let due := s.sys.now + 1 + d
    match cmd with
    | 1 => s.sched due .alloc e
    | 2 => s.sched due .start e
    | 3 => s.sched due .destroy e
    | 4 => s.sched due .clear e
    | _ => s.mapSys (endCmd · 5)

/-- A context command on a context in a state that the command leaves (R79): SELF for context 0, STATE for another state. -/
def onCommand (s : State) (ok : CtxSt → Bool) (k : Nat → State) : State :=
  let x := s.fly.ev.ctx
  if x = 0 then s.mapSys (endCmd · 4) else if ok (s.sys.ctx x).st then k x else s.mapSys (endCmd · 2)

/-- A ring has no live thread and no resident block (R79). -/
def ringIdle (y : Sys) (g : Nat) : Bool :=
  y.thrs.all (fun e => e.1 / 8192 != g || e.2.st == .free || e.2.st == .reserved) && y.frames.all fun e => e.1 / 512 != g || e.2.st != .resident

/-- ALLOC (R79): the rings of MASK move from context 0 to context `ctx`; its banks are SCRATCH, unbound and zero (R168), its accumulators and
lanes FREE (R271, R273), its pin tables as at reset (R294), what was being loaded into its frames is gone, its key slots and its stream key are drawn
anew (R354, R359), its allow-list is the firmware's (R369), its group table is zero (R114), its stream counters start at 0 (R359). -/
def execAlloc (s : State) : Host.Outcome State Fault Refusal :=
  let mask := fieldOf s.fly.ev.word 16 16
  .next (onCommand s (· == .free) fun x =>
    let gs := (List.range 16).filter fun g => mask.testBit g
    if gs.isEmpty || gs.any (fun g => s.sys.ctxOf (g * 8) != 0 || !ringIdle s.sys g) then s.mapSys (endCmd · 3)
    else s.mapSys fun y =>
      let cs := gs.flatMap ringClus
      let n := y.freeIx
      let y := y.setCtx x { Ctx.reset with st := .allocated, rings := BitVec.ofNat 16 mask, drawn := n, streamKey := Config.streamKey x n,
                                           allow := (Config.allowItems x n).take 64 }
      let y := { y with freeIx := n + 1, pins := y.pins.filter (fun e => !cs.contains (e.1 / 256)), paccs := y.paccs.filter fun e => !cs.contains (e.1 / 192), lanes := y.lanes.filter fun e => !cs.contains (e.1 / 4096),
                        frames := y.frames.filter fun e => !cs.contains (e.1 / 64), banks := y.banks.filter fun e => !cs.contains (e.1 / 16), scratch := y.scratch.filter fun e => !cs.contains (e.1 / 1048576),
                        seals := y.seals.filter fun e => e.1 / 256 != x }
      endCmd y 0)

/-- START (R77): an ALLOCATED context is RUNNING, and its watchdog counts. -/
def execStart (s : State) : Host.Outcome State Fault Refusal :=
  .next (onCommand s (· == .allocated) fun x =>
    let s := s.mapSys fun y => endCmd ((y.wsync x).modCtx x fun v => { v with st := .running }) 0
    s.mapFly (armWatchdog s.sys x))

/-- A context's threads are aborted without being saved, its tokens, hold queues and park records dropped, what stands in its ring links and
fence routers, and the tasks that its passes were to create (R82). -/
def wipeThreads (s : State) (x : Nat) : State :=
  let cs := s.sys.clusters x
  let mine (n : Nat) : Bool := cs.contains n
  let s := (s.fly.insts.filter fun e => mine (e.1 / 1024)).foldl (fun s e => abortInst s (e.1 / 1024) (e.1 % 1024)) s
  let y := s.sys
  let y := { y with thrs := y.thrs.filter fun e => !mine (e.1 / 1024), regions := y.regions.filter fun e => !mine (e.1 / 16),
                    parks := y.parks.filter fun e => !mine (e.1 / 4096), frames := y.frames.filter fun e => !mine (e.1 / 64), xfers := y.xfers.filter fun e => !mine (e.1 / 32),
                    links := y.links.filter fun e => !mine (e.1 / 16 * 8), routers := y.routers.filter fun e => !mine (e.1 / 2 * 8) }
  let gone (a : Act) : Bool := match a with
    | .ev .tokenArrival e | .ev .flitTransfer e => mine e.clu
    | .ev .fenceRouterPass e => mine (e.id * 8)
    | .ev .beat0 e => mine (e.id * 8)
    | .ev .beat e => if e.part = 1 then mine e.clu else mine (e.id * 8)
    | .fire f => mine f.clu
    | _ => false
  { s with sys := y, greg := s.greg.filter fun e => !mine (e.1 / 1024),
           fly := { s.fly with agenda := s.fly.agenda.filter (!gone ·.act), posts := s.fly.posts.filter (·.2.ctx != x),
                               commits := s.fly.commits.filter fun e => !mine (e.1 / 1024), accs := s.fly.accs.filter fun e => e.2.ctx != x || e.2.gone } }

/-- DESTROY (R77, R82): the context is DESTROYING, its kernels and queues are discarded; the scrub ends within 262,144 cycles. -/
def execDestroy (s : State) : Host.Outcome State Fault Refusal :=
  .next (onCommand s (fun st => st == .allocated || st == .running || st == .suspended || st == .faulted) fun x =>
    let s := wipeThreads s x
    let s := s.mapSys fun y => endCmd (y.modCtx x fun v =>
      { v with st := .destroying, kernels := [], queues := [], ports := [], groups := [], drains := [], drained := [] }) 0
    s.sched (s.sys.now + 262144) .scrubComplete { ctx := x })

/-- CLEAR (R77, R80): a FAULTED context is SUSPENDED. -/
def execClear (s : State) : Host.Outcome State Fault Refusal :=
  .next (onCommand s (· == .faulted) fun x => s.mapSys fun y => endCmd (y.modCtx x fun v => { v with st := .suspended, fcause := 0 }) 0)

/-- Entries of the clusters `cs` leave a table whose keys hold `n` entries to a cluster. -/
def wipe {α : Type} (cs : List Nat) (n : Nat) (t : Tab α) : Tab α := t.filter fun e => !cs.contains (e.1 / n)

/-- A line of the context is dropped from its home slice without write-back, and what it stored under the context's keys can no longer be read
(R82, R355): it stands under a key that is gone. -/
def eraseLine (x : Nat) (v : Line) : Line :=
  let mine := v.held.any (·.ctx == x)
  let was := v.ktag.any (·.tag.ctx == x)
  let lost : Option Stored := if mine && (v.dirty || v.holder.isSome) then v.held.map fun k => { tag := k, gen := none } else v.ktag
  { v with held := if mine then none else v.held, dirty := v.dirty && !mine, holder := if mine then none else v.holder,
           ktag := lost.map fun k => if k.tag.ctx = x then { k with gen := none } else k, fe := if mine || was then 0 else v.fe }

/-- SCRUB_COMPLETE (R82): the clusters of context `ctx` are clear, its keys erased; it is FREE, and its rings are context 0's. -/
def execScrubComplete (s : State) : Host.Outcome State Fault Refusal :=
  let x := s.fly.ev.ctx
  if (s.sys.ctx x).st ≠ .destroying then .next s
  else
    let cs := s.sys.clusters x
    let gs := (List.range 16).filter fun g => s.sys.ctxOf (g * 8) == x
    .next (s.mapSys fun y =>
      { y with
        clus := wipe cs 1 y.clus, ctab := wipe cs 64 y.ctab, bars := wipe cs 256 y.bars, lcount := wipe cs 1024 y.lcount,
        banks := wipe cs 16 y.banks, scratch := wipe cs 1048576 y.scratch, paccs := wipe cs 192 y.paccs, lanes := wipe cs 4096 y.lanes,
        pins := wipe cs 256 y.pins, tiles := wipe cs 32 y.tiles, ments := wipe cs 256 y.ments, tslots := wipe cs 4 y.tslots,
        portTs := wipe cs 16 y.portTs, rings := y.rings.filter fun e => !gs.contains e.1, tickets := y.tickets.filter fun e => e.2.ctx != x,
        lines := y.lines.map fun e => (e.1, eraseLine x e.2), descs := y.descs.filter fun e => e.2.ctx != x,
        ctxs := tabSet Ctx.reset y.ctxs x Ctx.reset })

/-! ### The watchdog (R84, R85) -/

/-- WATCHDOG_EXPIRY (R80, R84): COUNT of context `ctx` reaches LIMIT. -/
def execWatchdogExpiry (s : State) : Host.Outcome State Fault Refusal :=
  let x := s.fly.ev.ctx
  let v := s.sys.ctx x
  if v.wlimit = 0 ∨ !s.sys.counting x ∨ s.sys.counted x < v.wlimit * 1024 then .next s
  else
    let s := contextFault s x 1 0 0
    .next (if x = 0 then s.mapFly (armWatchdog s.sys x) else s)

/-- A per-context register of a context may be written by privileged code in this state (R77). -/
def mayWriteCtx (st : CtxSt) (r : Nat) : Bool :=
  match st with
  | .running | .suspended => true
  | .allocated => r == 0x044 || r == 0x043 || r == 0x01A
  | _ => false

/-- The kick of a context's watchdog (R84): COUNT and its hidden remainder are zero. -/
def kickWdog (s : State) (x : Nat) : State :=
  let s := s.mapSys fun y => y.modCtx x fun v => { v with wcount := 0, wrem := 0, wsince := y.now }
  s.mapFly (armWatchdog s.sys x)

/-- WDOG_KICK (R84): of context `ctx`; a kick in the cycle of an expiry is discarded, as a FAULTED context takes none (R77). -/
def execWdogKick (s : State) : Host.Outcome State Fault Refusal :=
  let x := s.fly.ev.ctx
  .next (if mayWriteCtx (s.sys.ctx x).st 0x01A then kickWdog s x else s)

/-! ### Fault time limit (R163, R164, R348) -/

/-- The threads of a colour that have an access withheld under a ticket. -/
def ticketThreads (f : Fly) (n colour : Nat) : List (Nat × Nat) :=
  ((f.accs.filter fun e => e.2.st == .withheld n && e.2.colour == colour && !e.2.committed).map fun e => (e.2.clu, e.2.frm)).eraseDups

/-- CHECKPOINT (R164, R348): access `part`, withheld in cycle `col`, has been withheld under ticket `id` for LIMIT cycles: each thread of the
ticket's colour with an access withheld under the ticket is aborted and SAVED; those of other colours, on a common page, run on. -/
def execCheckpoint (s : State) : Host.Outcome State Fault Refusal :=
  let e := s.fly.ev
  let n := e.id
  match tabFind s.sys.tickets n, s.fly.acc e.part with
  | some t, some a =>
    let due := e.col + ftLimit s.sys t.ctx
    if a.st ≠ .withheld n then .next s
    else if s.sys.now < due then .next (s.sched due .checkpoint e)
    else .next ((ticketThreads s.fly n t.colour).foldl (fun s k =>
      (abortSave s k.1 k.2).mapSys fun y => y.modThr k.1 k.2 fun t => if t.st = .saved then { t with ticket := some n } else t) s)
  | _, _ => .next s

/-- The colours of a cluster that a ticket has stalled (R44): its own, those with a record that waits in the park channel of its port, with an access
withheld under it, and with a thread that it checkpointed. -/
def ticketColours (s : State) (n : Nat) (t : Ticket) : List Nat :=
  (t.colour :: ((s.sys.parks.filter fun e => e.1 / 4096 == t.clu && e.2.pending.any fun q => q.2.2.dest.reg == t.reg).map fun e => e.1 % 4096)
    ++ ((s.fly.accs.filter fun e => e.2.st == .withheld n && e.2.clu == t.clu).map fun e => e.2.colour)
    ++ ((s.sys.thrs.filter fun e => e.1 / 1024 == t.clu && e.2.ticket == some n).map fun e => e.2.colour)).eraseDups

/-- Ticket `n` is served (R163, R178, R348, R44): its accesses are translated again, its transfers move on, its threads are WAITING, the park records
that wait at the port are written and its colours re-injected, and frame loads that wait there fetch again. What a drain or a fault has stopped keeps
its place, and is served on resume (R350). -/
def serveTicket (s : State) (n : Nat) (t : Ticket) : State :=
  let cols := ticketColours s n t
  let s := s.mapSys fun y => { y with tickets := tabDel y.tickets n }
  let s := (s.fly.accs.filter fun e => e.2.st == .withheld n).foldl (fun s e =>
    { s with fly := (s.fly.setAcc e.1 { e.2 with st := .buffered }).event s.sys.now .translate { clu := e.2.clu, reg := e.2.reg, id := e.1 } }) s
  let s := (List.range 32).foldl (fun s k =>
    let v := s.sys.xfer t.clu k
    if v.st ≠ .withheld ∨ v.ticket ≠ n then s
    else if s.sys.stopped t.clu v.ctx v.colour then s.mapSys fun y => y.setXfer t.clu k { v with ticket := noTicket }
    else moveAgain s t.clu k) s
  let s := cols.foldl (fun s col =>
    let s := rewriteParks s t.clu t.reg col
    if s.sys.stopped t.clu t.ctx col then s else reinjectColour s t.clu col) s
  let s := s.sys.frames.foldl (fun s e =>
    if e.2.st == .loading && e.1 / 64 == t.clu && e.1 % 64 / 4 == t.reg
        && !(s.fly.due fun i v => i == .frameLoadComplete && v.clu == t.clu && v.reg == t.reg && v.frm == e.1 % 4)
    then s.sched s.sys.now .frameLoadComplete { clu := t.clu, reg := t.reg, frm := e.1 % 4 } else s) s
  ((s.sys.thrs.filter fun e => e.2.st == .saved && e.2.ticket == some n).map Prod.fst).foldl (fun s m =>
    let s := s.mapSys fun y => y.modThr (m / 1024) (m % 1024) fun h => { h with ticket := none }
    let h := s.sys.thr (m / 1024) (m % 1024)
    if s.sys.stopped (m / 1024) h.ctx h.colour then s else resumeThread s (m / 1024) (m % 1024)) s

/-- PFDONE_WRITE (R163): firmware names ticket `id`. -/
def execPfdoneWrite (s : State) : Host.Outcome State Fault Refusal :=
  let n := s.fly.ev.id
  .next (whenAwake s .pfdoneWrite fun s => match tabFind s.sys.tickets n with
    | none => s
    | some t => serveTicket s n t)

/-! ### Debug halt (R218) -/

/-- DEBUG_HALT_REQUEST (R218, R370): a debugger, requester `id`, asks through the management core that thread `frm` of cluster `clu` halts. -/
def execDebugHaltRequest (s : State) : Host.Outcome State Fault Refusal :=
  let e := s.fly.ev
  .next (onManagement s e.id .debugHaltRequest fun s =>
    let t := s.sys.thr e.clu e.frm
    if t.st = .free ∨ t.st = .reserved ∨ t.halt ≠ 0 then s else s.mapSys fun y => y.setThr e.clu e.frm { t with halt := 1 })

/-! ### Shoot-downs (R165) -/

/-- A page lies in a range of pages. -/
def inPages (first last p : Nat) : Bool := first ≤ p && p ≤ last

/-- An access touches a page of the range; a SPLICE those of its record too (R160). -/
def Access.touches (a : Access) (first last : Nat) : Bool :=
  (a.segs.any fun g => (pagesOf g.1 g.2.1).any fun p => inPages first last p.1)
    || (a.op == .splice && (recordSpans a (if a.y = 1 then a.x else 0)).any fun p => inPages first last p.1)

/-- The access holds a translation of a page of the range; a COPY or COPYT those of its source and destination too (R177). -/
def Access.holds (a : Access) (first last : Nat) : Bool :=
  a.xl.any (fun x => inPages first last x.page)
    || ((a.op == .copy || a.op == .copyt) && !a.xl.isEmpty && a.command.spans.any fun p => inPages first last p.1)

/-- The ports of the clusters of a context drop what they cache of its pages `first` to `last` (R165). -/
def PortT.drop (p : PortT) (x first last : Nat) : PortT :=
  { p with ranges := p.ranges.filter fun r => !(r.1 == x && r.2.2.vbase ≤ last && first ≤ r.2.2.vlast),
           leaves := p.leaves.filter fun l => !(l.1 == x && inPages first last l.2.2.1) }

/-- A port of context `x` is reading tables or a record for the access that the event names. -/
def portReads (f : Fly) (x : Nat) (w : Work) : Bool :=
  match w.act with
  | .ev .tableReadFill e => (f.acc e.id).any fun a => a.ctx == x
  | .ev .translate e => (e.part == 4 || e.part == 5) && (f.acc e.id).any fun a => a.ctx == x
  | _ => false

/-- What the ports of context `x` are reading to translate is dropped, and its accesses are translated again. -/
def readAgain (f : Fly) (x now : Nat) : Fly :=
  let ids := ((f.agenda.filter (portReads f x)).filterMap fun w => match w.act with
    | .ev _ e => some e.id
    | _ => none).eraseDups
  let g := { f with agenda := f.agenda.filter (!portReads f x ·) }
  ids.foldl (fun g id => match g.acc id with
    | some a => g.event now .translate { clu := a.clu, reg := a.reg, id := id, part := 2 }
    | none => g) g

/-- A shoot-down of pages `first` to `last` of context `x` reaches the ports (R165): they drop what they cache and what they are reading, translate again what they hold
unissued, and await what they issued, a parked LDE too, which its instance's abort ends (R98, R315). Park records
that a MIGRATING page withheld are written (R162). -/
def shootDown (s : State) (x first last : Nat) : State :=
  let cs := s.sys.clusters x
  let s := s.mapSys fun y => { y with portTs := y.portTs.map fun p => if cs.contains (p.1 / 16) then (p.1, p.2.drop x first last) else p }
  let mine := s.fly.accs.filter fun a => a.2.ctx == x && !a.2.scr
  let decided (a : Access) : Bool := a.committed || s.fly.commits.any fun i => i.2.ser == a.ser
  let again := mine.filter fun a => (a.2.st == .migrating && a.2.touches first last)
    || (a.2.st == .atPort && a.2.released && !decided a.2 && a.2.holds first last)
  let waits := (mine.filter fun a => a.2.holds first last && a.2.op != .copy && a.2.op != .copyt
    && ((a.2.gone && a.2.st != .retired) || (a.2.st == .atPort && decided a.2))).map Prod.fst
  let f := again.foldl (fun f a =>
    (f.setAcc a.1 { a.2 with st := .buffered, xl := [] }).event s.sys.now .translate { clu := a.2.clu, reg := a.2.reg, id := a.1 }) (readAgain s.fly x s.sys.now)
  let parked := s.sys.parks.flatMap fun p => if cs.contains (p.1 / 4096) then
      ((p.2.pending.map fun q => q.2.2.dest.reg).eraseDups).map fun r => (p.1, r) else []
  let (id, f) := f.fresh
  let s := { s with fly := f, sys := { s.sys with shoots := tabPut s.sys.shoots id { ctx := x, first := first, last := last, waits := waits } } }
  let s := parked.foldl (fun s p => rewriteParks s (p.1 / 4096) p.2 (p.1 % 4096)) s
  s.sched (s.sys.now + 1) .shootDownComplete { id := id }

/-- SHOOT_DOWN (R165, R370): requester `frm` names pages `col` to `id` of context `ctx`. -/
def execShootDown (s : State) : Host.Outcome State Fault Refusal :=
  let e := s.fly.ev
  .next (onManagement s e.frm .shootDown fun s => shootDown s e.ctx e.col e.id)

/-- SHOOT_DOWN_COMPLETE (R165): shoot-down `id` is complete when everything it awaits is acknowledged. -/
def execShootDownComplete (s : State) : Host.Outcome State Fault Refusal :=
  let id := s.fly.ev.id
  match tabFind s.sys.shoots id with
  | none => .next s
  | some v =>
    if v.waits.any fun n => (s.fly.acc n).any fun a => a.st != .retired then .next (s.sched (s.sys.now + 1) .shootDownComplete { id := id })
    else .next (s.mapSys fun y => { y with shoots := tabDel y.shoots id })

/-! ### System records (R166, R331) -/

/-- The physical address of a record and its line's key tag, if it is mapped. -/
def recordAt (s : State) (x colour va : Nat) : Option (Nat × KeyTag) :=
  (locate s.sys s.mem x colour (va / 65536)).map fun t => (t.pa + va % 65536, keyTagOf x colour t)

/-- CFGLD takes effect: its record goes to the management core; `owner` is the thread's serial. -/
def startLoad (s : State) (c k owner ser x colour va : Nat) (rt : Bool) : State :=
  match recordAt s x colour va with
  | none => s
  | some (pa, key) =>
    let (id, f) := s.fly.fresh
    let (d, f) := f.draw
    let r : Load := { clu := c, frm := k, owner := owner, ser := ser, rt := rt, record := pa, key := key }
    { s with fly := f, sys := { s.sys with loads := tabPut s.sys.loads id r } }.sched (s.sys.now + 1 + d) .kernelLoading { id := id }

/-- RELAT takes effect: its record goes to the management core. -/
def startRelat (s : State) (c k owner ser x colour va : Nat) : State :=
  match recordAt s x colour va with
  | none => s
  | some (pa, key) =>
    let (id, f) := s.fly.fresh
    let (d, f) := f.draw
    let r : Relat := { clu := c, frm := k, owner := owner, ser := ser, record := pa, key := key }
    { s with fly := f, sys := { s.sys with relats := tabPut s.sys.relats id r } }.sched (s.sys.now + 1 + d) .relatEmerge { id := id, part := 1 }

/-- Reserved fields of a RELAT record (R331). -/
def relatBad (m : Memory) (pa : Nat) : Bool :=
  let w (n : Nat) : Word := readWord m (pa + 8 * n)
  (List.range 2).any (fun n => fieldOf (w n) 52 12 != 0 || fieldOf (w n) 0 16 != 0) || fieldOf (w 2) 4 60 != 0
    || (List.range 4).any fun n => w (n + 4) != 0

/-- The thread of a record takes ILLOP 0xB8 at its next block entry (R333), if it is in its frame still. -/
def recordBad (s : State) (c k owner ser : Nat) : State :=
  let t := s.sys.thr c k
  if t.st ≠ .free ∧ t.serial = owner then deferTrap s c k (some ser) (misuse 1 0xB8 0) else s

/-- The token of a RELAT goes out (R166): the latching slots whose latch falls in the range drop it, and the token waits until their accesses are
acknowledged, stores that still wait for their commit with the latched address included. -/
def passRelat (s : State) (id : Nat) (v : Relat) : State :=
  let first := fieldOf (readWord s.mem v.record) 16 36
  let last := fieldOf (readWord s.mem (v.record + 8)) 16 36
  let n := fieldOf (readWord s.mem (v.record + 16)) 0 4
  let hit (l : Latch) : Bool := inPages first last l.page
  let fs := s.sys.frames.filter fun e => e.2.ctx == n && e.2.st == .resident && e.2.latches.any hit
  let slots := (fs.map fun e => (e.2.latches.filter hit).length).sum
  let waits := (s.fly.accs.filter fun a => ((a.2.gone && a.2.st != .retired) || (a.2.st == .atPort && a.2.released)) && fs.any fun e =>
    e.1 / 64 == a.2.clu && e.1 / 4 % 16 == a.2.reg && e.1 % 4 == a.2.bf && e.2.latches.any fun l => hit l && l.idx == a.2.idx).map Prod.fst
  let drop (e : Nat × BFrame) : Nat × BFrame := if e.2.ctx == n then (e.1, { e.2 with latches := e.2.latches.filter (!hit ·) }) else e
  let y := { s.sys with frames := s.sys.frames.map drop, relats := tabPut s.sys.relats id { v with told := true, slots := slots, waits := waits } }
  { s with sys := y }.sched (s.sys.now + 1) .relatEmerge { id := id }

/-! ### Writes to system registers (R325, R326) -/

/-- The colour tables that R38 admits, which bounds QUOTA from below alone: one of 497 to 511 is admitted (log entry 89, DESIGN CHOICE). -/
def ctabOk (es : List CEnt) : Bool :=
  let vs := es.filter CEnt.valid
  (vs.map CEnt.colour).length == (vs.map CEnt.colour).eraseDups.length && vs.all (fun e => e.reserve ≤ e.quota && 2 ≤ e.quota)
    && (vs.map CEnt.reserve).sum ≤ Config.poolEntries

/-- The colour holds no entries, hold-queue tokens or park records at the cluster. -/
def colourIdle (y : Sys) (c col : Nat) : Bool :=
  (List.range Config.nRegions).all (fun r => y.held_ c r col == 0 && (y.holdQ c r col).isEmpty) && (y.park c col).recs.isEmpty

/-- Word 0 of an entry written under R38. -/
def writeCent0 (y : Sys) (c e : Nat) (v : Word) : Sys :=
  let old := y.cent c e
  let new := { old with w0 := setField (setField v 5 1 0) 0 4 0 }
  let es := (List.range 64).map fun n => if n = e then new else y.cent c n
  let moved := old.valid && (!new.valid || new.colour != old.colour || new.reserve != old.reserve || new.quota != old.quota)
  if ctabOk es && (!moved || colourIdle y c old.colour) then y.setCent c e new else y

/-- Bits written as one are cleared (W1C). -/
def w1c (old v : Nat) (n : Nat) : Nat := (BitVec.ofNat n old &&& ~~~ BitVec.ofNat n v).toNat

/-- Word 1 of an entry written: PARKSIZE and PARKBASE, FAULTS by ones. -/
def writeCent1 (y : Sys) (c e : Nat) (v : Word) : Sys :=
  let old := y.cent c e
  let w := setField (setField 0 52 12 (fieldOf v 52 12)) 16 36 (fieldOf v 16 36)
  y.setCent c e { old with w1 := setField w 8 8 (w1c old.faults (fieldOf v 8 8) 8) }

/-- Every region of a cluster looks at its tokens and its low-water mark again. -/
def wakeRegions (y : Sys) (c : Nat) (f : Fly) : Fly :=
  (List.range Config.nRegions).foldl (fun f r =>
    let f := if (y.region c r).holds.isEmpty && (y.region c r).blocked.isEmpty then f else wakeRegion y.now c r f
    parkCheck y c r y.now f) f

/-- The entry that `%ctsel` selects is written, on a ring of the context that `%cxsel` names (R38, R77, R326). -/
def writeCtent (s : State) (v : Word) : State :=
  let (c, e, w1) := ctselOf s.sys
  if s.sys.ctxOf c ≠ fieldOf s.sys.cxsel 0 4 ∨ !mayWriteCtx (s.sys.ctx (s.sys.ctxOf c)).st 0x04A then s
  else
    let s := s.mapSys fun y => if w1 then writeCent1 y c e v else writeCent0 y c e v
    s.mapFly (wakeRegions s.sys c)

/-- CTENT_WRITE (R38, R77, R326): `word` to the entry that `%ctsel` selects, on a ring of the context that `%cxsel` names. -/
def execCtentWrite (s : State) : Host.Outcome State Fault Refusal := .next (writeCtent s s.fly.ev.word)

/-- STALLs are looked at again under a new `%stall`. -/
def rearmStalls (y : Sys) (x : Nat) (f : Fly) : Fly :=
  f.insts.foldl (fun f e => if e.2.ctx = x then f.event (y.now + 1) .stallExpiry { clu := e.1 / 1024, frm := e.1 % 1024, id := e.2.ser } else f) f

/-- Withheld accesses of a context are looked at again under a new `%ftlim`. -/
def rearmTickets (y : Sys) (x : Nat) (f : Fly) : Fly :=
  f.agenda.foldl (fun f w => match w.act with
    | .ev .checkpoint e => if (tabFind y.tickets e.id).any (·.ctx == x) then f.event (max (y.now + 1) (e.col + ftLimit y x)) .checkpoint e else f
    | _ => f) f

/-- A privileged write to `%wdog` (R84). -/
def writeWdog (s : State) (x : Nat) (v : Word) : State :=
  let s := s.mapSys fun y => (y.wsync x).modCtx x fun w => { w with wlimit := fieldOf v 33 31, wcount := fieldOf v 1 31, wrem := 0 }
  s.mapFly (armWatchdog s.sys x)

/-- Register `r` written by the thread of frame `k` of cluster `c` of context `x0`, in the privileged view where `p` (R325). -/
def writeReg (s : State) (c k x0 r : Nat) (p : Bool) (v : Word) : State :=
  let x := if p then fieldOf s.sys.cxsel 0 4 else x0
  let thr (h : Thr → Thr) : State := if (s.sys.thr c k).st = .free then s else s.mapSys fun y => y.modThr c k h
  let clu (h : Clu → Clu) : State := s.mapSys fun y => y.modClu c h
  let ctx (h : Ctx → Ctx) : State := if mayWriteCtx (s.sys.ctx x).st r then s.mapSys fun y => y.modCtx x h else s
  let kick (s : State) : State := if v.getLsbD 0 && mayWriteCtx (s.sys.ctx x).st 0x01A then kickWdog s x else s
  if r = 0x020 then thr fun t => { t with dphase := v.setWidth 5 }
  else if r = 0x021 then thr fun t => { t with sprog := v }
  else if r = 0x030 then clu fun u => { u with barsel := setField 0 0 9 (fieldOf v 0 9) }
  else if r = 0x032 then clu fun u => { u with bksel := setField 0 0 5 (fieldOf v 0 5) }
  else if r = 0x01A ∧ !p then kick s
  else if !p then s
  else match r with
    | 0x010 => thr fun t => { t with tcause := setField 0 0 17 (fieldOf v 0 17) }
    | 0x011 => thr fun t => { t with tinfo := v }
    | 0x012 => thr fun t => { t with tva := setField 0 0 52 (fieldOf v 0 52) }
    | 0x013 => thr fun t => { t with tblk := setField 0 0 52 (fieldOf v 0 52) }
    | 0x018 =>
      let s := ctx fun w => { w with stall := v.setWidth 32 }
      s.mapFly (rearmStalls s.sys x)
    | 0x019 =>
      let s := ctx fun w => { w with ftlim := v.setWidth 32 }
      s.mapFly (rearmTickets s.sys x)
    | 0x01A =>
      let s := if mayWriteCtx (s.sys.ctx x).st r then writeWdog s x v else s
      kick s
    | 0x040 => s.mapSys fun y => { y with cxsel := setField 0 0 4 (fieldOf v 0 4) }
    | 0x041 => writeCxcmd s v
    | 0x043 => ctx fun w => { w with cxvec := setField (setField 0 8 44 (fieldOf v 8 44)) 0 1 (fieldOf v 0 1) }
    | 0x044 => ctx fun w => { w with rtbase := setField 0 25 27 (fieldOf v 25 27) }
    | 0x045 => s.sched s.sys.now .pfdoneWrite { id := fieldOf v 0 32 }
    | 0x048 =>
      let s := clu fun u => { u with mscfg := setField 0 16 9 (fieldOf v 16 9) }
      s.mapFly (wakeRegions s.sys c)
    | 0x049 => s.mapSys fun y => { y with ctsel := setField 0 0 14 (fieldOf v 0 14) }
    | 0x04A => writeCtent s v
    | 0x050 => s.mapSys fun y =>
        let l := y.lnk
        { y with lnk := setField (setField (setField l 48 16 (w1c (fieldOf l 48 16) (fieldOf v 48 16) 16)) 32 16
            (w1c (fieldOf l 32 16) (fieldOf v 32 16) 16)) 0 4 (w1c (fieldOf l 0 4) (fieldOf v 0 4) 4) }
    | 0x060 => s.mapSys fun y => { y with lattol := setField 0 0 33 (fieldOf v 0 33) }
    | 0x062 =>
      let (cl, e, _) := ctselOf s.sys
      let col := (s.sys.cent cl e).colour
      ctx fun w =>
        let a := tabGet Audit.reset w.audits col
        let b : Audit := { attempts := w1c a.attempts (fieldOf v 32 32) 32, last := a.last }
        { w with audits := tabSet Audit.reset w.audits col b }
    | _ => s

/-- REGISTER_WRITE (R325): an MTS to register `id` with `word`, by the thread of frame `frm` of cluster `clu`, of context `ctx`; `p` where it is
privileged; a write of `%lattol` by the host names register 0x060. -/
def execRegisterWrite (s : State) : Host.Outcome State Fault Refusal :=
  let e := s.fly.ev
  .next (writeReg s e.clu e.frm e.ctx e.id e.p e.word)

end Sys2Proof.Machine
end

