-- ==== Sys2Proof/Machine/EvCommit.lean ====
section
/-!
DEFINITION. Device events of an instance's end (R95 to R100, R112, R113, R345, R346): a commit is decided and takes effect, an instance runs out
of time, a thread enters its trap handler.
-/
namespace Sys2Proof.Machine

/-! ### Whether a commit may be decided (R112, R113, R176, R178) -/

/-- The instance's commit is decided, or it has released its accesses and sends its messages. -/
def Inst.settled (i : Inst) : Bool := i.sending

/-- The accesses of an instance. -/
def accsOf (f : Fly) (ser : Nat) : List (Nat × Access) := f.accs.filter fun e => e.2.ser == ser

/-- The released accesses of an instance that are not acknowledged. -/
def unacked (f : Fly) (ser : Nat) : List Nat :=
  ((accsOf f ser).filter fun e => e.2.released && e.2.st != .retired).map Prod.fst

/-- How often each of the numbers that `p` takes from the effects occurs. -/
def Inst.counts (i : Inst) (p : Eff → Option Nat) : List (Nat × Nat) :=
  let ns := i.effs.filterMap fun e => p e.e
  ns.eraseDups.map fun n => (n, (ns.filter (· == n)).length)

def Inst.emitsTo (i : Inst) : List (Nat × Nat) := i.counts fun e => match e with
  | .emit p _ => some p
  | _ => none

def Inst.launchesTo (i : Inst) : List (Nat × Nat) := i.counts fun e => match e with
  | .launch q _ => some q
  | _ => none

/-- The FIFO entries that the instance's FPUSHes append. -/
def Inst.pushes (i : Inst) : List Nat := i.effs.filterMap fun e => match e.e with
  | .fpush _ v => some v.id
  | _ => none

def Inst.pushesTo (i : Inst) : List (Nat × Nat) := i.counts fun e => match e with
  | .fpush b _ => some b
  | _ => none

/-- Room of a port, less what is claimed (R113). -/
def Port.room (p : Port) : Nat := p.size - (p.tail - p.head).toNat - p.claimed

/-- Every port that the EMITs name has room for all their records (R113). -/
def portsOk (y : Sys) (i : Inst) : Bool :=
  i.emitsTo.all fun n => match (y.ctx i.ctx).port n.1 with
    | some p => n.2 ≤ p.room
    | none => true

/-- An instance ahead of this one in this cycle waits for queue `q` of context `x` (R112): it looks again in the next cycle. -/
def queueAhead (s : State) (r : Nat × Nat × Nat) (x q : Nat) : Bool :=
  s.fly.agenda.any fun w => w.due == s.sys.now + 1 && match w.act with
    | .ev .commit e => e.part == 0 && w.act.rank.2.1 < r.2.1 && (match s.fly.inst e.clu e.frm with
        | some i => i.ctx == x && i.launchesTo.any fun n => n.1 == q
        | none => false)
    | _ => false

/-- Every queue that the LAUNCHes name has a slot for each (R112). -/
def queuesOk (s : State) (e : Ev) (i : Inst) : Bool :=
  i.launchesTo.all fun n => match s.sys.queue i.ctx n.1 with
    | some v => n.2 ≤ v.free && !queueAhead s (Act.ev .commit e).rank i.ctx n.1
    | none => true

/-- The FIFO banks have room for what the FPUSHes append (R176), after those of the commits decided in this cycle. -/
def fifosOk (s : State) (c : Nat) (i : Inst) : Bool :=
  i.pushesTo.all fun n =>
    let held := (fifoLeft s.fly c n.1 (s.sys.bank c n.1)).length
    let coming := ((s.fly.commits.filter fun e => e.1 / 1024 == c).map fun e =>
      ((e.2.pushesTo.filter fun m => m.1 == n.1).map Prod.snd).sum).sum
    held + coming + n.2 ≤ 512

/-- The transfer slots that an instance's COPY and COPYT commands take. -/
def copySlots (f : Fly) (ser : Nat) : List Nat :=
  ((accsOf f ser).filter fun e => (e.2.op == .copy || e.2.op == .copyt) && !e.2.committed).map fun e => e.2.x

/-- Every transfer slot is FREE, and taken by no commit that is decided (R178). -/
def slotsOk (s : State) (c : Nat) (i : Inst) : Bool :=
  let ks := copySlots s.fly i.ser
  let taken := (s.fly.pending.filter fun e => e.1 / 1024 == c && e.2.ser != i.ser
    && (e.2.settled || s.fly.commits.any fun d => d.2.ser == e.2.ser)).flatMap fun e => copySlots s.fly e.2.ser
  ks.eraseDups.length == ks.length && ks.all fun k => (s.sys.xfer c k).st == .free && !taken.contains k

/-- The released accesses of the instance are translated and not withheld: SNEW and SFREE (R293), and those that answered their LSIDs and are translated
again for a shoot-down (R160, R165). -/
def portsDone (f : Fly) (ser : Nat) : Bool :=
  (accsOf f ser).all fun e => !e.2.released || e.2.committed || e.2.st == .atPort

def roomOk (s : State) (e : Ev) (i : Inst) : Bool :=
  portsOk s.sys i && queuesOk s e i && fifosOk s e.clu i && slotsOk s e.clu i && portsDone s.fly i.ser

/-! ### Release (R96, R178, R286) -/

/-- A COPY or COPYT command is QUEUED (R178, R179): its record, the slot's next generation, and PCUR. -/
def queueXfer (y : Sys) (id : Nat) (a : Access) : Sys :=
  let v := { a.command with st := .queued, gen := (y.xfer a.clu a.x).gen + 1, acc := id, seq := a.order }
  y.setXfer a.clu a.x { v with pcur := promise y (aheadBytes y a.clu v.seq + (if v.copyt then 2 else 1) * v.total) }

/-- A bank that a transfer may not use (R172). -/
def commandBank (b : Bank) : Option Nat := if b.mode = .pending then some 0x60 else if b.mode ≠ .scratch then some 0x61 else none

/-- A command that names a bank which is SCRATCH no longer is acknowledged unperformed, and the trap taken at the next block entry (R171, R172; log
entry 86, DEDUCED). -/
def loseCommand (s : State) (id : Nat) (a : Access) (code : Nat) : State :=
  let s := s.mapFly fun f => (f.setAcc id { a with st := .issued }).event s.sys.now .accessRetire { clu := a.clu, reg := a.reg, id := id }
  if (s.sys.thr a.clu a.frm).serial = a.owner then deferTrap s a.clu a.frm (some a.ser) (misuse 1 code a.index) else s

/-- An access is committed and takes its place in the order of its thread; an engine command's slot is taken. -/
def commitAcc (s : State) (id : Nat) : State :=
  match s.fly.acc id with
  | none => s
  | some a =>
    let (n, f) := s.fly.fresh
    let a := { a with committed := true, order := n }
    let s := { s with fly := f.setAcc id a }
    match a.op with
    | .copy | .copyt =>
      match a.command.scrBanks.findSome? fun b => commandBank (s.sys.bank a.clu b) with
      | some code => loseCommand s id a code
      | none => s.mapSys fun y => queueXfer y id a
    | .tstage => s.mapSys fun y => y.modTile a.clu (a.x / 16) (a.x % 16) fun t =>
        { t with st := .filling, ctx := a.ctx, colour := a.colour, elem := fieldOf a.b 16 3, tag := a.b.setWidth 16, acc := id, doomed := false }
    | .spin => if a.n = 0 then s.mapFly (·.delAcc id) else s
    | _ => s

/-- The accesses of an instance that satisfy `p` are released, in program order (R96, R100). -/
def release (s : State) (c k ser : Nat) (p : Access → Bool) : State :=
  let mine := (threadAccs s.fly c k).filter fun e => e.2.ser == ser && !e.2.committed && p e.2
  let rest := (accsOf s.fly ser).filter fun e => e.2.lsid.isNone && !e.2.committed && p e.2
  advance ((mine ++ rest).foldl (fun s e => commitAcc s e.1) s) c k

/-! ### The decision (c+1) -/

/-- The decision claims room at ports and slots of queues (R112, R113). -/
def claim (y : Sys) (i : Inst) : Sys :=
  let y := i.emitsTo.foldl (fun y n => y.modCtx i.ctx fun v =>
    match v.port n.1 with
    | some p => { v with ports := tabPut v.ports n.1 { p with claimed := p.claimed + n.2 } }
    | none => v) y
  i.launchesTo.foldl (fun y n => match y.queue i.ctx n.1 with
    | some v => y.setQueue i.ctx n.1 { v with resv := v.resv + n.2 }
    | none => y) y

/-- An instance whose obligations are met is offered its commit (R96); one with messages releases its stores and sends them first (R296). -/
def decide_ (s : State) (e : Ev) (i : Inst) : State :=
  let c := e.clu
  let k := e.frm
  if !roomOk s e i then s.sched (s.sys.now + 1) .commit e
  else if i.sends < i.msends.length then
    if i.sending then s
    else (s.mapFly fun f => f.setInst c k { i with sending := true }).sched (s.sys.now + 1) .commit { e with part := 8 }
  else
    let f := s.fly.delInst c k
    { s with sys := claim s.sys i, fly := { f with commits := tabPut f.commits (tkey c k) i } }.sched s.sys.now .commit { e with part := 2 }

/-- The released stores of an instance that are not acknowledged, which its messages follow (R296); SNEW and SFREE follow the messages (R293). -/
def unackedStores (f : Fly) (ser : Nat) : List Nat :=
  ((accsOf f ser).filter fun e => e.2.released && e.2.st != .retired && e.2.op != .snew && e.2.op != .sfree).map Prod.fst

/-- The stores of a sending instance are released, and its first message follows their acknowledgement (R296). -/
def sendFirst (s : State) (e : Ev) : State :=
  match s.fly.inst e.clu e.frm with
  | some i =>
    if i.ser = e.id then
      let s := release s e.clu e.frm i.ser fun a => a.released && a.op != .snew && a.op != .sfree
      nextMessage s e.clu e.frm (unackedStores s.fly i.ser)
    else s
  | none => s

/-! ### Exit records (R113, R237) -/

/-- Records by ascending index, then instruction index (R237). -/
def insertRec (e : EffAt) : List EffAt → List EffAt
  | [] => [e]
  | b :: t => if e.index < b.index || (e.index == b.index && e.idx < b.idx) then e :: b :: t else b :: insertRec e t

/-- The 64 bytes of an exit record (R113, R237). -/
def exitRecord (now : Nat) (tail : BitVec 32) (t : Token) : List Byte :=
  leBytes 8 (tail.toNat * 2 ^ 32 + t.colour * 2 ^ 20 + t.frame * 2 ^ 10 + t.index)
    ++ leBytes 8 (t.fmt.code.toNat * 2 ^ 61 + now % 2 ^ 48) ++ leBytes 48 (t.data.toNat % 2 ^ ((t.len + 1) * t.fmt.width))

/-- The records that a port has to write are written at TAIL, in order, and TAIL advances with each (R113): all of them, or up to one whose line is
not to be had yet. A record whose page does not translate, or behind a link that is DOWN, is lost (log entry 79, DESIGN CHOICE). -/
def flushExits : Nat → State → Nat → Nat → State
  | 0, s, _, _ => s
  | n + 1, s, x, p =>
    match (s.sys.ctx x).port p with
    | none => s
    | some v =>
      match v.late with
      | [] => s
      | r :: rest =>
        let gone (s : State) : State := flushExits n (s.mapSys fun y => y.modCtx x fun w =>
          { w with ports := tabPut w.ports p { v with tail := v.tail + 1, claimed := v.claimed - 1, late := rest } }) x p
        match writeVirt s x v.colour v.ident ((v.base + v.tail.toNat % v.size * 64) % vaMod) (exitRecord r.at_ v.tail r.tok) with
        | .ok s => gone s
        | .error (_, .wait, s) => s.sched (s.sys.now + 1) .commit { ctx := x, id := p, part := 9 }
        | .error (_, .uncorrectable, s) => gone (memFault s x r.clu r.frm r.owner)
        | .error (_, _, s) => gone s

/-- An exit record of the commit of cycle `now` goes to its port (R113). -/
def writeExit (s : State) (c k now : Nat) (i : Inst) (p : Nat) (t : Token) : State :=
  match (s.sys.ctx i.ctx).port p with
  | none => s
  | some v =>
    let r : LateExit := { clu := c, frm := k, owner := (s.sys.thr c k).serial, at_ := now, tok := t }
    let s := s.mapSys fun y => y.modCtx i.ctx fun x => { x with ports := tabPut x.ports p { v with late := v.late ++ [r] } }
    if v.late.isEmpty then flushExits 1 s i.ctx p else s

/-! ### The thread's next event -/

/-- The block address that an exit names; none where it retires (R233 to R235). -/
def Exit.target : Exit → Option Nat
  | .goto a | .call a _ | .ret a => if a = 0 then none else some a
  | .retire => none

/-- The change of TOTAL of a JOIN (instruction `idx`) or LEAVE is released after the stores of its instance (R118): once they are
acknowledged (log entry 92, DEDUCED). -/
def postGroup (s : State) (c k : Nat) (i : Inst) (owner idx g : Nat) (join : Bool) : State :=
  addPost s (s.sys.now + 1) { ctx := i.ctx, ident := i.ident, clu := c, frm := k, colour := i.colour, ser := i.ser, owner := owner,
                              waits := unacked s.fly i.ser, ready := false, act := .group g idx join }

/-- A membership of a group begins or ends with the effects of an instance (R118, R126): `h` is the change at the cluster. -/
def groupChange (s : State) (c k : Nat) (i : Inst) (owner idx g : Nat) (join : Bool) (h : Sys → Sys) : State :=
  let s := s.mapSys h
  postGroup (s.mapFly (wakeBars s.sys c (if join then 3 else 1) [g])) c k i owner idx g join

/-- An effect that joins or leaves a group; a LEAVE of a membership that a refused JOIN has ended changes nothing (R118). -/
def groupEff (s : State) (c k : Nat) (i : Inst) (n : EffAt) : State :=
  let t := s.sys.thr c k
  match n.e with
  | .join g => groupChange s c k i t.serial n.idx g true fun y => y.joinLocal c k g
  | .leave g => if gmemHas t.gmem g then groupChange s c k i t.serial n.idx g false fun y => y.leaveLocal c k g else s
  | _ => s

/-- The memberships of a thread that instance `i` retires, its own JOIN included: they end with the effects of the commit (R118, R119). -/
def Sys.quit (y : Sys) (c k : Nat) (i : Inst) : Sys :=
  let t := y.thr c k
  let own := i.effs.filterMap fun n => match n.e with
    | .join g => some { frm := k, group := g, serial := t.serial, joins := some n.idx : Leaving }
    | _ => none
  let old := (gmemGroups t.gmem).map fun g => { frm := k, group := g, serial := t.serial, joins := none : Leaving }
  (y.modClu c fun v => { v with leaving := v.leaving ++ old ++ own }).setThr c k { t with gmem := 0 }

/-- The thread that instance `i` has retired leaves its groups (R118, R119). -/
def quitGroups (s : State) (c k : Nat) (i : Inst) : State :=
  let mine := (s.sys.clu c).leaving.filter fun e => e.frm == k
  let s := s.mapSys fun y => y.modClu c fun v => { v with leaving := v.leaving.filter fun e => e.frm != k }
  mine.foldl (fun s e => match e.joins with
    | some n => postGroup (postGroup s c k i e.serial n e.group true) c k i e.serial n e.group false
    | none => groupChange s c k i e.serial 0 e.group false fun y => y.leaveLocal c k e.group) s

/-- A thread whose instance retires it (R94): its groups are left with the effects of the commit; a staging thread is held until its pass ends
(R142), a task's retirement waits for the acknowledgement of its stores (R141). -/
def retireAtCommit (s : State) (c k : Nat) (i : Inst) : State :=
  let s := s.mapSys fun y => y.quit c k i
  let t := s.sys.thr c k
  let staged := i.effs.any fun n => match n.e with
    | .tgo .. => true
    | _ => false
  if staged then s.mapSys fun y => y.setThr c k { t with held := true, st := .waiting } else endThread s c k

/-- The block that a TRET enters (R328): `%tblk` as the commit leaves it. -/
def Inst.tretTarget (i : Inst) (t : Thr) : Nat :=
  let w := (sortEffs i.effs).foldl (fun w n => match n.e with
    | .mts 0x013 v => if i.ctx = 0 then v else w
    | _ => w) t.tblk
  fieldOf w 0 52

/-- TRET has fired in the instance (R328). -/
def Inst.trets (i : Inst) : Bool := i.effs.any fun n => n.e == .tret

/-- Where a committed instance sends its thread (R233 to R235, R328); none where it retires it. -/
def Inst.target (i : Inst) (t : Thr) : Option Nat :=
  (i.exit.bind Exit.target).filter fun _ => !(i.trets && i.tretTarget t == 0)

/-- What the exit and a TRAP, TRET or BARAW of the instance make of a thread that goes on (R126, R327, R328). -/
def Thr.after (t : Thr) (i : Inst) (target : Nat) : Thr :=
  let t := { t with next := target }
  let t := i.effs.foldl (fun t n => match n.e with
    | .trap info => { t with pend := some ({ cause := 16, contained := false, index := n.index, info := info, va := 0 }, target) }
    | .arrive b true => { t with baraw := some (b, none) }
    | _ => t) t
  t

/-- A read of piece entries that the instance leaves unanswered: dropped, or, once it is on its way, its response discarded. -/
def dropRead (ser : Nat) (e : Nat × Access) : Option (Nat × Access) :=
  if e.2.ser != ser || e.2.lsid.isSome || e.2.released then some e
  else if e.2.st = .issued then some (e.1, { e.2 with dead := true })
  else none

/-- The advance of `%dphase` (R60): BFQs of the block times the blocks of 32 indices; none where the instance writes it with MTS. -/
def dphaseStep (b : BFrame) (i : Inst) : Nat :=
  let own := i.effs.any fun n => match n.e with
    | .mts 0x020 _ => true
    | _ => false
  if own then 0 else ((List.range b.icount).filter fun n => fieldOf (b.word n) 56 8 == 0x55).length * ((i.n + 31) / 32)

/-- The exit records of an instance are written as its stores are released, in c+2, where it has any, or where a commit decided before it still has a
record for one of its ports; else in c+1 (R113, R237, R379). -/
def exitsLater (f : Fly) (i : Inst) : Bool :=
  (accsOf f i.ser).any (fun e => e.2.released && !e.2.committed)
    || f.commits.any fun d => d.2.ser != i.ser && d.2.ctx == i.ctx && d.2.emitsTo.any fun p => i.emitsTo.any fun q => q.1 == p.1

/-- The exit records of the commit of cycle `now` are written (R113, R237). -/
def writeExits (s : State) (c k now : Nat) (i : Inst) : State :=
  (i.effs.foldl (fun l n => insertRec n l) []).foldl (fun s n => match n.e with
    | .emit p t => writeExit s c k now i p t
    | _ => s) s

/-- An FPUSH appends its entry (R176); in a bank that is FIFO no longer, or another colour's, nothing changes, and the trap is taken at the next block
entry (R171, R172; log entry 86, DEDUCED). -/
def pushFifo (s : State) (c k : Nat) (i : Inst) (idx b : Nat) (v : FEnt) : State :=
  let u := s.sys.bank c b
  if u.mode = .fifo ∧ !u.foreign i.colour then s.mapSys fun y => y.setBank c b { u with fifo := u.fifo ++ [v] }
  else if u.foreign i.colour then deferContained s c k (some i.ser) (ownerRec idx)
  else deferTrap s c k (some i.ser) (misuse 1 0x61 0)

/-- At c+1 the instance is no longer live (R96): what still waits for it is dropped, received messages and FIFO entries move (R176, R297), its exit records
are written (R113), SPAWN's frames are kept (R236), and the thread's next event is fixed. -/
def leaveInst (s : State) (e : Ev) (i : Inst) : State :=
  let c := e.clu
  let k := e.frm
  let y := (s.sys.dropTokens c fun t => t.ent == some i.ser).setPartials c i.reg k []
  let y := i.effs.foldl (fun y n => match n.e with
    | .mrecv m => y.modThr c k fun t => { t with mbox := t.mbox.filter fun x => x.id != m.id }
    | .fpop b v => y.modBank c b fun u => { u with fifo := u.fifo.filter fun x => x.id != v.id }
    | .spawn n .. => y.setThr c n { Thr.reset with st := .reserved, ctx := i.ctx, ident := i.ident, colour := i.colour }
    | _ => y) y
  let f := { s.fly with agenda := s.fly.agenda.filter (!Work.ofSer i.ser ·), sleeps := s.fly.sleeps.filter fun v => v.2.f.ser != i.ser,
                        accs := s.fly.accs.filterMap (dropRead i.ser) }
  let later := exitsLater s.fly i
  let moved (n : EffAt) : Bool := match n.e with
    | .mrecv _ | .fpop _ _ | .fpush _ _ => true
    | .emit .. => !later
    | _ => false
  let step := dphaseStep (s.sys.frame c i.reg i.frm) i
  let f := { f with commits := tabPut f.commits (tkey c k) { i with effs := i.effs.filter (!moved ·), dstep := step, pushed := i.pushes } }
  let s := { s with sys := y, fly := wakeCluster s.sys y c f }
  let s := (sortEffs i.effs).foldl (fun s n => match n.e with
    | .fpush b v => pushFifo s c k i n.idx b v
    | _ => s) s
  let s := if later then s else writeExits s c k s.sys.now i
  let t := s.sys.thr c k
  let owner := BitVec.ofNat 64 t.serial
  let e3 : Ev := { clu := c, frm := k, id := i.ser, part := 3, q := (i.target t).isNone, word := owner }
  match i.target t with
  | none => (retireAtCommit s c k i).sched (s.sys.now + 1) .commit e3
  | some a =>
    let s := s.mapSys fun y => y.modThr c k fun t => t.after i a
    (s.sched (s.sys.now + 1) .commit e3).sched (s.sys.now + 2) .commit { clu := c, frm := k, id := i.ser, part := 1, p := i.trets, word := owner }

/-! ### Effects (c+2) -/

/-- A lane of the accumulator file after an operation (R66, R280, R282, R283). -/
def LaneOp.apply (o : LaneOp) (v : Word) : Word :=
  match o with
  | .put w => w
  | .add c =>
    let t := readS 56 v + c
    let m : Int := 2 ^ 55 - 1
    let past := m < t || t < -m
    let w := (BitVec.ofInt 56 (max (-m) (min m t))).setWidth 64
    if past || v.getLsbD 56 then w ||| 0x100000000000000 else w
  | .fadd w mode =>
    let r : Rnd := if mode = 0 then .rn else if mode = 1 then .rz else if mode = 2 then .rp else .rm
    BitVec.ofNat 64 (fp64.encode r ((fp64.decode v.toNat).add r (fp64.decode w.toNat)))

/-- Registers of the thread itself (R325): a thread that has retired has none. -/
def threadReg (r : Nat) : Bool := r == 0x020 || r == 0x021 || (0x010 ≤ r && r ≤ 0x013)

/-- A BARI takes effect after the arrivals of its cycle (R126, R128): on barrier `id`, with count or group `reg`, for colour `col`; it is instruction
`dest.idx` of instance `ent`. -/
def bariEvent (s : State) (c k : Nat) (i : Inst) (dead : Bool) (idx part b n : Nat) : State :=
  s.sched s.sys.now .commit
    { ctx := i.ctx, clu := c, frm := k, id := b, reg := n, col := i.colour, part := part, q := dead, ent := some i.ser,
      dest := { clu := c, reg := i.reg, frm := i.frm, idx := idx, pos := .left }, word := BitVec.ofNat 64 (s.sys.thr c k).serial }

/-- The write of an MTS (R325): to `%ctent` and `%pfdone`, and a kick of unprivileged code, as the table's own events, each in its place among the
instance's writes. -/
def mtsEvent (s : State) (c k x r : Nat) (v : Word) : State :=
  let now := s.sys.now
  if x = 0 ∧ r = 0x04A then s.sched now .ctentWrite { word := v }
  else if x = 0 ∧ r = 0x045 then s.sched now .pfdoneWrite { id := fieldOf v 0 32 }
  else if x ≠ 0 ∧ r = 0x01A then (if v.getLsbD 0 then s.sched now .wdogKick { ctx := x } else s)
  else s.sched now .registerWrite { ctx := x, clu := c, frm := k, id := r, p := x == 0, word := v }

/-- One effect of a commit, in cycle c+2; `quit` where the instance retires its thread, `dead` where the thread is in its frame no more. -/
def applyEff (s : State) (c k : Nat) (i : Inst) (quit dead : Bool) (n : EffAt) : State :=
  let now := s.sys.now
  let post (act : PostAct) : Post :=
    { ctx := i.ctx, ident := i.ident, clu := c, frm := k, colour := i.colour, ser := i.ser, owner := (s.sys.thr c k).serial,
      waits := unacked s.fly i.ser, ready := false, act := act }
  match n.e with
  | .mts r v => if dead && threadReg r then s else mtsEvent s c k i.ctx r v
  | .lane l o => s.mapSys fun y => y.modLane c l fun v => { v with val := o.apply v.val }
  | .zfree l m => s.mapSys fun y => (List.range m).foldl (fun y j => y.setLane c (l + j) Lane.reset) y
  | .bariCnt b m => bariEvent s c k i dead n.idx 5 b m
  | .bariGrp b g => bariEvent s c k i dead n.idx 6 b g
  | .bariFree b => bariEvent s c k i dead n.idx 7 b 0
  | .arrive b wait =>
    let s := s.mapSys fun y => y.modBar c b fun v => { v with owed := v.owed + 1 }
    addPost s now { post (.arrive b n.idx wait) with owner := if dead then 0 else (s.sys.thr c k).serial }
  | .join _ | .leave _ => if quit then s else groupEff s c k i n  -- a retired thread's: `quitGroups`
  | .bankm b m ro shared base pages =>
    let old := s.sys.bank c b
    -- a writable binding is released when the bank has written its lines back (R171)
    let held := if old.mode = .cache ∧ !old.rdonly then
      some { colour := old.colour, shared := old.shared, base := old.cbase, pages := old.cpages : Binding } else old.old
    let s := s.mapSys fun y => y.setBank c b
      { old with mode := .pending, next := m, colour := i.colour, bound := true, rdonly := ro, shared := shared, cbase := base, cpages := pages,
                 old := held }
    if old.mode = .pending then s else s.sched now .bankPendingComplete { clu := c, id := b }
  | .tmatch e w0 param => s.mapSys fun y => if (y.ment c e).busy || tripleTaken y c e (entryTriple w0) then y
      else y.setMent c e (loadEntry w0 param)
  | .tmclr first last => s.mapSys fun y => (List.range (last + 1 - first)).foldl (fun y j =>
      if (y.ment c (first + j)).busy then y else y.setMent c (first + j) MEnt.reset) y
  | .tpass b8 lap tasks => s.mapSys fun y => y.modClu c fun u => { u with beat8 := b8, laplim := lap, tasks := tasks }
  | .tgo q b scope => startPass s c k q b scope
  | .trecall => recallPass s c k i.ser i.ctx i.colour n.idx
  | .mpollClr => if dead then s else s.mapSys fun y => y.modThr c k fun t => { t with drops := 0 }
  | .launch q ws => addPost s now (post (.launch q ws))
  | .spawn f a g1 ix => addPost s now (post (.spawn f a g1 (BitVec.ofNat 64 k) (BitVec.ofNat 64 ix)))
  | .qsusp x q => suspendQueue s x q
  | .qresQ x q => resumeQueue s x q
  | .qresCol x col => resumeColour s x col
  | .qresCtx x => resumeCtx s x
  | .drainCol x col => beginDrain s x (some col)
  | .drainCtx x => beginDrain s x none
  | .cfgld va rt => startLoad s c k (if dead then 0 else (s.sys.thr c k).serial) i.ser i.ctx i.colour va rt
  | .relat va => startRelat s c k (if dead then 0 else (s.sys.thr c k).serial) i.ser i.ctx i.colour va
  | .monArm u w =>
    let s := s.mapSys fun y => y.setMon u
      { Mon.reset with armed := true, owner := i.colour, colour := fieldOf w 52 12, ctx := i.ctx, all := w.getLsbD 51, event := fieldOf w 0 8 }
    -- matching-store occupancy is sampled every 1,024 cycles (R367)
    if fieldOf w 0 8 = 1 ∧ !s.fly.due fun i e => i == .monitorSample && e.part == 1 && e.id == u then
      s.sched ((now / 1024 + 1) * 1024) .monitorSample { id := u, part := 1 }
    else s
  | .monClear u => s.mapSys fun y => y.modMon u fun m => { m with min := Mon.reset.min, max := 0, count := 0, bins := [] }
  | .monStop u => s.mapSys fun y => y.modMon u fun m => { m with armed := false }
  | .trap _ | .tret | .msend .. | .mrecv _ | .fpush .. | .fpop .. | .emit .. => s

/-- A transfer token of the instance as it is at commit (R178, R179): the slot's generation and PCUR. Any other word is itself. -/
def commitValue (y : Sys) (c : Nat) (i : Inst) (v : Word) : Word :=
  match i.copies.find? fun e => e.2 == v with
  | some (id, _) =>
    let x := y.xfer c (tokSlot v)
    if x.acc = id then setField (setField v 53 11 x.gen.toNat) 0 48 x.pcur.toNat else v
  | none => v

/-- Data of 64-bit elements, each of them changed; other data as they are. -/
def mapData (h : Word → Word) (fmt : Fmt) (n : Nat) (d : Data) : Data :=
  if fmt.width = 64 then BitVec.ofNat 1024 (packElems 64 ((List.range n).map fun k => h (d.extractLsb' (64 * k) 64))) else d

/-- An effect that carries words of the instance, each changed. -/
def Eff.mapWords (h : Word → Word) : Eff → Eff
  | .mts r v => .mts r (h v)
  | .emit p t => .emit p { t with data := mapData h t.fmt (t.len + 1) t.data }
  | .msend c k m => .msend c k { m with data := mapData h m.fmt (m.len + 1) m.data }
  | .tmatch e w0 param => .tmatch e w0 (h param)
  | .launch q ws => .launch q (ws.map h)
  | .spawn f a g1 ix => .spawn f a (h g1) ix
  | e => e

/-- The bytes of a store of 64-bit elements, each element changed. -/
def mapStore (h : Word → Word) : List WByte → List WByte
  | a :: b :: c :: d :: e :: f :: g :: k :: t =>
    let l := [a, b, c, d, e, f, g, k]
    (l.zip (leBytes 8 (h (BitVec.ofNat 64 (leNat (l.map WByte.val)))).toNat)).map (fun p => { p.1 with val := p.2 }) ++ mapStore h t
  | l => l

/-- What the instance has made of its transfer tokens carries them as they are at commit (R179; log entry 7). -/
def Inst.settleTokens (i : Inst) (h : Word → Word) : Inst :=
  if i.copies.isEmpty then i
  else { i with writes := i.writes.map fun w => (w.1, w.2.map h), effs := i.effs.map fun n => { n with e := n.e.mapWords h } }

/-- The entries that the instance has pushed carry them too. -/
def settlePushes (y : Sys) (c : Nat) (i : Inst) (h : Word → Word) : Sys :=
  if i.copies.isEmpty then y
  else (List.range 16).foldl (fun y b => if (y.bank c b).mode = .fifo then
    y.modBank c b fun u => { u with fifo := u.fifo.map fun v => if i.pushed.contains v.id then { v with data := mapData h v.fmt (v.len + 1) v.data } else v }
    else y) y

def settleStores (f : Fly) (i : Inst) (h : Word → Word) : Fly :=
  if i.copies.isEmpty then f
  else { f with accs := f.accs.map fun e =>
    if e.2.ser == i.ser && e.2.fmt.width == 64 then (e.1, { e.2 with wr := mapStore h e.2.wr }) else e }

/-- Carried registers, return stack and dither phase of a thread (R95, R96, R234, R60); of a thread that the instance retires and that keeps its frame,
the carried-register writes alone are discarded (R94, R387). -/
def commitRegs (s : State) (c k : Nat) (i : Inst) (quit : Bool) : State :=
  let s := (if quit then [] else i.writes).foldl (fun s w => match w.2 with
    | some v => s.setReg c k w.1 v
    | none => s) s
  s.mapSys fun y => y.modThr c k fun t =>
    { t with dphase := t.dphase + BitVec.ofNat 5 i.dstep, stack := match i.exit with
        | some (.call _ r) => r % 2 ^ 52 :: t.stack
        | some (.ret _) => t.stack.tail
        | _ => t.stack }

/-- Accumulators and lanes (R272, R273, R280): open copies become committed state, reserved lanes ALLOCATED with 0. -/
def commitWide (y : Sys) (c : Nat) (i : Inst) : Sys :=
  let y := i.opens.foldl (fun y e => y.setPacc c e.1 e.2) y
  i.lanes.foldl (fun y l => y.setLane c l { alloc := true, colour := i.colour, val := 0 }) y

/-- SNEW and SFREE perform after the acknowledgement of the instance's stores (R293). -/
def performPosts (s : State) (c k : Nat) (i : Inst) : State :=
  let own := (accsOf s.fly i.ser).filter fun e => e.2.op == .snew || e.2.op == .sfree
  let ids := own.map Prod.fst
  let waits := (unacked s.fly i.ser).filter fun n => !ids.contains n
  own.foldl (fun s e => addPost s s.sys.now
    { ctx := i.ctx, ident := i.ident, clu := c, frm := k, colour := i.colour, ser := i.ser, owner := (s.sys.thr c k).serial, waits := waits,
      ready := false, act := .perform e.1 }) s

/-- The messages of an instance whose commit is complete may be received (R296). -/
def openMessages (y : Sys) (i : Inst) : Sys :=
  i.effs.foldl (fun y n => match n.e with
    | .msend dc dk m => if (y.thr dc dk).st == .free then y else y.modThr dc dk fun t =>
        { t with mbox := t.mbox.map fun x => if x.id = m.id then { m with opened := true } else x }
    | _ => y) y

/-- At c+2 the effects of the instance are visible (R96): its accesses are released, and then its exit records written (R113); registers,
accumulators and lanes; the rest by instruction index, then INDEX; and its messages may be received, after its lane writes (R275). -/
def takeEffect (s : State) (e : Ev) (i : Inst) : State :=
  let c := e.clu
  let k := e.frm
  let s := release s c k i.ser fun _ => true
  let h := commitValue s.sys c i
  let s := (s.mapFly fun f => settleStores f i h).mapSys fun y => settlePushes y c i h
  let i := i.settleTokens h
  let s := writeExits s c k (s.sys.now - 1) i
  let dead := (s.sys.thr c k).serial != e.word.toNat
  let s := if e.q then quitGroups s c k i else s
  let s := if dead then s else commitRegs s c k i e.q
  let s := s.mapSys fun y => commitWide y c i
  let s := (sortEffs i.effs).foldl (fun s n => applyEff s c k i e.q dead n) s
  let s := performPosts (s.mapSys (openMessages · i)) c k i
  s.mapFly fun f => { f with commits := tabDel f.commits (tkey c k) }

/-- At c+3 the thread goes on (R96): to its next block, to the block at `%tblk` after a TRET (R328), or into its wait in BARAW. -/
def enterNextBlock (s : State) (e : Ev) : State :=
  let c := e.clu
  let k := e.frm
  let mine := (s.sys.thr c k).serial == e.word.toNat
  let s := if e.p && mine then s.mapSys fun y => y.modThr c k fun t => { t with next := fieldOf t.tblk 0 52, handler := false } else s
  let t := s.sys.thr c k
  if !mine ∨ t.st ≠ .active ∨ (s.fly.inst c k).isSome ∨ t.held then s
  else match t.baraw with
    | some (b, q) =>
      if barDone (s.sys.bar c b) t.colour q then proceed (s.mapSys fun y => y.setThr c k { t with baraw := none }) c k
      else s.mapSys fun y => y.setThr c k { t with st := .waiting }
    | none => proceed s c k

/-- A BARI's effect (R126, R127): checked again; a check that fails now leaves the barrier and traps at the next block entry. A
BARI.free that meets an arrival of this cycle fails, its phase completed or not (R128). -/
def bariEffect (s : State) (e : Ev) : State :=
  let c := e.clu
  let v := s.sys.bar c e.id
  let eff : Eff := if e.part = 5 then .bariCnt e.id e.reg else if e.part = 6 then .bariGrp e.id e.reg else .bariFree e.id
  let met := e.part == 7 && v.mode != .free && !v.foreign e.col && v.hit == s.sys.now + 1
  match if met then some 0x21 else bariCheck s c e.ctx e.col eff with
  | some code =>
    if e.q || (s.sys.thr c e.frm).serial != e.word.toNat then s
    else if code = 0 then deferContained s c e.frm e.ent (ownerRec e.dest.idx) else deferTrap s c e.frm e.ent (misuse 13 code 0)
  | none =>
    if e.part = 5 then s.mapSys fun y => y.setBar c e.id { v with mode := .count, colour := e.col, expect := e.reg, arrived := 0 }
    else if e.part = 6 then s.mapSys fun y => y.setBar c e.id (beginGroup y c { v with mode := .group, colour := e.col, group := e.reg })
    else if v.mode = .free then s
    else s.mapSys fun y => y.setBar c e.id { Bar.reset with seq := v.seq }

/-- COMMIT (R95 to R100): part 0, the commit of instance `id` of thread `frm` of cluster `clu`, ready since cycle `col`, is decided once it has the
room it needs; part 2, the instance is no longer live; part 3, its effects take place (`q`: it retires its thread); part 1, the thread enters
its next block (`p`: after a TRET); parts 5 to 7, a BARI of the instance takes effect; part 8, an instance with messages releases its
stores; part 9, exit port `id` of context `ctx` writes the records that waited for their lines. -/
def execCommit (s : State) : Host.Outcome State Fault Refusal :=
  let e := s.fly.ev
  if e.part = 0 then
    match s.fly.inst e.clu e.frm with
    | some i => .next (if i.ser = e.id ∧ i.committing then decide_ s e i else s)
    | none => .next s
  else if e.part = 2 ∨ e.part = 3 then
    match tabFind s.fly.commits (tkey e.clu e.frm) with
    | some i => .next (if i.ser ≠ e.id then s else if e.part = 2 then leaveInst s e i else takeEffect s e i)
    | none => .next s
  else if e.part = 1 then .next (enterNextBlock s e)
  else if e.part = 8 then .next (sendFirst s e)
  else if e.part = 9 then .next (flushExits 4096 s e.ctx e.id)
  else .next (bariEffect s e)

/-! ### STALL and the handler -/

/-- When the `%stall` cycles of an instance end (R98, R180): cycles asleep in WAITT are not counted. -/
def stallDue (s : State) (i : Inst) : Nat :=
  let now := match s.fly.sleeps.find? fun e => e.2.f.ser == i.ser with
    | some e => s.sys.now - e.2.slept
    | none => 0
  i.start + (s.sys.ctx i.ctx).stall.toNat + i.asleep + now

/-- STALL_EXPIRY (R98): instance `id` of thread `frm` of cluster `clu` has been live for `%stall` cycles. -/
def execStallExpiry (s : State) : Host.Outcome State Fault Refusal :=
  let e := s.fly.ev
  match s.fly.inst e.clu e.frm with
  | none => .next s
  | some i =>
    if i.ser ≠ e.id then .next s
    else
      let due := stallDue s i
      if s.sys.now < due then .next (s.sched due .stallExpiry e)
      else .next (raiseTrap s e.clu e.frm 128
        { cause := 11, contained := false, index := 0, info := (s.sys.ctx i.ctx).stall.setWidth 64, va := 0 })

/-- The vector entry of a cause for a thread of a colour (R83, R346); none where the table is not in use, its page is not common or not mapped,
or the entry is zero. -/
def vectorEntry (s : State) (x colour ident cause : Nat) : Option Nat :=
  let v := (s.sys.ctx x).cxvec
  let va := fieldOf v 8 44 * 256 + 8 * cause
  if !v.getLsbD 0 then none
  else match xlateNow s.sys s.mem x colour ident { rd := true } (va / 65536) with
    | .ok t =>
      let w := (readWord s.mem (t.pa + va % 65536)).toNat
      if t.common && w != 0 then some w else none
    | _ => none

/-- What the read of a vector entry comes to: the entry, a further step of it in a later cycle, or an uncorrectable memory error. -/
inductive VecRead where
  | done (s : State) (entry : Option Nat)
  | later (s : State) (due part : Nat)
  | bad (s : State)

/-- The read of the vector entry of a cause through the port tile of region `reg` (R346, R395): a miss of its range cache (then `part` 1) or leaf
cache (2), and of the entry's line at its home slice (3), take their time first (R161; log entry 32, DEDUCED). -/
def readVector (s : State) (e : Ev) (t : Thr) (cause : Nat) : VecRead :=
  let v := (s.sys.ctx t.ctx).cxvec
  let va := fieldOf v 8 44 * 256 + 8 * cause
  let page := va / 65536
  let rs := rangesOf s.sys s.mem t.ctx t.colour page
  let tab (r : Range) : Nat := if r.common then 4096 else t.colour
  let port (h : PortT → PortT) : State := s.mapSys fun y => y.modPortT e.clu e.reg h
  let after (n part : Nat) : VecRead := .later { s with fly := s.fly.draw.2 } (s.sys.now + n + s.fly.draw.1) part
  let lines := linesOf s.sys s.mem t.ctx t.colour va 8 false
  if !v.getLsbD 0 || rs.isEmpty then .done s none
  else match (s.sys.portT e.clu e.reg).hits t.ctx t.colour page, walk s.mem (rs.headD default).pbase page with
    | [], _ =>
      if e.part = 1 then .later (port fun p => { p with ranges := rs.foldl (fun l r => touch 128 (t.ctx, tab r, r) l) p.ranges }) s.sys.now 0
      else after 18 1
    | r :: _, w =>
      if r.paged && !(s.sys.portT e.clu e.reg).leaves.any fun l => l.1 == t.ctx && l.2.1 == tab r && l.2.2.1 == page then
        if e.part ≠ 2 then after 72 2
        else match w with
          | some w => .later (port fun p => { p with leaves := touch 256 (t.ctx, tab r, page, w) p.leaves }) s.sys.now 0
          | none => .done s none
      else match vectorEntry s t.ctx t.colour t.ident cause with
        | none => .done s none
        | some a =>
          if e.part ≠ 3 && lines.any fun l => (s.sys.line l.line).held != some l.key then after 1 3
          else match openLines lines s with
            | .ok s => .done s (some a)
            | .wait s => .later s (s.sys.now + 1) 3
            | .down => .done s none
            | .bad s => .bad s

/-- The thread enters the handler block at an address (R346); one that was saved with its trap pending keeps its registers under LIVE of that
block (R218). -/
def enterHandler (s : State) (c k a : Nat) : State :=
  let late := (s.sys.thr c k).late
  let s := s.mapSys fun y => y.modThr c k fun t => { t with handler := true, pend := none, next := a, late := false }
  enterNext (if late then maskRegs s c k else s) c k

/-- HANDLER_ENTRY (R345, R346, R395): part 4, the trap of instance `id` that counts is delivered; part 5, the trap registers of thread `frm` of cluster
`clu` are written; parts 0 to 3, the vector entry of its trap is read; part 6, the entry `col` has come back, and the thread enters that handler;
without one (`p` false) its context faults (R80). -/
def execHandlerEntry (s : State) : Host.Outcome State Fault Refusal :=
  let e := s.fly.ev
  let c := e.clu
  let k := e.frm
  let t := s.sys.thr c k
  if e.part = 4 then
    match s.fly.inst c k with
    | some i =>
      match i.trap with
      | some (_, r) => .next (if i.ser = e.id then deliverTrap s c k i r else s)
      | none => .next s
    | none => .next s
  else match t.pend with
  | none => .next s
  | some (r, _) =>
    if t.st ≠ .active ∨ (s.fly.inst c k).isSome then .next s
    else if s.sys.draining c t || (s.sys.ctx t.ctx).st != .running then .next (saveThread s c k)
    else if e.part = 5 then .next (trapRegs s c k)
    else if e.part = 6 then .next (if e.p then enterHandler s c k e.col else contextFault s t.ctx 2 c k)
    else match readVector s e t r.cause with
      | .later s due part => .next (s.sched due .handlerEntry { e with part := part })
      | .bad s => .next (contextFault s t.ctx 4 c k)
      | .done s a => .next (s.sched (s.sys.now + 9) .handlerEntry { e with part := 6, p := a.isSome, col := a.getD 0 })

end Sys2Proof.Machine
end

