-- ==== Sys2Proof/Machine/Block.lean ====
section
/-!
DEFINITION. A block's words (R203, R204): the expected positions of its instructions (R26), and the check of a whole block at load (R214).
-/
namespace Sys2Proof

/-- The LSID of an LSID operation, and whether it is released at commit (R211). -/
def Instr.lsidOp : Instr → Option (Nat × Bool)
  | .ld x | .ldv x | .ldg x | .pref x | .lde x | .aadd x | .amin x | .amax x | .aminn x | .amaxn x | .aand x | .aor x | .axor x
  | .aswp x | .acas x | .afadd x | .spin x | .fence x | .fencea x => some (x.lsid.toNat, false)
  | .st x | .stv x | .stsc x | .stf x | .clrf x | .sunpin x | .copy x | .copyt x | .splice x => some (x.lsid.toNat, true)
  | .tstage r => some (r.lsid.toNat, true)
  | _ => none

/-- The LSID that a NULL answers (R198). -/
def Instr.nullLsid : Instr → Option Nat
  | .null g => if g.t0 = .none then some (bits g.imm 0 5) else none
  | _ => none

/-- An exit of R95, with its EXITNO where it has one and its OFFSET where it names a block (R210, R234). -/
def Instr.exitOf : Instr → Option (Option Nat × Option Int)
  | .exit c => some (some c.exitno.toNat, if c.retire then none else some c.off.toInt)
  | .call c => some (some c.exitno.toNat, some c.off.toInt)
  | .exiti c => some (some c.exitno.toNat, none)
  | .ret g => some (some (bits g.imm 0 3), none)
  | .halt _ | .tdone _ => some (none, none)
  | _ => none

/-- The left and right positions are those of a pattern of the instruction (R221, R246, R270, R285, R292, R296 to R298, R301, R321 to R324).
A memory instruction may form its address from its immediate alone (R166). -/
def Instr.patternOk (i : Instr) (l r : Bool) : Bool :=
  match i with
  | .getg _ | .ldi _ | .null _ | .exit _ | .halt _ | .ret _ | .vgen _ | .guard _ | .pclr _ | .pclrFree _ | .zalloc _ | .tmclr _
  | .tgo _ | .tdone _ | .trstat _ | .trecall _ | .mrecv _ | .bariFree _ | .tret _ | .qsusp _ | .qresQ _ | .qresCol _ | .qresCtx _
  | .drainCol _ | .drainCtx _ | .monRead _ | .monClear _ | .monStop _ => !l && !r
  | .mov _ | .fan _ | .putg _ | .ldih _ | .addi _ | .andi _ | .ori _ | .xori _ | .shli _ | .shri _ | .shai _ | .abs _ | .neg _
  | .clz _ | .popc _ | .brev _ | .bfx _ | .teqi _ | .tlti _ | .tlei _ | .pnot _ | .merge _ | .exiti _ | .call _ | .emit _
  | .steer _ | .fsqrt _ | .frsq _ | .fabs _ | .fneg _ | .fcls _ | .ex2 _ | .lg2 _ | .frnd _ | .cvtif _ | .cvtfi _ | .cvtff _
  | .tdec _ | .tenc _ | .bfs _ | .vspl _ | .vlan _ | .vsum _ | .vmax _ | .vmin _ | .vscan _ | .sel24 _ | .packs _ | .xtr _
  | .xtrf _ | .zfree _ | .zclr _ | .zrd _ | .tstage _ | .tld _ | .spin _ | .sunpin _ | .slen _ | .sfree _ | .ldg _ | .waitt _
  | .cpst _ | .fpush _ | .barw _ | .comb _ | .mts _ | .launch _ | .cfgld _ | .cfgldRt _ | .relat _ | .monArm _ => l && !r
  | .sel _ | .spawn _ | .add _ | .sub _ | .mul _ | .mulh _ | .mulhn _ | .div _ | .divn _ | .rem _ | .remn _ | .adds _ | .subs _
  | .min _ | .max _ | .minn _ | .maxn _ | .and _ | .or _ | .xor _ | .andn _ | .shl _ | .shr _ | .sha _ | .rol _ | .bfi _ | .teq _
  | .tne _ | .tlt _ | .tle _ | .tltn _ | .tlen _ | .pand _ | .por _ | .pxor _ | .fadd _ | .fsub _ | .fmul _ | .ffma _ | .ffms _
  | .fdiv _ | .fmin _ | .fmax _ | .fcps _ | .feq _ | .flt _ | .fle _ | .funo _ | .bfq _ | .vins _ | .vsld _ | .vperm _ | .vcmpr _
  | .vsel _ | .vdot _ | .rstat _ | .rscl _ | .wmul _ | .wconv _ | .wmulf _ | .wmulz _ | .zwr _ | .zcvt _ | .snew _ | .splice _
  | .sidx _ | .snext _ | .msend _ | .stsc _ => l && r
  | .lea _ | .fscl _ => l
  | .tmatch _ => r
  | .rdid _ | .pstat _ | .tpass _ | .mpoll _ | .fence _ | .fencea _ | .fpop _ | .bariCnt _ | .bariGrp _ | .bara _ | .baraw _
  | .join _ | .leave _ | .grpq _ | .mfs _ | .trap _ | .nop _ => !r
  | .vcat g => l && r == (g.imm == 0)
  | .packl x => l && r == (x.mode == 2)
  | .bankm g => if bits g.imm 4 2 = 1 then l && r else !l && !r
  | .ld _ | .ldv _ | .pref _ | .lde _ | .clrf _ | .copy _ | .copyt _ => !r
  | .st _ | .stv _ | .stf _ | .aadd _ | .amin _ | .amax _ | .aminn _ | .amaxn _ | .aand _ | .aor _ | .axor _ | .aswp _ | .acas _
  | .afadd _ => r
  | _ => true

/-- Immediates that depend on which positions are expected (R209, R250, R322, R324): one that an operand replaces is zero, and TPASS without
an operand gives values that R135 admits. -/
def Instr.operandOk (i : Instr) (l r : Bool) : Bool :=
  match i with
  | .fscl g => !r || g.imm == 0
  | .tmatch x => !l || x.p == 0
  | .tpass x => if l then x.p == 0 else tpassOk x.p.toNat
  | .bariCnt g | .bariGrp g => !l || bits g.imm 8 19 == 0
  | .join g | .leave g | .grpq g | .trap g => !l || g.imm == 0
  | _ => true

end Sys2Proof

namespace Sys2Proof.Machine

/-! ### The words of a block (R26, R203) -/

/-- The opcodes of formats I, M and XR, of layout XW, and of C (R213): all others are G. -/
def oneTarget (op : Nat) : Bool :=
  op == 0x04 || op == 0x05 || (0xA1 ≤ op && op ≤ 0xA3) || (0xB0 ≤ op && op ≤ 0xB6) || (0xC0 ≤ op && op ≤ 0xC2) || (0xC4 ≤ op && op ≤ 0xCE)
    || op == 0xD0 || op == 0xD1 || op == 0xD4 || op == 0xD5 || (0x90 ≤ op && op ≤ 0x98)

/-- The valid targets in the target fields of a word (R195, R206 to R210), whatever else is wrong with it. -/
def wordTargets (w : Word) : List Target :=
  let at_ (lo : Nat) : List Target := (decodeTarget (w.extractLsb' lo 10)).toList
  let op := bits w 56 8
  if 0x0A ≤ op ∧ op ≤ 0x0C then []
  else if oneTarget op then at_ 37
  else if op = 1 then at_ 37 ++ at_ 27 ++ at_ 10 ++ at_ 0
  else if op = 3 then at_ 37 ++ at_ 27 ++ at_ 0
  else at_ 37 ++ at_ 27

/-- The positions that the targets of a word name, as (instruction, position). -/
def wordNames (w : Word) : List (Nat × Pos) :=
  (wordTargets w).filterMap fun t => match t with
    | .op p n => some (n.toNat, p)
    | _ => none

/-- PRED is 0b10 or 0b11 (R205). -/
def predicated (w : Word) : Bool := w.getLsbD 51

/-- The expected positions of each instruction (R26), as 1 left, 2 right, 4 predicate: those that targets and the kernel's injection table name, and the
predicate position of a predicated one. `ws` are the instruction words, `inj` holds (instruction, position). -/
def expectOf (ws : List Word) (inj : List (Nat × Pos)) : List Nat :=
  let ps := ws.flatMap wordNames ++ inj
  ws.zipIdx.map fun (w, n) =>
    let has (p : Pos) : Bool := ps.contains (n, p)
    (if has .left then 1 else 0) + (if has .right then 2 else 0) + if has .pred || predicated w then 4 else 0

/-- A word with its target fields zero. -/
def clearTargets (w : Word) : Word :=
  let op := bits w 56 8
  if 0x0A ≤ op ∧ op ≤ 0x0C then w
  else if oneTarget op then w &&& ~~~(0x3FF#64 <<< 37)
  else w &&& ~~~(0xFFFFF#64 <<< 27)

/-- The fields of a word, as far as they are those of an instruction. -/
def wordFields (w : Word) : Option Instr :=
  match parseWord w, parseWord (clearTargets w) with
  | .ok i, _ => some i
  | .error .target, .ok i => some i
  | _, _ => none

/-- The decoded instructions of a block's words. -/
def instrsOf (ws : List Word) : List (Option Instr) :=
  (ws.drop 2).map fun w => match decode w with
    | .ok i => some i
    | .error _ => none

/-! ### The check of a block (R214) -/

/-- Reason 0x01: the header breaks a rule of R204. -/
def headerOk (h0 h1 : Word) : Bool :=
  bits h0 56 8 == 0xB7 && bits h0 49 7 != 0 && bits h0 46 3 != 0 && (h0.getLsbD 45 == (bits h0 40 5 != 0)) && bits h0 34 6 ≤ 32
    && bits h0 0 30 == 0 && bits h1 32 32 < 2 ^ bits h0 34 6 && !h1.getLsbD 0

/-- Reasons 0x02 to 0x05 as far as one word goes, and 0x03 and 0x05 for its targets (R206); `ws` are the words of the block. -/
def wordOffences (ws : List Word) (writes : Word) (n : Nat) (w : Word) : List (Nat × Nat) :=
  let own : List (Nat × Nat) := match decode w with
    | .ok _ => []
    | .error .target => (5, n) :: match decode (clearTargets w) with
      | .error r => [(r.code, n)]
      | .ok _ => []
    | .error r => [(r.code, n)]
  let takesPred (i : Nat) : Bool := predicated (ws.getD i 0) || bits (ws.getD i 0) 56 8 == 8
  let one (t : Target) : List (Nat × Nat) := match t with
    | .none => []
    | .reg g => if writes.getLsbD g.toNat then [] else [(5, n)]
    | .op p i => if ws.length ≤ i.toNat then [(5, n)] else if p = .pred ∧ !takesPred i.toNat then [(3, n)] else []
  own ++ (wordTargets w).flatMap one

/-- Reason 0x05: producers of a position that takes one (R199, R206). -/
def producerOffences (ws : List Word) : List (Nat × Nat) :=
  let made := ws.zipIdx.flatMap fun (w, n) => (wordNames w).map fun q => (n, q)
  made.filterMap fun (n, i, p) =>
    let many := (made.filter fun m => m.2.1 == i && m.2.2 == p).length > 1
    if many ∧ !(p = .left ∧ bits (ws.getD i 0) 56 8 = 9) then some (5, n) else none

/-- Reasons 0x04, 0x06 and 0x0B of an instruction, by its expected positions. -/
def patternOffences (iter : Bool) (expect n : Nat) (w : Word) (i : Instr) : List (Nat × Nat) :=
  let l := expect % 2 = 1
  let r := expect / 2 % 2 = 1
  let p : Bool := expect / 4 % 2 = 1
  let steer := bits w 56 8 == 8
  (if i.operandOk l r then [] else [(4, n)])
    ++ (if i.patternOk l r && p == (predicated w || steer) then [] else [(6, n)])
    ++ match i with
      | .vgen _ => if iter then [] else [(0x0B, n)]
      | _ => []

/-- Reason 0x07: LSIDs against LSIDS and STORES (R196, R198, R211). `is` holds (instruction, index). -/
def lsidOffences (lsids : Nat) (stores : Nat) (is : List (Instr × Nat)) : List (Nat × Nat) :=
  let ops := is.filterMap fun (i, n) => i.lsidOp.map fun o => (n, o.1, o.2)
  let nulls := is.filterMap fun (i, n) => i.nullLsid.map fun k => (n, k)
  let twice (k : Nat) : Bool := (ops.filter fun o => o.2.1 == k).length > 1
  let bad (k : Nat) : Bool := lsids ≤ k || twice k
  (ops.filterMap fun (n, k, rel) => if bad k || stores.testBit k != rel then some (7, n) else none)
    ++ (nulls.filterMap fun (n, k) => if bad k then some (7, n) else none)
    ++ (List.range lsids).filterMap fun k => if ops.any fun o => o.2.1 == k then none else some (7, 0x7F)

/-- Reason 0x08: a declared register that no write slot and no NULL answers. -/
def registerOffences (writes : Word) (ws : List Word) : List (Nat × Nat) :=
  let regs := ws.flatMap wordTargets
  (List.range 32).filterMap fun g => if writes.getLsbD g && !regs.contains (.reg (BitVec.ofNat 5 g)) then some (8, 0x7F) else none

/-- Reason 0x09: exits (R210). -/
def exitOffences (addr exits : Nat) (is : List (Instr × Nat)) : List (Nat × Nat) :=
  let es := is.filterMap fun (i, n) => i.exitOf.map fun e => (n, e)
  let away (o : Int) : Bool := (addr : Int) + 64 * o < 0 || 2 ^ 52 ≤ (addr : Int) + 64 * o
  (if es.isEmpty then [(9, 0x7F)] else [])
    ++ es.filterMap fun (n, no, off) => if (no.any (exits ≤ ·)) || off.any away then some (9, n) else none

/-- The instructions that targets reach from those of a mask, in `n` steps. -/
def reaches (succ : List (BitVec 128)) (m : BitVec 128) : Nat → BitVec 128
  | 0 => m
  | n + 1 => reaches succ (succ.zipIdx.foldl (fun a (s, i) => if m.getLsbD i then a ||| s else a) m) n

/-- Reason 0x0A: instructions on a cycle of targets. -/
def cycleOffences (ws : List Word) : List (Nat × Nat) :=
  let succ := ws.map fun w => (wordNames w).foldl (fun m q => m ||| (1#128 <<< q.1)) 0#128
  succ.zipIdx.filterMap fun (s, i) => if (reaches succ s ws.length).getLsbD i then some (0x0A, i) else none

/-- Every offence of a block against R214, as (reason, index). -/
def offences (addr : Nat) (h0 h1 : Word) (ws : List Word) (inj : List (Nat × Pos)) : List (Nat × Nat) :=
  let is := ws.zipIdx.filterMap fun (w, n) => (wordFields w).map fun i => (i, n)
  let expect := expectOf ws inj
  let one (w : Word) (n : Nat) : List (Nat × Nat) := match wordFields w with
    | some i => patternOffences (h0.getLsbD 45) (expect.getD n 0) n w i
    | none => []
  (if headerOk h0 h1 then [] else [(1, 0x7F)])
    ++ ws.zipIdx.flatMap (fun (w, n) => wordOffences ws h1 n w ++ one w n)
    ++ producerOffences ws ++ lsidOffences (bits h0 34 6) (bits h1 32 32) is ++ registerOffences h1 ws
    ++ exitOffences addr (bits h0 46 3) is ++ cycleOffences ws

/-- The lowest reason, with the lowest index. -/
def leastOffence : List (Nat × Nat) → Option (Nat × Nat)
  | [] => none
  | o :: os => match leastOffence os with
    | none => some o
    | some p => if p.1 < o.1 ∨ (p.1 = o.1 ∧ p.2 < o.2) then some p else some o

/-- The check of a block (R214): its words, header first; none where it is valid, otherwise the word that `%tinfo` takes. -/
def blockCheck (addr : Nat) (ws : List Word) (inj : List (Nat × Pos)) : Option Word :=
  let word (o : Nat × Nat) : Word := BitVec.ofNat 64 (0x70 + o.1 * 2 ^ 8 + o.2 * 2 ^ 16)
  if headerOk (ws.getD 0 0) (ws.getD 1 0) then
    (leastOffence (offences addr (ws.getD 0 0) (ws.getD 1 0) (ws.drop 2) inj)).map word
  else some (word (1, 0x7F))

end Sys2Proof.Machine
end

