-- ==== Sys2Proof/Machine/EvSched.lean ====
section
/-!
DEFINITION. Device events of the block scheduler (R89 to R91, R101 to R103, R166): reload decisions, and blocks that become resident.
-/
namespace Sys2Proof.Machine

/-! ### The words of a block (R203) -/

/-- The word of a program in the context's memory: at a virtual address, under the permission of a block fetch. -/
def fetchVirt (y : Sys) (m : Memory) (x ident va : Nat) : Option Word :=
  match xlateNow y m x 0 ident { b := true } (va % vaMod / 65536) with
  | .ok t => some (readWord m (t.pa + va % 65536))
  | _ => none

/-- The `n` words from an address, if every one may be fetched. -/
def fetchWords (y : Sys) (m : Memory) (x ident va : Nat) : Nat → Option (List Word)
  | 0 => some []
  | n + 1 =>
    match fetchVirt y m x ident va, fetchWords y m x ident (va + 8) n with
    | some w, some ws => some (w :: ws)
    | _, _ => none

/-- The bytes of a block (R203): a header of 16 and 8 for each instruction that it counts. -/
def blockBytes (y : Sys) (m : Memory) (x ident blk : Nat) : Nat :=
  16 + 8 * match fetchVirt y m x ident blk with
    | some h => fieldOf h 49 7
    | none => 0

/-- Why a block may not be fetched: its first byte on a page that does not translate for a fetch (R160, R203). -/
def fetchStop (y : Sys) (m : Memory) (x ident blk : Nat) : Option (Nat × XRes) :=
  firstBad y m x 0 ident { b := true } (pagesOf blk (blockBytes y m x ident blk))

/-- The block as its lines' home slices answer the fetch (R16, R90, R203): the words, or why there are none. -/
def fetchBlock (s : State) (x ident blk : Nat) : Except (Nat × XRes × State) (List Word × State) :=
  match fetchStop s.sys s.mem x ident blk with
  | some (b, r) => .error (b, r, s)
  | none =>
    let n := blockBytes s.sys s.mem x ident blk
    match openLines (linesOf s.sys s.mem x 0 blk n false) s, fetchWords s.sys s.mem x ident blk (n / 8) with
    | .ok s, some ws => .ok (ws, s)
    | .ok s, none => .error (blk, .absent 0, s)
    | .wait s, _ => .error (blk, .wait, s)
    | .down, _ => .error (blk, .down, s)
    | .bad s, _ => .error (blk, .uncorrectable, s)

/-! ### Latched bases (R166) -/

/-- What a memory instruction does and its word, for the latch of its address. -/
def memWord : Instr → Option (AccOp × MWord)
  | .ld x | .ldv x => some (.ld, x)
  | .st x | .stv x => some (.st, x)
  | .pref x => some (.pref, x)
  | .lde x => some (.lde, x)
  | .stf x => some (.stf, x)
  | .clrf x => some (.clrf, x)
  | .aadd x | .amin x | .amax x | .aminn x | .amaxn x | .aand x | .aor x | .axor x | .aswp x | .acas x | .afadd x => some (.atom .add, x)
  | .copy x => some (.copy, x)
  | .copyt x => some (.copyt, x)
  | _ => none

/-- The latch of an instruction with no left operand (R166): its address lies in a contiguous common range that is PRESENT, and passes the
checks of R160. -/
def latchOf (y : Sys) (m : Memory) (x ident : Nat) (i : Instr) (idx : Nat) : Option Latch :=
  match memWord i with
  | none => none
  | some (op, w) =>
    let page := (w.off.toInt % 2 ^ 52).toNat / 65536
    if w.scr then none
    else match rangesFor y m x 4096 page with
      | [r] =>
        if r.paged || leafState r.attr != 1 then none
        else match checkLeaf ident op.need r page r.attr with
          | .ok t => some { idx := idx, page := page, pa := t.pa, ksel := t.ksel }
          | _ => none
      | _ => none

/-- The latches of a block as it is loaded. -/
def latchesOf (y : Sys) (m : Memory) (x ident : Nat) (is : List (Option Instr)) (expect : List Nat) : List Latch :=
  is.zipIdx.filterMap fun (i, n) => match i with
    | some i => if expect.getD n 0 % 2 = 0 then latchOf y m x ident i n else none
    | none => none

/-! ### The reload decision (R102) -/

/-- A block is resident or being loaded at the cluster (R89). -/
def Sys.present (y : Sys) (c ctx blk : Nat) : Bool :=
  (List.range 64).any fun n =>
    let f := y.frame c (n / 4) (n % 4)
    f.st != .empty && f.ctx == ctx && f.blk == blk

/-- The kernel of a context that holds a valid block at an address. -/
def Ctx.kernelOf (v : Ctx) (blk : Nat) : Option Kernel :=
  v.kernels.find? fun k => k.blocks.any fun b => b.addr == blk && b.bad.isNone

/-- A frame may be loaded (R89, R102): EMPTY, or RESIDENT with no live instances. -/
def mayLoad (s : State) (c n : Nat) : Bool :=
  let f := s.sys.frame c (n / 4) (n % 4)
  f.st == .empty || (f.st == .resident && !s.fly.insts.any fun e => e.1 / 1024 == c && e.2.reg == n / 4 && e.2.frm == n % 4)

/-- The frame taken (R102, step 2). -/
def chooseFrame (s : State) (c : Nat) : Option Nat :=
  let ns := (List.range 64).filter (mayLoad s c)
  let at_ (n : Nat) : BFrame := s.sys.frame c (n / 4) (n % 4)
  match ns.find? fun n => (at_ n).st == .empty with
  | some n => some n
  | none => ns.foldl (fun b n => match b with
      | none => some n
      | some m => if (at_ n).entered < (at_ m).entered then some n else some m) none

/-- `a` is taken before `b` (R102, step 1). -/
def Wait.before (a b : Wait) : Bool :=
  if a.age = 63 ∨ b.age = 63 then
    if a.age ≠ 63 then false
    else if b.age ≠ 63 then true
    else a.at63 < b.at63 || (a.at63 == b.at63 && a.blk < b.blk)
  else if a.who.length ≠ b.who.length then a.who.length > b.who.length
  else if a.age ≠ b.age then a.age > b.age
  else a.blk < b.blk

def chooseWait : List Wait → Option Wait
  | [] => none
  | w :: ws =>
    match chooseWait ws with
    | none => some w
    | some v => if v.before w then some v else some w

/-- The ages of the table after a decision (R102, step 3): `here` says which blocks are resident. -/
def ageWait (chosen : Wait) (n : Nat) (here : Wait → Bool) (w : Wait) : Wait :=
  if w.blk = chosen.blk ∧ w.ctx = chosen.ctx then { w with age := 0 }
  else if here w then w
  else if w.age < 63 then { w with age := w.age + 1, at63 := if w.age = 62 then n else w.at63 } else w

/-- Where a token waits while its block is in no frame: a frame number of its own, whose low bits are SLOT of its tag word in a park record (log entry 90,
DESIGN CHOICE). -/
def awayFrame (blk : Nat) : Nat := 4 + blk

/-- Injected tokens bound for a frame of a region wait for its block (R394), wherever that is loaded next. -/
def displace (y : Sys) (c r n blk : Nat) : Sys :=
  let move (e : Entry) : Entry := if e.dest.reg = r ∧ e.dest.frm = n then { e with dest := { e.dest with frm := awayFrame blk } } else e
  let y := y.modRegion c r fun g => { g with arrived := g.arrived.map move, entries := g.entries.map move, holds := g.holds.map move }
  let park (p : Park) : Park := { p with recs := p.recs.map fun q => (q.1, move q.2), pending := p.pending.map fun q => (q.1, q.2.1, move q.2.2) }
  { y with parks := y.parks.map fun e => if e.1 / 4096 = c then (e.1, park e.2) else e }

/-- When the words of a block are there (R90): 32 + n cycles on, and not before what went out earlier through the slice interfaces of the words' columns to
the same home slices (R14, R184, R190). -/
def blockDue (s : State) (c x ident blk : Nat) : Nat :=
  let n := blockBytes s.sys s.mem x ident blk
  let ms (k : Nat) : List Nat := ((List.range 8).filterMap fun w => if k * 8 + w < 2 then none else some (Traffic.fetch ((k * 8 + w - 2) % 16)).interface).eraseDups
  ((linesOf s.sys s.mem x 0 blk n false).zipIdx).foldl (fun d (q, k) =>
    (ms k).foldl (fun d m => wayDue s.fly c m (homeSlice (q.line * 64)) d) d) (s.sys.now + 32 + (n - 16) / 8)

/-- The chosen block begins to load into the chosen frame. -/
def startFrame (s : State) (c n : Nat) (w : Wait) : State :=
  let r := n / 4
  let f := s.sys.frame c r (n % 4)
  let y := if f.st = .resident then displace s.sys c r (n % 4) f.blk else s.sys
  let ident := match (y.ctx w.ctx).kernelOf w.blk with
    | some k => k.ident
    | none => 0
  let b : BFrame := { BFrame.reset with st := .loading, ctx := w.ctx, ident := ident, blk := w.blk }
  { s with sys := y.setFrame c r (n % 4) b }.sched (blockDue s c w.ctx ident w.blk) .frameLoadComplete { clu := c, reg := r, frm := n % 4 }

/-- Who waits at a cluster for a block of a context (R101). -/
def Clu.waiters (v : Clu) (x blk : Nat) : List Nat :=
  (v.table.filter fun w => w.blk == blk && w.ctx == x).flatMap Wait.who ++ (v.overflow.filter fun o => o.1 == blk && o.2.1 == x).map fun o => o.2.2

/-- The threads and queue heads that wait for a block go on (R92, R110). -/
def wakeBlock (s : State) (c x blk : Nat) : State :=
  let who := (s.sys.clu c).waiters x blk
  let s := s.mapSys fun y => y.unwait c fun b z _ => b == blk && z == x
  who.foldl (fun s n =>
    if n < 1024 then
      let t := s.sys.thr c n
      if t.st = .waiting ∧ t.ctx = x ∧ t.next = blk ∧ t.halt ≠ 2 then enterNext s c n else s
    else match s.sys.queue x (n - 1024) with
      | some q =>
        let s := s.mapSys fun y => y.setQueue x (n - 1024) { q with waiting := false }
        s.mapFly fun f => offerQueue f (s.sys.now + 1) x (n - 1024)
      | none => s) s

/-- The threads that wait for a block take a trap of its fetch at their block entry (R160, R345); queue heads ask again (R110). -/
def trapWaiters (s : State) (c x blk : Nat) (r : TrapRec) : State :=
  let ks := (s.sys.clu c).waiters x blk
  let s := s.mapSys fun y => y.unwait c fun b z w => b == blk && z == x && w < 1024
  let s := (ks.filter (· < 1024)).foldl (fun s k =>
    let t := s.sys.thr c k
    if t.st = .waiting ∧ t.ctx = x ∧ t.next = blk ∧ t.halt ≠ 2 then takeTrap s c k r blk true else s) s
  wakeBlock s c x blk

/-- RELOAD_DECISION (R102, R103): of cluster `clu`. While an entry names a block that is not at the cluster, one is made in every cycle in which a
frame can be taken, and no second one in a cycle. -/
def execReloadDecision (s : State) : Host.Outcome State Fault Refusal :=
  let c := s.fly.ev.clu
  if s.fly.dueBy s.sys.now fun i e => i == .reloadDecision && e.clu == c then .next s
  else
    -- who waits for an address that is no valid block of its context takes ILLOP, and the entry leaves the table (R103)
    let s := ((s.sys.clu c).table.filter fun w => ((s.sys.ctx w.ctx).kernelOf w.blk).isNone).foldl (fun s w => wakeBlock s c w.ctx w.blk) s
    let v := s.sys.clu c
    let want := v.table.filter fun w => !s.sys.present c w.ctx w.blk
    let later (s : State) := if s.fly.due fun i e => i == .reloadDecision && e.clu == c then s else s.sched (s.sys.now + 1) .reloadDecision { clu := c }
    match chooseWait want, chooseFrame s c with
    | none, _ => .next s
    | some _, none => .next (later s)
    | some w, some n =>
      if v.decided = s.sys.now + 1 then .next (later s)
      else
        let here (w : Wait) : Bool := (s.sys.residentAt c w.ctx w.blk).isSome
        let s := startFrame s c n w
        let s := s.mapSys fun y => y.modClu c fun v =>
          { v with table := v.table.map (ageWait w v.decisions here), decisions := v.decisions + 1, decided := y.now + 1 }
        .next (if want.length > 1 then later s else s)

/-! ### A block becomes resident (R90, R91) -/

/-- Stores released by commits of the region's old block are not yet acknowledged (R91). -/
def oldStores (s : State) (c r n : Nat) : Bool :=
  s.fly.accs.any fun e => e.2.clu == c && e.2.reg == r && e.2.bf == n && e.2.released && e.2.committed && !e.2.op.engine && e.2.st != .retired

/-- Tokens that waited for a block look for partners where it is resident now. -/
def rehome (s : State) (c r n blk : Nat) : State :=
  let away (e : Entry) : Bool := e.dest.frm == awayFrame blk
  let home (e : Entry) : Entry := { e with dest := { e.dest with reg := r, frm := n } }
  let all := (List.range Config.nRegions).flatMap fun q => ((s.sys.region c q).entries ++ (s.sys.region c q).holds).filter away
  let y := (List.range Config.nRegions).foldl (fun y q => y.modRegion c q fun g =>
    { g with entries := g.entries.filter (!away ·), holds := g.holds.filter (!away ·) }) s.sys
  let fix (e : Entry) : Entry := if away e then home e else e
  let park (p : Park) : Park := { p with recs := p.recs.map fun q => (q.1, fix q.2), pending := p.pending.map fun q => (q.1, q.2.1, fix q.2.2) }
  let y := { y with parks := y.parks.map fun e => if e.1 / 4096 = c then (e.1, park e.2) else e }
  let s := { s with sys := y }
  if all.isEmpty then s
  else placeLater (s.mapSys fun y => y.modRegion c r fun g => { g with arrived := g.arrived ++ all.map home }) c r

/-- A kernel that is RETIRING and has no thread loses its resident blocks, and is discarded once it has none (R86). -/
def settleKernels (y : Sys) (x : Nat) : Sys :=
  let done (ident : Nat) : Bool :=
    (match (y.ctx x).kernel ident with
     | some k => k.st == .retiring
     | none => true) && y.thrs.all fun h => h.2.st == .free || h.2.ctx != x || h.2.ident != ident
  let y := { y with frames := y.frames.filter fun e => !(e.2.st == .resident && e.2.ctx == x && done e.2.ident) }
  discardKernels y x

/-- A block of a kernel becomes invalid (R215). -/
def Sys.spoilBlock (y : Sys) (x ident blk : Nat) (info : Word) : Sys :=
  let block (b : Blk) : Blk := if b.addr = blk then { b with bad := some info } else b
  let one (k : Kernel) : Kernel := if k.ident = ident then { k with blocks := k.blocks.map block } else k
  y.modCtx x fun v => { v with kernels := v.kernels.map one }

/-- A load that ends with no block (R160, R193, R215, R357): the frame is EMPTY. -/
def dropFrame (s : State) (c r n : Nat) : State :=
  (s.mapSys fun y => settleKernels (y.setFrame c r n BFrame.reset) (y.frame c r n).ctx).sched s.sys.now .reloadDecision { clu := c }

/-- A fetch that byte `b` stops (R160, R162, R163, R193, R357; log entry 44, DEDUCED): a permission or CONFIG that is lacking is a trap of the threads that
enter the block; the load waits for an ABSENT page under a ticket and its fault record, and for a link that is not up. -/
def fetchFails (s : State) (e : Ev) (f : BFrame) (b : Nat) (r : XRes) : State :=
  let trap (r : TrapRec) := trapWaiters (dropFrame s e.clu e.reg e.frm) e.clu f.ctx f.blk r
  match r with
  | .prot code => trap { misuse 3 code 0 with va := b }
  | .config leaf => trap { misuse 5 (leaf + f.ident * 65536) 0 with va := b }
  | .down => trap { misuse 3 0x54 0 with va := b }
  | .absent kind => (withhold s f.ctx 0 e.clu e.reg b kind).2
  | .uncorrectable =>
    -- the thread that meets the error is the first that waits for the block; where a queue's head alone waits there is none
    let waits (k : Nat) : Bool := k < 1024 && (s.sys.thr e.clu k).st == .waiting && (s.sys.thr e.clu k).ctx == f.ctx && (s.sys.thr e.clu k).next == f.blk
    let k := ((s.sys.clu e.clu).waiters f.ctx f.blk).find? waits
    let owner := match k with
      | some k => (s.sys.thr e.clu k).serial
      | none => (s.sys.thr e.clu 0).serial + 1
    let s := (dropFrame s e.clu e.reg e.frm).mapSys fun y => y.unwait e.clu fun b x w => b == f.blk && x == f.ctx && k == some w
    memFault s f.ctx e.clu (k.getD 0) owner
  | .ok _ | .migrating | .miss _ | .wait => s.sched (s.sys.now + 1) .frameLoadComplete { e with q := true }

/-- A block that fails at frame load becomes invalid, and the frame EMPTY; its waiters, at whichever cluster, arrive at an invalid block (R103, R215). -/
def failBlock (s : State) (c r n : Nat) (f : BFrame) (info : Word) : State :=
  let s := (dropFrame s c r n).mapSys fun y => y.spoilBlock f.ctx f.ident f.blk info
  (List.range Config.nClusters).foldl (fun s d => wakeBlock s d f.ctx f.blk) s

/-- FRAME_LOAD_COMPLETE (R90, R91, R26, R166, R215): frame `frm` of region `reg` of cluster `clu`: its words are there; it is RESIDENT once the old block's
stores are acknowledged and its words may be fetched. -/
def execFrameLoadComplete (s : State) : Host.Outcome State Fault Refusal :=
  let e := s.fly.ev
  let c := e.clu
  let f := s.sys.frame c e.reg e.frm
  if f.st ≠ .loading then .next s
  else if oldStores s c e.reg e.frm then .next (s.sched (s.sys.now + 1) .frameLoadComplete e)
  else
    match fetchBlock s f.ctx f.ident f.blk with
    | .error (b, r, s) => .next (fetchFails s e f b r)
    | .ok (ws, s) =>
      let inj := match (s.sys.ctx f.ctx).kernel f.ident with
        | some k => (k.injects.filter fun j => j.1 == f.blk).map fun j => j.2
        | none => []
      match blockCheck f.blk ws inj with
      | some info => .next (failBlock s c e.reg e.frm f info)
      | none =>
        let is := instrsOf ws
        let expect := expectOf (ws.drop 2) inj
        let b := { f with st := .resident, words := ws, expect := expect, entered := s.sys.now, loaded := s.sys.now + 1,
                          latches := latchesOf s.sys s.mem f.ctx f.ident is expect }
        let s := s.mapSys fun y => settleKernels (y.setFrame c e.reg e.frm b) f.ctx
        let s := wakeBlock (rehome s c e.reg e.frm f.blk) c f.ctx f.blk
        .next (s.sched s.sys.now .reloadDecision { clu := c })

end Sys2Proof.Machine
end

