-- ==== Sys2Proof/Machine/EvPort.lean ====
section
/-!
DEFINITION. Device events of the memory-port tile (R160 to R167, R173, R177, R293, R307): an access is translated, and the port's caches are
filled from the tables.
-/
namespace Sys2Proof.Machine

/-! ### What an access does to its instance -/

/-- The instance of an access, while it is live. -/
def accInst (f : Fly) (a : Access) : Option Inst := (f.inst a.clu a.frm).filter fun i => i.ser == a.ser

/-- A trap that an access raises in its instance (R97, R160). -/
def trapAcc (s : State) (a : Access) (r : TrapRec) : State := if (accInst s.fly a).isSome then raiseTrap s a.clu a.frm a.idx r else s

/-- A trap that an access raises after its commit, taken at the thread's next block entry (R293). -/
def deferAcc (s : State) (a : Access) (r : TrapRec) : State :=
  if (s.sys.thr a.clu a.frm).serial ≠ a.owner ∨ a.dead then s
  else if r.contained then deferContained s a.clu a.frm (some a.ser) r else deferTrap s a.clu a.frm (some a.ser) r

/-- An access answers its LSID (R95, R308): once, though a released one may be translated again after a shoot-down. The answer is at the commit unit after a
free delay, for which no rule gives a bound (log entry 16). -/
def answerAcc (s : State) (a : Access) : State :=
  match accInst s.fly a, a.lsid with
  | some i, some l =>
    let i' := if i.iter then a.runs.foldl (fun j r => j.bind fun j => j.answer l r.1 r.2) (some i) else i.answer l a.index (a.index + a.len)
    match i' with
    | some i =>
      let (d, f) := s.fly.draw
      if d = 0 then { s with fly := checkReady s.sys a.clu a.frm (f.setInst a.clu a.frm i) }
      else
        let e : Ev := { clu := a.clu, frm := a.frm, part := 6, ent := some a.ser }
        { s with fly := (f.setInst a.clu a.frm { i with late := max i.late (s.sys.now + d) }).event (s.sys.now + d) .tokenArrival e }
    | none => s
  | _, _ => s

/-! ### `%seqlast` (R320) -/

/-- A retired access leaves the port: `%seqlast` takes its tag. What `%seqlast` was before the accesses of an uncommitted instance is kept for its
abort (R97). A pin taken before its commit is kept too. -/
def popAcc (s : State) (id : Nat) (a : Access) : State :=
  let t := s.sys.thr a.clu a.frm
  let s :=
    if a.tag = 0 ∨ t.serial ≠ a.owner then s
    else
      let s := match accInst s.fly a with
        | some i => if i.seq0.isNone && !a.committed then s.mapFly fun f => f.setInst a.clu a.frm { i with seq0 := some t.seqlast } else s
        | none => s
      s.mapSys fun y => y.setThr a.clu a.frm { t with seqlast := a.tag }
  s.mapFly fun f => if a.op = .spin ∧ !a.committed ∧ a.y = 1 then f.setAcc id { a with n := 0 } else f.delAcc id

/-- The port retires accesses in program order; an access of an aborted instance does not retire, and neither it nor a PREF delays a later one. -/
def popRetired (s : State) (c k : Nat) : State :=
  let l := (threadAccs s.fly c k).filter fun e => !(e.2.op == .spin && e.2.n == 0) && !e.2.dead && (e.2.op != .pref || e.2.st == .retired)
  (l.takeWhile fun e => e.2.st == .retired).foldl (fun s e => popAcc s e.1 e.2) s

/-- The traps of R160 at a byte `b`: PROT with its code, CONFIG; a record outside a synchronised range is ILLOP 0x45 (R155). -/
def protRec (a : Access) (code b : Nat) : TrapRec :=
  if code = 0x45 then misuse 1 0x45 a.index else { misuse 3 code a.index with va := b }

def configRec (a : Access) (leaf b : Nat) : TrapRec := { misuse 5 (leaf + a.ident * 65536) a.index with va := b }

/-- OWNER of an access (R343). -/
def Access.ownerRec (a : Access) : TrapRec :=
  { cause := 8, contained := true, index := a.index, info := BitVec.ofNat 64 a.idx, va := 0 }

/-! ### An access that is translated -/

/-- A translated access (R304, R308): a released operation answers its LSID two cycles on and waits for the commit; any other is issued, `lead`
cycles from now at the earliest. Later accesses of the thread may follow. -/
def readyAcc (s : State) (id lead : Nat) (a : Access) : State :=
  if a.released then
    let s := s.mapFly fun f => f.setAcc id { a with st := .atPort }
    s.sched (s.sys.now + (lead - 1)) .accessRetire { clu := a.clu, reg := a.reg, id := id, part := 1 }
  else advance (issueAccess s id a lead) a.clu a.frm

/-- An uncorrectable memory error of an access (R357): it is withheld for good, and the context faults with FCAUSE 4 (R80, R76). -/
def memoryError (s : State) (id : Nat) (a : Access) : State :=
  memFault (s.mapFly fun f => f.setAcc id { a with st := .withheld (2 ^ 32) }) a.ctx a.clu a.frm a.owner

/-- An access whose translation fails at byte `b` (R160, R310). The fault time limit counts for each access from the cycle in which it is withheld
(R164). -/
def xlatFails (s : State) (id : Nat) (a : Access) (b : Nat) (r : XRes) : State :=
  if a.op = .pref then advance (issueAccess s id { a with segs := [] } 3) a.clu a.frm
  else
    match r with
    | .prot code => trapAcc s a (protRec a code b)
    | .config leaf => trapAcc s a (configRec a leaf b)
    | .absent kind =>
      let (n, s) := withhold s a.ctx a.colour a.clu a.reg b kind
      (s.mapFly fun f => f.setAcc id { a with st := .withheld n, xl := [] }).sched (s.sys.now + ftLimit s.sys a.ctx) .checkpoint
        { id := n, part := id, col := s.sys.now }
    | .migrating => s.mapFly fun f => f.setAcc id { a with st := .migrating, xl := [] }
    | .uncorrectable => memoryError s id a
    | .down => trapAcc s a (protRec a 0x54 b)
    | .wait => s.sched (s.sys.now + 1) .translate { clu := a.clu, reg := a.reg, id := id }
    | .ok _ | .miss _ => s

/-! ### Commands of the copy engine (R177) -/

/-- Two byte runs share a byte, modulo 2^52. -/
def runsMeet (a b : Nat × Nat) : Bool :=
  (b.1 + vaMod - a.1 % vaMod) % vaMod < a.2 || (a.1 + vaMod - b.1 % vaMod) % vaMod < b.2

/-- ILLOP 0x64 (R177): `w` are the words of the record. -/
def commandBad (v : Xfer) (w : Nat → Word) : Bool :=
  let e := 2 ^ v.esz
  let (ss, ds) := v.runs
  let out (scr : Bool) (l : List (Nat × Nat)) : Bool := scr && l.any fun r => r.1 + r.2 > 1048576
  fieldOf (w 0) 53 11 != 0 || fieldOf (w 1) 53 11 != 0 || (List.range 4).any (fun n => w (n + 4) != 0)
    || (if v.copyt then
          fieldOf (w 2) 36 28 != 0 || v.rows == 0 || v.rows > 4096 || v.cols == 0 || v.cols > 4096 || v.esz > 4 || (v.conj && v.esz != 4)
            || v.spitch < v.cols * e || v.dpitch < v.rows * e
        else fieldOf (w 2) 32 32 != 0 || v.len == 0 || v.len > 16777216)
    || out v.sscr ss || out v.dscr ds || (v.sscr == v.dscr && ss.any fun a => ds.any (runsMeet a))

/-- A trap of the first bank that a transfer may not use (R172). -/
def bankTrap (s : State) (a : Access) (code : Bank → Option Nat) (bs : List Nat) : Option TrapRec :=
  (bs.findSome? fun b =>
    let v := s.sys.bank a.clu b
    if v.foreign a.colour then some a.ownerRec else (code v).map fun k => misuse 1 k a.index)

/-- The first page of the spans that translates to a trap, from the tables themselves: a page that is ABSENT or MIGRATING withholds the transfer
later (R178). -/
def commandFault (s : State) (a : Access) : List (Nat × Nat × Need) → Option TrapRec
  | [] => none
  | (p, b, n) :: t =>
    match xlateNow s.sys s.mem a.ctx a.colour a.ident n p with
    | .prot code => some (protRec a code b)
    | .config leaf => some (configRec a leaf b)
    | _ => commandFault s a t

/-! ### Requests and responses of the port (R190, R306) -/

/-- Responses of one home slice to one cluster arrive in the order sent. -/
def replyDue (f : Fly) (c slice due : Nat) : Nat :=
  let on (e : Ev) : Bool := e.clu == c && e.col == slice
  (f.agenda.filter fun w => match w.act with
    | .ev .accessRetire e => e.q && on e
    | .ev .tableReadFill e => e.part ≥ 5 && on e
    | .ev .translate e => e.part == 5 && on e
    | _ => false).foldl (fun d w => max d w.due) due

/-- The port asks the home slice of a physical address for what it needs to translate an access: a request like any other, `lead` cycles on. -/
def portAsk (s : State) (id lead : Nat) (a : Access) (i : Instr) (part pa : Nat) (va : Word) : State :=
  let (t, y) := portIssue s.sys a.clu a.reg lead 1
  let (d, f) := s.fly.draw
  let h := homeSlice pa
  { s with sys := y, fly := f.event (pathDue f a.clu h (t + 10 + d)) i
             { clu := a.clu, reg := a.reg, col := h, id := id, part := part, word := va, ent := some pa } }

/-- What the home slice answers is at the port eight cycles later. -/
def portAnswer (s : State) (i : Instr) (e : Ev) (bytes : List Byte) : State :=
  let (d, f) := s.fly.draw
  { s with fly := f.event (replyDue f e.clu e.col (s.sys.now + 8 + d)) i { e with part := e.part + (if i = .translate then 1 else 5), q := false, bytes := bytes } }

/-- Little-endian word `n` of bytes that have come back. -/
def wordOf (bs : List Byte) (n : Nat) : Word := BitVec.ofNat 64 (leNat ((bs.drop (8 * n)).take 8))

/-- The access goes on being translated, `t` of the cycles of R161 spent. -/
def goOn (s : State) (id t : Nat) (a : Access) : State := s.sched s.sys.now .translate { clu := a.clu, reg := a.reg, id := id, part := 2, col := t }

/-! ### Translation through the caches (R160, R161) -/

/-- The pages of an access with what each needs, in order. -/
def Access.spans (a : Access) : List (Nat × Nat × Need) :=
  a.segs.flatMap fun g => (pagesOf g.1 g.2.1).map fun p => (p.1, p.2, a.op.need)

/-- The entries that translate a page are the most recently used (R161). -/
def PortT.use (p : PortT) (x colour page : Nat) : PortT :=
  let own (e : Nat × Nat × Range) : Bool :=
    e.1 == x && e.2.1 == (if e.2.2.common then 4096 else colour) && e.2.2.vbase ≤ page && page ≤ e.2.2.vlast
  let leaf (e : Nat × Nat × Nat × Word) : Bool := e.1 == x && (e.2.1 == 4096 || e.2.1 == colour) && e.2.2.1 == page
  { p with ranges := (p.ranges.filter own).foldl (fun l e => touch 128 e l) p.ranges,
           leaves := (p.leaves.filter leaf).foldl (fun l e => touch 256 e l) p.leaves }

/-- Where the entries of a context's table lie that hold a page. -/
def entriesFor (y : Sys) (m : Memory) (x k page : Nat) : List Nat :=
  ((List.range 256).filter fun e => (readRange y m x k e).any fun r => r.vbase ≤ page && page ≤ r.vlast).map fun e => tableBase y x k + e * 32

/-- The entries of the colour's table and of the common table that hold a page, with the table's kind. -/
def entriesAt (y : Sys) (m : Memory) (x colour page : Nat) : List (Bool × Nat) :=
  (entriesFor y m x colour page).map (false, ·) ++ (entriesFor y m x 4096 page).map (true, ·)

/-- A miss reads the tables (R161): the range table, found missing a cycle after the access arrives, or the page table of the range found, level by
level, a cycle later. -/
def readTables (s : State) (id t : Nat) (a : Access) (b : Nat) (leaf : Bool) : State :=
  let page := b / 65536
  match leaf, (s.sys.portT a.clu a.reg).hits a.ctx a.colour page with
  | true, r :: _ => portAsk s id (2 - t) a .tableReadFill 1 (r.pbase + 8 * (page / 2 ^ 27 % 512)) (BitVec.ofNat 64 b)
  | _, _ => portAsk s id (1 - t) a .tableReadFill 0 (((entriesAt s.sys s.mem a.ctx a.colour page).map Prod.snd).headD (tableBase s.sys a.ctx a.colour))
      (BitVec.ofNat 64 b)

/-- The access is translated over these pages through the caches; a miss reads the tables first, and a page that stops it does so two cycles after the
access arrived (R161). `k` has it with its translations. -/
def byCaches (s : State) (id t : Nat) (a : Access) (ps : List (Nat × Nat × Need)) (k : State → Access → State) : State :=
  match xlateAll (s.sys.portT a.clu a.reg) (fun p => (rangesOf s.sys s.mem a.ctx a.colour p).length ≥ 2) a.ctx a.colour a.ident ps [] with
  | (xs, none) =>
    let s := s.mapSys fun y => y.modPortT a.clu a.reg fun p => ps.foldl (fun p e => p.use a.ctx a.colour e.1) p
    k s { a with xl := xs }
  | (_, some (b, .miss leaf)) => readTables (s.mapFly fun f => f.setAcc id a) id t a b leaf
  | (_, some (b, r)) =>
    if t < 2 then (s.mapFly fun f => f.setAcc id a).sched (s.sys.now + (2 - t)) .translate { clu := a.clu, reg := a.reg, id := id, part := 2, col := 2 }
    else xlatFails s id a b r

/-! ### Records that the port reads (R153, R177) -/

/-- A COPY or COPYT whose record has been read: its banks and pages are checked (R172, R177). -/
def checkCommand (s : State) (id lead : Nat) (a : Access) : State :=
  let v := a.command
  match bankTrap s a commandBank v.scrBanks with
  | some r => trapAcc s a r
  | none =>
    match commandFault s a v.spans with
    | some r => trapAcc s a r
    | none => readyAcc s id lead a

/-- The record of a COPY or COPYT has come back (R177). -/
def takeCommand (s : State) (id : Nat) (a : Access) (bs : List Byte) : State :=
  let a := { a with a := BitVec.ofNat 256 (leNat (bs.take 32)), done := 1 }
  if commandBad a.command (wordOf bs) then trapAcc s a (misuse 1 0x64 a.index) else checkCommand (s.mapFly fun f => f.setAcc id a) id 1 a

/-- The record of a splice has come back: NINS is read once, when the port receives the record (R153), and the pages of the whole record are translated. -/
def takeSplice (s : State) (id : Nat) (a : Access) (bs : List Byte) : State :=
  let n := fieldOf (wordOf bs 2) 0 12
  byCaches s id 0 { a with x := n, y := 1 } (a.spans ++ recordSpans a n) fun s a => readyAcc s id 3 a

/-- The port reads the line of a record that is translated: the request leaves as an access of its age does. -/
def readRecord (s : State) (id t : Nat) (a : Access) (va : Nat) : State :=
  match a.pa va with
  | some pa => portAsk (s.mapFly fun f => f.setAcc id a) id (3 - t) a .translate 4 pa (BitVec.ofNat 64 va)
  | none => s

/-- The latched translation of the firing instruction's page, if every page it touches is that one (R166). -/
def latchedXlat (y : Sys) (a : Access) : Option Xlat :=
  ((y.frame a.clu a.reg a.bf).latches.find? fun l => l.idx == a.idx && !a.spans.isEmpty && a.spans.all fun e => e.1 == l.page).map fun l =>
    { page := l.page, pa := l.pa, ksel := l.ksel, common := true, sync := true, config := 0 }

/-- A scratch access a cycle after it reaches the port (R173, R307, R397): its offsets and banks are checked. -/
def scratchReady (s : State) (id : Nat) (a : Access) : State :=
  match a.segs.find? fun g => g.1 + g.2.1 > 1048576 with
  | some g => trapAcc s a (protRec a 0x55 (max g.1 1048576))
  | none =>
    match bankTrap s a (fun b => if b.mode = .scratch then none else some 0x61) a.scrBanks with
    | some r => trapAcc s a r
    | none => readyAcc s id 0 a

/-- An access at the port whose turn it is (R160), `t` of the cycles of R161 spent. -/
def translateAcc (s : State) (id t : Nat) (a : Access) : State :=
  match a.op with
  | .fence | .fencea => readyAcc s id 0 a
  | .sunpin => readyAcc s id 3 a
  | .copy | .copyt =>
    let go (s : State) (a : Access) : State := if a.done = 1 then checkCommand s id (3 - t) a else readRecord s id t a (a.segs.headD (0, 0, 0)).1
    match latchedXlat s.sys a with
    | some x => go s { a with xl := [x] }
    | none => byCaches s id t a a.spans go
  | .splice =>
    if a.y = 1 then byCaches s id t a (a.spans ++ recordSpans a a.x) fun s a => readyAcc s id (3 - t) a
    else byCaches s id t a (a.spans ++ recordSpans a 0) fun s a => readRecord s id t a (fieldOf a.b 0 52)
  | _ =>
    if a.scr then s.sched (s.sys.now + 1) .translate { clu := a.clu, reg := a.reg, id := id, part := 1 }
    else match latchedXlat s.sys a with
      | some x => readyAcc s id (3 - t) { a with xl := [x] }
      | none => byCaches s id t a a.spans fun s a => readyAcc s id (3 - t) a

/-! ### The events -/

/-- A request of the port at its home slice: it takes its turn there, and `k` answers; else it waits, or the access fails. -/
def atSlices (s : State) (i : Instr) (e : Ev) (a : Access) (asks : List Ask) (k : State → State) : State :=
  match openLines asks s with
  | .ok s => k s
  | .wait s => s.sched (s.sys.now + 1) i { e with q := true }
  | .down => xlatFails s e.id a e.word.toNat .down
  | .bad s => xlatFails s e.id a e.word.toNat .uncorrectable

/-- TRANSLATE (R160, R304, R397): access `id` is at the port of region `reg` of cluster `clu`: translated, unless it performs before commit and an
access earlier in program order has not issued (part 1, a scratch access in the cycle after; part 2, after `col` cycles). Part 3, the tables hold no range for
byte `word`. Part 4, the port reads a record at `word` at its home slice; part 5, the record is back. A FENCE
that waits lets later accesses by (R318). -/
def execTranslate (s : State) : Host.Outcome State Fault Refusal :=
  let e := s.fly.ev
  let id := e.id
  match s.fly.acc id with
  | none => .next s
  | some a =>
    if a.st ≠ .buffered then .next s
    else match e.part with
    | 2 => .next (translateAcc s id e.col a)
    | 3 => .next (xlatFails s id a e.word.toNat (.prot 0x50))
    | 4 =>
      match a.xlat e.word.toNat, e.ent with
      | some x, some pa => .next (atSlices s .translate e a [{ line := pa / 64, key := a.keyTag x, w := false }] fun s =>
          portAnswer s .translate e (leBytes 64 (readLE s.mem (pa / 64 * 64) 64)))
      | _, _ => .next (goOn s id 0 a)
    | 5 => .next (if a.op = .splice then takeSplice s id a e.bytes else takeCommand s id a e.bytes)
    | part =>
      if !a.released ∧ a.lsid.isSome ∧ !(a.scr && part == 0) ∧ !mayIssue s.sys s.fly id a then
        let s := s.mapFly fun f => f.setAcc id { a with st := .atPort }
        .next (if a.op = .fence ∨ a.op = .fencea then advance s a.clu a.frm else s)
      else if part = 1 then .next (scratchReady s id a)
      else .next (translateAcc s id 0 a)

/-- A read of the tables at its home slice (R161): the entries of the range tables that hold the page, or one level of the page table. -/
def readTable (s : State) (e : Ev) (a : Access) (pa : Nat) : State :=
  let ask (p : Nat) : Ask := { line := p / 64, key := (s.sys.line (p / 64)).readTag a.ctx, w := false }
  if e.part ≠ 0 then atSlices s .tableReadFill e a [ask pa] fun s => portAnswer s .tableReadFill e (leBytes 8 (readLE s.mem pa 8))
  else if staleRanges s.sys a.ctx a.colour || staleRanges s.sys a.ctx 4096 then xlatFails s e.id a e.word.toNat .uncorrectable
  else
    let l := entriesAt s.sys s.mem a.ctx a.colour (e.word.toNat / 65536)
    atSlices s .tableReadFill e a (((if l.isEmpty then [pa] else l.map Prod.snd).map ask)) fun s =>
      portAnswer s .tableReadFill e (l.flatMap fun n => (if n.1 then 1 else 0) :: leBytes 32 (readLE s.mem n.2 32))

/-- The range entries that a read of the tables has brought, 33 bytes each: the table's kind, then the entry. -/
def rangesIn : Nat → List Byte → List Range
  | 0, _ => []
  | n + 1, bs => rangeOf (bs.headD 0 == 1) (wordOf bs.tail) :: rangesIn n (bs.drop 33)

/-- TABLE_READ_FILL (R161): the table read of access `id` for byte `word` is at home slice `col`, at physical address `ent`: part 0 of the range tables,
parts 1 to 4 of a level of the page table, root first. Parts 5 to 9, what was read is back at the port: the entry found is cached and the access
translated again, or the next level read. -/
def execTableReadFill (s : State) : Host.Outcome State Fault Refusal :=
  let e := s.fly.ev
  match s.fly.acc e.id with
  | none => .next s
  | some a =>
    let page := e.word.toNat / 65536
    let w := wordOf e.bytes 0
    if a.st ≠ .buffered then .next s
    else if e.part < 5 then .next (readTable s e a (e.ent.getD 0))
    else if e.part = 5 then
      let rs := rangesIn (e.bytes.length / 33) e.bytes
      if rs.isEmpty then .next (s.sched (s.sys.now + 1) .translate { clu := a.clu, reg := a.reg, id := e.id, part := 3, word := e.word })
      else .next (goOn (s.mapSys fun y => y.modPortT a.clu a.reg fun p =>
        { p with ranges := rs.foldl (fun l (r : Range) => touch 128 (a.ctx, (if r.common then 4096 else a.colour), r) l) p.ranges }) e.id 1 a)
    else if e.part < 9 then
      if w.getLsbD 0 && fieldOf w 52 12 == 0 && fieldOf w 1 11 == 0 then
        .next (portAsk s e.id 0 a .tableReadFill (e.part - 4) (fieldOf w 12 40 * 4096 + 8 * (page / 2 ^ (9 * (8 - e.part)) % 512)) e.word)
      else .next (xlatFails s e.id a e.word.toNat (.absent 1))
    else
      match (s.sys.portT a.clu a.reg).hits a.ctx a.colour page with
      | r :: _ => .next (goOn (s.mapSys fun y => y.modPortT a.clu a.reg fun p =>
          { p with leaves := touch 256 (a.ctx, (if r.common then 4096 else a.colour), page, w) p.leaves }) e.id 2 a)
      | [] => .next (goOn s e.id 0 a)

end Sys2Proof.Machine
end

