-- ==== Sys2Proof/Machine/EvMem.lean ====
section
/-!
DEFINITION. Device events of home slices and banks (R16 to R18, R174, R190, R303, R306 to R317, R357, R358, R382 to R384, R397): lines are
fetched, accesses perform under sequence tags, readers park and wake.
-/
namespace Sys2Proof.Machine

/-! ### Responses (R190, R306) -/

/-- The response of an access that has performed at a home slice: at the port eight cycles later. -/
def respond (now id slice : Nat) (a : Access) (f : Fly) : Fly :=
  let (d, f) := f.draw
  f.event (replyDue f a.clu slice (now + 8 + d)) .accessRetire { clu := a.clu, reg := a.reg, col := slice, id := id, q := true }

/-! ### Sequence tags (R382, R320) -/

/-- KIND of `%seqlast` (R320). -/
def AccOp.kind : AccOp → Nat
  | .atom _ => 2
  | .st | .stf | .clrf | .sunpin | .splice => 1
  | _ => 0

def seqWord (kind slice : Nat) (tag : BitVec 16) : Word := BitVec.ofNat 64 (kind * 2 ^ 62 + slice * 2 ^ 56 + tag.toNat)

/-! ### The bytes of a line part (R303) -/

/-- The addresses that an access touches in a line, by its number. -/
def Access.inLine (a : Access) (l : Nat) : List Nat :=
  a.segs.flatMap fun g => ((List.range g.2.1).map fun k => (g.1 + k) % vaMod).filter fun va => va / 64 == l

/-- The bytes that an access reads in a line. -/
def readPart (m : Memory) (a : Access) (l : Nat) : List (Nat × Byte) :=
  (a.inLine l).filterMap fun va => (a.pa va).map fun p => (va, readByte m p)

/-- A byte merged with the bits that a store writes (R303). -/
def WByte.merge (w : WByte) (old : Byte) : Byte := (old &&& ~~~w.mask) ||| (w.val &&& w.mask)

/-- The bytes that a store writes in a line, in element order. -/
def Access.writesIn (a : Access) (l : Nat) : List WByte := a.wr.filter fun w => w.va / 64 == l

/-- A store's part in a line. -/
def storePart (m : Memory) (a : Access) (l : Nat) : Memory :=
  (a.writesIn l).foldl (fun m w => match a.pa w.va with
    | some p => writeByte m p (w.merge (readByte m p))
    | none => m) m

/-- The 64 bytes of a physical line. -/
def lineBits (m : Memory) (l : Nat) : BitVec 512 := BitVec.ofNat 512 (readLE m (l * 64) 64)

/-! ### Atomics (R316, R317) -/

/-- The new value of an atomic of `w` bytes: `old` in memory, `d` the elements of the right operand, 64 bits each. -/
def atomNew (op : Atom) (ty : Fmt) (w old : Nat) (d : BitVec 256) : Nat :=
  let n := 8 * w
  let el (i : Nat) : Nat := (d.extractLsb' (64 * i) 64).toNat
  let v := if w = 16 then el 0 + 2 ^ 64 * el 1 else el 0 % 2 ^ n
  let x := BitVec.ofNat n old
  let z := BitVec.ofNat n v
  match op with
  | .add => (x + z).toNat
  | .min => (if z.slt x then z else x).toNat
  | .max => (if x.slt z then z else x).toNat
  | .minn => min old v
  | .maxn => max old v
  | .and => (x &&& z).toNat
  | .or => (x ||| z).toNat
  | .xor => (x ^^^ z).toNat
  | .swp => v
  | .cas =>
    if w = 16 then if old = v then el 2 + 2 ^ 64 * el 3 else old
    else if old = v then el 1 % 2 ^ n else old
  | .fadd =>
    let p := fpOf ty
    p.encode .rn ((p.decode old).add .rn (p.decode v))

/-! ### CACHE banks (R174) -/

/-- The CACHE bank of the access's cluster whose binding covers a page for its colour (R170). -/
def cacheBank (y : Sys) (a : Access) (x : Xlat) : Option Nat :=
  (List.range 16).find? fun b =>
    let v := y.bank a.clu b
    v.mode == .cache && (if v.shared then x.common else v.colour == a.colour) && v.cbase ≤ x.page && x.page < v.cbase + v.cpages

/-- The bank keeps a copy of a line as it stands in memory, while it has room; a writable binding is recorded as its holder. -/
def fillBank (y : Sys) (m : Memory) (c b l : Nat) (dirty : Bool) : Sys :=
  let v := y.bank c b
  if v.lines.length ≥ 1024 ∧ (tabFind v.lines l).isNone then y
  else
    let y := y.setBank c b { v with lines := tabPut v.lines l (lineBits m l, dirty) }
    if v.rdonly then y else y.modLine l fun h => { h with holder := some (c, b) }

/-- The banks of a cluster drop their read-only copies of a line (R174). -/
def dropCopies (y : Sys) (c l : Nat) : Sys :=
  (List.range 16).foldl (fun y b => if (y.bank c b).rdonly then y.modBank c b fun v => { v with lines := tabDel v.lines l } else y) y

/-! ### Full/empty words (R311 to R315) -/

/-- The word that an access names: its physical address divided by 8. -/
def Access.word (a : Access) : Option Nat := (a.pa (a.segs.headD (0, 0, 0)).1).map (· / 8)

def Sys.spillOf (y : Sys) (slice : Nat) : List Nat := tabGet [] y.spill slice
def Sys.setSpill (y : Sys) (slice : Nat) (v : List Nat) : Sys := { y with spill := tabSet [] y.spill slice v }

/-- A parked reader is served: it performs under the tag of what woke it (R313). -/
def serveReader (tag : BitVec 16) (slice : Nat) (s : State) (id : Nat) : State :=
  match s.fly.acc id with
  | none => s
  | some a =>
    let va := (a.segs.headD (0, 0, 0)).1
    let a := { a with got := readPart s.mem a (va / 64), st := .performed, done := 1, tag := seqWord 0 slice tag }
    { s with fly := respond s.sys.now id slice a (s.fly.setAcc id a) }

/-- Every reader parked on a word is served: those of the line list, then those of the spill list (R313). -/
def wakeReaders (s : State) (pa : Nat) : State :=
  let l := pa / 64
  let h := homeSlice pa
  let on (id : Nat) : Bool := (s.fly.acc id).any fun a => a.word == some (pa / 8)
  let v := s.sys.line l
  let q := s.sys.spillOf h
  let ids := v.parked.filter on ++ q.filter on
  if ids.isEmpty then s
  else
    let s := s.mapSys fun y => (y.setLine l { v with parked := v.parked.filter (!on ·) }).setSpill h (q.filter (!on ·))
    ids.foldl (serveReader v.tag h) s

/-- Bit of a word in its line's full/empty bits. -/
def feBit (pa : Nat) : BitVec 8 := BitVec.ofNat 8 (2 ^ (pa % 64 / 8))

/-- A word of a line that performs now is filled as STF fills it (R313, R153, R166, R331): written, set full, its readers served, in one perform. -/
def fillWord (s : State) (pa : Nat) (v : Word) : State :=
  let s := s.mapSys fun y => y.modLine (pa / 64) fun h => { h with fe := h.fe ||| feBit pa }
  wakeReaders { s with mem := writeWord s.mem pa v } pa

/-! ### Live descriptors (R145, R146) -/

/-- FLTAIL and FLHEAD of a descriptor. -/
def flTail (m : Memory) (l : Nat) : BitVec 32 := (readWord m (l * 64 + 40)).extractLsb' 32 32
def flHead (m : Memory) (l : Nat) : BitVec 32 := (readWord m (l * 64 + 40)).extractLsb' 0 32

/-- A store or atomic that would write these bytes (offset in the line, value) of a live descriptor: the offset that `%tva` names where it raises
PROT (R146). -/
def descGuard (m : Memory) (d : Desc) (a : Access) (l : Nat) (ws : List (Nat × Byte)) : Option Nat :=
  match ws.find? fun w => w.1 / 4 != 10 || a.ctx != d.ctx || a.colour != d.colour with
  | some w => some w.1
  | none =>
    let new : BitVec 32 := BitVec.ofNat 32 (leNat ((List.range 4).map fun k =>
      match ws.reverse.find? fun w => w.1 == 40 + k with
      | some w => w.2
      | none => readByte m (l * 64 + 40 + k)))
    let old := flHead m l
    if (new - old).toNat ≤ (flTail m l - old).toNat then none else some 40

/-- The bytes that an access writes in a line, as the guard wants them. -/
def guardBytes (m : Memory) (a : Access) (vl l : Nat) : List (Nat × Byte) :=
  match a.op with
  | .st | .stf => ((a.writesIn vl).filter fun w => w.mask != 0).map fun w => (w.va % 64, w.merge (readByte m (l * 64 + w.va % 64)))
  | .atom op =>
    let va := (a.segs.headD (0, 0, 0)).1
    let w := a.n
    ((leBytes w (atomNew op a.fmt w (readLE m (l * 64 + va % 64) w) a.a)).zipIdx).map fun (b, k) => (va % 64 + k, b)
  | _ => []

/-! ### The access reaches its home slice (R357, R358, R383) -/

/-- Fetches of one home slice from one memory-controller group come back in the order sent (R15, R190). -/
def fetchDue (f : Fly) (slice group due : Nat) : Nat :=
  (f.agenda.filter fun w => match w.act with
    | .ev .lineFetch e => e.col == slice && e.frm == group
    | _ => false).foldl (fun d w => max d w.due) due

/-- A line that its home slice does not hold under the access's key tag: a line held under another is written back (R358), and the line is
fetched from the group of its memory channel (R17), together with any fetch of it that is under way. -/
def missLine (s : State) (id part l : Nat) (a : Access) : State :=
  let s := s.mapSys fun y => y.unhold l
  let group := memGroup (l * 64)
  let under := s.fly.agenda.find? fun w => match w.act with
    | .ev .lineFetch e => e.ent == some l
    | _ => false
  let (due, f) := match under with
    | some w => (w.due, s.fly)
    | none =>
      let (d, f) := s.fly.draw
      (fetchDue f (homeSlice (l * 64)) group (s.sys.now + 1 + d), f)
  { s with fly := f }.sched due .lineFetch
    { clu := a.clu, reg := a.reg, col := homeSlice (l * 64), frm := group, id := id, part := part, ent := some l }

/-- The key tag under which an access reaches its line (R358); a SUNPIN names the line by its physical address; privileged code writes the lines of a
range or page table with ordinary stores, under their table key (R162; log entry 74), as it does a line of a range table that nothing has stored yet. -/
def Access.tagAt (y : Sys) (a : Access) (l : Nat) (x : Xlat) : KeyTag :=
  let v := y.line l
  match a.op with
  | .sunpin => v.owner?.getD (a.keyTag x)
  | _ =>
    if a.ctx ≠ 0 then a.keyTag x
    else match v.table?, v.owner?, rangeTableOf y l with
      | some k, _, _ => tableTag k.ctx
      | none, none, some z => tableTag z
      | _, _, _ => a.keyTag x

/-- An access leaves its home slice without an effect: a trap of its instance, or, after the commit, at the next block entry. -/
def refuseAcc (s : State) (id slice : Nat) (a : Access) (r : TrapRec) : State :=
  if a.committed then
    let s := deferAcc s a r
    let a := { a with done := a.done + 1, st := if a.done + 1 < a.lines.length then .issued else .performed }
    let f := s.fly.setAcc id a
    { s with fly := if a.st = .performed then respond s.sys.now id slice a f else f }
  else trapAcc (s.mapFly (·.delAcc id)) a r

/-- What holds back every perform: the link for a line of host memory (R193), another perform on the line in this cycle (R383), a line that the
slice does not hold under the access's key tag. `i` is the event that performs; `k` performs at physical line `l`. -/
def atSlice (s : State) (i : Instr) (e : Ev) (a : Access) (va : Nat) (k : State → Nat → State) : State :=
  match a.xlat va with
  | none => s
  | some x =>
    let l := (x.pa + va % 65536) / 64
    let again (s : State) : State := s.sched (s.sys.now + 1) i { e with q := true }
    if hostLine l ∧ s.sys.lnkState = 5 then refuseAcc s e.id e.col a (protRec a 0x54 (a.segs.headD (0, 0, 0)).1)
    else if hostLine l ∧ s.sys.lnkState ≠ 2 then again (leaveL1 s)
    else if (s.sys.line l).last = some s.sys.now then again s
    else if (s.sys.line l).held = some (a.tagAt s.sys l x) then k s l
    else missLine s e.id e.part l a

/-! ### Performing (R382, R383) -/

/-- A part has performed: the access with its new count, and its response after the last part. -/
def partDone (s : State) (id slice : Nat) (a : Access) : State :=
  let n := a.done + 1
  let last := n ≥ a.lines.length
  let a := { a with done := n, st := if last then .performed else .issued }
  let f := s.fly.setAcc id a
  { s with fly := if last then respond s.sys.now id slice a f else f }

/-- The access under the tag of a perform, if the line is its last (R320). -/
def Access.stamped (a : Access) (y : Sys) (part slice l : Nat) : Access :=
  if part + 1 = a.lines.length then { a with tag := seqWord a.op.kind slice (y.line l).tag } else a

/-- LDE on a full word performs; on an empty one it parks, or is refused where no list has room (R312). -/
def performLde (s : State) (e : Ev) (a : Access) (l : Nat) : State :=
  let pa := (a.word.getD 0) * 8
  let v := s.sys.line l
  if v.fe &&& feBit pa ≠ 0 then
    let s := s.mapSys fun y => (recallLine y l).stamp l false
    partDone s e.id e.col { a.stamped s.sys e.part e.col l with got := readPart s.mem a ((a.segs.headD (0, 0, 0)).1 / 64) }
  else if a.dead then s.mapFly fun f => f.event (s.sys.now + 8) .accessRetire { clu := a.clu, reg := a.reg, id := e.id }
  else
    let park (s : State) : State := s.mapFly fun f => f.setAcc e.id { a with st := .parked }
    if v.parked.length < 8 then park (s.mapSys fun y => y.setLine l { v with parked := v.parked ++ [e.id] })
    else if (s.sys.spillOf e.col).length < 4096 then park (s.mapSys fun y => y.setSpill e.col (y.spillOf e.col ++ [e.id]))
    else s.sched (s.sys.now + 256) .ldeRetry e

/-- A store, STF, CLRF or atomic at its line; `vl` is the line of its addresses. -/
def performWrite (s : State) (e : Ev) (a : Access) (vl l : Nat) : State :=
  let bad := match tabFind s.sys.descs l with
    | none => none
    | some d => descGuard s.mem d a l (guardBytes s.mem a vl l)
  match bad with
  | some off => refuseAcc s e.id e.col a (protRec a 0x58 (vl * 64 + off))
  | none =>
    let s := s.mapSys fun y => (dropCopies (recallLine y l) a.clu l).stamp l true
    let a' := a.stamped s.sys e.part e.col l
    let s := match a.op with
      | .st => partDone { s with mem := storePart s.mem a vl } e.id e.col a'
      | .stf =>
        let pa := (a.word.getD 0) * 8
        let s := s.mapSys fun y => y.modLine l fun v => { v with fe := v.fe ||| feBit pa }
        partDone (wakeReaders { s with mem := storePart s.mem a vl } pa) e.id e.col a'
      | .clrf =>
        let pa := (a.word.getD 0) * 8
        partDone (s.mapSys fun y => y.modLine l fun v => { v with fe := v.fe &&& ~~~feBit pa }) e.id e.col a'
      | .atom op =>
        let pa := l * 64 + (a.segs.headD (0, 0, 0)).1 % 64
        let old := readLE s.mem pa a.n
        let got := readPart s.mem a vl
        partDone { s with mem := writeLE s.mem pa a.n (atomNew op a.fmt a.n old a.a) } e.id e.col { a' with got := got }
      | _ => s
    if (tabFind s.sys.descs l).isSome then s.sched (s.sys.now + 1) .freeListWrite { id := l } else s

/-- A load or a read of piece entries at its line. -/
def performRead (s : State) (e : Ev) (a : Access) (vl l : Nat) : State :=
  let s := s.mapSys fun y => (recallLine y l).stamp l false
  partDone s e.id e.col { a.stamped s.sys e.part e.col l with got := a.got ++ readPart s.mem a vl }

/-- After a plain load or store at its home slice a CACHE bank of the cluster keeps the line (R174); stores pass a read-only binding by. A writable
binding keeps no line of a live descriptor, whose stores its home slice checks (R146). -/
def keepLine (s : State) (a : Access) (l : Nat) (x : Xlat) : State :=
  match cacheBank s.sys a x with
  | none => s
  | some b =>
    let plain := (tabFind s.sys.descs l).isNone
    if a.op = .ld ∧ (plain ∨ (s.sys.bank a.clu b).rdonly) then s.mapSys fun y => fillBank y s.mem a.clu b l false
    else if a.op = .st ∧ !(s.sys.bank a.clu b).rdonly ∧ plain then s.mapSys fun y => fillBank y s.mem a.clu b l true
    else s

/-- A plain load or store that a CACHE bank of the cluster serves itself (R174): it holds the line, and a store needs a writable binding. Neither
takes a sequence tag. -/
def bankServes (y : Sys) (a : Access) (l : Nat) (x : Xlat) : Option Nat :=
  (cacheBank y a x).filter fun b =>
    let v := y.bank a.clu b
    (tabFind v.lines l).isSome && (a.op == .ld || (a.op == .st && !v.rdonly)) && (y.line l).held == some (a.keyTag x)

/-- A part of an access that the bank serves. -/
def performBank (s : State) (e : Ev) (a : Access) (vl l b : Nat) : State :=
  match a.op with
  | .ld =>
    let v := match tabFind (s.sys.bank a.clu b).lines l with
      | some c => c.1
      | none => 0
    let got := (a.inLine vl).map fun va => (va, v.extractLsb' (va % 64 * 8) 8)
    partDone s e.id e.col { a with got := a.got ++ got }
  | _ =>
    let m := storePart s.mem a vl
    partDone { s with mem := m, sys := fillBank s.sys m a.clu b l true } e.id e.col a

/-- A line that a PREF names (R310): its home slice fetches it, if it does not hold it under the access's key tag (R358). -/
def performPref (s : State) (e : Ev) (a : Access) (l : Nat) (x : Xlat) : State :=
  if (hostLine l && s.sys.lnkState != 2) || (s.sys.line l).held == some (a.tagAt s.sys l x) then partDone s e.id e.col a
  else missLine s e.id e.part l a

/-- An access of the same thread that comes earlier in program order waits at the home slice for the line (R304, R383). -/
def waitsAt (f : Fly) (a : Access) (l : Nat) : Bool :=
  let waits (e : Ev) : Bool := match f.acc e.id with
    | some b => b.clu == a.clu && b.frm == a.frm && b.owner == a.owner && b.precedes a &&
        (b.lines[e.part]?).any fun vl => (b.pa (vl * 64)).any fun p => p / 64 == l
    | none => false
  f.due fun i e => (i == .accessPerform || i == .lineFetch) && waits e

/-- A tile's events name the part of an access by its line. -/
def performAcc (s : State) (e : Ev) (a : Access) (spin : State → Ev → Access → Nat → State) : State :=
  match a.lines[e.part]? with
  | none => s
  | some vl =>
    let va := vl * 64
    match a.xlat va with
    | none => s
    | some x =>
      let l := (x.pa + va % 65536) / 64
      if a.op = .pref then performPref s e a l x
      else match (bankServes s.sys a l x).filter fun _ => !waitsAt s.fly a l with
      | some b => performBank s e a vl l b
      | none => atSlice s .accessPerform e a va fun s l =>
        match a.op with
        | .ld => keepLine (performRead s e a vl l) a l x
        | .piece _ => performRead s e a vl l
        | .lde => performLde s e a l
        | .st => keepLine (performWrite s e a vl l) a l x
        | .stf | .clrf | .atom _ => performWrite s e a vl l
        | .spin | .sunpin => spin s e a l
        | _ => s

/-! ### The events -/

/-- LDE_RETRY (R312): the port sends the refused LDE `id` to its home slice again. -/
def execLdeRetry (s : State) : Host.Outcome State Fault Refusal :=
  let e := s.fly.ev
  match s.fly.acc e.id with
  | none => .next s
  | some a =>
    if a.dead then .next (advance (popRetired (s.mapFly (·.delAcc e.id)) a.clu a.frm) a.clu a.frm)
    else .next (s.sched (pathDue s.fly a.clu (a.slice 0) (s.sys.now + 10)) .accessPerform { e with clu := a.clu, col := a.slice 0, q := false })

/-- LDE_WITHDRAWAL (R315): the withdrawal of the parked LDE `id` reaches its home slice. -/
def execLdeWithdrawal (s : State) : Host.Outcome State Fault Refusal :=
  let id := s.fly.ev.id
  match s.fly.acc id with
  | none => .next s
  | some a =>
    if a.st ≠ .parked then .next s
    else
      let pa := (a.word.getD 0) * 8
      let h := homeSlice pa
      let s := s.mapSys fun y => (y.modLine (pa / 64) fun v => { v with parked := v.parked.filter (· != id) }).setSpill h
        ((y.spillOf h).filter (· != id))
      .next (advance (popRetired (s.mapFly (·.delAcc id)) a.clu a.frm) a.clu a.frm)

/-- LINE_FETCH (R17, R18, R357): the line of part `part` of access `id` comes to home slice `col` from memory-controller group `frm`; a failed check
withholds the access and faults the context. The access then performs. -/
def execLineFetch (s : State) : Host.Outcome State Fault Refusal :=
  let e := s.fly.ev
  match s.fly.acc e.id with
  | none => .next s
  | some a =>
    match a.lines[e.part]? with
    | none => .next s
    | some vl =>
      match a.xlat (vl * 64) with
      | none => .next s
      | some x =>
        let l := (x.pa + vl * 64 % 65536) / 64
        let v := s.sys.line l
        let k := a.tagAt s.sys l x
        let back (s : State) : State :=
          let r : Ev := { clu := a.clu, reg := a.reg, col := e.col, id := e.id, part := e.part, q := true }
          match a.op with
          | .pref => partDone s e.id e.col a
          | .splice => s.sched s.sys.now .splicePerform r
          | .snew => s.sched s.sys.now .snewPerform r
          | .sfree => s.sched s.sys.now .sfreePerform r
          | _ => s.sched s.sys.now .accessPerform r
        if v.held.isSome then .next (back s)
        else
          match s.sys.fetched l k with
          | some y => .next (back { s with sys := { y with fetches := y.fetches + 1 } })
          | none => .next (memoryError (s.mapSys fun y => { y with fetches := y.fetches + 1 }) e.id a)

/-! ### Scratch accesses (R173, R397) -/

/-- The part of a scratch access at its bank. -/
def performScratch (s : State) (a : Access) (vl : Nat) : State × Access :=
  let c := a.clu
  let got := a.got ++ (a.inLine vl).map fun o => (o, s.sys.scr c o)
  match a.op with
  | .ld => (s, { a with got := got })
  | .atom op =>
    let o := (a.segs.headD (0, 0, 0)).1
    let old := leNat ((List.range a.n).map fun k => s.sys.scr c (o + k))
    let bs := leBytes a.n (atomNew op a.fmt a.n old a.a)
    (s.mapSys fun y => (bs.zipIdx).foldl (fun y (b, k) => y.setScr c (o + k) b) y, { a with got := got })
  | _ => (s.mapSys fun y => (a.writesIn vl).foldl (fun y w => y.setScr c w.va (w.merge (y.scr c w.va))) y, a)

/-- SCRATCH_PERFORM (R397): part `part` of access `id` performs at its bank, which performs one access in a cycle. -/
def execScratchPerform (s : State) : Host.Outcome State Fault Refusal :=
  let e := s.fly.ev
  match s.fly.acc e.id with
  | none => .next s
  | some a =>
    match a.lines[e.part]? with
    | none => .next s
    | some vl =>
      let b := vl / 1024
      let now := s.sys.now
      if (s.sys.bank a.clu b).used = some now then .next (s.sched (now + 1) .scratchPerform { e with q := true })
      else
        let (s, a) := performScratch (s.mapSys fun y => y.modBank a.clu b fun v => { v with used := some now }) a vl
        let n := a.done + 1
        let last := n ≥ a.lines.length
        let s := s.mapFly fun f => f.setAcc e.id { a with done := n, st := if last then .performed else .issued }
        .next (if last then s.sched (now + 4) .accessRetire { clu := a.clu, reg := a.reg, id := e.id } else s)

end Sys2Proof.Machine
end

