-- ==== Sys2Proof/Machine/EvStitch.lean ====
section
/-!
DEFINITION. Device events of stitched tensors at the descriptor's home slice (R145 to R155, R293): pins, splices, descriptors made and freed,
and the free list; and ACCESS_PERFORM.
-/
namespace Sys2Proof.Machine

/-! ### Words of a descriptor and of its version area (R145, R147) -/

def descWord (m : Memory) (l n : Nat) : Word := readWord m (l * 64 + 8 * n)
def setDescWord (m : Memory) (l n : Nat) (w : Word) : Memory := writeWord m (l * 64 + 8 * n) w

/-- A word of the version area at the frame of its page in the owning colour's tables; of an unmapped one, a free value. -/
def areaWord (y : Sys) (m : Memory) (d : Desc) (va : Nat) : Word :=
  let va := va % vaMod
  match frameOf y m d.ctx d.colour (va / 65536) with
  | some t => readWord m (t.pa + va % 65536)
  | none => Config.unmapped va

/-- Bytes written to the version area at the frames of its pages; to an unmapped one nothing is written. -/
def putFrames (s : State) (d : Desc) : Nat → List Byte → State
  | _, [] => s
  | va, b :: bs =>
    let s := match frameOf s.sys s.mem d.ctx d.colour (va / 65536) with
      | some t => { s with mem := writeByte s.mem (t.pa + va % 65536) b }
      | none => s
    putFrames s d ((va + 1) % vaMod) bs

/-- Words written to the version area or the free list, on lines that perform now. -/
def putArea (s : State) (d : Desc) (va : Nat) (ws : List Word) : State :=
  putFrames s d (va % vaMod) (ws.flatMap fun w => leBytes 8 w.toNat)

/-- The lines of the `n` bytes of a version area or free list from an address (R147, R149). -/
def areaAsks (y : Sys) (m : Memory) (d : Desc) (va n : Nat) (w : Bool) : List Ask :=
  ((List.range ((va % 64 + n + 63) / 64)).filterMap fun k =>
    let a := (va / 64 + k) % 2 ^ 46 * 64
    (frameOf y m d.ctx d.colour (a / 65536)).map fun t => { line := (t.pa + a % 65536) / 64, key := keyTagOf d.ctx d.colour t, w := w }).eraseDups

/-- An operation on a descriptor acts on other lines too, in the same cycle: it waits until each can perform (R383), and fails with one that fails its
check (R357) or lies behind a link that is DOWN (R193). -/
def withLines (s : State) (i : Instr) (e : Ev) (a : Access) (asks : List Ask) (k : State → State) : State :=
  match openLines asks s with
  | .ok s => k s
  | .wait s => s.sched (s.sys.now + 1) i { e with q := true }
  | .down => refuseAcc s e.id e.col { a with done := a.lines.length } (protRec a 0x54 (a.segs.headD (0, 0, 0)).1)
  | .bad s => memoryError s e.id a

/-- SLOTS (R145). -/
def Desc.slots (d : Desc) : Word := BitVec.ofNat 64 ((d.vers.map fun v => 2 ^ v.slot).sum)

/-- A piece as the splice takes it: BASE, FIRST, COUNT and the version that inserted it. -/
abbrev PieceAt := Nat × Nat × Nat × Nat

/-- The pieces of the version in a slot, as its entries are written (R147). -/
def slotPieces (y : Sys) (m : Memory) (d : Desc) (slot : Nat) : List PieceAt :=
  let at_ := slotAddr d.area slot
  (List.range (fieldOf (areaWord y m d (at_ + 8)) 52 12)).map fun p =>
    let w0 := areaWord y m d (at_ + 64 + 16 * p)
    let w1 := areaWord y m d (at_ + 72 + 16 * p)
    (fieldOf w0 0 52, fieldOf w1 32 32, fieldOf w1 0 32, d.ins.getD p 0)

/-! ### Versions and extents (R148, R149) -/

/-- A CURRENT or PINNED version contains the extent. -/
def Ver.contains (v : Ver) (x : Ext) : Bool := !v.retiring && x.ins ≤ v.seq && v.seq < x.rem

/-- A version that is neither CURRENT nor pinned is RETIRING; the extents that its change frees; slots are cleared once what they free is
written. -/
def Desc.settle (d : Desc) : Desc :=
  let goes (v : Ver) : Bool := v.seq != d.seq && v.pins == 0 && !v.retiring
  let by_ := ((d.vers.find? goes).map Ver.seq).getD 0
  let mark (v : Ver) : Ver := if goes v then { v with retiring := true } else v
  let vers := d.vers.map mark
  let free (x : Ext) : Ext := if x.freedBy.isNone && !vers.any (·.contains x) then { x with freedBy := some by_ } else x
  let exts := d.exts.map free
  { d with vers := vers.filter fun v => !(v.retiring && !exts.any fun x => x.freedBy == some v.seq), exts := exts }

/-- A descriptor changed: SLOTS follows its versions, and the free list is written while its first extent is free. -/
def putDesc (s : State) (l : Nat) (d : Desc) : State :=
  let d := d.settle
  let s := { s with mem := setDescWord s.mem l 2 d.slots, sys := { s.sys with descs := tabPut s.sys.descs l d } }
  if d.exts.head?.any (·.freedBy.isSome) then s.sched (s.sys.now + 1) .freeListWrite { id := l } else s

/-! ### Pins (R150, R151) -/

/-- The pin count of a version, of its record and of the descriptor, changed. -/
def repin (s : State) (l slot : Nat) (d : Desc) (h : Nat → Nat) : State :=
  let fix (v : Ver) : Ver := if v.slot = slot then { v with pins := h v.pins } else v
  let n := ((d.vers.find? fun v => v.slot == slot).map fun v => h v.pins).getD 0
  let at_ := slotAddr d.area slot
  let s := putArea s d at_ [setField (areaWord s.sys s.mem d at_) 32 16 n]
  let w3 := descWord s.mem l 3
  let s := { s with mem := setDescWord s.mem l 3 (setField w3 0 16 (h (fieldOf w3 0 16))) }
  putDesc s l { d with vers := d.vers.map fix }

/-- The first pieces of a version, as a pin-table entry holds them (R294). -/
def pinPieces (y : Sys) (m : Memory) (d : Desc) (slot n : Nat) : List (Nat × Nat × Nat × Nat) :=
  (List.range (min n 8)).map fun k =>
    let va := slotAddr d.area slot + 64 + 16 * k
    let w1 := areaWord y m d (va + 8)
    (k, fieldOf (areaWord y m d va) 0 52, fieldOf w1 32 32, fieldOf w1 0 32)

/-- SPIN (R151, R152): a full pin table or PINS yields 0xFFFF, its VERSION left open (free value). A SPIN whose instance has aborted leaves no
pin. -/
def performSpin (s : State) (e : Ev) (a : Access) (l : Nat) : State :=
  match tabFind s.sys.descs l with
  | none => trapAcc (s.mapFly (·.delAcc e.id)) a (misuse 1 0x43 a.index)
  | some d =>
    if d.ctx ≠ a.ctx ∨ d.colour ≠ a.colour then trapAcc (s.mapFly (·.delAcc e.id)) a a.ownerRec
    else
      let turn (w : Bool) (s : State) : State := s.mapSys fun y => (recallLine y l).stamp l w
      let pins := fieldOf (descWord s.mem l 3) 0 16
      let free := (List.range 256).find? fun n => !(s.sys.pin a.clu n).held
      if a.dead then
        let s := turn false s
        partDone s e.id e.col (a.stamped s.sys 0 e.col l)
      else match free.filter fun _ => pins != 65535 with
        | none =>
          let s := turn false s
          full s (a.stamped s.sys 0 e.col l)
        | some n =>
          let slot := fieldOf (descWord s.mem l 3) 58 6
          let at_ := slotAddr d.area slot
          let w0 := areaWord s.sys s.mem d at_
          let np := fieldOf (areaWord s.sys s.mem d (at_ + 8)) 52 12
          let asks := areaAsks s.sys s.mem d at_ 64 true ++ areaAsks s.sys s.mem d (at_ + 64) (16 * min np 8) false
          withLines s .accessPerform e a asks fun s =>
            let s := turn true s
            let a := a.stamped s.sys 0 e.col l
            let old := s.sys.pin a.clu n
            let gen := if old.used then (old.gen + 1) % 255 else old.gen
            let ver := fieldOf (descWord s.mem l 0) 32 16
            let p : Pin := { held := true, used := true, gen := gen, ctx := a.ctx, colour := a.colour, desc := l, area := d.area, slot := slot,
                             version := BitVec.ofNat 16 ver, esize := d.esize, npieces := np, length := fieldOf w0 0 32,
                             pieces := pinPieces s.sys s.mem d slot np }
            let s := repin (s.mapSys fun y => y.setPin a.clu n p) l slot d (· + 1)
            partDone s e.id e.col { a with b := BitVec.ofNat 64 (ver * 2 ^ 32 + n * 256 + gen), x := n, y := 1 }
where
  full (s : State) (a : Access) : State :=
    let v := Config.freeValue s.sys.freeIx
    let s := s.mapSys fun y => { y with freeIx := y.freeIx + 1 }
    partDone s e.id e.col { a with b := BitVec.ofNat 64 (fieldOf v 32 16 * 2 ^ 32 + 0xFFFF), y := 0 }

/-- SUNPIN (R151): the pin of entry `x` and generation `b` is released; a handle no longer good is ILLOP 0x40 at the next block entry. -/
def performSunpin (s : State) (e : Ev) (a : Access) (l : Nat) : State :=
  let p := s.sys.pin a.clu a.x
  match (tabFind s.sys.descs l).filter fun _ => p.held && p.gen == fieldOf a.b 0 8 && p.desc == l with
  | some d =>
    withLines s .accessPerform e a (areaAsks s.sys s.mem d (slotAddr d.area p.slot) 64 true) fun s =>
      let s := s.mapSys fun y => (recallLine y l).stamp l true
      let a := a.stamped s.sys 0 e.col l
      partDone (repin (s.mapSys fun y => y.setPin a.clu a.x { p with held := false, pieces := [] }) l p.slot d (· - 1)) e.id e.col a
  | none =>
    let s := s.mapSys fun y => (recallLine y l).stamp l false
    let a := a.stamped s.sys 0 e.col l
    partDone (deferAcc s a (misuse 1 0x40 a.index)) e.id e.col a

/-! ### Splices (R153) -/

/-- The pieces of [0, p), the last one cut at p. -/
def piecesBelow (p : Nat) (l : List PieceAt) : List PieceAt :=
  l.filterMap fun (b, f, n, i) => if f < p then some (b, f, min n (p - f), i) else none

/-- The pieces from element `q` on, the first one cut there. -/
def piecesFrom (q esize : Nat) (l : List PieceAt) : List PieceAt :=
  l.filterMap fun (b, f, n, i) => if q < f + n then some (b + (q - f) * 2 ^ esize, f + (q - f), n - (q - f), i) else none

/-- The extents of [p, q), in ascending element index (R149). -/
def removedExts (p q esize rem : Nat) (l : List PieceAt) : List Ext :=
  l.filterMap fun (b, f, n, i) =>
    let lo := max f p
    let hi := min (f + n) q
    if lo < hi then some { ins := i, rem := rem, base := b + (lo - f) * 2 ^ esize, count := hi - lo, freedBy := none } else none

/-- Piece entries with FIRST recomputed. -/
def entryWords : Nat → List PieceAt → List Word
  | _, [] => []
  | f, (b, _, n, _) :: t => BitVec.ofNat 64 (b % 2 ^ 52) :: BitVec.ofNat 64 (f * 2 ^ 32 + n) :: entryWords (f + n) t

/-- What a splice comes to: a status that is not zero, or the new version. -/
inductive SpliceRes where
  | status (n : Nat)
  | version (slot len : Nat) (ps : List PieceAt) (exts : List Ext)
deriving DecidableEq, Repr, Inhabited

/-- The splice of R153 on the current version: POSITION, REMOVE, the inserted pieces. -/
def spliceOf (y : Sys) (m : Memory) (l : Nat) (d : Desc) (pos rem : Nat) (ins : List (Nat × Nat)) : SpliceRes :=
  let len := fieldOf (descWord m l 0) 0 32
  let sum := (ins.map Prod.snd).sum
  if pos > len ∨ pos + rem > len then .status 1
  else if ins.any fun p => p.2 == 0 || p.1 % 2 ^ d.esize != 0 then .status 4
  else if len - rem + sum > 2 ^ 32 - 1 then .status 5
  else
    let v := slotPieces y m d (fieldOf (descWord m l 3) 58 6)
    let ps := piecesBelow pos v ++ (ins.map fun p => (p.1, 0, p.2, d.seq + 1)) ++ piecesFrom (pos + rem) d.esize v
    let slots := descWord m l 2
    if ps.length > 4092 then .status 2
    else match (List.range 64).find? fun n => !slots.getLsbD n with
      | none => .status 3
      | some slot => .version slot (len - rem + sum) ps (removedExts pos (pos + rem) d.esize (d.seq + 1) v)

/-- The new version written and made CURRENT (R147, R153). -/
def newVersion (s : State) (l : Nat) (d : Desc) (slot len : Nat) (ps : List PieceAt) (exts : List Ext) : State :=
  let n := d.seq + 1
  let at_ := slotAddr d.area slot
  let s := putArea s d at_ ([BitVec.ofNat 64 (n % 65536 * 2 ^ 48 + len), BitVec.ofNat 64 (ps.length * 2 ^ 52), 0, 0, 0, 0, 0, 0] ++ entryWords 0 ps)
  let w0 := setField (setField (descWord s.mem l 0) 32 16 n) 0 32 len
  let m := setDescWord (setDescWord s.mem l 0 w0) l 3 (setField (descWord s.mem l 3) 58 6 slot)
  putDesc { s with mem := m } l { d with seq := n, vers := d.vers ++ [{ seq := n, slot := slot, pins := 0, retiring := false }],
                                         ins := ps.map fun p => p.2.2.2, exts := d.exts ++ exts }

/-- The lines that a splice acts on beside the descriptor's: the record's, the current version's, and the new one's. -/
def spliceAsks (y : Sys) (m : Memory) (a : Access) (d : Desc) (l : Nat) (r : SpliceRes) : List Ask :=
  let rec_ := fieldOf a.b 0 52
  let cur := slotAddr d.area (fieldOf (descWord m l 3) 58 6)
  ((List.range ((64 + 16 * a.x + 63) / 64)).filterMap fun k =>
    let va := (rec_ + 64 * k) % vaMod
    (a.xlat va).map fun x => { line := (x.pa + va % 65536) / 64, key := a.keyTag x, w := k == 0 })
  ++ areaAsks y m d cur (64 + 16 * fieldOf (areaWord y m d (cur + 8)) 52 12) false
  ++ match r with
    | .status _ => []
    | .version slot _ ps _ => areaAsks y m d (slotAddr d.area slot) (64 + 16 * ps.length) true

/-- SPLICE_PERFORM (R153, R154, R293): access `id` of cluster `clu` at the descriptor's home slice; its status word is filled as by STF. -/
def execSplicePerform (s : State) : Host.Outcome State Fault Refusal :=
  let e := s.fly.ev
  match s.fly.acc e.id with
  | none => .next s
  | some a =>
    .next (atSlice s .splicePerform e a (a.segs.headD (0, 0, 0)).1 fun s l =>
      match tabFind s.sys.descs l with
      | none => refuseAcc s e.id e.col { a with done := a.lines.length } (misuse 1 0x43 a.index)
      | some d =>
        if d.ctx ≠ a.ctx ∨ d.colour ≠ a.colour then refuseAcc s e.id e.col { a with done := a.lines.length } a.ownerRec
        else
          let rec_ := fieldOf a.b 0 52
          let at_ (k : Nat) : Nat := (a.pa ((rec_ + k) % vaMod)).getD 0
          let w (k : Nat) : Word := readWord s.mem (at_ k)
          let ins := (List.range a.x).map fun k => (fieldOf (w (64 + 16 * k)) 0 52, fieldOf (w (72 + 16 * k)) 0 32)
          let res := spliceOf s.sys s.mem l d (fieldOf (w 0) 0 32) (fieldOf (w 8) 0 32) ins
          withLines s .splicePerform e a (spliceAsks s.sys s.mem a d l res) fun s =>
            let s := s.mapSys fun y => (recallLine y l).stamp l true
            let a := a.stamped s.sys 0 e.col l
            let s := match res with
              | .status n => fillWord s (at_ 24) (BitVec.ofNat 64 n)
              | .version slot len ps exts =>
                let s := newVersion s l d slot len ps exts
                let s := { s with mem := writeWord s.mem (at_ 32) (BitVec.ofNat 64 (d.seq + 1)) }
                fillWord s (at_ 24) 0
            partDone s e.id e.col a)

/-! ### Descriptors made and freed (R152, R293) -/

/-- SNEW_PERFORM (R293): access `id` makes a descriptor, with version 0 in slot 0; a live one is ILLOP 0x42 at the next block entry. -/
def execSnewPerform (s : State) : Host.Outcome State Fault Refusal :=
  let e := s.fly.ev
  match s.fly.acc e.id with
  | none => .next s
  | some a =>
    let va := (a.segs.headD (0, 0, 0)).1
    .next (atSlice s .snewPerform e a va fun s l =>
      if (tabFind s.sys.descs l).isSome then refuseAcc s e.id e.col a (misuse 1 0x42 a.index)
      else
        let d : Desc := { ctx := a.ctx, colour := a.colour, va := va, area := fieldOf a.b 0 52, esize := a.x, fllog := a.y, seq := 0,
                          vers := [{ seq := 0, slot := 0, pins := 0, retiring := false }], ins := [], exts := [] }
        withLines s .snewPerform e a (areaAsks s.sys s.mem d d.area 64 true) fun s =>
          let s := putArea (s.mapSys fun y => (recallLine y l).stamp l true) d d.area (List.replicate 8 0)
          let ws : List Word := [BitVec.ofNat 64 (a.colour * 2 ^ 52 + a.x * 2 ^ 48), BitVec.ofNat 64 d.area, 1, 0, BitVec.ofNat 64 (a.y * 2 ^ 60), 0]
          let m := (ws.zipIdx).foldl (fun m (w, k) => setDescWord m l k w) s.mem
          partDone (putDesc { s with mem := m } l d) e.id e.col a)

/-- SFREE_PERFORM (R293): access `id` ends a descriptor; pins or more than one version are ILLOP 0x44. -/
def execSfreePerform (s : State) : Host.Outcome State Fault Refusal :=
  let e := s.fly.ev
  match s.fly.acc e.id with
  | none => .next s
  | some a =>
    .next (atSlice s .sfreePerform e a (a.segs.headD (0, 0, 0)).1 fun s l =>
      match tabFind s.sys.descs l with
      | none => refuseAcc s e.id e.col a (misuse 1 0x43 a.index)
      | some d =>
        if d.ctx ≠ a.ctx ∨ d.colour ≠ a.colour then refuseAcc s e.id e.col a a.ownerRec
        else if fieldOf (descWord s.mem l 3) 0 16 ≠ 0 ∨ d.vers.length > 1 then refuseAcc s e.id e.col a (misuse 1 0x44 a.index)
        else
          let s := s.mapSys fun y => { (recallLine y l).stamp l true with descs := tabDel y.descs l }
          partDone s e.id e.col a)

/-- FREE_LIST_WRITE (R149): the first removed extent of the descriptor at line `id`, if it is free and the list has room, is written at FLTAIL, on the
lines of the descriptor and of the list in their turn. -/
def execFreeListWrite (s : State) : Host.Outcome State Fault Refusal :=
  let e := s.fly.ev
  let l := e.id
  let s := s.mapSys fun y => recallLine y l
  match tabFind s.sys.descs l with
  | none => .next s
  | some d =>
    match d.exts with
    | [] => .next s
    | x :: rest =>
      let tail := flTail s.mem l
      if x.freedBy.isNone ∨ (tail - flHead s.mem l).toNat ≥ 2 ^ d.fllog then .next s
      else
        let va := d.va + 64 + 16 * (tail.toNat % 2 ^ d.fllog)
        let own : Ask := { line := l, key := (s.sys.line l).owner?.getD (tableTag d.ctx), w := true }
        let again (s : State) : State := s.sched (s.sys.now + 1) .freeListWrite { e with q := true }
        match openLines (own :: areaAsks s.sys s.mem d (va % vaMod) 16 true) s with
        | .wait s => .next (again s)
        | .down => .next (again s)
        | .bad s =>
          let c := (s.sys.clusters d.ctx).headD 0
          .next (memFault s d.ctx c 0 ((s.sys.thr c 0).serial + 1))
        | .ok s =>
          let s := putArea s d va [BitVec.ofNat 64 (x.base % 2 ^ 52), BitVec.ofNat 64 (x.rem % 2 ^ 32 * 2 ^ 32 + x.count)]
          let m := setDescWord s.mem l 5 (setField (descWord s.mem l 5) 32 32 (tail + 1).toNat)
          .next (putDesc { s with mem := m } l { d with exts := rest })

/-- What SPIN and SUNPIN do at the descriptor's line. -/
def performPin (s : State) (e : Ev) (a : Access) (l : Nat) : State :=
  if a.op = .spin then performSpin s e a l else performSunpin s e a l

/-- ACCESS_PERFORM (R174, R303, R311 to R317, R382, R383): part `part` of access `id` of cluster `clu` reaches its home slice, or a CACHE bank that
holds its line; `q` where it has waited there. -/
def execAccessPerform (s : State) : Host.Outcome State Fault Refusal :=
  let e := s.fly.ev
  match s.fly.acc e.id with
  | none => .next s
  | some a => .next (performAcc s { e with col := a.slice e.part } a performPin)

end Sys2Proof.Machine
end

