-- ==== Sys2Proof/Machine/EvRetire.lean ====
section
/-!
DEFINITION. ACCESS_RETIRE (R294, R306, R308, R316, R318 to R320, R384, R396): responses and acknowledgements at the port, the tokens they yield,
and `%seqlast`.
-/
namespace Sys2Proof.Machine

/-! ### What a response yields -/

/-- The bytes of a segment as they were read. -/
def Access.gotBytes (a : Access) (g : Nat × Nat × Nat) : List Byte :=
  (List.range g.2.1).map fun k => match a.got.find? fun e => e.1 == (g.1 + k) % vaMod with
    | some e => e.2
    | none => 0

/-- The elements of a load (R308, R48): contiguous from one address, or each from its own. -/
def Access.loaded (a : Access) : List Word :=
  if a.y = 1 then a.segs.map fun g => memLoad g.2.2 (leNat (a.gotBytes g) % 2 ^ memBits a.fmt g.2.2)
  else
    let g := a.segs.headD (0, 0, 0)
    let w := memBits a.fmt g.2.2
    let v := leNat (a.gotBytes g)
    (List.range a.n).map fun e => memLoad g.2.2 (v / 2 ^ (e * w) % 2 ^ w)

/-- The elements of a gather index by index, none where the firing produced nothing (R28). -/
def Access.elements (a : Access) : List (Option Word) :=
  ((List.range (a.len + 1)).foldl (fun (r : List (Option Word) × List Word) k =>
    if a.skip.contains (a.index + k) then (r.1 ++ [none], r.2) else (r.1 ++ [r.2.head?], r.2.tail)) ([], a.loaded)).1

/-- The tokens of a response, under the tag of the address token. -/
def Access.yields (a : Access) : List Token :=
  match a.op with
  | .ld =>
    if !a.vec then [scalarTok a.colour a.frm a.index a.fmt (a.loaded.headD 0)]
    else if a.skip.isEmpty then runToks a.colour a.frm a.index a.fmt a.loaded
    else (groupRuns a.index a.elements).flatMap fun (i, xs) => runToks a.colour a.frm i a.fmt xs
  | .lde | .atom _ =>
    let v := leNat (a.gotBytes (a.segs.headD (0, 0, 0)))
    if a.vec then runToks a.colour a.frm a.index .x64 [BitVec.ofNat 64 (v % 2 ^ 64), BitVec.ofNat 64 (v / 2 ^ 64)]
    else [scalarTok a.colour a.frm a.index a.fmt (BitVec.ofNat 64 v)]
  | .spin => [scalarTok a.colour a.frm a.index .x64 a.b]
  | .fence | .fencea => [scalarTok a.colour a.frm a.index .prd 1]
  | _ => []

/-- A token that leaves the port tile, west of column 0, in cycle `leave` (R396); that of a FENCE or FENCEA is delivered in that cycle (R384). -/
def portTok (a : Access) (leave : Nat) (t : Token) (tgt : Target) (f : Fly) : Fly :=
  let at_ (n : Nat) : Nat := if a.op = .fence ∨ a.op = .fencea then leave else leave + 1 + n
  match tgt with
  | .none => f
  | .reg n => f.event (at_ 0) .tokenArrival
      { clu := a.clu, reg := a.reg, frm := a.bf, part := 1, col := n.toNat, id := a.idx, ent := some a.ser, tok := t, net := t.net }
  | .op p i => f.event (at_ (peCol i.toNat)) .tokenArrival
      { clu := a.clu, reg := a.reg, frm := a.bf, dest := { clu := a.clu, reg := a.reg, frm := a.bf, idx := i.toNat, pos := p },
        id := a.idx, ent := some a.ser, tok := t, net := t.net }

/-- The tokens of an access sent to its targets: a fence's leave in the cycle in which it performs (R384), others in the next (R190). -/
def sendYields (now : Nat) (a : Access) (ts : List Token) (f : Fly) : Fly :=
  let leave := if a.op = .fence ∨ a.op = .fencea then now else now + 1
  ts.foldl (fun f t => portTok a leave t a.t1 (portTok a leave t a.t0 f)) f

/-! ### Reads of piece entries (R294) -/

/-- A piece entry has come back: SNEXT yields it; SIDX yields an address from it, reads the next, or finds none (ILLOP 0x46). -/
def pieceBack (s : State) (id : Nat) (a : Access) (snext : Bool) : State :=
  let p := s.sys.pin a.clu a.x
  let v := leNat (a.gotBytes (a.segs.headD (0, 0, 0)))
  let base := v % 2 ^ 52
  let count := v / 2 ^ 64 % 2 ^ 32
  let first := v / 2 ^ 96
  let lo := (a.a.extractLsb' 0 16).toNat
  let hi := (a.a.extractLsb' 16 16).toNat
  let mid := (lo + hi) / 2
  let yield_ (w : Word) : State :=
    s.mapFly fun f => (sendYields s.sys.now a [scalarTok a.colour a.frm a.index .x64 w] f).delAcc id
  if snext then yield_ (BitVec.ofNat 64 (first * 2 ^ 32 + count))
  else if first ≤ a.y ∧ a.y < first + count then yield_ (sidxAddr p.esize a.y base first)
  else
    let lo' := if a.y < first then lo else mid + 1
    let hi' := if a.y < first then mid else hi
    if lo' ≥ hi' then trapAcc (s.mapFly (·.delAcc id)) a (misuse 1 0x46 a.index)
    else
      let a := { a with segs := [(pieceAt p ((lo' + hi') / 2), 16, 0)], a := BitVec.ofNat 256 (hi' * 65536 + lo'), st := .buffered, done := 0, got := [],
                        xl := [] }
      (s.mapFly fun f => f.setAcc id a).sched s.sys.now .translate { clu := a.clu, reg := a.reg, id := id }

/-! ### The event -/

/-- The response or acknowledgement of an access: its tokens leave, it answers its LSID, what waited for it goes on. -/
def retireAcc (s : State) (id : Nat) (a : Access) : State :=
  let s := s.mapFly fun f => sendYields s.sys.now a a.yields (f.setAcc id { a with st := .retired })
  let s := if a.released then s else answerAcc s a
  let s := if a.op = .ld ∨ a.op = .lde then s.mapFly (sampleMon s.sys a.ctx a.colour 0 (s.sys.now - a.since)) else s
  let s := ackAccess s id
  let s := if a.lsid.isNone then s.mapFly (·.delAcc id) else popRetired s a.clu a.frm
  advance s a.clu a.frm

/-- ACCESS_RETIRE (R306, R318 to R320, R384): part 0, the response or acknowledgement of access `id` reaches its port; part 1, a released operation
has been translated, or a PREF issues: it answers its LSID. -/
def execAccessRetire (s : State) : Host.Outcome State Fault Refusal :=
  let e := s.fly.ev
  match s.fly.acc e.id with
  | none => .next s
  | some a =>
    if e.part = 1 then .next (if a.dead ∨ (a.st ≠ .atPort ∧ !a.gone) then s else answerAcc s a)
    else if a.st = .retired then .next s
    else if a.dead then .next (advance (popRetired (ackAccess (s.mapFly (·.delAcc e.id)) e.id) a.clu a.frm) a.clu a.frm)
    else match a.op with
      | .piece snext => .next (pieceBack s e.id a snext)
      | _ => .next (retireAcc s e.id a)

end Sys2Proof.Machine
end

