-- ==== Sys2Proof/Machine/EvLoad.lean ====
section
/-!
DEFINITION. Kernel loading by the management core (R86, R87, R104, R134, R161, R214 to R218, R331, R361), the end of RELAT (R166), and the
keys that the management core registers (R355, R361, R371).
-/
namespace Sys2Proof.Machine

/-! ### The image (R216, R217) -/

/-- An entry of the section table (R216). -/
structure Sect where
  ty : Nat
  n : Nat
  off : Nat
  size : Nat
  va : Nat
deriving DecidableEq, Repr, Inhabited

/-- The sections of the image at a physical address. -/
def imageSects (m : Memory) (pa : Nat) : List Sect :=
  (List.range (readLE m (pa + 10) 2)).map fun k =>
    let at_ := pa + 64 + 32 * k
    { ty := readLE m at_ 4, n := readLE m (at_ + 4) 4, off := readLE m (at_ + 8) 8, size := readLE m (at_ + 16) 8, va := readLE m (at_ + 24) 8 }

/-- The one section of a type. -/
def sectOf (ss : List Sect) (ty : Nat) : Option Sect := ss.find? fun x => x.ty == ty

/-- Reason 1: the header is not one of R216. -/
def imageBad (m : Memory) (pa : Nat) : Bool :=
  let n := readLE m (pa + 10) 2
  readLE m pa 4 != 0x0A4F594B || readLE m (pa + 4) 2 != 1 || readLE m (pa + 6) 2 != Config.archVersion.toNat || readLE m (pa + 8) 2 == 0
    || n < 2 || 64 < n || readLE m (pa + 12) 4 != 0 || readLE m (pa + 56) 8 != 0 || readLE m (pa + 16) 8 < 64 + 32 * n

/-- Bytes of an entry of the sections that have entries of one size (R217). -/
def sectEntry (ty : Nat) : Nat :=
  match ty with
  | 4 => 48 | 5 | 6 | 7 | 10 => 32 | 8 => 16 | 11 => 4 | 12 => 8 | _ => 0

/-- Reason 1: a section that is not in the image at a multiple of 64, or too short for its entries. -/
def sectBad (size : Nat) (x : Sect) : Bool := x.off % 64 != 0 || size < x.off + x.size || x.size < x.n * sectEntry x.ty

/-- Reason 8: section types and overlaps (R217); the header and the section table lie in the image too. -/
def sectsBad (ss : List Sect) : Bool :=
  let meets (x y : Sect) : Bool := x.off < y.off + y.size && y.off < x.off + x.size
  let pairs := ss.zipIdx.any fun (x, i) => (ss.drop (i + 1)).any (meets x)
  pairs || ss.any (fun x => x.off < 64 + 32 * ss.length && x.size != 0) || ss.any (fun x => x.ty == 0 || 15 < x.ty)
    || (ss.map Sect.ty).eraseDups.length != ss.length || (sectOf ss 1).isNone || (sectOf ss 15).isNone

/-- The digest of R216: bytes 0 to 23, then every section other than SIGN in table order. -/
def imageDigest (m : Memory) (pa : Nat) (ss : List Sect) : BitVec 256 :=
  Config.digest256 (readBytes m pa 24 ++ (ss.filter (·.ty != 15)).flatMap fun x => readBytes m (pa + x.off) x.size)

/-- The SIGN section verifies over bytes 0 to 63 under a key registered for the context (R361). -/
def signedBy (m : Memory) (pa : Nat) (ss : List Sect) (keys : List (List Byte)) : Bool :=
  let sign := match sectOf ss 15 with
    | some x => readBytes m (pa + x.off) x.size
    | none => []
  keys.any fun k => Config.signatureOk k sign (readBytes m pa 64)

/-! ### A load in progress -/

/-- What a load has come to: the state as it would be, the kernel, and the reasons to reject it (R331). -/
structure Loading where
  s : State
  x : Nat
  k : Kernel
  bad : List Nat
deriving DecidableEq, Repr, Inhabited

def Loading.fail (l : Loading) (n : Nat) : Loading := { l with bad := n :: l.bad }
def Loading.check (l : Loading) (ok : Bool) (n : Nat) : Loading := if ok then l else l.fail n

/-- Each entry of a section, with the physical address of its bytes. -/
def Loading.each (l : Loading) (pa : Nat) (ss : List Sect) (ty : Nat) (h : Loading → Nat → Loading) : Loading :=
  match sectOf ss ty with
  | none => l
  | some x => (List.range x.n).foldl (fun l i => h l (pa + x.off + i * sectEntry ty)) l

/-- A value that firmware supplies (a FREE VALUE). -/
def supply (s : State) : Nat × State :=
  ((Config.freeValue s.sys.freeIx).toNat, s.mapSys fun y => { y with freeIx := y.freeIx + 1 })

/-- Bytes become zero, under no key yet and, where words carry full/empty bits, empty (R311). -/
def zeroPages (s : State) (a n : Nat) : State :=
  let within (e : Nat × Line) : Bool := a ≤ e.1 * 64 && e.1 * 64 < a + n
  let y := (s.sys.lines.filter within).foldl (fun y e => recallLine y e.1) s.sys
  let clean (e : Nat × Line) : Nat × Line := if within e then (e.1, { e.2 with ktag := none, held := none, fe := 0 }) else e
  { s with mem := s.mem.filter fun c => c.1 < a || a + n ≤ c.1, sys := { y with lines := y.lines.map clean } }

/-- A word of a context's range table or of a page table, written under its table key (R159, R356; log entry 74). -/
def writeTable (s : State) (x pa : Nat) (w : Word) : State :=
  { s with mem := writeWord s.mem pa w, sys := s.sys.storeLine (pa / 64) (tableTag x) }

/-- Bytes of the image written at their address, the lines stored under the key tag of the pages they lie on (R217, R356). -/
def placeBytes (s : State) (x colour ident va : Nat) (bs : List Byte) : State :=
  (putVirt s x colour ident va bs).mapSys fun y => (linesOf y s.mem x colour va bs.length true).foldl (fun y q => y.storeLine q.line q.key) y

/-! ### RANGE (R158, R159, R217) -/

/-- The next table of a walk, made by firmware where there is none. -/
def descend (x : Nat) (s : State) (t i : Nat) : Nat × State :=
  match walkNext s.mem t i with
  | some n => (n, s)
  | none =>
    let (v, s) := supply s
    let n := v % 2 ^ 40 * 4096
    let s := zeroPages s n 4096
    (n, writeTable s x (t + 8 * i) (BitVec.ofNat 64 (n + 1)))

/-- The leaf of a page of a paged range, backed by a page that firmware supplies. -/
def backPage (x : Nat) (attr : Word) (pbase : Nat) (s : State) (page : Nat) : State :=
  let (t2, s) := descend x s pbase (page / 2 ^ 27 % 512)
  let (t1, s) := descend x s t2 (page / 2 ^ 18 % 512)
  let (t0, s) := descend x s t1 (page / 2 ^ 9 % 512)
  let (v, s) := supply s
  let frame := v % 2 ^ 36
  let s := zeroPages s (frame * 65536) 65536
  writeTable s x (t0 + 8 * (page % 512)) (setField attr 12 36 frame)

/-- An entry of RANGE: entered in the lowest entry of its table that is not VALID. -/
def loadRange (l : Loading) (at_ : Nat) : Loading :=
  let w (n : Nat) : Word := readWord l.s.mem (at_ + 8 * n)
  let common := (w 0).getLsbD 51
  let back := (w 0).getLsbD 50
  let table := if common then 4096 else fieldOf (w 0) 52 12
  let paged := (w 2).getLsbD 14
  let first := fieldOf (w 2) 16 36
  let last := fieldOf (w 3) 16 36
  let reserved := fieldOf (w 0) 0 50 != 0 || w 1 != 0 || fieldOf (w 2) 52 12 != 0 || fieldOf (w 2) 0 14 != 0 || fieldOf (w 3) 52 12 != 0
    || fieldOf (w 3) 0 16 != 0 || fieldOf (w 4) 52 12 != 0 || fieldOf (w 4) 0 (if paged then 12 else 16) != 0 || fieldOf (w 5) 0 3 != 0
    || (paged && !back && w 5 != 0)
  match (List.range 256).find? fun e => (readRange l.s.sys l.s.mem l.x table e).isNone with
  | none => l.fail 9
  | some e =>
    if reserved ∨ last < first then l.fail 9
    else
      let (v, s) := if back then supply l.s else (0, l.s)
      let pbase := if !back then (w 4).toNat else if paged then v % 2 ^ 40 * 4096 else v % 2 ^ 36 * 65536
      let s := if !back then s
        else if paged then (List.range (last + 1 - first)).foldl (fun s i => backPage l.x (w 5) pbase s (first + i)) (zeroPages s pbase 4096)
        else zeroPages s pbase ((last + 1 - first) * 65536)
      let ent := tableBase s.sys l.x table + e * 32
      let s := writeTable (writeTable s l.x ent (w 2)) l.x (ent + 8) (w 3)
      { l with s := writeTable (writeTable s l.x (ent + 16) (BitVec.ofNat 64 pbase)) l.x (ent + 24) (if paged then 0 else w 5) }

/-! ### BLOCKS, CONST, TRAPV, DATA -/

/-- Every page of a byte range is common, mapped, and (with `b`) open to block fetches. -/
def commonRange (s : State) (x ident va n : Nat) (b : Bool) : Bool :=
  (pagesOf va n).all fun p => match xlateNow s.sys s.mem x 0 ident { b := b } p.1 with
    | .ok t => t.common
    | _ => false

/-- A section is placed at its address in a common range, or the kernel is rejected. -/
def placeCommon (l : Loading) (pa : Nat) (q : Sect) (ok b : Bool) : Loading :=
  if ok && q.va + q.size ≤ vaMod && commonRange l.s l.x l.k.ident q.va q.size b then
    { l with s := placeBytes l.s l.x 0 l.k.ident q.va (readBytes l.s.mem (pa + q.off) q.size) }
  else l.fail 1

/-- The blocks of BLOCKS, each at the next multiple of 64 after the last (R203): offset in the section and words, header first. -/
def blocksFrom (m : Memory) (at_ size : Nat) : Nat → Nat → List (Nat × List Word)
  | 0, _ => []
  | n + 1, o =>
    let words := fieldOf (readWord m (at_ + o)) 49 7 + 2
    let next := o + (8 * words + 63) / 64 * 64
    (o, (List.range words).map fun k => readWord m (at_ + o + 8 * k)) :: blocksFrom m at_ size n next

/-- BLOCKS: placed, and each block checked (R87, R214). -/
def loadBlocks (l : Loading) (pa : Nat) (ss : List Sect) : Loading :=
  match sectOf ss 1 with
  | none => l
  | some q =>
    let bs := blocksFrom l.s.mem (pa + q.off) q.size q.n 0
    let l := placeCommon l pa q (q.va % 64 == 0 && bs.all fun b => b.1 + 8 * b.2.length ≤ q.size) true
    let check (b : Nat × List Word) : Blk :=
      let inj := (l.k.injects.filter fun j => j.1 == q.va + b.1).map fun j => j.2
      { addr := q.va + b.1, bad := blockCheck (q.va + b.1) b.2 inj }
    { l with k := { l.k with blocks := bs.map check } }

def loadConst (l : Loading) (pa : Nat) (ss : List Sect) : Loading :=
  match sectOf ss 2 with
  | none => l
  | some q => placeCommon l pa q true false

/-- TRAPV: placed, and `%cxvec` set (R83). -/
def loadTrapv (l : Loading) (pa : Nat) (ss : List Sect) : Loading :=
  match sectOf ss 9 with
  | none => l
  | some q =>
    let l := placeCommon l pa q (q.va % 256 == 0 && q.size == 256) false
    { l with s := l.s.mapSys fun y => y.modCtx l.x fun v => { v with cxvec := BitVec.ofNat 64 (q.va % 2 ^ 52 + 1) } }

/-- The colours that an image declares: those of its QUOTA entries and of its private ranges. -/
def declared (m : Memory) (pa : Nat) (ss : List Sect) : List Nat :=
  let all (ty : Nat) (h : Nat → Option Nat) : List Nat := match sectOf ss ty with
    | none => []
    | some q => (List.range q.n).filterMap fun i => h (pa + q.off + i * sectEntry ty)
  (all 5 (fun a => some (fieldOf (readWord m (a + 8)) 52 12)) ++ all 4 fun a =>
    if (readWord m a).getLsbD 51 then none else some (fieldOf (readWord m a) 52 12)).eraseDups

/-- Items of DATA, from the offset of each head. -/
def loadData (cols : List Nat) (at_ size : Nat) : Nat → Nat → Loading → Loading
  | 0, _, l => l
  | n + 1, o, l =>
    let va := (readWord l.s.mem (at_ + o)).toNat
    let w1 := readWord l.s.mem (at_ + o + 8)
    let len := fieldOf w1 0 32
    let bs := readBytes l.s.mem (at_ + o + 16) len
    let one (l : Loading) (col : Nat) : Loading :=
      match firstBad l.s.sys l.s.mem l.x col l.k.ident {} (pagesOf va len) with
      | some _ => l.fail 1
      | none => { l with s := placeBytes l.s l.x col l.k.ident va bs }
    if size < o + 16 + len ∨ vaMod < va + len ∨ fieldOf w1 32 19 ≠ 0 then l.fail 1
    else loadData cols at_ size n (o + 16 + (len + 7) / 8 * 8) ((if w1.getLsbD 51 then cols else [fieldOf w1 52 12]).foldl one l)

/-! ### QUOTA, MATCH, QUEUE, INJECT, CTX, SAFE, LIVE -/

/-- An entry of QUOTA (R36 to R38): written to the lowest entry of the cluster's colour table that is not VALID. -/
def loadQuota (l : Loading) (at_ : Nat) : Loading :=
  let w (n : Nat) : Word := readWord l.s.mem (at_ + 8 * n)
  let c := fieldOf (w 0) 0 7
  let y := l.s.sys
  let reserved := fieldOf (w 0) 7 57 != 0 || w 3 != 0 || (w 1).getLsbD 5 || (w 1).getLsbD 0 || fieldOf (w 2) 0 8 != 0
  match (List.range 64).find? fun e => !(y.cent c e).valid with
  | none => l.fail 4
  | some e =>
    let new := setField (w 1) 0 4 0
    let es := (List.range 64).map fun n => if n = e then { y.cent c e with w0 := new } else y.cent c n
    if reserved || y.ctxOf c != l.x || !ctabOk es then l.fail 4
    else { l with s := l.s.mapSys fun y => writeCent1 (writeCent0 y c e new) c e (w 2) }

/-- An entry of MATCH: written LOADED (R133), checked under R134. -/
def loadMatch (l : Loading) (at_ : Nat) : Loading :=
  let w (n : Nat) : Word := readWord l.s.mem (at_ + 8 * n)
  let c := fieldOf (w 0) 0 7
  let e := fieldOf (w 0) 8 8
  let q := entryTriple (w 1)
  let reserved := (w 0).getLsbD 7 || fieldOf (w 0) 16 48 != 0 || w 3 != 0
  if reserved || l.s.sys.ctxOf c != l.x || !pairMeets (c % 8) q.2.1 q.2.2 || tripleTaken l.s.sys c e q || (l.s.sys.ment c e).busy then l.fail 5
  else { l with s := l.s.mapSys fun y => y.setMent c e (loadEntry (w 1) (w 2)) }

/-- A size that R104 admits: a power of two from 16 to 4,096. -/
def sizeOk (d : Nat) : Bool := [16, 32, 64, 128, 256, 512, 1024, 2048, 4096].contains d

/-- The bytes lie in one private range of a colour. -/
def inPrivate (s : State) (x colour va n : Nat) : Bool :=
  (rangesFor s.sys s.mem x colour (va / 65536)).any fun r => va + n ≤ (r.vlast + 1) * 65536

/-- An entry of QUEUE (R104, R106). -/
def loadQueue (l : Loading) (at_ : Nat) : Loading :=
  let w (n : Nat) : Word := readWord l.s.mem (at_ + 8 * n)
  let q := fieldOf (w 0) 1 12
  let colour := fieldOf (w 0) 13 12
  let c := fieldOf (w 0) 25 7
  let d := fieldOf (w 0) 32 13
  let base := (w 1).toNat
  let v := l.s.sys.ctx l.x
  let reserved := fieldOf (w 0) 45 19 != 0 || w 2 != 0 || w 3 != 0
  if reserved || !sizeOk d || !holdsColour l.s.sys l.x colour then l.fail 9
  else if (w 0).getLsbD 0 then
    if (tabFind v.ports q).isSome || base % 64 != 0 || vaMod ≤ base || !inPrivate l.s l.x colour base (d * 64) then l.fail 9
    else
      let p : Port := { ident := l.k.ident, colour := colour, size := d, base := base, tail := 0, head := 0, claimed := 0 }
      { l with s := l.s.mapSys fun y => y.modCtx l.x fun v => { v with ports := tabPut v.ports q p } }
  else if (tabFind v.queues q).isSome || l.s.sys.ctxOf c != l.x then l.fail 9
  else
    let p : Queue := { ident := l.k.ident, colour := colour, clu := c, depth := d, buf := [], st := if v.st = .running then .opened else .suspended,
                       lasterr := 0, errs := 0, retired := 0, resv := 0, live := 0, next := 0, waiting := false }
    { l with s := l.s.mapSys fun y => y.modCtx l.x fun v => { v with queues := tabPut v.queues q p } }

/-- An entry of INJECT (R26). -/
def loadInject (l : Loading) (at_ : Nat) : Loading :=
  let w0 := readWord l.s.mem at_
  let w1 := readWord l.s.mem (at_ + 8)
  let pos := fieldOf w1 8 2
  if pos = 0 ∨ fieldOf w1 10 54 ≠ 0 ∨ w1.getLsbD 7 ∨ fieldOf w1 0 7 = 127 then l.fail 1
  else { l with k := { l.k with injects := l.k.injects ++ [(w0.toNat, fieldOf w1 0 7, posOfCode pos)] } }

/-- CTX: `%ftlim`, `%stall`, `%wdog`.LIMIT, by presence bits 0, 1, 2. Bits [63:32] of the words for `%ftlim` and `%stall` are dropped, as a write of the
register drops them (log entry 89, DESIGN CHOICE). -/
def loadCtx (l : Loading) (at_ : Nat) : Loading :=
  let w (n : Nat) : Word := readWord l.s.mem (at_ + 8 * n)
  let set (v : Ctx) : Ctx :=
    { v with
      ftlim := if (w 3).getLsbD 0 then (w 0).setWidth 32 else v.ftlim
      stall := if (w 3).getLsbD 1 then (w 1).setWidth 32 else v.stall
      wlimit := if (w 3).getLsbD 2 then fieldOf (w 2) 0 31 else v.wlimit }
  if fieldOf (w 3) 3 61 ≠ 0 then l.fail 1
  else { l with s := l.s.mapSys fun y => (y.wsync l.x).modCtx l.x set }

/-- The block and index of an instruction offset of BLOCKS (R217). -/
def atOffset (blocks : List Blk) (va off : Nat) : Nat × Nat :=
  let a := va + 8 * off
  let b := (blocks.filter fun b => b.addr ≤ a).foldl (fun m b => max m b.addr) 0
  (b, (a - b - 16) / 8)

/-- SAFE and LIVE (R217, R218): bit 0 of a mask is zero. -/
def loadSides (l : Loading) (pa : Nat) (ss : List Sect) : Loading :=
  let va := ((sectOf ss 1).map Sect.va).getD 0
  let l := l.each pa ss 11 fun l a => { l with k := { l.k with safe := l.k.safe ++ [atOffset l.k.blocks va (readLE l.s.mem a 4)] } }
  l.each pa ss 12 fun l a =>
    let mask := BitVec.ofNat 32 (readLE l.s.mem a 4)
    let l := l.check (!mask.getLsbD 0) 1
    { l with k := { l.k with live := l.k.live ++ [(va + 8 * readLE l.s.mem (a + 4) 4, mask)] } }

/-! ### The load -/

/-- The range caches of the context's ports (R161): the common ranges, then those of the colours valid at the cluster, lowest first. -/
def fillCaches (s : State) (x : Nat) : State :=
  let rangesOf (k : Nat) : List (Nat × Nat × Range) := ((List.range 256).filterMap (readRange s.sys s.mem x k)).map fun r => (x, k, r)
  let common := rangesOf 4096
  (s.sys.clusters x).foldl (fun s c =>
    let cols := (List.range 4096).filter fun k => (s.sys.centOf c k).isSome
    let rs := (common ++ cols.flatMap rangesOf).take 128
    s.mapSys fun y => (List.range Config.nRegions).foldl (fun y r => y.modPortT c r fun p =>
      { p with ranges := (rs ++ p.ranges.filter (!rs.contains ·)).take 128 }) y) s

/-- A CFGLD may name a context in this state (R86). -/
def mayLoadKernel (st : CtxSt) : Bool := st == .allocated || st == .running || st == .suspended

/-- What the sections do (R217), in the order RANGE, INJECT, BLOCKS, CONST, DATA, TRAPV, CTX, QUOTA, MATCH, QUEUE, SAFE, LIVE. -/
def loadSections (l : Loading) (pa : Nat) (ss : List Sect) : Loading :=
  let l := l.each pa ss 4 loadRange
  let l := l.each pa ss 8 loadInject
  let l := loadConst (loadBlocks l pa ss) pa ss
  let l := match sectOf ss 3 with
    | none => l
    | some q => loadData (declared l.s.mem pa ss) (pa + q.off) q.size q.n 0 l
  let l := loadTrapv l pa ss
  let l := l.each pa ss 10 loadCtx
  let l := l.each pa ss 5 loadQuota
  let l := l.each pa ss 6 loadMatch
  let l := l.each pa ss 7 loadQueue
  loadSides l pa ss

/-- The lowest reason of a list. -/
def leastReason (l : List Nat) : Option Nat := l.foldl (fun b n => match b with
  | none => some n
  | some m => some (min m n)) none

/-- Loading the image at `pa` into context `x` (R86, R87): the new state, or the reason of R331, the lowest where several apply. A context holds at most 64
kernels (R362); a further one is answered with reason 7 (log entry 87, DESIGN CHOICE). -/
def loadKernel (s : State) (x pa : Nat) : Except Nat State :=
  let m := s.mem
  let ss := imageSects m pa
  let ident := readLE m (pa + 8) 2
  if imageBad m pa || ss.any (sectBad (readLE m (pa + 16) 8)) then .error 1
  else
    let v := s.sys.ctx x
    let dig := imageDigest m pa ss
    let k : Kernel := { ident := ident, st := .ready, blocks := [], injects := [], live := [], safe := [], digest := dig }
    let l : Loading := { s := s, x := x, k := k, bad := [] }
    let l := l.check (!sectsBad ss) 8
    let l := l.check (dig.toNat == readLE m (pa + 24) 32) 2
    let l := l.check (signedBy m pa ss v.signKeys) 3
    let l := l.check (v.kernel ident).isNone 6
    let l := l.check (mayLoadKernel v.st && v.kernels.length < Config.nKernels) 7
    let l := loadSections l pa ss
    match leastReason l.bad with
    | some r => .error r
    | none =>
      let s := l.s.mapSys fun y => y.modCtx x fun v => { v with kernels := v.kernels ++ [l.k] }
      let s := fillCaches s x
      let f := armWatchdog s.sys x (rearmTickets s.sys x (rearmStalls s.sys x s.fly))
      let f := (s.sys.clusters x).foldl (fun f c => wakeRegions s.sys c f) f
      .ok { s with fly := f }

/-- CFGLD.rt (R86, R109, R175): the kernel is RETIRING, its queues hold every record, and its completion token passes where no thread of it is
left. -/
def retireKernel (s : State) (x ident : Nat) : Except Nat State :=
  let v := s.sys.ctx x
  if !mayLoadKernel v.st then .error 7
  else if (v.kernel ident).isNone then .error 6
  else
    let one (k : Kernel) : Kernel := if k.ident = ident then { k with st := .retiring } else k
    let hold (q : Queue) : Bool := q.ident == ident && (q.st == .opened || q.st == .throttled)
    let y := s.sys.setCtx x { v.modQueues hold fun q => { q with st := .suspended } with kernels := v.kernels.map one }
    let s := { s with sys := y }
    let s := (y.clusters x).foldl (fun s c => completionSend s.sys s c x ident) s
    .ok (s.mapSys fun y => settleKernels y x)

/-- Reserved fields of a CFGLD record (R331), by its words. -/
def loadRecordBad (w : Nat → Word) : Bool :=
  fieldOf (w 0) 52 12 != 0 || fieldOf (w 1) 4 12 != 0 || fieldOf (w 1) 32 32 != 0 || w 3 != 0 || (List.range 4).any fun n => w (n + 4) != 0

/-- The management core acts on the line of a record (R331), which waits for its turn or for the link; a line that fails its check is an uncorrectable
memory error of the thread's context (R357), and `drop` forgets the record. -/
def onRecord (s : State) (i : Instr) (pa : Nat) (key : KeyTag) (w : Bool) (c k owner : Nat) (drop : State → State) (h : State → State) : State :=
  match openLines [{ line := pa / 64, key := key, w := w }] s with
  | .ok s => h s
  | .wait s => s.sched (s.sys.now + 1) i s.fly.ev
  | .down => s.sched (s.sys.now + 1) i s.fly.ev
  | .bad s => memFault (drop s) key.ctx c k owner

/-- KERNEL_LOADING (R86, R87, R331): the management core reads CFGLD record `id`; part 1, it acts on it and fills its status word. A reserved field that is
not zero is ILLOP 0xB8 at the next block entry of the thread (R333). -/
def execKernelLoading (s : State) : Host.Outcome State Fault Refusal :=
  let e := s.fly.ev
  match tabFind s.sys.loads e.id with
  | none => .next s
  | some q =>
    let drop (s : State) : State := s.mapSys fun y => { y with loads := tabDel y.loads e.id }
    if e.part = 0 then
      .next (onRecord s .kernelLoading q.record q.key false q.clu q.frm q.owner drop fun s =>
        let ws := (List.range 8).map fun n => readWord s.mem (q.record + 8 * n)
        if loadRecordBad (ws.getD · 0) then recordBad (drop s) q.clu q.frm q.owner q.ser
        else (s.mapSys fun y => { y with loads := tabPut y.loads e.id { q with words := ws } }).sched (s.sys.now + 1) .kernelLoading { e with part := 1 })
    else
      .next (onRecord s .kernelLoading q.record q.key true q.clu q.frm q.owner drop fun s =>
        let s := drop s
        let w (n : Nat) : Word := q.words.getD n 0
        let x := fieldOf (w 1) 0 4
        let pa := fieldOf (w 0) 0 52
        let ident := if q.rt then fieldOf (w 1) 16 16 else readLE s.mem (pa + 8) 2
        match if q.rt then retireKernel s x ident else loadKernel s x pa with
        | .ok s => fillWord s (q.record + 16) (BitVec.ofNat 64 (ident * 2 ^ 48))
        | .error r => fillWord s (q.record + 16) (BitVec.ofNat 64 (ident * 2 ^ 48 + r)))

/-- RELAT_EMERGE (R166, R331): part 1, the management core reads RELAT record `id`, and its token goes out; part 0, the token has passed every slot whose
accesses are acknowledged, and the status word tells how many. -/
def execRelatEmerge (s : State) : Host.Outcome State Fault Refusal :=
  let e := s.fly.ev
  match tabFind s.sys.relats e.id with
  | none => .next s
  | some v =>
    let drop (s : State) : State := s.mapSys fun y => { y with relats := tabDel y.relats e.id }
    if e.part = 1 then
      .next (onRecord s .relatEmerge v.record v.key false v.clu v.frm v.owner drop fun s =>
        if relatBad s.mem v.record then recordBad (drop s) v.clu v.frm v.owner v.ser else passRelat s e.id v)
    else if v.waits.any fun n => (s.fly.acc n).any fun a => a.st != .retired then .next (s.sched (s.sys.now + 1) .relatEmerge e)
    else .next (onRecord s .relatEmerge v.record v.key true v.clu v.frm v.owner drop fun s =>
      fillWord (drop s) (v.record + 24) (BitVec.ofNat 64 v.slots))

/-! ### Keys (R354, R355, R361, R371) -/

/-- A key record (R371): bytes 80 to 95 and bits [63:21] of its first word are zero. -/
def keyRecordOk (bs : List Byte) : Bool :=
  bs.length == 96 && (bs.drop 80).all (· == 0) && leNat (bs.take 8) / 2 ^ 21 == 0

/-- KEY_RECORD (R354, R355, R371): requester `id` hands in a record (`bytes`), within a session. A slot that is written has a new key: a line stored under
the old one fails its check. Status 3 answers a record that is refused. -/
def execKeyRecord (s : State) : Host.Outcome State Fault Refusal :=
  let e := s.fly.ev
  let w := BitVec.ofNat 64 (leNat (e.bytes.take 8))
  let x := fieldOf w 0 4
  let col := if w.getLsbD 16 then 4096 else fieldOf w 4 12
  let slot := if w.getLsbD 20 then 4097 * 8 else col * 8 + fieldOf w 17 3
  let wrapped := (e.bytes.drop 8).take 72
  .next (onManagement s e.id .keyRecord fun s =>
    let v := s.sys.ctx x
    if s.sys.msOwner = 0 then refuseBusy s
    else if !keyRecordOk e.bytes ∨ !(v.st = .allocated ∨ v.st = .suspended) ∨ !Config.unwraps wrapped then
      s.mapSys fun y => { y with mgmtStatus := 3 }
    else
      let new : Key := { gen := (v.key x slot).gen + 1, pair := Config.unwrapped wrapped, tagKey := Config.tagKeyOf wrapped }
      s.mapSys fun y => { y.setCtx x { v with keys := tabPut v.keys slot new } with mgmtStatus := 0 })

/-- KERNEL_KEY_REGISTER (R361, R370): requester `id` registers a Falcon-1024 kernel-signing key (`bytes`, 1,793 bytes) for context `ctx`, up to 4. -/
def execKernelKeyRegister (s : State) : Host.Outcome State Fault Refusal :=
  let e := s.fly.ev
  .next (onManagement s e.id .kernelKeyRegister fun s =>
    let v := s.sys.ctx e.ctx
    if e.bytes.length ≠ Config.keyBytes ∨ 4 ≤ v.signKeys.length ∨ v.signKeys.contains e.bytes then s
    else s.mapSys fun y => y.setCtx e.ctx { v with signKeys := v.signKeys ++ [e.bytes] })

end Sys2Proof.Machine
end

