-- ==== Sys2Proof/Machine/EvHost.lean ====
section
/-!
DEFINITION. Device events of the host link (R191 to R193), power states (R363 to R366), monitor samples (R367, R368), the management window
(R362, R369, R370) and reset (R77).
-/
namespace Sys2Proof.Machine

/-! ### `%lnksts` (R192) -/

def Sys.setLnk (y : Sys) (lo n v : Nat) : Sys := { y with lnk := setField y.lnk lo n v }

/-- A field counts up to its largest value. -/
def Sys.countLnk (y : Sys) (lo n k : Nat) : Sys := y.setLnk lo n (min (2 ^ n - 1) (fieldOf y.lnk lo n + k))

/-- The link leaves one of some states for another (R193). -/
def linkMove (s : State) (ok : List Nat) (h : Sys → Sys) : Host.Outcome State Fault Refusal :=
  if ok.contains s.sys.lnkState then .next (s.mapSys h) else .next s

/-- Entry to DOWN: counted, and no width or speed is up. Accesses to host memory that wait find the link DOWN (`atSlice`, R193). -/
def goDown (y : Sys) : Sys := (((y.setLnk 4 3 5).countLnk 0 4 1).setLnk 16 8 0).setLnk 12 1 0

/-- RECEIVER_DETECT (R193). -/
def execReceiverDetect (s : State) : Host.Outcome State Fault Refusal := linkMove s [0] fun y => y.setLnk 4 3 1

/-- TRAINING_COMPLETE (R191, R193): at WIDTH `id` and SPEED `part`, in 256-byte flit mode where `p`; 68-byte flits go to 32 GT/s. -/
def execTrainingComplete (s : State) : Host.Outcome State Fault Refusal :=
  let e := s.fly.ev
  if e.id = 0 ∨ 3 < e.id ∨ e.part = 0 ∨ 6 < e.part ∨ (e.part = 6 ∧ !e.p) then .next s
  else linkMove s [1] fun y => (((y.setLnk 4 3 2).setLnk 20 4 e.id).setLnk 16 4 e.part).setLnk 12 1 (if e.p then 1 else 0)

/-- TRAINING_FAILURE (R193): on every width. -/
def execTrainingFailure (s : State) : Host.Outcome State Fault Refusal := linkMove s [1] goDown

/-- LINK_ERROR (R192, R193): an error that needs retraining. -/
def execLinkError (s : State) : Host.Outcome State Fault Refusal := linkMove s [2] fun y => (y.setLnk 4 3 4).countLnk 32 16 1

/-- RECOVERY_COMPLETE (R193): into L0 (`part` 0), TRAINING (1) or DOWN (2). -/
def execRecoveryComplete (s : State) : Host.Outcome State Fault Refusal :=
  let k := s.fly.ev.part
  linkMove s [4] fun y => if k = 0 then y.setLnk 4 3 2 else if k = 1 then ((y.setLnk 4 3 1).setLnk 16 8 0).setLnk 12 1 0 else goDown y

/-- L1_ENTRY (R193, R365): in a C state with TOL of 8 µs at least. -/
def execL1Entry (s : State) : Host.Outcome State Fault Refusal :=
  if s.sys.power < 2 ∨ fieldOf s.sys.lattol 0 32 < 8 then .next s else linkMove s [2] fun y => y.setLnk 4 3 3

/-- L1_EXIT (R193): traffic from either side. -/
def execL1Exit (s : State) : Host.Outcome State Fault Refusal := linkMove s [3] fun y => y.setLnk 4 3 2

/-- LINK_LOSS (R193). -/
def execLinkLoss (s : State) : Host.Outcome State Fault Refusal := linkMove s [2, 3, 4] goDown

/-- LINK_RESET (R193): by the host. -/
def execLinkReset (s : State) : Host.Outcome State Fault Refusal := linkMove s [5] fun y => y.setLnk 4 3 0

/-- CORRECTABLE_LINK_ERROR (R192): `id` flits are replayed. -/
def execCorrectableLinkError (s : State) : Host.Outcome State Fault Refusal := linkMove s [2] fun y => y.countLnk 48 16 s.fly.ev.id

/-! ### Power states (R363 to R366) -/

/-- The head record of a queue can start (R110): nothing that lives holds it back. -/
def canStart (s : State) (v : Queue) : Bool :=
  s.sys.qState v == .opened && v.buf.head?.any fun r => (!recB r || v.live == 0) && (recKind r != 0 || (s.lowestFree v.clu).isSome)

/-- The device is busy (R365). -/
def busy (s : State) : Bool :=
  let y := s.sys
  y.thrs.any (fun e => e.2.st == .active || e.2.st == .waiting)
    || y.ctxs.any (fun c => c.2.queues.any fun q => canStart s q.2)
    || y.xfers.any (fun e => e.2.st != .free) || y.rings.any fun e => e.2.pass.isSome || !e.2.tails.isEmpty

/-- A new state: watchdogs count up to it, and from it on as the state says (R85). -/
def setPower (s : State) (st cause : Nat) : State :=
  let xs := s.sys.ctxs.map Prod.fst
  let s := s.mapSys fun y => { xs.foldl Sys.wsync y with pstate := BitVec.ofNat 64 (cause * 16 + st) }
  s.mapFly fun f => xs.foldl (fun f x => armWatchdog s.sys x f) f

/-- P0, or P1 with its cause: CAP, the 1,100 W limit, a thermal limit (R365, R366). -/
def runState (s : State) : State :=
  if s.sys.lattol.getLsbD 32 then setPower s 1 1
  else if s.sys.powerLimit then setPower s 1 2
  else if s.sys.thermal then setPower s 1 3
  else setPower s 0 0

/-- The deepest C state whose wake latency does not exceed TOL µs (R364, R365). -/
def deepest (tol : Nat) : Option Nat := if 2000 ≤ tol then some 4 else if 40 ≤ tol then some 3 else if 2 ≤ tol then some 2 else none

/-- The dirty lines that the home slices hold are written back under their key tags (R364, C3). -/
def writeBack (y : Sys) : Sys :=
  let clean (v : Line) : Line := match v.held with
    | some k => if v.dirty then { v with ktag := some (y.storedAs k), dirty := false } else v
    | none => v
  { y with lines := y.lines.map fun e => (e.1, clean e.2) }

/-- POWER_STATE_CHOICE (R365): `p` the 1,100 W limit is reached, `q` a thermal limit. -/
def execPowerStateChoice (s : State) : Host.Outcome State Fault Refusal :=
  let e := s.fly.ev
  let s := s.mapSys fun y => { y with powerLimit := e.p, thermal := e.q }
  let tol := fieldOf s.sys.lattol 0 32
  if busy s then .next (runState s)
  else match deepest tol with
    | none => .next (runState s)
    | some st =>
      let s := setPower (if st = 4 then s.mapSys writeBack else s) st 0
      .next (if 8 ≤ tol then s.sched s.sys.now .l1Entry {} else s)

/-- WAKE (R365): the device leaves its C state. -/
def execWake (s : State) : Host.Outcome State Fault Refusal := if s.sys.power < 2 then .next s else .next (runState s)

/-! ### Monitor samples (R367, R368) -/

/-- The bin of a sample. -/
def binOf (v : Nat) : Nat := if v < 2 then 0 else min 15 (Nat.log2 v)

def countUp (w : Word) : Word := if w = 0xFFFFFFFFFFFFFFFF then w else w + 1

/-- A sample taken into a record. -/
def Mon.take (m : Mon) (v : Word) : Mon :=
  let b := binOf v.toNat
  let old := (List.range 16).map fun k => m.bins.getD k 0
  { m with
    min := if v.toNat < m.min.toNat then v else m.min
    max := if m.max.toNat < v.toNat then v else m.max
    count := countUp m.count
    bins := old.set b (countUp (old.getD b 0)) }

/-- Entries of a region that a unit counts: of its colour, or of every colour. -/
def Mon.occupancy (m : Mon) (y : Sys) (c r : Nat) : Nat :=
  if m.all then (y.region c r).entries.length + (y.region c r).partials.length else y.held_ c r m.colour

/-- A unit that samples occupancy takes one sample of each region of its context. -/
def Mon.sweep (m : Mon) (y : Sys) : Mon :=
  (y.clusters m.ctx).foldl (fun m c => (List.range Config.nRegions).foldl (fun m r => m.take (BitVec.ofNat 64 (m.occupancy y c r))) m) m

/-- MONITOR_SAMPLE (R367, R368): part 0, a sample `word` of event `id` of colour `col` of context `ctx` goes to each unit armed for it; part 1,
unit `id` samples the occupancy of each region, every 1,024 cycles. -/
def execMonitorSample (s : State) : Host.Outcome State Fault Refusal :=
  let e := s.fly.ev
  if e.part = 1 then
    let m := s.sys.mon e.id
    if !m.armed || m.event != 1 then .next s
    else .next ((s.mapSys fun y => y.setMon e.id (m.sweep y)).sched (s.sys.now + 1024) .monitorSample e)
  else
    .next (s.mapSys fun y => { y with mons := y.mons.map fun u => if u.2.takes e.ctx e.col e.id then (u.1, u.2.take e.word) else u })

/-! ### The management window (R362, R369, R370) -/

/-- MSESS_WRITE (R370): requester `id` writes EXPECT and NEW (`word`). BUSY stands for a requester whose last write failed. -/
def execMsessWrite (s : State) : Host.Outcome State Fault Refusal :=
  let e := s.fly.ev
  .next (whenAwake s .msessWrite fun s =>
    if s.sys.msOwner = e.word.extractLsb' 16 16 then
      s.mapSys fun y => { y with msOwner := e.word.extractLsb' 0 16, msBusy := y.msBusy.filter (· != e.id) }
    else s.mapSys fun y => { y with msBusy := (e.id :: y.msBusy).eraseDups })

/-- The bytes of a report that the signature covers (R362). -/
def reportBody (v : Ctx) (x : Nat) (nonce : List Byte) : List Byte :=
  leBytes 4 0x5441544B ++ leBytes 4 Config.partId.toNat ++ (List.range 32).map (nonce.getD · 0) ++ leBytes 32 Config.firmwareDigest.toNat
    ++ leBytes 2 x ++ leBytes 2 0 ++ leBytes 4 v.kernels.length ++ leBytes 32 (Config.digest256 v.signKeys.flatten).toNat
    ++ v.kernels.flatMap fun k => leBytes 2 k.ident ++ leBytes 6 0 ++ leBytes 32 k.digest.toNat

/-- ATTESTATION_REPORT (R362): of context `ctx`, for requester `id` with nonce `bytes`. -/
def execAttestationReport (s : State) : Host.Outcome State Fault Refusal :=
  let e := s.fly.ev
  .next (onManagement s e.id .attestationReport fun s =>
    let b := reportBody (s.sys.ctx e.ctx) e.ctx e.bytes
    s.mapSys fun y => { y with reports := y.reports ++ [b ++ Config.signature b] })

/-- An item of the management window: word `item % 32` of monitor unit `item / 32`, or, from 2,048 on, a sensor. -/
def itemValue (y : Sys) (item : Nat) : Word :=
  if item < 2048 then (y.mon (item / 32)).word (item % 32) else Config.sensor item y.freeIx

/-- The colour that owns an item: the one that its monitor unit is bound to (R367); no colour owns a sensor. -/
def itemOwner (y : Sys) (item : Nat) : Option Nat := if item < 2048 then some (y.mon (item / 32)).owner else none

/-- A read that the allow-list refuses is counted for the colour that owns the item (R369). -/
def Audit.refuse (a : Audit) (item : Nat) : Audit := { attempts := min (2 ^ 32 - 1) (a.attempts + 1), last := item % 4096 }

/-- What a host read has returned. -/
def hostRead (s : State) (x item : Nat) (w : Word) : State := s.mapSys fun y => { y with hostReads := y.hostReads ++ [(x, item, w)] }

/-- HOST_MGMT_READ (R369, R370): part 0, requester `col` reads item `id` of context `ctx`; zero for an item that is not on the list. Part 1, word `id` of the
firmware-status block (R1, R360). Part 2, the host reads at offset `col` of the queue aperture (R105). Part 3, requester `id` reads `%msess` (R370). -/
def execHostMgmtRead (s : State) : Host.Outcome State Fault Refusal :=
  let e := s.fly.ev
  if e.part = 1 then .next (hostRead s 17 e.id (s.sys.fwStatus.getD e.id 0))
  else if e.part = 2 then .next (atHostPort s .hostMgmtRead fun s => hostRead s 16 e.col (apertureWord s.sys e.col))
  else if e.part = 3 then .next (whenAwake s .hostMgmtRead fun s =>
    hostRead s 18 e.id (s.sys.msOwner.setWidth 64 ||| if s.sys.msBusy.contains e.id then 65536 else 0))
  else .next (onManagement s e.col .hostMgmtRead fun s =>
    let v := s.sys.ctx e.ctx
    if v.allow.contains e.id then
      s.mapSys fun y => { y with hostReads := y.hostReads ++ [(e.ctx, e.id, itemValue y e.id)], freeIx := y.freeIx + 1 }
    else
      let audits := match itemOwner s.sys e.id with
        | some col => tabSet Audit.reset v.audits col ((tabGet Audit.reset v.audits col).refuse e.id)
        | none => v.audits
      s.mapSys fun y => { y.setCtx e.ctx { v with audits := audits } with hostReads := y.hostReads ++ [(e.ctx, e.id, 0)] })

/-! ### Reset (R77, R360) -/

/-- The firmware-status block after a reset (R1, R360): where the boot ROM refuses the firmware it holds the reason too, a value left open (FREE VALUE). -/
def fwBlock (bad : Bool) (n : Nat) : List Word := Sys.reset.fwStatus ++ if bad then [Config.freeValue n] else []

/-- The boot ROM accepts a firmware image (R360): the signature of `n` bytes verifies over it under a key of the digest that the ROM holds. `bs` is the key,
the signature, and the image. -/
def bootAccepts (bs : List Byte) (n : Nat) : Bool :=
  let key := bs.take Config.keyBytes
  let rest := bs.drop Config.keyBytes
  n ≤ Config.signatureBytes && Config.keyBytes + n ≤ bs.length && Config.digest256 key == Config.bootDigest
    && Config.signatureOk key (rest.take n) (rest.drop n)

/-- A line after a reset (R357, R358): its key is no more, so that what was stored there passes no check. -/
def resetLine (v : Line) : Option Line := v.owner?.map fun k => { Line.reset with ktag := some { tag := k, gen := none } }

/-- RESET (R77, R360): every part of the machine but the bytes of physical memory is in its reset state, and no line stored before opens; `bytes` are the
firmware's key, its signature of `id` bytes and its image. The device stays held in reset where the boot ROM refuses them. What counts the free values of
the run goes on. -/
def execReset (s : State) : Host.Outcome State Fault Refusal :=
  let bad := !bootAccepts s.fly.ev.bytes s.fly.ev.id
  .next
    { mem := s.mem
      greg := []
      sys := { Sys.reset with held := bad, firmwareOk := !bad, fwStatus := fwBlock bad s.sys.freeIx,
                                lines := s.sys.lines.filterMap fun e => (resetLine e.2).map fun v => (e.1, v),
                                freeIx := s.sys.freeIx + (if bad then 1 else 0), fetches := s.sys.fetches }
      fly := { Fly.reset with delays := s.fly.delays, nextSer := s.fly.nextSer } }

end Sys2Proof.Machine
end

