-- ==== Sys2Proof/Machine/Dispatch.lean ====
section
/-!
DEFINITION. The dispatch: one arm per row of the opcode table, each one direct call of that row's meaning.
-/
namespace Sys2Proof.Machine

def exec (i : Instr) (s : State) : Host.Outcome State Fault Refusal :=
  match i with
  | .mov x => Sys2Proof.Machine.execMov x s
  | .fan x => Sys2Proof.Machine.execFan x s
  | .getg x => Sys2Proof.Machine.execGetg x s
  | .putg x => Sys2Proof.Machine.execPutg x s
  | .ldi x => Sys2Proof.Machine.execLdi x s
  | .ldih x => Sys2Proof.Machine.execLdih x s
  | .null x => Sys2Proof.Machine.execNull x s
  | .sel x => Sys2Proof.Machine.execSel x s
  | .steer x => Sys2Proof.Machine.execSteer x s
  | .merge x => Sys2Proof.Machine.execMerge x s
  | .exit x => Sys2Proof.Machine.execExit x s
  | .exiti x => Sys2Proof.Machine.execExiti x s
  | .call x => Sys2Proof.Machine.execCall x s
  | .ret x => Sys2Proof.Machine.execRet x s
  | .halt x => Sys2Proof.Machine.execHalt x s
  | .rdid x => Sys2Proof.Machine.execRdid x s
  | .add x => Sys2Proof.Machine.execAdd x s
  | .sub x => Sys2Proof.Machine.execSub x s
  | .addi x => Sys2Proof.Machine.execAddi x s
  | .mul x => Sys2Proof.Machine.execMul x s
  | .mulh x => Sys2Proof.Machine.execMulh x s
  | .mulhn x => Sys2Proof.Machine.execMulhn x s
  | .div x => Sys2Proof.Machine.execDiv x s
  | .divn x => Sys2Proof.Machine.execDivn x s
  | .rem x => Sys2Proof.Machine.execRem x s
  | .remn x => Sys2Proof.Machine.execRemn x s
  | .adds x => Sys2Proof.Machine.execAdds x s
  | .subs x => Sys2Proof.Machine.execSubs x s
  | .min x => Sys2Proof.Machine.execMin x s
  | .max x => Sys2Proof.Machine.execMax x s
  | .minn x => Sys2Proof.Machine.execMinn x s
  | .maxn x => Sys2Proof.Machine.execMaxn x s
  | .and x => Sys2Proof.Machine.execAnd x s
  | .or x => Sys2Proof.Machine.execOr x s
  | .xor x => Sys2Proof.Machine.execXor x s
  | .andn x => Sys2Proof.Machine.execAndn x s
  | .andi x => Sys2Proof.Machine.execAndi x s
  | .ori x => Sys2Proof.Machine.execOri x s
  | .xori x => Sys2Proof.Machine.execXori x s
  | .shl x => Sys2Proof.Machine.execShl x s
  | .shr x => Sys2Proof.Machine.execShr x s
  | .sha x => Sys2Proof.Machine.execSha x s
  | .rol x => Sys2Proof.Machine.execRol x s
  | .shli x => Sys2Proof.Machine.execShli x s
  | .shri x => Sys2Proof.Machine.execShri x s
  | .shai x => Sys2Proof.Machine.execShai x s
  | .clz x => Sys2Proof.Machine.execClz x s
  | .popc x => Sys2Proof.Machine.execPopc x s
  | .teq x => Sys2Proof.Machine.execTeq x s
  | .tne x => Sys2Proof.Machine.execTne x s
  | .tlt x => Sys2Proof.Machine.execTlt x s
  | .tle x => Sys2Proof.Machine.execTle x s
  | .tltn x => Sys2Proof.Machine.execTltn x s
  | .tlen x => Sys2Proof.Machine.execTlen x s
  | .teqi x => Sys2Proof.Machine.execTeqi x s
  | .tlti x => Sys2Proof.Machine.execTlti x s
  | .tlei x => Sys2Proof.Machine.execTlei x s
  | .pand x => Sys2Proof.Machine.execPand x s
  | .por x => Sys2Proof.Machine.execPor x s
  | .pxor x => Sys2Proof.Machine.execPxor x s
  | .pnot x => Sys2Proof.Machine.execPnot x s
  | .abs x => Sys2Proof.Machine.execAbs x s
  | .neg x => Sys2Proof.Machine.execNeg x s
  | .fadd x => Sys2Proof.Machine.execFadd x s
  | .fsub x => Sys2Proof.Machine.execFsub x s
  | .fmul x => Sys2Proof.Machine.execFmul x s
  | .ffma x => Sys2Proof.Machine.execFfma x s
  | .ffms x => Sys2Proof.Machine.execFfms x s
  | .fdiv x => Sys2Proof.Machine.execFdiv x s
  | .fsqrt x => Sys2Proof.Machine.execFsqrt x s
  | .frsq x => Sys2Proof.Machine.execFrsq x s
  | .fmin x => Sys2Proof.Machine.execFmin x s
  | .fmax x => Sys2Proof.Machine.execFmax x s
  | .fabs x => Sys2Proof.Machine.execFabs x s
  | .fneg x => Sys2Proof.Machine.execFneg x s
  | .fcps x => Sys2Proof.Machine.execFcps x s
  | .feq x => Sys2Proof.Machine.execFeq x s
  | .flt x => Sys2Proof.Machine.execFlt x s
  | .fle x => Sys2Proof.Machine.execFle x s
  | .funo x => Sys2Proof.Machine.execFuno x s
  | .fcls x => Sys2Proof.Machine.execFcls x s
  | .ex2 x => Sys2Proof.Machine.execEx2 x s
  | .lg2 x => Sys2Proof.Machine.execLg2 x s
  | .frnd x => Sys2Proof.Machine.execFrnd x s
  | .fscl x => Sys2Proof.Machine.execFscl x s
  | .cvtif x => Sys2Proof.Machine.execCvtif x s
  | .cvtfi x => Sys2Proof.Machine.execCvtfi x s
  | .cvtff x => Sys2Proof.Machine.execCvtff x s
  | .tdec x => Sys2Proof.Machine.execTdec x s
  | .tenc x => Sys2Proof.Machine.execTenc x s
  | .bfq x => Sys2Proof.Machine.execBfq x s
  | .bfs x => Sys2Proof.Machine.execBfs x s
  | .vgen x => Sys2Proof.Machine.execVgen x s
  | .vspl x => Sys2Proof.Machine.execVspl x s
  | .vlan x => Sys2Proof.Machine.execVlan x s
  | .vins x => Sys2Proof.Machine.execVins x s
  | .vsld x => Sys2Proof.Machine.execVsld x s
  | .vcat x => Sys2Proof.Machine.execVcat x s
  | .vperm x => Sys2Proof.Machine.execVperm x s
  | .vcmpr x => Sys2Proof.Machine.execVcmpr x s
  | .vsel x => Sys2Proof.Machine.execVsel x s
  | .vsum x => Sys2Proof.Machine.execVsum x s
  | .vmax x => Sys2Proof.Machine.execVmax x s
  | .vmin x => Sys2Proof.Machine.execVmin x s
  | .vdot x => Sys2Proof.Machine.execVdot x s
  | .vscan x => Sys2Proof.Machine.execVscan x s
  | .sel24 x => Sys2Proof.Machine.execSel24 x s
  | .rstat x => Sys2Proof.Machine.execRstat x s
  | .rscl x => Sys2Proof.Machine.execRscl x s
  | .brev x => Sys2Proof.Machine.execBrev x s
  | .bfx x => Sys2Proof.Machine.execBfx x s
  | .bfi x => Sys2Proof.Machine.execBfi x s
  | .zcvt x => Sys2Proof.Machine.execZcvt x s
  | .guard x => Sys2Proof.Machine.execGuard x s
  | .packs x => Sys2Proof.Machine.execPacks x s
  | .packl x => Sys2Proof.Machine.execPackl x s
  | .wmul x => Sys2Proof.Machine.execWmul x s
  | .wconv x => Sys2Proof.Machine.execWconv x s
  | .wmulf x => Sys2Proof.Machine.execWmulf x s
  | .wmulz x => Sys2Proof.Machine.execWmulz x s
  | .xtr x => Sys2Proof.Machine.execXtr x s
  | .xtrf x => Sys2Proof.Machine.execXtrf x s
  | .pclr x => Sys2Proof.Machine.execPclr x s
  | .pclrFree x => Sys2Proof.Machine.execPclrFree x s
  | .pstat x => Sys2Proof.Machine.execPstat x s
  | .zalloc x => Sys2Proof.Machine.execZalloc x s
  | .zfree x => Sys2Proof.Machine.execZfree x s
  | .zclr x => Sys2Proof.Machine.execZclr x s
  | .zrd x => Sys2Proof.Machine.execZrd x s
  | .zwr x => Sys2Proof.Machine.execZwr x s
  | .tstage x => Sys2Proof.Machine.execTstage x s
  | .tmatch x => Sys2Proof.Machine.execTmatch x s
  | .tmclr x => Sys2Proof.Machine.execTmclr x s
  | .tgo x => Sys2Proof.Machine.execTgo x s
  | .tld x => Sys2Proof.Machine.execTld x s
  | .tdone x => Sys2Proof.Machine.execTdone x s
  | .trstat x => Sys2Proof.Machine.execTrstat x s
  | .trecall x => Sys2Proof.Machine.execTrecall x s
  | .tpass x => Sys2Proof.Machine.execTpass x s
  | .snew x => Sys2Proof.Machine.execSnew x s
  | .splice x => Sys2Proof.Machine.execSplice x s
  | .spin x => Sys2Proof.Machine.execSpin x s
  | .sunpin x => Sys2Proof.Machine.execSunpin x s
  | .sidx x => Sys2Proof.Machine.execSidx x s
  | .slen x => Sys2Proof.Machine.execSlen x s
  | .snext x => Sys2Proof.Machine.execSnext x s
  | .sfree x => Sys2Proof.Machine.execSfree x s
  | .msend x => Sys2Proof.Machine.execMsend x s
  | .mrecv x => Sys2Proof.Machine.execMrecv x s
  | .mpoll x => Sys2Proof.Machine.execMpoll x s
  | .ld x => Sys2Proof.Machine.execLd x s
  | .st x => Sys2Proof.Machine.execSt x s
  | .ldv x => Sys2Proof.Machine.execLdv x s
  | .stv x => Sys2Proof.Machine.execStv x s
  | .ldg x => Sys2Proof.Machine.execLdg x s
  | .stsc x => Sys2Proof.Machine.execStsc x s
  | .pref x => Sys2Proof.Machine.execPref x s
  | .lea x => Sys2Proof.Machine.execLea x s
  | .lde x => Sys2Proof.Machine.execLde x s
  | .stf x => Sys2Proof.Machine.execStf x s
  | .clrf x => Sys2Proof.Machine.execClrf x s
  | .aadd x => Sys2Proof.Machine.execAadd x s
  | .amin x => Sys2Proof.Machine.execAmin x s
  | .amax x => Sys2Proof.Machine.execAmax x s
  | .aminn x => Sys2Proof.Machine.execAminn x s
  | .amaxn x => Sys2Proof.Machine.execAmaxn x s
  | .aand x => Sys2Proof.Machine.execAand x s
  | .aor x => Sys2Proof.Machine.execAor x s
  | .axor x => Sys2Proof.Machine.execAxor x s
  | .aswp x => Sys2Proof.Machine.execAswp x s
  | .acas x => Sys2Proof.Machine.execAcas x s
  | .afadd x => Sys2Proof.Machine.execAfadd x s
  | .fence x => Sys2Proof.Machine.execFence x s
  | .fencea x => Sys2Proof.Machine.execFencea x s
  | .copy x => Sys2Proof.Machine.execCopy x s
  | .copyt x => Sys2Proof.Machine.execCopyt x s
  | .waitt x => Sys2Proof.Machine.execWaitt x s
  | .cpst x => Sys2Proof.Machine.execCpst x s
  | .bankm x => Sys2Proof.Machine.execBankm x s
  | .fpush x => Sys2Proof.Machine.execFpush x s
  | .fpop x => Sys2Proof.Machine.execFpop x s
  | .bariCnt x => Sys2Proof.Machine.execBariCnt x s
  | .bariGrp x => Sys2Proof.Machine.execBariGrp x s
  | .bariFree x => Sys2Proof.Machine.execBariFree x s
  | .bara x => Sys2Proof.Machine.execBara x s
  | .barw x => Sys2Proof.Machine.execBarw x s
  | .baraw x => Sys2Proof.Machine.execBaraw x s
  | .join x => Sys2Proof.Machine.execJoin x s
  | .leave x => Sys2Proof.Machine.execLeave x s
  | .grpq x => Sys2Proof.Machine.execGrpq x s
  | .comb x => Sys2Proof.Machine.execComb x s
  | .mfs x => Sys2Proof.Machine.execMfs x s
  | .mts x => Sys2Proof.Machine.execMts x s
  | .trap x => Sys2Proof.Machine.execTrap x s
  | .tret x => Sys2Proof.Machine.execTret x s
  | .launch x => Sys2Proof.Machine.execLaunch x s
  | .qsusp x => Sys2Proof.Machine.execQsusp x s
  | .qresQ x => Sys2Proof.Machine.execQresQ x s
  | .qresCol x => Sys2Proof.Machine.execQresCol x s
  | .qresCtx x => Sys2Proof.Machine.execQresCtx x s
  | .drainCol x => Sys2Proof.Machine.execDrainCol x s
  | .drainCtx x => Sys2Proof.Machine.execDrainCtx x s
  | .cfgld x => Sys2Proof.Machine.execCfgld x s
  | .cfgldRt x => Sys2Proof.Machine.execCfgldRt x s
  | .relat x => Sys2Proof.Machine.execRelat x s
  | .monArm x => Sys2Proof.Machine.execMonArm x s
  | .monRead x => Sys2Proof.Machine.execMonRead x s
  | .monClear x => Sys2Proof.Machine.execMonClear x s
  | .monStop x => Sys2Proof.Machine.execMonStop x s
  | .spawn x => Sys2Proof.Machine.execSpawn x s
  | .emit x => Sys2Proof.Machine.execEmit x s
  | .nop x => Sys2Proof.Machine.execNop x s
  | .reset => Sys2Proof.Machine.execReset s
  | .hostRecordWrite => Sys2Proof.Machine.execHostRecordWrite s
  | .recordStart => Sys2Proof.Machine.execRecordStart s
  | .exitHeadWrite => Sys2Proof.Machine.execExitHeadWrite s
  | .tokenArrival => Sys2Proof.Machine.execTokenArrival s
  | .holdQueueAdmit => Sys2Proof.Machine.execHoldQueueAdmit s
  | .parking => Sys2Proof.Machine.execParking s
  | .retryTimerExpiry => Sys2Proof.Machine.execRetryTimerExpiry s
  | .reInjectionResume => Sys2Proof.Machine.execReInjectionResume s
  | .controlTokenDelivery => Sys2Proof.Machine.execControlTokenDelivery s
  | .commit => Sys2Proof.Machine.execCommit s
  | .stallExpiry => Sys2Proof.Machine.execStallExpiry s
  | .reloadDecision => Sys2Proof.Machine.execReloadDecision s
  | .frameLoadComplete => Sys2Proof.Machine.execFrameLoadComplete s
  | .handlerEntry => Sys2Proof.Machine.execHandlerEntry s
  | .watchdogExpiry => Sys2Proof.Machine.execWatchdogExpiry s
  | .wdogKick => Sys2Proof.Machine.execWdogKick s
  | .checkpoint => Sys2Proof.Machine.execCheckpoint s
  | .pfdoneWrite => Sys2Proof.Machine.execPfdoneWrite s
  | .debugHaltRequest => Sys2Proof.Machine.execDebugHaltRequest s
  | .drainMarkerArrival => Sys2Proof.Machine.execDrainMarkerArrival s
  | .drainAbort => Sys2Proof.Machine.execDrainAbort s
  | .drainHalt => Sys2Proof.Machine.execDrainHalt s
  | .drainCompletion => Sys2Proof.Machine.execDrainCompletion s
  | .passResume => Sys2Proof.Machine.execPassResume s
  | .alloc => Sys2Proof.Machine.execAlloc s
  | .start => Sys2Proof.Machine.execStart s
  | .destroy => Sys2Proof.Machine.execDestroy s
  | .clear => Sys2Proof.Machine.execClear s
  | .scrubComplete => Sys2Proof.Machine.execScrubComplete s
  | .shootDown => Sys2Proof.Machine.execShootDown s
  | .shootDownComplete => Sys2Proof.Machine.execShootDownComplete s
  | .relatEmerge => Sys2Proof.Machine.execRelatEmerge s
  | .kernelLoading => Sys2Proof.Machine.execKernelLoading s
  | .keyRecord => Sys2Proof.Machine.execKeyRecord s
  | .msessWrite => Sys2Proof.Machine.execMsessWrite s
  | .attestationReport => Sys2Proof.Machine.execAttestationReport s
  | .kernelKeyRegister => Sys2Proof.Machine.execKernelKeyRegister s
  | .hostMgmtRead => Sys2Proof.Machine.execHostMgmtRead s
  | .ctentWrite => Sys2Proof.Machine.execCtentWrite s
  | .registerWrite => Sys2Proof.Machine.execRegisterWrite s
  | .translate => Sys2Proof.Machine.execTranslate s
  | .tableReadFill => Sys2Proof.Machine.execTableReadFill s
  | .accessPerform => Sys2Proof.Machine.execAccessPerform s
  | .ldeRetry => Sys2Proof.Machine.execLdeRetry s
  | .ldeWithdrawal => Sys2Proof.Machine.execLdeWithdrawal s
  | .lineFetch => Sys2Proof.Machine.execLineFetch s
  | .accessRetire => Sys2Proof.Machine.execAccessRetire s
  | .scratchPerform => Sys2Proof.Machine.execScratchPerform s
  | .bankPendingComplete => Sys2Proof.Machine.execBankPendingComplete s
  | .completionToken => Sys2Proof.Machine.execCompletionToken s
  | .transferStart => Sys2Proof.Machine.execTransferStart s
  | .transferWithhold => Sys2Proof.Machine.execTransferWithhold s
  | .transferDone => Sys2Proof.Machine.execTransferDone s
  | .waittWake => Sys2Proof.Machine.execWaittWake s
  | .tstageFillComplete => Sys2Proof.Machine.execTstageFillComplete s
  | .beat0 => Sys2Proof.Machine.execBeat0 s
  | .beat => Sys2Proof.Machine.execBeat s
  | .stopCompletion => Sys2Proof.Machine.execStopCompletion s
  | .flitTransfer => Sys2Proof.Machine.execFlitTransfer s
  | .fenceRouterPass => Sys2Proof.Machine.execFenceRouterPass s
  | .splicePerform => Sys2Proof.Machine.execSplicePerform s
  | .snewPerform => Sys2Proof.Machine.execSnewPerform s
  | .sfreePerform => Sys2Proof.Machine.execSfreePerform s
  | .freeListWrite => Sys2Proof.Machine.execFreeListWrite s
  | .messageSend => Sys2Proof.Machine.execMessageSend s
  | .messageArrival => Sys2Proof.Machine.execMessageArrival s
  | .messageResend => Sys2Proof.Machine.execMessageResend s
  | .barrierArrival => Sys2Proof.Machine.execBarrierArrival s
  | .groupTotalUpdate => Sys2Proof.Machine.execGroupTotalUpdate s
  | .launchAppend => Sys2Proof.Machine.execLaunchAppend s
  | .spawnCreate => Sys2Proof.Machine.execSpawnCreate s
  | .receiverDetect => Sys2Proof.Machine.execReceiverDetect s
  | .trainingComplete => Sys2Proof.Machine.execTrainingComplete s
  | .trainingFailure => Sys2Proof.Machine.execTrainingFailure s
  | .linkError => Sys2Proof.Machine.execLinkError s
  | .recoveryComplete => Sys2Proof.Machine.execRecoveryComplete s
  | .l1Entry => Sys2Proof.Machine.execL1Entry s
  | .l1Exit => Sys2Proof.Machine.execL1Exit s
  | .linkLoss => Sys2Proof.Machine.execLinkLoss s
  | .linkReset => Sys2Proof.Machine.execLinkReset s
  | .powerStateChoice => Sys2Proof.Machine.execPowerStateChoice s
  | .wake => Sys2Proof.Machine.execWake s
  | .monitorSample => Sys2Proof.Machine.execMonitorSample s
  | .correctableLinkError => Sys2Proof.Machine.execCorrectableLinkError s

end Sys2Proof.Machine
end

