-- ==== Sys2Proof/Machine/Fetch.lean ====
section
/-!
DEFINITION. Selecting the next work of the agenda and fetching the word that a PE issues.
-/
namespace Sys2Proof.Machine

/-- The work at the head of the agenda is taken off, and the clock stands at its cycle; with an empty agenda a cycle passes. -/
def takeWork (s : State) : State × Option Act :=
  match s.fly.agenda with
  | [] => (s.mapSys fun y => { y with now := y.now + 1 }, none)
  | w :: ws => ({ s with sys := { s.sys with now := max s.sys.now w.due }, fly := { s.fly with agenda := ws } }, some w.act)

/-- The instance that a firing belongs to is live (a firing of an aborted or committed entry issues nothing, R97). -/
def firingLive (s : State) (f : Firing) : Bool :=
  match s.fly.inst f.clu f.frame with
  | some i => i.ser == f.ser
  | none => false

/-- The word of the resident block that a firing issues (R11: a frame holds its block's words). -/
def fetchWord (s : State) (f : Firing) : Word := (s.sys.frame f.clu f.reg f.frm).word f.idx

/-- The latch of the PE that issues holds the firing's operands (R28). -/
def latchFiring (s : State) (f : Firing) : State := s.mapFly fun v => { v with cur := f }

/-- The latch of an event holds the objects it acts on. -/
def latchEvent (s : State) (e : Ev) : State := s.mapFly fun v => { v with ev := e }

/-- A debugger's halt request stops a thread at the first firing of a SAFE instruction: the instance is aborted and the thread is held
WAITING at the block (R218). -/
def haltsAt (s : State) (f : Firing) : Bool :=
  let t := s.sys.thr f.clu f.frame
  t.halt == 1 && match s.fly.inst f.clu f.frame, (s.sys.ctx t.ctx).kernel t.ident with
    | some i, some k => k.safe.contains (i.blk, f.idx)
    | _, _ => false

def haltFiring (s : State) (f : Firing) : State :=
  let blk := match s.fly.inst f.clu f.frame with
    | some i => i.blk
    | none => 0
  (abortInst s f.clu f.frame).mapSys fun y => (y.wsync (y.thr f.clu f.frame).ctx).modThr f.clu f.frame fun t =>
    { t with st := .waiting, next := blk, halt := 2, haltIdx := f.idx }

/-- The next instruction to run, with the state it runs in; none where a cycle passes or a firing is stale. A word that does not decode
cannot stand in a resident block, whose check is part of the load (R87, R214): the firing takes ILLOP with the check's code. In a C state no
instruction issues (R364). -/
def selectWork (s : State) : State × Option Instr :=
  match takeWork s with
  | (s, none) => (s, none)
  | (s, some (.ev i e)) => (latchEvent s e, some i)
  | (s, some (.fire f)) =>
    if !firingLive s f then (s, none)
    else if 2 ≤ fieldOf s.sys.pstate 0 3 then (s.mapFly fun g => g.sched (s.sys.now + 1) (.fire f), none)
    else if haltsAt s f then (haltFiring s f, none)
    else
      match decode (fetchWord s f) with
      | .ok i => (latchFiring s f, some i)
      | .error r => (raiseTrap s f.clu f.frame f.idx (misuse 1 r.code f.index), none)

/-- The firing that `withFetchWord` places: instruction 0 of frame 0 of region 0 of cluster 0, thread frame 0, no operands. -/
def placedFiring (s : State) : Firing :=
  { Firing.none with ser := s.fly.nextSer, since := s.sys.now }

/-- The instance that `withFetchWord` places. -/
def placedInst (s : State) : Inst :=
  { ser := s.fly.nextSer, blk := 0, reg := 0, frm := 0, start := s.sys.now, asleep := 0, n := 1, iter := false, ctx := 0, ident := 0,
    colour := 0, exit := none, writes := [], answers := [], emits := [], effs := [], opens := [], lanes := [], spawns := [],
    tiles := [], combs := [], copies := [], seq0 := none, committing := false, sending := false, sends := 0 }

/-- The state with a one-word block resident, a thread of context 0 active in it, and its instruction due now at the head of the agenda, the device
awake. -/
def placeWord (s : State) (w : Word) : State :=
  let b : BFrame := { BFrame.reset with st := .resident, words := [0x0002000000000000, 0, w], expect := [0] }
  { s with
    sys := { (s.sys.setFrame 0 0 0 b).setThr 0 0 { Thr.reset with st := .active } with
               held := false, pstate := if 2 ≤ fieldOf s.sys.pstate 0 3 then 0 else s.sys.pstate }
    fly := { s.fly with insts := tabPut s.fly.insts 0 (placedInst s), nextSer := s.fly.nextSer + 1,
                        agenda := { due := s.sys.now, act := .fire (placedFiring s) } :: s.fly.agenda } }

end Sys2Proof.Machine
end

