-- ==== Sys2Proof/Machine/Step.lean ====
section
/-!
DEFINITION. One step: the next work of the agenda, one row of the opcode table, whole and indivisible.
-/
namespace Sys2Proof.Machine

/-- One step. A device held in reset by its boot ROM runs nothing (R360). -/
def step (s : State) : Host.Outcome State Fault Refusal :=
  if s.sys.held then .fault .heldInReset
  else
    match selectWork s with
    | (t, some i) => exec i t
    | (t, none) => .next t

/-- `s` with the instruction word `w` where the next step issues it: the words of a block stand in a region's frame (R11), so the
instruction is placed in a resident block with an active thread, and its firing is next on the agenda. -/
def State.withFetchWord (s : State) (_nbits w : Nat) : State := placeWord s (BitVec.ofNat 64 w)

end Sys2Proof.Machine
end

