-- ==== Sys2Proof/Safety.lean ====
section
/-!
DEFINITION. What counts as a safe run: no step of it stops.
-/
namespace Sys2Proof.Machine

/-- A step goes on. -/
def Goes (s : State) : Prop := ∃ t, step s = .next t

/-- The states a run of `n` steps from `s` ends in. -/
def Runs : Nat → State → State → Prop
  | 0, s, t => s = t
  | n + 1, s, t => ∃ u, step s = .next u ∧ Runs n u t

/-- A state is safe when every state that a run reaches from it goes on. -/
def Safe (s : State) : Prop := ∀ n t, Runs n s t → Goes t

end Sys2Proof.Machine
end

