-- ==== Sys2Proof/Certificates/Slice0/Obligations.lean ====
section
/-!
DEFINITION. The statements for the provers.
-/
namespace Sys2Proof.Claims
end Sys2Proof.Claims

open Sys2Proof Sys2Proof.Machine Sys2Proof.Claims

/-! ### What a firing sends (R223, R224) -/

namespace Sys2Proof.Claims

/-- A firing sends the tokens `ts` to its targets `lat` cycles after it issues (a vector firing adds the term of R224), and changes
nothing else. -/
def sent (s : State) (lat : Nat) (tgts : List Target) (ts : List Token) : Host.Outcome State Fault Refusal :=
  .next { s with fly := sendAll s.fly.cur (s.sys.now + lat + s.fly.cur.extra) tgts ts s.fly }

/-- A binary element-wise instruction: on every pair of operands that R31 accepts (of its own format or converted, scalar or run, with any
predicate), it sends `f` of each pair of elements that fires. -/
def binary (s : State) (x : GWord) (i : Instr) (mover : Bool) (out : Fmt) (lat : Nat) (f : Word → Word → Word) : Prop :=
  ∀ xs ys m, operand s.fly.cur x.h mover s.fly.cur.left = .ok xs → operand s.fly.cur x.h mover s.fly.cur.right = .ok ys →
    firedMask s.fly.cur x.h = .ok m →
    exec i s = sent s lat x.targets (resultToks s.fly.cur out (masked m ((xs.zip ys).map fun p => f p.1 p.2)))

/-- A unary element-wise instruction. -/
def unary (s : State) (h : Head) (tgts : List Target) (i : Instr) (mover : Bool) (out : Fmt) (lat : Nat) (f : Word → Word) : Prop :=
  ∀ xs m, operand s.fly.cur h mover s.fly.cur.left = .ok xs → firedMask s.fly.cur h = .ok m →
    exec i s = sent s lat tgts (resultToks s.fly.cur out (masked m (xs.map f)))

/-- A function of `w`-bit integers on the low `w` bits of words, the bits above the result copies of its top bit (R240): `w` is 32 for
I32, 64 for X64. -/
def onInt2 (ty : Fmt) (f : (w : Nat) → BitVec w → BitVec w → BitVec w) (a b : Word) : Word :=
  if ty = .i32 then (f 32 (a.setWidth 32) (b.setWidth 32)).signExtend 64 else f 64 a b

def onInt1 (ty : Fmt) (f : (w : Nat) → BitVec w → BitVec w) (a : Word) : Word :=
  if ty = .i32 then (f 32 (a.setWidth 32)).signExtend 64 else f 64 a

/-- A predicate of `w`-bit integers as a predicate bit (R244). -/
def onTest (ty : Fmt) (f : (w : Nat) → BitVec w → BitVec w → Bool) (a b : Word) : Word :=
  if (if ty = .i32 then f 32 (a.setWidth 32) (b.setWidth 32) else f 64 a b) then 1 else 0

/-- The limit of an exact sum to the signed range of `w` bits (R239). -/
def satAdd (w : Nat) (t : Int) : BitVec w :=
  if t < -(2 ^ (w - 1)) then BitVec.intMin w else if t ≥ 2 ^ (w - 1) then BitVec.intMax w else BitVec.ofInt w t

end Sys2Proof.Claims

/-! ### Integer instructions (R239 to R245) -/

/-- R239, R240, R241: every integer arithmetic form, on `w`-bit vectors. A division by zero yields −1 (all ones) and the dividend as
remainder; −2^(w−1) by −1 wraps; nothing traps. -/
def Obligations.IntegerArithmeticResults : Prop :=
  ∀ (s : State) (x : GWord), (x.h.ty = .x64 ∨ x.h.ty = .i32) →
    let ty := x.h.ty
    let b2 (i : GWord → Instr) (lat : Nat) (f : (w : Nat) → BitVec w → BitVec w → BitVec w) := binary s x (i x) false ty lat (onInt2 ty f)
    let dv := if ty = .i32 then 12 else 20
    b2 .add 1 (fun _ a b => a + b) ∧ b2 .sub 1 (fun _ a b => a - b) ∧
    unary s x.h x.targets (.addi x) false ty 1 (fun a => onInt2 ty (fun _ a b => a + b) a (x.imm.signExtend 64)) ∧
    b2 .mul 3 (fun _ a b => a * b) ∧
    b2 .mulh 3 (fun w a b => (a.signExtend (2 * w) * b.signExtend (2 * w)).extractLsb' w w) ∧
    b2 .mulhn 3 (fun w a b => (a.setWidth (2 * w) * b.setWidth (2 * w)).extractLsb' w w) ∧
    b2 .div dv (fun _ a b => if b = 0 then -1 else a.sdiv b) ∧ b2 .divn dv (fun _ a b => if b = 0 then -1 else a / b) ∧
    b2 .rem dv (fun _ a b => if b = 0 then a else a.srem b) ∧ b2 .remn dv (fun _ a b => if b = 0 then a else a % b) ∧
    b2 .adds 1 (fun w a b => satAdd w (a.toInt + b.toInt)) ∧ b2 .subs 1 (fun w a b => satAdd w (a.toInt - b.toInt)) ∧
    b2 .min 1 (fun _ a b => if b.slt a then b else a) ∧ b2 .max 1 (fun _ a b => if a.slt b then b else a) ∧
    b2 .minn 1 (fun _ a b => if b < a then b else a) ∧ b2 .maxn 1 (fun _ a b => if a < b then b else a) ∧
    unary s x.h x.targets (.abs x) false ty 1 (onInt1 ty fun _ a => if a.msb then -a else a) ∧
    unary s x.h x.targets (.neg x) false ty 1 (onInt1 ty fun _ a => -a)

/-- R242, R243: logic, shifts and bit fields. A register shift amount is taken modulo `w`; an immediate one is less than `w` in a
well-formed word. -/
def Sys2Proof.Claims.LogicAndShiftResults : Prop :=
  ∀ (s : State) (x : GWord), (x.h.ty = .x64 ∨ x.h.ty = .i32) →
    let ty := x.h.ty
    let b2 (i : GWord → Instr) (f : (w : Nat) → BitVec w → BitVec w → BitVec w) := binary s x (i x) false ty 1 (onInt2 ty f)
    let u1 (i : GWord → Instr) (f : (w : Nat) → BitVec w → BitVec w) := unary s x.h x.targets (i x) false ty 1 (onInt1 ty f)
    let ui (i : GWord → Instr) (f : (w : Nat) → BitVec w → BitVec w → BitVec w) :=
      unary s x.h x.targets (i x) false ty 1 (fun a => onInt2 ty f a (x.imm.signExtend 64))
    (b2 .and (fun _ a b => a &&& b) ∧ b2 .or (fun _ a b => a ||| b) ∧ b2 .xor (fun _ a b => a ^^^ b) ∧ b2 .andn (fun _ a b => a &&& ~~~b) ∧
     ui .andi (fun _ a b => a &&& b) ∧ ui .ori (fun _ a b => a ||| b) ∧ ui .xori (fun _ a b => a ^^^ b)) ∧
    (b2 .shl (fun w a b => a <<< (b.toNat % w)) ∧ b2 .shr (fun w a b => a >>> (b.toNat % w)) ∧
     b2 .sha (fun w a b => a.sshiftRight (b.toNat % w)) ∧ b2 .rol (fun w a b => a.rotateLeft (b.toNat % w))) ∧
    (x.shiftOk = true → x.imm.toNat < intWidth ty ∧ u1 .shli (fun _ a => a <<< x.imm.toNat) ∧
      u1 .shri (fun _ a => a >>> x.imm.toNat) ∧ u1 .shai (fun _ a => a.sshiftRight x.imm.toNat)) ∧
    (u1 .clz (fun w a => BitVec.ofNat w (if a = 0 then w else w - 1 - a.toNat.log2)) ∧
     u1 .popc (fun w a => BitVec.ofNat w ((List.range w).countP fun i => a.getLsbD i)) ∧ u1 .brev (fun _ a => a.reverse))

/-- R243: a field of `m` bits at bit `p` of the left operand, extracted (signed where S is 1) or replaced by the low bits of the right. -/
def Sys2Proof.Claims.BitFieldResults : Prop :=
  ∀ (s : State) (x : GWord), (x.h.ty = .x64 ∨ x.h.ty = .i32) →
    let p := (x.imm.extractLsb' 0 6).toNat
    let m := (x.imm.extractLsb' 6 6).toNat + 1
    (x.fieldOk true = true → p + m ≤ intWidth x.h.ty ∧
      unary s x.h x.targets (.bfx x) false x.h.ty 1 (onInt1 x.h.ty fun w a =>
        if x.imm.getLsbD 12 then (a.extractLsb' p m).signExtend w else (a.extractLsb' p m).setWidth w)) ∧
    (x.fieldOk false = true → p + m ≤ intWidth x.h.ty ∧
      binary s x (.bfi x) false x.h.ty 1 (onInt2 x.h.ty fun w a b =>
        let mask : BitVec w := (BitVec.allOnes m).setWidth w <<< p
        (a &&& ~~~mask) ||| ((b <<< p) &&& mask)))

/-- R244: integer compares and predicate logic. -/
def Sys2Proof.Claims.CompareResults : Prop :=
  (∀ (s : State) (x : GWord), (x.h.ty = .x64 ∨ x.h.ty = .i32) →
    let t2 (i : GWord → Instr) (f : (w : Nat) → BitVec w → BitVec w → Bool) := binary s x (i x) false .prd 1 (onTest x.h.ty f)
    let ti (i : GWord → Instr) (f : (w : Nat) → BitVec w → BitVec w → Bool) :=
      unary s x.h x.targets (i x) false .prd 1 (fun a => onTest x.h.ty f a (x.imm.signExtend 64))
    t2 .teq (fun _ a b => a == b) ∧ t2 .tne (fun _ a b => a != b) ∧ t2 .tlt (fun _ a b => a.slt b) ∧ t2 .tle (fun _ a b => a.sle b) ∧
    t2 .tltn (fun _ a b => a.ult b) ∧ t2 .tlen (fun _ a b => a.ule b) ∧
    ti .teqi (fun _ a b => a == b) ∧ ti .tlti (fun _ a b => a.slt b) ∧ ti .tlei (fun _ a b => a.sle b)) ∧
  (∀ (s : State) (x : GWord), x.h.ty = .prd →
    let p2 (i : GWord → Instr) (f : Bool → Bool → Bool) := binary s x (i x) false .prd 1 (fun a b => if f (a.getLsbD 0) (b.getLsbD 0) then 1 else 0)
    p2 .pand (· && ·) ∧ p2 .por (· || ·) ∧ p2 .pxor (· != ·) ∧
    unary s x.h x.targets (.pnot x) false .prd 1 (fun a => if a.getLsbD 0 then 0 else 1))

/-- R245: LEA forms left + right × 2^s + the signed offset in the 52-bit space, bits [63:52] zero; without a right position the index is 0. -/
def Sys2Proof.Claims.LeaResult : Prop :=
  ∀ (s : State) (x : GWord), x.h.ty = .x64 →
    let addr (a i : Word) : Word :=
      ((a + (i <<< (x.imm.extractLsb' 0 4).toNat) + (x.imm.extractLsb' 4 23).signExtend 64).setWidth 52).setWidth 64
    (s.fly.cur.right.isSome → binary s x (.lea x) false .x64 1 addr) ∧
    (s.fly.cur.right = none → unary s x.h x.targets (.lea x) false .x64 1 (fun a => addr a 0))

/-! ### Operands and predicates (R28, R31, R223) -/

namespace Sys2Proof.Claims

/-- The outcome in which the firing raises a trap in its instance (R345). -/
def traps (s : State) (r : TrapRec) : Host.Outcome State Fault Refusal := .next (raiseTrap s s.fly.cur.clu s.fly.cur.frame s.fly.cur.idx r)

/-- The trap is the contained fault FORMAT (R343). -/
def isFormat (r : TrapRec) : Prop := r.cause = 6 ∧ r.contained = true

/-- The token formats that an instruction of a type accepts (R31): its own, and with `.ac` those of the conversion table. -/
def accepts (ty : Fmt) (ac : Bool) (f : Fmt) : Bool :=
  f == ty || (ac && match ty with
    | .f32 => f.narrow || f == .f64
    | .f64 => f.narrow || f == .f32
    | .b16 | .t8 | .t6 => f.narrow || f == .f32
    | .x64 => f == .i32
    | _ => false)

/-- All tokens of the firing are scalar, and by its predicate it fires (`b`) or does not (R28). -/
def scalarFires (s : State) (h : Head) (b : Bool) : Prop :=
  (∀ t ∈ s.fly.cur.toks, t.vec = false) ∧
    ((h.pred = .always ∧ b = true) ∨
      ∃ t, s.fly.cur.pred = some t ∧ t.fmt = .prd ∧ h.pred ≠ .always ∧ b = (t.data.getLsbD 0 == (h.pred == .onTrue)))

/-- A scalar firing that yields one scalar under its own tag where its predicate holds, and nothing where it does not. -/
def yields (s : State) (h : Head) (tgts : List Target) (i : Instr) (out : Fmt) (lat : Nat) (v : Word) : Prop :=
  ∀ b, scalarFires s h b →
    exec i s = if b then sent s lat tgts [scalarTok s.fly.cur.colour s.fly.cur.frame s.fly.cur.index out v] else .next s

/-- The outcome in which an exit token goes to the commit unit (R232): kind 0 to the block at `addr`, 1 retire, 2 call, 3 return. -/
def exits (s : State) (kind addr ret : Nat) : Host.Outcome State Fault Refusal :=
  let c := s.fly.cur
  let e : Ev := { clu := c.clu, reg := c.reg, frm := c.frm, part := 2, col := kind, id := c.idx, ent := some c.ser,
                  word := BitVec.ofNat 64 addr, ctx := ret, tok := scalarTok c.colour c.frame c.index .x64 0 }
  .next { s with fly := s.fly.event (s.sys.now + 1) .tokenArrival e }

/-- SEL's test of the left operand (R231). -/
def selects (ty : Fmt) (k : Nat) (a : Word) : Bool :=
  let w := if ty = .i32 ∨ ty = .f32 then 32 else 64
  let sign := a.getLsbD (w - 1)
  let mag := a.toNat % 2 ^ (w - 1)
  let zero := if ty = .f32 ∨ ty = .f64 then mag == 0 else a.toNat % 2 ^ w == 0
  let nan := if ty = .f32 then 0x7F800000 < mag else if ty = .f64 then 0x7FF0000000000000 < mag else false
  match k with
  | 0 => !zero
  | 1 => !sign
  | 2 => sign
  | _ => !nan

end Sys2Proof.Claims

/-- R31: an operand is accepted exactly when its format is the instruction's type, or the conversion table has the pair and `.ac` is set;
any other difference is the contained fault FORMAT, with FMT, TYPE and the instruction's index in `%tinfo` (R343) and the token's tag word for
the log (R32). -/
def Sys2Proof.Claims.OperandFormats : Prop :=
  ∀ (c : Firing) (h : Head) (mover : Bool) (t : Token),
    (accepts h.ty h.ac t.fmt = true → ∃ g : Word → Word, operand c h mover (some t) = .ok (t.elems.map g)) ∧
    (accepts h.ty h.ac t.fmt = false → operand c h mover (some t) =
      .error { cause := 6, contained := true, index := c.index, va := 0, tag := c.tagOf t,
               info := BitVec.ofNat 64 (t.fmt.code.toNat + 8 * h.ty.code.toNat + 64 * c.idx) }) ∧
    (h.ac = true → t.fmt = .i32 → h.ty = .x64 → operand c h mover (some t) = .ok (t.elems.map fun x => (x.setWidth 32).signExtend 64)) ∧
    (t.fmt = h.ty → (mover = true ∨ h.ty.narrow = false) → operand c h mover (some t) = .ok t.elems)

/-- R28, R223: an element fires by its own predicate bit; the position takes only FMT 7; a predicated instruction whose predicate does not
match consumes its tokens and produces nothing. -/
def Sys2Proof.Claims.PredicateSelects : Prop :=
  (∀ (c : Firing) (h : Head) (t : Token), h.pred ≠ .always → c.pred = some t →
    (t.fmt = .prd → firedMask c h = .ok ((List.range (t.len + 1)).map fun e => t.data.getLsbD e == (h.pred == .onTrue))) ∧
    (t.fmt ≠ .prd → ∃ r, isFormat r ∧ firedMask c h = .error r)) ∧
  (∀ (s : State) (x : GWord) (t : Token), x.h.pred ≠ .always → s.fly.cur.pred = some t → t.fmt = .prd →
    (∀ e ≤ t.len, t.data.getLsbD e = (x.h.pred == .onFalse)) →
    (∃ xs, operand s.fly.cur x.h false s.fly.cur.left = .ok xs) → (∃ ys, operand s.fly.cur x.h false s.fly.cur.right = .ok ys) →
    exec (.add x) s = .next s ∧ exec (.mul x) s = .next s ∧ exec (.teq x) s = .next s ∧ exec (.fadd x) s = .next s)

/-! ### Moves and carried registers (R225 to R232, R238) -/

/-- R225, R199, R231, R229: moves leave encodings as they are; SEL chooses by a test of its left operand; LDIH replaces the top 27 bits;
STEER parts its elements by its predicate. -/
def Sys2Proof.Claims.MoveResults : Prop :=
  ∀ (s : State) (x : GWord),
    unary s x.h x.targets (.mov x) true x.h.ty 1 id ∧ unary s x.h x.targets (.merge x) true x.h.ty 1 id ∧
    unary s x.h [x.t0, x.t1, x.t2.getD .none, x.t3.getD .none] (.fan x) true x.h.ty 1 id ∧
    ((x.h.ty = .x64 ∨ x.h.ty = .i32 ∨ x.h.ty = .f64 ∨ x.h.ty = .f32) →
      binary s x (.sel x) true x.h.ty 1 fun a b => if selects x.h.ty (x.imm.extractLsb' 0 2).toNat a then a else b) ∧
    (∀ (y : IWord) (t : Token) (m : List Bool), s.fly.cur.left = some t → (t.fmt = .x64 ∨ t.fmt = .f64) → firedMask s.fly.cur y.h = .ok m →
      exec (.ldih y) s = sent s 1 [y.t0] (resultToks s.fly.cur y.h.ty
        (masked m (t.elems.map fun a => (y.imm.extractLsb' 0 27) ++ (a.extractLsb' 0 37))))) ∧
    (∀ (xs : List Word) (t : Token), operand s.fly.cur x.h true s.fly.cur.left = .ok xs → s.fly.cur.pred = some t → t.fmt = .prd →
      let m := (List.range (t.len + 1)).map t.data.getLsbD
      let send (g : Target) (m : List Bool) (f : Fly) :=
        sendAll s.fly.cur (s.sys.now + 1 + s.fly.cur.extra) [g] (resultToks s.fly.cur x.h.ty (masked m xs)) f
      exec (.steer x) s = .next { s with fly := send x.t1 (m.map not) (send x.t0 m s.fly) })

/-- R226, R227, R228, R238: GETG yields the register as it stood at entry (g0 reads zero, R93), PUTG the same under its operand's tag while
its operand goes to the write slot, LDI its immediate, RDID an identifier. -/
def Sys2Proof.Claims.RegisterResults : Prop :=
  ∀ (s : State) (x : GWord),
    let c := s.fly.cur
    let n := (x.imm.extractLsb' 0 5).toNat
    yields s x.h x.targets (.getg x) x.h.ty 1 (s.reg c.clu c.frame n) ∧ s.reg c.clu c.frame 0 = 0 ∧
    (∀ y : IWord, yields s y.h [y.t0] (.ldi y) y.h.ty 1 (y.imm.signExtend 64)) ∧
    (∀ xs m, operand c x.h true c.left = .ok xs → firedMask c x.h = .ok m →
      let lv := s.sys.now + 1 + c.extra
      let old := m.map fun b => if b then some (s.reg c.clu c.frame n) else none
      let f := sendAll c lv x.targets (resultToks c x.h.ty old) s.fly
      exec (.putg x) s = .next { s with fly := sendAll c lv [.reg (x.imm.extractLsb' 0 5)] (resultToks c x.h.ty (masked m xs)) f }) ∧
    (let id (e : Nat) : Nat := [c.colour, c.frame, c.index + e, c.clu, c.clu / 8, c.clu % 8, c.reg, c.idx % 16,
        (s.sys.thr c.clu c.frame).ctx, (s.sys.thr c.clu c.frame).ident, s.inst.n].getD x.imm.toNat 0
     x.imm.toNat ≤ 10 →
      (c.left = none → yields s x.h x.targets (.rdid x) .x64 1 (BitVec.ofNat 64 (id 0))) ∧
      (∀ t m, c.left = some t → firedMask c x.h = .ok m →
        exec (.rdid x) s = sent s 1 x.targets (resultToks c .x64 (masked m ((List.range (t.len + 1)).map fun e => BitVec.ofNat 64 (id e))))))

/-- R198, R230, R224, R95: NULL answers a register, or its LSID: unpredicated for every index of the entry, predicated for each index that matches, and in
a block that is not iterated once, whichever elements match. It changes nothing else; a vector firing adds the term of R224. -/
def Sys2Proof.Claims.NullAnswers : Prop :=
  ∀ (s : State) (x : GWord),
    let c := s.fly.cur
    let k := (x.imm.extractLsb' 0 5).toNat
    let tok (i n : Nat) : Token := { scalarTok c.colour c.frame i .x64 0 with len := n - 1 }
    let lv := s.sys.now + 1 + c.extra
    (∀ n, x.t0 = .reg n → scalarFires s x.h true → exec (.null x) s = .next { s with fly := toCommit c (s.sys.now + 1) 5 n.toNat (tok c.index 1) s.fly }) ∧
    ((∀ n, x.t0 ≠ .reg n) → x.h.pred = .always → exec (.null x) s = .next { s with fly := toCommit c lv 3 k (tok 0 s.inst.n) s.fly }) ∧
    ((∀ n, x.t0 ≠ .reg n) → x.h.pred ≠ .always → ∀ b, scalarFires s x.h b → (∀ t, c.pred = some t → t.len = 0) →
      let i := if s.inst.iter then c.index else 0
      exec (.null x) s = if b then .next { s with fly := toCommit c (s.sys.now + 1) 3 k (tok i 1) s.fly } else .next s) ∧
    (∀ m, firedMask c x.h = .ok m →
      (∀ n, x.t0 = .reg n → exec (.null x) s = .next { s with fly := if true ∈ m then toCommit c lv 5 n.toNat (tok c.index 1) s.fly else s.fly }) ∧
      ((∀ n, x.t0 ≠ .reg n) → x.h.pred ≠ .always →
        let runs := groupRuns c.index (m.map fun b => if b then some () else none)
        (s.inst.iter = true → exec (.null x) s = .next { s with fly := runs.foldl (fun f r => toCommit c lv 3 k (tok r.1 r.2.length) f) s.fly }) ∧
        (s.inst.iter = false → exec (.null x) s = .next { s with fly := if true ∈ m then toCommit c lv 3 k (tok 0 1) s.fly else s.fly })))

/-! ### Exits, SPAWN, EMIT (R232 to R237) -/

/-- R233, R234, R235, R290: an exit that fires sends one exit token to the commit unit: to the block address + 64 × OFFSET or block address 0,
to its left operand, to a callee with a return address, to the top of the return stack, or to retirement. CALL at DEPTH 8 raises ILLOP
0x03, RET at DEPTH 0 ILLOP 0x04, TDONE outside a task thread ILLOP 0x35. -/
def Sys2Proof.Claims.ExitResults : Prop :=
  ∀ (s : State) (x : CWord) (y : GWord) (z : XRWord),
    let c := s.fly.cur
    let thr := s.sys.thr c.clu c.frame
    let dest : Nat := (((s.sys.frame c.clu c.reg c.frm).blk + 64 * x.off.toInt) % 2 ^ 52).toNat
    (∀ b, scalarFires s x.h b →
      exec (.exit x) s = (if b then exits s (if x.retire then 1 else 0) dest 0 else .next s) ∧
      (∀ t, c.left = some t → t.fmt = .x64 → exec (.exiti x) s = if b then exits s 0 (t.elem 0).toNat 0 else .next s) ∧
      (∀ t, c.left = some t → t.fmt = .x64 → thr.stack.length < 8 →
        exec (.call x) s = if b then exits s 2 dest ((t.elem 0).toNat % 2 ^ 52) else .next s) ∧
      (∀ t, c.left = some t → t.fmt = .x64 → 8 ≤ thr.stack.length → b = true → exec (.call x) s = traps s (misuse 1 0x03 c.index))) ∧
    (∀ b, scalarFires s y.h b →
      (∀ a l, thr.stack = a :: l → exec (.ret y) s = if b then exits s 3 a 0 else .next s) ∧
      (thr.stack = [] → b = true → exec (.ret y) s = traps s (misuse 1 0x04 c.index)) ∧
      exec (.halt y) s = if b then exits s 1 0 0 else .next s) ∧
    (∀ b, scalarFires s z.h b →
      (thr.task.isSome → exec (.tdone z) s = if b then exits s 1 0 0 else .next s) ∧
      (thr.task = none → b = true → exec (.tdone z) s = traps s (misuse 1 0x35 c.index)))

/-- R236: SPAWN reserves the lowest free frame from 0 to 1,019 and yields its number; with none free it reserves nothing and yields
0xFFFF_FFFF. What the new thread will be is recorded for the commit. -/
def Sys2Proof.Claims.SpawnResult : Prop :=
  ∀ (s : State) (x : GWord) (xs ys : List Word) (i : Inst), scalarFires s x.h true →
    operand s.fly.cur x.h false s.fly.cur.left = .ok xs → operand s.fly.cur x.h false s.fly.cur.right = .ok ys →
    s.fly.inst s.fly.cur.clu s.fly.cur.frame = some i →
    let c := s.fly.cur
    let tok (v : Word) := scalarTok c.colour c.frame c.index .x64 v
    ((∀ k < 1020, s.frameFree c.clu k = false) → exec (.spawn x) s = sent s 1 x.targets [tok 0xFFFFFFFF]) ∧
    (∀ k < 1020, s.frameFree c.clu k = true → (∀ j < k, s.frameFree c.clu j = false) →
      let e : EffAt := { idx := c.idx, index := c.index, e := .spawn k ((xs.headD 0).toNat % 2 ^ 52) (ys.headD 0) c.index }
      let i' : Inst := { i with spawns := i.spawns ++ [k], effs := i.effs ++ [e] }
      exec (.spawn x) s = sent { s with fly := s.fly.setInst c.clu c.frame i' } 1 x.targets [tok (BitVec.ofNat 64 k)])

/-- R237: a scalar EMIT to a port of its colour records the token for the commit and answers the EMIT; data above 384 bits raise ILLOP 0x05,
an unheld port ILLOP 0x06, a port of another colour OWNER. -/
def Sys2Proof.Claims.EmitResult : Prop :=
  ∀ (s : State) (x : GWord) (xs : List Word) (i : Inst), scalarFires s x.h true → s.fly.cur.left.isSome →
    operand s.fly.cur x.h true s.fly.cur.left = .ok xs → (∀ t ∈ s.fly.cur.toks, t.len = 0) →
    s.fly.inst s.fly.cur.clu s.fly.cur.frame = some i →
    let c := s.fly.cur
    let e := (x.imm.extractLsb' 0 12).toNat
    let held := tabFind (s.sys.ctx (s.sys.thr c.clu c.frame).ctx).ports e
    (∀ p, held = some p → p.colour = c.colour →
      let r : EffAt := { idx := c.idx, index := c.index, e := .emit e (scalarTok c.colour c.frame c.index x.h.ty (xs.headD 0)) }
      let f := s.fly.setInst c.clu c.frame { i with effs := i.effs ++ [r] }
      exec (.emit x) s = .next { s with fly := toCommit c (s.sys.now + 1) 4 c.idx (scalarTok c.colour c.frame c.index .x64 0) f }) ∧
    (held = none → exec (.emit x) s = traps s (misuse 1 0x06 c.index)) ∧
    (∀ p, held = some p → p.colour ≠ c.colour → ∃ r, r.cause = 8 ∧ r.contained = true ∧ exec (.emit x) s = traps s r)

/-- R237, R223, R224, R377, R28: a vector EMIT records one token for each maximal run of its elements that fired; an EMIT of which none fired records nothing; each answers
every index it covers. Data above 384 bits raise ILLOP 0x05. -/
def Sys2Proof.Claims.EmitRuns : Prop :=
  ∀ (s : State) (x : GWord) (xs : List Word) (m : List Bool) (i : Inst),
    operand s.fly.cur x.h true s.fly.cur.left = .ok xs → firedMask s.fly.cur x.h = .ok m → s.fly.inst s.fly.cur.clu s.fly.cur.frame = some i →
    let c := s.fly.cur
    let e := (x.imm.extractLsb' 0 12).toNat
    let answered (f : Fly) := toCommit c (s.sys.now + 1 + c.extra) 4 c.idx { scalarTok c.colour c.frame c.index .x64 0 with len := c.n - 1 } f
    (true ∉ m → exec (.emit x) s = .next { s with fly := answered s.fly }) ∧
    (true ∈ m → 384 < c.n * x.h.ty.width → exec (.emit x) s = traps s (misuse 1 0x05 c.index)) ∧
    (∀ p, true ∈ m → xs.length = m.length → c.vec = true → c.n * x.h.ty.width ≤ 384 → tabFind (s.sys.ctx (s.sys.thr c.clu c.frame).ctx).ports e = some p → p.colour = c.colour →
      let es := (groupRuns c.index (masked m xs)).map fun r => ({ idx := c.idx, index := r.1, e := .emit e (vecTok c.colour c.frame r.1 x.h.ty r.2) } : EffAt)
      exec (.emit x) s = .next { s with fly := answered (s.fly.setInst c.clu c.frame { i with effs := i.effs ++ es }) })

/-- R28, R236: a SPAWN whose predicate does not match reserves nothing and yields nothing. -/
def Sys2Proof.Claims.SpawnOff : Prop :=
  ∀ (s : State) (x : GWord), scalarFires s x.h false → (∃ xs, operand s.fly.cur x.h false s.fly.cur.left = .ok xs) →
    (∃ ys, operand s.fly.cur x.h false s.fly.cur.right = .ok ys) → exec (.spawn x) s = .next s

/-- R223: a vector token at any position of GETG, LDI, EXIT, EXITI, CALL, RET, HALT or SPAWN raises FORMAT. -/
def Sys2Proof.Claims.ScalarOnlyFormat : Prop :=
  ∀ (s : State) (x : GWord) (y : IWord) (z : CWord), (∃ t ∈ s.fly.cur.toks, t.vec = true) →
    ∀ i ∈ [Instr.getg x, .ldi y, .exit z, .exiti z, .call z, .ret x, .halt x, .spawn x], ∃ r, isFormat r ∧ exec i s = traps s r

/-! ### Floating point and conversion (R246 to R258) -/

namespace Sys2Proof.Claims

/-- The format F of R251: F64 at TYPE F64, F32 otherwise; and the FMT of its results (R247). -/
def fpF (ty : Fmt) : FP := if ty = .f64 then fp64 else fp32
def fpOut (ty : Fmt) : Fmt := if ty = .f64 then .f64 else .f32

/-- The magnitude of an encoding as an integer with its sign: ordered as the values are, both zeros 0. -/
def encKey (p : FP) (a : Nat) : Int :=
  if a / 2 ^ (p.eb + p.mb) % 2 = 1 then -((a % 2 ^ (p.eb + p.mb) : Nat) : Int) else (a % 2 ^ (p.eb + p.mb) : Nat)

/-- An encoding is a NaN: its magnitude lies above that of infinity. -/
def encNan (p : FP) (a : Nat) : Bool := decide (p.infBits < a % 2 ^ (p.eb + p.mb))

/-- The figure of FDIV, FSQRT and FRSQ in R250, less the vector term that `sent` adds: each element after the first adds 2 cycles instead. -/
def divLat (s : State) (ty : Fmt) : Nat :=
  (if ty = .f64 then 26 else 14) + (if s.fly.cur.vec then 2 * (s.fly.cur.n - 1) else 0) - s.fly.cur.extra

end Sys2Proof.Claims

/-- R251, R252: each arithmetic instruction computes exactly on the decoded values and rounds once, in the mode in force. EX2 and LG2 yield what the model's own bounded
computations give, which are the correctly rounded results where those bounds suffice (log entry 5, UNVERIFIED: the model's choice of how they are computed). -/
def Obligations.FloatArithmeticResults : Prop :=
  ∀ (s : State) (x : GWord),
    let ty := x.h.ty
    let p := fpF ty
    let r := x.h.rnd
    let v (a : Word) := p.decode a.toNat
    let b2 (i : GWord → Instr) (lat : Nat) (f : Word → Word → Nat) := binary s x (i x) false (fpOut ty) lat fun a b => BitVec.ofNat 64 (f a b)
    let u1 (i : GWord → Instr) (lat : Nat) (f : Word → Nat) := unary s x.h x.targets (i x) false (fpOut ty) lat fun a => BitVec.ofNat 64 (f a)
    (ty.isFlt = true →
      b2 .fadd 4 (fun a b => p.encode r ((v a).add r (v b))) ∧ b2 .fsub 4 (fun a b => p.encode r ((v a).add r (v b).neg)) ∧
      b2 .fmul 4 (fun a b => p.encode r ((v a).mul (v b))) ∧ b2 .fdiv (divLat s ty) (fun a b => p.div r (v a) (v b)) ∧
      u1 .fsqrt (divLat s ty) (fun a => p.sqrt r (v a)) ∧ u1 .frsq (divLat s ty) (fun a => p.rsqrt r (v a)) ∧
      u1 .frnd 4 (fun a => p.encode r ((v a).integral r)) ∧
      (s.fly.cur.right = none → u1 .fscl 4 (fun a => p.encode r ((v a).scale x.imm.toInt))) ∧
      (∀ t xs m, s.fly.cur.right = some t → t.fmt = .i32 → operand s.fly.cur x.h false s.fly.cur.left = .ok xs → firedMask s.fly.cur x.h = .ok m →
        exec (.fscl x) s = sent s 4 x.targets (resultToks s.fly.cur (fpOut ty) (masked m ((xs.zip t.elems).map fun q =>
          BitVec.ofNat 64 (p.encode r ((v q.1).scale (q.2.setWidth 32).toInt))))))) ∧
    (ty.isF32 = true →
      u1 .ex2 6 (fun a => fp32.exp2 r (v a)) ∧ u1 .lg2 6 (fun a => fp32.log2 r (v a)) ∧ u1 .tdec 1 (fun a => fp32.encode r (v a)) ∧
      (∀ t xs m, s.fly.cur.right = some t → t.fmt = .x64 → operand s.fly.cur x.h false s.fly.cur.left = .ok xs → firedMask s.fly.cur x.h = .ok m →
        let f (neg : Bool) (a q : Word) : Word :=
          let c := fp32.decode (q.toNat / 2 ^ 32)
          BitVec.ofNat 64 (fp32.encode r (((v a).mul (fp32.decode (q.toNat % 2 ^ 32))).add r (if neg then c.neg else c)))
        exec (.ffma x) s = sent s 4 x.targets (resultToks s.fly.cur .f32 (masked m ((xs.zip t.elems).map fun q => f false q.1 q.2))) ∧
        exec (.ffms x) s = sent s 4 x.targets (resultToks s.fly.cur .f32 (masked m ((xs.zip t.elems).map fun q => f true q.1 q.2)))))

/-- R253, R254, R255: selection, sign operations, compares and classes, on encodings in F. -/
def Sys2Proof.Claims.FloatCompareResults : Prop :=
  ∀ (s : State) (x : GWord), x.h.ty.isFlt = true →
    let p := fpF x.h.ty
    let sign : Word := BitVec.ofNat 64 (2 ^ (p.eb + p.mb))
    let nan (a : Word) : Bool := (p.decode a.toNat).isNan
    let less (a b : Word) : Bool := fpLess (p.decode a.toNat) (p.decode b.toNat)
    let pick (least : Bool) (a b : Word) : Word :=
      if nan a ∨ nan b then
        (if x.h.mod.getLsbD 0 ∧ nan a ≠ nan b then (if nan a then b else a) else BitVec.ofNat 64 p.qnan)
      else if less (if least then b else a) (if least then a else b) then b else a
    let bit (f : FVal → FVal → Bool) (a b : Word) : Word := if f (p.decode a.toNat) (p.decode b.toNat) then 1 else 0
    binary s x (.fmin x) false (fpOut x.h.ty) 4 (pick true) ∧ binary s x (.fmax x) false (fpOut x.h.ty) 4 (pick false) ∧
    unary s x.h x.targets (.fabs x) false (fpOut x.h.ty) 1 (fun a => a &&& ~~~sign) ∧
    unary s x.h x.targets (.fneg x) false (fpOut x.h.ty) 1 (fun a => a ^^^ sign) ∧
    binary s x (.fcps x) false (fpOut x.h.ty) 1 (fun a b => (a &&& ~~~sign) ||| (b &&& sign)) ∧
    binary s x (.feq x) false .prd 1 (bit fun a b => !a.isNan && !b.isNan && a.cmp b == 0) ∧
    binary s x (.flt x) false .prd 1 (bit fun a b => !a.isNan && !b.isNan && decide (a.cmp b < 0)) ∧
    binary s x (.fle x) false .prd 1 (bit fun a b => !a.isNan && !b.isNan && decide (a.cmp b ≤ 0)) ∧
    binary s x (.funo x) false .prd 1 (bit fun a b => a.isNan || b.isNan) ∧
    unary s x.h x.targets (.fcls x) false .prd 1 (fun a => if x.imm.getLsbD (fpClass p (p.decode a.toNat)) then 1 else 0)

/-- R49, R255: decoded values are ordered as their encodings are, read as sign and magnitude, both zeros alike; the NaNs are the encodings
above infinity. -/
def Sys2Proof.Claims.FloatOrderOfEncodings : Prop :=
  ∀ p ∈ [fp64, fp32, fpB16], ∀ a b : Nat, a < 2 ^ p.width → b < 2 ^ p.width →
    ((p.decode a).isNan = encNan p a) ∧
    (encNan p a = false → encNan p b = false →
      (((p.decode a).cmp (p.decode b) < 0) ↔ encKey p a < encKey p b) ∧ (((p.decode a).cmp (p.decode b) = 0) ↔ encKey p a = encKey p b))

/-- R49, R51: encoding a decoded value gives its encoding back in every rounding mode, and the canonical quiet NaN for a NaN. -/
def Sys2Proof.Claims.FloatEncodeDecode : Prop :=
  ∀ p ∈ [fp64, fp32, fpB16], ∀ (r : Rnd) (a : Nat), a < 2 ^ p.width →
    p.encode r (p.decode a) = if encNan p a then p.qnan else a

/-- R56, R257: every encoding of T8 and of T6 is what its value encodes to. -/
def Sys2Proof.Claims.TaperedEncodeDecode : Prop :=
  (∀ a < 256, t8enc (t8dec a) = a) ∧ (∀ a < 64, t6enc (t6dec a) = a)

/-- R256, R257, R258: conversions, the shared-exponent field and block quantisation. -/
def Obligations.ConversionResults : Prop :=
  ∀ (s : State) (x : GWord),
    let c := s.fly.cur
    let ty := x.h.ty
    let p := fpF ty
    let r := x.h.rnd
    let v (a : Word) := p.decode a.toNat
    let sel := (x.imm.extractLsb' 0 2).toNat
    let f := (x.imm.extractLsb' 2 6).toNat
    (∀ t m, (ty = .f64 ∨ ty = .f32) → c.left = some t → t.fmt = (if sel = 0 then .i32 else .x64) → firedMask c x.h = .ok m →
      exec (.cvtif x) s = sent s 2 x.targets (resultToks c ty (masked m (t.elems.map fun a =>
        let n : Int := if sel = 0 then (a.setWidth 32).toInt else if sel = 1 then a.toInt else a.toNat
        BitVec.ofNat 64 (p.encode r (.fin (decide (n < 0)) n.natAbs (-(f : Int)))))))) ∧
    (let lo : Int := [-(2 ^ 31), -(2 ^ 63), 0].getD sel 0
     let hi : Int := [2 ^ 31 - 1, 2 ^ 63 - 1, 2 ^ 64 - 1].getD sel (2 ^ 64 - 1)
     unary s x.h x.targets (.cvtfi x) false (if sel = 0 then .i32 else .x64) 2 fun a => BitVec.ofInt 64 (cvtFIval r f lo hi (v a))) ∧
    (∀ g ∈ [(2, Fmt.f64, fp64), (3, .f32, fp32), (4, .b16, fpB16)], x.imm = g.1 →
      unary s x.h x.targets (.cvtff x) false g.2.1 2 fun a => BitVec.ofNat 64 (g.2.2.encode r (v a))) ∧
    ((ty = .f64 ∨ ty = .f32) →
      unary s x.h x.targets (.tenc x) false (if x.imm.getLsbD 0 then .t6 else .t8) 2 fun a =>
        BitVec.ofNat 64 (if x.imm.getLsbD 0 then t6enc (v a) else t8enc (v a))) ∧
    (∀ xs m, ty.isF32 = true → operand c x.h false c.left = .ok xs → firedMask c x.h = .ok m →
      (kept m xs ≠ [] → exec (.bfs x) s = sent s 2 x.targets
        [scalarTok c.colour c.frame c.index .i32 (BitVec.ofNat 64 (bfsField ((kept m xs).map fun a => fp32.decode a.toNat)))]) ∧
      (∀ t, c.right = some t → t.vec = false → t.fmt = .i32 →
        let fld := if (t.elem 0).toNat % 256 = 0 then 1 else (t.elem 0).toNat % 256
        let q (a : Word) (e : Nat) : Word := if fld = 0xFF then 0 else
          BitVec.ofInt 64 (bfqElem (if x.h.mod.getLsbD 0 then 14 else 6) (if x.h.mod.getLsbD 0 then 32767 else 127) fld
            (((c.index + e) % 32 + ditherPhase s) % 32) (fp32.decode a.toNat))
        exec (.bfq x) s = sent s 2 x.targets (resultToks c .i32 (masked m (xs.zipIdx.map fun z => q z.1 z.2)))))

/-! ### Runs (R259 to R268) -/

/-- R259 to R262: generated, rearranged and compressed runs. -/
def Sys2Proof.Claims.RunResults : Prop :=
  ∀ (s : State) (x : GWord),
    let c := s.fly.cur
    let k := x.imm.toNat
    (scalarFires s x.h true →
      (∀ ty ∈ [Fmt.x64, .i32], x.h.ty = ty →
        let w := ty.maxRun
        let n := s.inst.n
        let step : Word := (x.imm.extractLsb' 5 22).signExtend 64
        let run (r : Nat) : Token := vecTok c.colour c.frame (r * w) ty ((List.range (Nat.min w (n - r * w))).map fun e =>
          s.reg c.clu c.frame (x.imm.extractLsb' 0 5).toNat + BitVec.ofNat 64 (r * w + e) * step)
        let out := (List.range ((n + w - 1) / w)).foldl (fun f r => sendAll c (s.sys.now + 1 + r) x.targets [run r] f) s.fly
        exec (.vgen x) s = .next { s with fly := out })) ∧
    (∀ t xs m, c.left = some t → t.vec = false → operand c x.h true c.left = .ok xs → firedMask c x.h = .ok m →
      let run := runToks c.colour c.frame c.index x.h.ty (List.replicate k (xs.headD 0))
      exec (.vspl x) s = if m.headD true then .next { s with fly := sendAll c (s.sys.now + 1) x.targets run s.fly } else .next s) ∧
    (∀ xs m, operand c x.h true c.left = .ok xs → firedMask c x.h = .ok m →
      (k < c.n → exec (.vlan x) s = sent s 1 x.targets (match (masked m xs).getD k none with
        | some v => [scalarTok c.colour c.frame (c.index + k) x.h.ty v]
        | none => [])) ∧
      (c.n ≤ k → true ∈ m → exec (.vlan x) s = traps s (misuse 1 0x80 c.index)) ∧
      (∀ t ys, c.right = some t → operand c x.h true c.right = .ok ys →
        (t.vec = false → k < c.n → exec (.vins x) s = sent s 1 x.targets (resultToks c x.h.ty (masked m (xs.set k (ys.headD 0))))) ∧
        (k ≤ c.n → exec (.vsld x) s = sent s 1 x.targets (resultToks c x.h.ty (masked m ((List.range c.n).map fun e =>
          if e + k < c.n then xs.getD (e + k) 0 else ys.getD (e + k - c.n) 0)))) ∧
        (c.n < k → true ∈ m → exec (.vsld x) s = traps s (misuse 1 0x81 c.index)) ∧
        exec (.vsel x) s = sent s 1 x.targets (resultToks c x.h.ty (masked m ((xs.zip ys).zipIdx.map fun z =>
          let i := (c.index + z.2) % 32
          if (x.imm.extractLsb' 0 5).toNat ≤ i ∧ i ≤ (x.imm.extractLsb' 5 5).toNat then z.1.2 else z.1.1)))) ∧
      (∀ t, c.right = some t → t.fmt = .i32 → exec (.vperm x) s = sent s 1 x.targets (resultToks c x.h.ty (masked m
        ((List.range c.n).map fun e => xs.getD ((t.elems.getD e 0).toNat % 2 ^ 32) 0)))) ∧
      (∀ t, c.right = some t → t.fmt = .prd → true ∈ m →
        let ks := kept (List.zipWith (fun b y => b && y.getLsbD 0) m t.elems) xs
        let lv := s.sys.now + 1 + c.extra
        let run := if ks = [] then [] else if c.vec then runToks c.colour c.frame c.index x.h.ty ks
          else [scalarTok c.colour c.frame c.index x.h.ty (ks.headD 0)]
        let n := scalarTok c.colour c.frame c.index .i32 (BitVec.ofNat 64 ks.length)
        exec (.vcmpr x) s = .next { s with fly := sendAll c lv [x.t1] [n] (sendAll c lv [x.t0] run s.fly) })) ∧
    (x.imm = 0 → binary s x (.vcat x) true .x64 1 fun a b => (b.setWidth 32) ++ (a.setWidth 32)) ∧
    (∀ t m, c.left = some t → t.fmt = .x64 → firedMask c x.h = .ok m →
      (x.imm = 1 → exec (.vcat x) s = sent s 1 x.targets (resultToks c x.h.ty (masked m (t.elems.map fun a => (a.setWidth 32).setWidth 64)))) ∧
      (x.imm = 2 → exec (.vcat x) s = sent s 1 x.targets (resultToks c x.h.ty (masked m (t.elems.map fun a : Word => a >>> (32 : Nat))))))

/-- R248, R263 to R267: reductions over the elements that fire, running results over all the elements up to each, the two of four that rank highest, and softmax rows. -/
def Obligations.ReductionResults : Prop :=
  ∀ (s : State) (x : GWord) (xs : List Word) (m : List Bool),
    let c := s.fly.cur
    let ty := x.h.ty.compute
    let r := x.h.rnd
    let num := x.h.mod.getLsbD 0
    let one (f : Fmt) (v : Word) : Token := scalarTok c.colour c.frame c.index f v
    firedMask c x.h = .ok m →
    (operand c x.h false c.left = .ok xs → kept m xs ≠ [] →
      exec (.vsum x) s = sent s 4 x.targets [one ty (sumOf ty r (kept m xs))] ∧
      exec (.vmax x) s = sent s 4 x.targets [one ty (pickOf ty false num (kept m xs))] ∧
      exec (.vmin x) s = sent s 4 x.targets [one ty (pickOf ty true num (kept m xs))] ∧
      (∀ ys, operand c x.h false c.right = .ok ys → kept m (xs.zip ys) ≠ [] →
        exec (.vdot x) s = sent s 4 x.targets [one ty (dotOf ty r (kept m (xs.zip ys)))]) ∧
      (∀ t, c.right = some t → t.vec = false → t.fmt = .x64 →
        let q := rstatOf r (kept m xs) (t.elem 0)
        let lv := s.sys.now + 8 + c.extra
        exec (.rstat x) s = .next { s with fly := sendAll c lv [x.t1] [one .x64 q.2] (sendAll c lv [x.t0] [one .x64 q.1] s.fly) })) ∧
    (operand c x.h false c.left = .ok xs →
      (kept m xs = [] → exec (.vsum x) s = .next s ∧ exec (.vmax x) s = .next s ∧ exec (.vmin x) s = .next s) ∧
      exec (.vscan x) s = sent s 4 x.targets (resultToks c ty (masked m ((List.range c.n).map fun e =>
        let ys := xs.take (e + 1)
        if x.imm = 0 then sumOf ty r ys else pickOf ty (x.imm = 2) num ys))) ∧
      (∀ t, c.right = some t → t.vec = false → t.fmt = .x64 →
        exec (.rscl x) s = sent s 6 x.targets (resultToks c .f32 (masked m (xs.map fun a => rsclOf r x.imm.toNat (t.elem 0) a))))) ∧
    (operand c x.h true c.left = .ok xs →
      ((c.vec = false ∨ c.index % 4 ≠ 0 ∨ c.n % 4 ≠ 0) → true ∈ m → exec (.sel24 x) s = traps s (misuse 1 0x82 c.index)) ∧
      (c.vec = true → c.index % 4 = 0 → c.n % 4 = 0 → m = List.replicate c.n true →
        let grp (q : Nat) := (xs.drop (4 * q)).take 4
        let top (q : Nat) := top2 x.h.ty (grp q)
        let qs := List.range (c.n / 4)
        let lv := s.sys.now + 4 + c.extra
        let t0 := runToks c.colour c.frame (c.index / 2) x.h.ty (qs.flatMap fun q => [(grp q).getD (top q).1 0, (grp q).getD (top q).2 0])
        let t1 := runToks c.colour c.frame (c.index / 4) .i32 (qs.map fun q => BitVec.ofNat 64 ((top q).1 + 4 * (top q).2))
        exec (.sel24 x) s = .next { s with fly := sendAll c lv [x.t1] t1 (sendAll c lv [x.t0] t0 s.fly) }))

/-- R266, R71: the worked examples of the manual: a softmax row over two blocks, and a group of four with a NaN. -/
def Sys2Proof.Claims.RunExamples : Prop :=
  rstatOf .rn [0x3F800000, 0x40400000, 0x40000000, 0x40400000] 0x00000000FF800000 = (0x4030000040400000, 0x0000000040400000) ∧
  rstatOf .rn [0x40800000, 0x40000000] 0x4030000040400000 = (0x4028000040800000, 0x3F00000040800000) ∧
  top2 .f32 [0x3F000000, 0xC0400000, 0x7FC00001, 0x80000000] = (1, 2)

/-! ### The multiplier bank (R269 to R284) -/

namespace Sys2Proof.Claims

/-- By its scalar predicate, if it has one, an instruction with whole positions fires (`b`) or does not (R269, R28). -/
def wholeFires (s : State) (h : Head) (b : Bool) : Prop :=
  (s.fly.cur.pred = none ∧ b = true) ∨
    ∃ t, s.fly.cur.pred = some t ∧ t.vec = false ∧ t.fmt = .prd ∧
      b = (decide (h.pred = .always) || (t.data.getLsbD 0 == (h.pred == .onTrue)))

/-- Whole-position results leave `lat` cycles after issue (R274), whatever the operands' lengths; nothing else changes. -/
def sentWhole (s : State) (lat : Nat) (tgts : List Target) (ts : List Token) : Host.Outcome State Fault Refusal :=
  .next { s with fly := sendAll s.fly.cur (s.sys.now + lat) tgts ts s.fly }

/-- A scalar under the firing's tag. -/
def tagged (s : State) (f : Fmt) (v : Word) : Token := scalarTok s.fly.cur.colour s.fly.cur.frame s.fly.cur.index f v

/-- The firing yields PRD true, and the acting instance's open copy of accumulator `p` becomes `v` (R272). -/
def opens (s : State) (lat : Nat) (tgts : List Target) (p : Nat) (v : PAcc) : Host.Outcome State Fault Refusal :=
  sentWhole { s with fly := setOpen s.fly p v } lat tgts [tagged s .prd 1]

/-- The firing records an effect of its instance's commit, and changes nothing else. -/
def records (s : State) (e : Eff) : Host.Outcome State Fault Refusal := .next { s with fly := s.fly.addEff e }

/-- The instruction need not wait for accumulator `p`: no other instance holds it, and, where this one has no copy open, no firing of another has
waited for it longer (R272). -/
def mayOpen (s : State) (p : Nat) : Prop := heldElsewhere s p = false ∧ ((tabFind s.inst.opens p).isSome = true ∨ olderWaits s p = false)

/-- A GUARD trap (R284). -/
def guards (s : State) (code p : Nat) (v : PAcc) : Host.Outcome State Fault Refusal :=
  traps s { cause := 9, contained := false, index := s.fly.cur.index, va := 0,
            info := BitVec.ofNat 64 (code + 256 * p + 65536 * v.count.toNat) }

end Sys2Proof.Claims

/-- R272, R276: GUARD binds and clears, PCLR clears, PCLR.free frees, each on the instance's open copy; PSTAT reads it and never waits; an
instruction on an accumulator that another live instance of the cluster holds, or has waited for longer, waits. -/
def Sys2Proof.Claims.AccumulatorStateResults : Prop :=
  ∀ (s : State) (x : XWWord), wholeFires s x.h true →
    let c := s.fly.cur
    let p := x.acc.toNat
    let v := openCopy s p
    let tg := [x.t0, x.t1]
    (¬ mayOpen s p → ∀ i ∈ [Instr.guard x, .pclr x, .pclrFree x],
      exec i s = .next { s with fly := waitFiring s.sys.now c s.fly }) ∧
    (mayOpen s p →
      ((v.bound = false ∨ v.colour = c.colour) →
        exec (.guard x) s = opens s 2 tg p { bound := true, colour := c.colour, mode := x.mode, value := 0, count := 0 }) ∧
      (v.bound = true → v.colour = c.colour →
        exec (.pclr x) s = opens s 2 tg p { v with value := 0, count := 0 } ∧ exec (.pclrFree x) s = opens s 2 tg p PAcc.reset) ∧
      (v.bound = false → exec (.pclr x) s = guards s 0x9A p v ∧ exec (.pclrFree x) s = guards s 0x9A p v)) ∧
    (v.bound = true → v.colour = c.colour → exec (.pstat x) s = sentWhole s 2 tg [tagged s .x64
      (BitVec.ofNat 64 (v.colour * 2 ^ 52 + 2 ^ 51 + v.mode.toNat * 2 ^ 48 + v.count.toNat))]) ∧
    (v.bound = false → exec (.pstat x) s = sentWhole s 2 tg [tagged s .x64 0x7000000000000])

/-- R277, R278, R279: PACKS and PACKL place saturated elements in the slots of their mode; WMUL and WCONV add the exact product of the signed
operands and count it, or trap at the guard budget; WMULF and WMULZ fold eight F64 lanes, each with one rounding. -/
def Obligations.MultiplyResults : Prop :=
  ∀ (s : State) (x : XWWord) (xs ys : List Word), wholeFires s x.h true →
    let c := s.fly.cur
    let p := x.acc.toNat
    let v := openCopy s p
    let tg := [x.t0, x.t1]
    let sat (a : Word) : Int := Min.min (Max.max (a.setWidth 32).toInt (-(2 ^ (modeWidth x.mode - 1)))) (2 ^ (modeWidth x.mode - 1) - 1)
    operand c x.h false c.left = .ok xs → operand c x.h false c.right = .ok ys →
    (xs.length ≤ (modeKS x.mode).1 → exec (.packs x) s = sentWhole s 2 tg [tagged s .x64
      (BitVec.ofInt 64 ((xs.zipIdx.map fun z => sat z.1 * 2 ^ ((modeKS x.mode).2 * z.2)).sum))]) ∧
    ((modeKS x.mode).1 < xs.length → exec (.packs x) s = traps s (misuse 1 0x92 c.index)) ∧
    (x.mode ≠ 0 ∨ xs.length ≤ 16 →
      let us := (xs ++ List.replicate (32 - xs.length) 0).take 32 ++ ys
      let k := (modeKS x.mode).1
      let slot (q : Nat) : Nat := if x.mode = 3 then q else k * (q % 16) + k - 1 - q / 16
      let w := if x.mode = 3 then 32 else (modeKS x.mode).2
      let d : BitVec 1024 := BitVec.ofInt 1024 ((us.zipIdx.map fun z => sat z.1 * 2 ^ (w * slot z.2)).sum)
      exec (.packl x) s = sentWhole s 3 tg
        (runToks c.colour c.frame c.index .x64 ((List.range 16).map fun e => d.extractLsb' (64 * e) 64))) ∧
    ((∃ t, c.left = some t ∧ t.vec = false) → mayOpen s p → v.bound = true → v.colour = c.colour →
      let a := xs.headD 0
      let b : Int := (BitVec.ofNat 1024 (packElems 64 (ys.take 16))).toInt
      let next : PAcc := { v with value := v.value + BitVec.ofInt 1088 (a.toInt * b), count := v.count + 1 }
      (v.mode.toNat ≤ 2 → v.count.toNat ≠ budget v.mode → exec (.wmul x) s = opens s 6 tg p next) ∧
      (v.mode.toNat ≤ 2 → v.count.toNat = budget v.mode → exec (.wmul x) s = guards s 0x98 p v) ∧
      (v.mode = 3 → v.count.toNat ≠ budget v.mode → exec (.wconv x) s = opens s 6 tg p next) ∧
      (let z (j : Nat) := fp64.decode (v.value.toNat / 2 ^ (64 * j) % 2 ^ 64)
       let el (j : Nat) := fp64.decode (ys.getD j 0).toNat
       let fold (u : Nat → FVal) : PAcc := { v with
         value := BitVec.ofNat 1088 (packElems 64 ((List.range 8).map fun j =>
           BitVec.ofNat 64 (fp64.encode x.h.rnd ((z j).add x.h.rnd ((fp64.decode a.toNat).mul (u j))))))
         count := if v.count = BitVec.allOnes 34 then v.count else v.count + 1 }
       let im (q : Nat) := if x.jf then (el (2 * q + 1)).neg else el (2 * q + 1)
       (v.mode = 4 → exec (.wmulf x) s = opens s 9 tg p (fold el)) ∧
       (v.mode = 5 → exec (.wmulz x) s = opens s 9 tg p (fold fun j =>
         if j % 2 = 0 then (if x.xf then (im (j / 2)).neg else el j) else (if x.xf then el (j - 1) else im (j / 2))))))

/-- R65: the slots of an accumulator value, taken with borrows, are the signed digits of it: each lies in −2^(s−1) … 2^(s−1) − 1, and with the
weights 2^(s·m) they sum to the value modulo 2^(s·n). -/
def Sys2Proof.Claims.SlotsAreSignedDigits : Prop :=
  ∀ s n v : Nat, 0 < s →
    (slots s n v 0).length = n ∧ (∀ d ∈ slots s n v 0, -(2 ^ (s - 1) : Int) ≤ d ∧ d < 2 ^ (s - 1)) ∧
    ((2 : Int) ^ (s * n)) ∣ (v : Int) - ((slots s n v 0).zipIdx.map fun z => z.1 * 2 ^ (s * z.2)).sum

/-- R280 to R284: extraction to lanes, allocation, and reads and writes of lanes; a lane this instance reserved reads as zero, writes wait for
the commit; a lane out of range or FREE raises ILLOP. -/
def Sys2Proof.Claims.LaneResults : Prop :=
  ∀ (s : State) (x : XWWord) (t : Token), wholeFires s x.h true → s.fly.cur.left = some t → t.vec = false → t.fmt = .x64 →
    let c := s.fly.cur
    let p := x.acc.toNat
    let v := openCopy s p
    let tg := [x.t0, x.t1]
    let b := (t.elem 0).toNat
    let n := x.count.toNat
    let usable (l : Nat) : Prop := laneMine s l = true ∨ ((s.sys.lane c.clu l).alloc = true ∧ (s.sys.lane c.clu l).colour = c.colour)
    let val (l : Nat) : Word := if laneMine s l then 0 else (s.sys.lane c.clu l).val
    let ready (k : Nat) : Prop := b < 4096 ∧ b + k ≤ 4096 ∧ ∀ l, b ≤ l → l < b + k → usable l
    (x.h.ty = .x64 → ready (if v.bound && v.mode = 3 then 33 else 16) → mayOpen s p → v.bound = true → v.colour = c.colour →
      v.mode.toNat ≤ 3 →
      let ds := slots (modeKS v.mode).2 (1088 / (modeKS v.mode).2) v.value.toNat 0
      exec (.xtr x) s = opens { s with fly := laneEffs s.fly b ((selected v.mode).map fun m => .add (ds.getD m 0)) } 5 tg p
        { v with value := 0, count := 0 }) ∧
    (x.h.ty = .x64 → ready 8 → mayOpen s p → v.bound = true → v.colour = c.colour → v.mode = 4 ∨ v.mode = 5 →
      let part (j : Nat) : Word := BitVec.ofNat 64 (v.value.toNat / 2 ^ (64 * j) % 2 ^ 64)
      exec (.xtrf x) s = opens { s with fly := laneEffs s.fly b ((List.range 8).map fun j => .fadd (part j) (x.h.mod.toNat / 2)) } 5 tg p
        { v with value := 0, count := 0 }) ∧
    (x.h.ty = .x64 → ready n →
      exec (.zfree x) s = records s (.zfree b n) ∧
      exec (.zclr x) s = .next { s with fly := laneEffs s.fly b (List.replicate n (.put 0)) } ∧
      exec (.zrd x) s = sentWhole s 3 tg (runToks c.colour c.frame c.index .x64 ((List.range n).map fun j => val (b + j))) ∧
      (∀ ys, operand c x.h false c.right = .ok ys → ys.length = n → exec (.zwr x) s = .next { s with fly := laneEffs s.fly b (ys.map .put) })) ∧
    (ready n → ∀ u, c.right = some u → u.vec = false → u.fmt = .i32 →
      let conv (w : Word) : Word := if w.getLsbD 56 then BitVec.ofNat 64 fp64.qnan else
        let i := (w.setWidth 56).toInt
        BitVec.ofNat 64 (fp64.encode x.h.rnd (.fin (decide (i < 0)) i.natAbs ((u.elem 0).setWidth 32).toInt))
      exec (.zcvt x) s = sentWhole { s with fly := laneEffs s.fly b ((List.range n).map fun j => .put (conv (val (b + j)))) } 4 tg
        [tagged s .prd 1]) ∧
    (x.h.ty = .x64 → (4096 ≤ b ∨ 4096 < b + n) → exec (.zrd x) s = traps s (misuse 1 0x90 c.index)) ∧
    (x.h.ty = .x64 → b + n ≤ 4096 → b < 4096 → (∃ l, b ≤ l ∧ l < b + n ∧ laneMine s l = false ∧ (s.sys.lane c.clu l).alloc = false) →
      exec (.zrd x) s = traps s (misuse 1 0x91 c.index))

/-- R281: ZALLOC reserves the lowest run of free lanes and yields its base; without one it reserves nothing and yields 0xFFFF_FFFF. -/
def Sys2Proof.Claims.ZallocResult : Prop :=
  ∀ (s : State) (x : XWWord) (i : Inst), wholeFires s x.h true → s.fly.inst s.fly.cur.clu s.fly.cur.frame = some i → 0 < x.count.toNat →
    let c := s.fly.cur
    let n := x.count.toNat
    let free (b : Nat) : Prop := b + n ≤ 4096 ∧ ∀ l, b ≤ l → l < b + n → laneFree s l = true
    (∀ b, free b → (∀ b' < b, ¬ free b') →
      let i' : Inst := { i with lanes := i.lanes ++ (List.range n).map (b + ·) }
      exec (.zalloc x) s = sentWhole { s with fly := s.fly.setInst c.clu c.frame i' } 2 [x.t0, x.t1] [tagged s .x64 (BitVec.ofNat 64 b)]) ∧
    ((∀ b, ¬ free b) → exec (.zalloc x) s = sentWhole s 2 [x.t0, x.t1] [tagged s .x64 0xFFFFFFFF])

/-! ### Memory instructions (R301 to R321) -/

namespace Sys2Proof.Claims

/-- The access `a` goes to the port tile of the region under a fresh serial, where it is translated on arrival: `f` is what is in flight
before it, and nothing else changes. -/
def toPort (s : State) (a : Access) (f : Fly) : Host.Outcome State Fault Refusal :=
  let g := ({ f with nextSer := f.nextSer + 1 } : Fly).setAcc f.nextSer a
  .next { s with fly := g.event (portArrival s) .translate { clu := a.clu, reg := a.reg, id := f.nextSer } }

/-- The firing has a scalar address operand: word `w` gives MFMT `m` and, with the offset, the 52-bit address `ea` (R302). An address is
X64, or I32 with `.ac` (R196). -/
def addressed (s : State) (h : Head) (off : BitVec 24) (m ea : Nat) : Prop :=
  ∃ t, ∃ w : Word, s.fly.cur.left = some t ∧ t.vec = false ∧
    ((t.fmt = .x64 ∧ w = t.elem 0) ∨ (t.fmt = .i32 ∧ h.ac = true ∧ w = ((t.elem 0).setWidth 32).signExtend 64)) ∧
    w.toNat / 2 ^ 55 = 0 ∧ m = w.toNat / 2 ^ 52 % 8 ∧ ea = (((w.toNat % 2 ^ 52 : Nat) + off.toInt) % 2 ^ 52).toNat

/-- The LSID is not yet answered, nor about to be, for the index of the firing and the `n` − 1 that follow it (R95). -/
def lsidOpen (s : State) (l : BitVec 5) (n : Nat) : Prop := lsidTaken s.fly s.inst l.toNat s.fly.cur.index (s.fly.cur.index + n - 1) = false

/-- Bytes of `n` elements of `w` bits. -/
def spanBytes (n w : Nat) : Nat := (n * w + 7) / 8

end Sys2Proof.Claims

/-- R302, R303, R308, R95: LD, LDV, ST and STV send one access of their bytes at (VA + OFFSET) mod 2^52 to the port; a store is released at
commit and carries the bytes that it will write, saturated to its memory layout; a second answer of the LSID raises ILLOP 0x07, and a reserved
bit of the address, or a layout that the TYPE does not admit, ILLOP 0xB0. -/
def Sys2Proof.Claims.LoadStoreAccesses : Prop :=
  ∀ (s : State) (x : MWord) (m ea : Nat), wholeFires s x.h true → addressed s x.h x.off m ea →
    let c := s.fly.cur
    let w := memBits x.h.ty m
    ((m = 0 ∨ (x.h.ty = .i32 ∧ m ≤ 5)) →
      (lsidOpen s x.lsid 1 →
        (c.right = none →
          exec (.ld x) s = toPort s { newAccessM s x .ld false with n := 1, segs := [(ea, spanBytes 1 w, m)] } s.fly ∧
          exec (.ldv x) s = toPort s { newAccessM s x .ld false with n := x.run, vec := true, segs := [(ea, spanBytes x.run w, m)] } s.fly) ∧
        (∀ ds, operand c x.h true c.right = .ok ds →
          let st := { newAccessM s x .st true with n := ds.length, segs := [(ea, spanBytes ds.length w, m)], wr := runBytes ea w (ds.map (memStore m)) }
          exec (.stv x) s = toPort s st s.fly ∧ ((∀ t, c.right = some t → t.vec = false) → exec (.st x) s = toPort s st s.fly))) ∧
      (¬ lsidOpen s x.lsid 1 → c.right = none → exec (.ld x) s = traps s (misuse 1 0x07 c.index) ∧ exec (.ldv x) s = traps s (misuse 1 0x07 c.index))) ∧
    ((m ≠ 0 ∧ (x.h.ty ≠ .i32 ∨ 5 < m)) →
      (c.right = none → exec (.ld x) s = traps s (misuse 1 0xB0 c.index) ∧ exec (.ldv x) s = traps s (misuse 1 0xB0 c.index)) ∧
      (∀ ds, operand c x.h true c.right = .ok ds →
        exec (.stv x) s = traps s (misuse 1 0xB0 c.index) ∧
        ((∀ t, c.right = some t → t.vec = false) → exec (.st x) s = traps s (misuse 1 0xB0 c.index))))

/-- R308, R310, R28: a gather or scatter whose every element fires sends one access with an address for each element, and one of which none fires
produces nothing, whatever its addresses; PREF sends one access for all the lines it names. That a PREF answers its LSID for the index of every element of its run is
the model's reading (log entry 20, DEDUCED). -/
def Sys2Proof.Claims.GatherScatterAccesses : Prop :=
  ∀ (s : State) (x : MWord) (t : Token) (as : List (Nat × Nat)), s.fly.cur.left = some t → t.fmt = .x64 →
    let c := s.fly.cur
    let size (m : Nat) := spanBytes 1 (memBits x.h.ty m)
    (addrsOf c (decide (x.h.ty = .i32)) x.off t.elems = .ok as → x.h.pred = .always → c.pred = none → c.n = t.len + 1 →
      lsidOpen s x.lsid (t.len + 1) →
      let a (op : AccOp) (rel : Bool) : Access := { newAccessM s x op rel with
        len := t.len, n := t.len + 1, vec := c.vec, y := 1, segs := as.map fun e => (e.1, size e.2, e.2) }
      (c.right = none → exec (.ldg x) s = toPort s (a .ld false) s.fly) ∧
      (∀ u ds, c.right = some u → operand c x.h true c.right = .ok ds → ds.length = t.len + 1 →
        exec (.stsc x) s = toPort s { a .st true with
          wr := (as.zip ds).flatMap fun e => runBytes e.1.1 (memBits x.h.ty e.1.2) [memStore e.1.2 e.2] } s.fly)) ∧
    (∀ m ds, firedMask c x.h = .ok m → (∀ b ∈ m, b = false) → operand c x.h true c.right = .ok ds →
      exec (.ldg x) s = .next s ∧ exec (.stsc x) s = .next s) ∧
    (addrsOf c false x.off t.elems = .ok as → wholeFires s x.h true → lsidOpen s x.lsid (t.len + 1) →
      exec (.pref x) s = toPort s { newAccessM s x .pref false with len := t.len, segs := as.map fun e => (e.1, 1, 0) } s.fly)

/-- R311 to R314, R343: LDE, STF and CLRF send one aligned word to the port, STF and CLRF at commit; a misaligned address raises MISALIGN
0xB2 with the address in `%tva`. -/
def Sys2Proof.Claims.FullEmptyAccesses : Prop :=
  ∀ (s : State) (x : MWord) (ea : Nat) (ds : List Word), wholeFires s x.h true → addressed s x.h x.off 0 ea →
    let c := s.fly.cur
    operand c x.h true c.right = .ok ds → (∀ t, c.right = some t → t.vec = false) →
    (ea % 8 = 0 → lsidOpen s x.lsid 1 →
      exec (.lde x) s = toPort s { newAccessM s x .lde false with segs := [(ea, 8, 0)] } s.fly ∧
      exec (.stf x) s = toPort s { newAccessM s x .stf true with segs := [(ea, 8, 0)], wr := runBytes ea 64 ds } s.fly ∧
      exec (.clrf x) s = toPort s { newAccessM s x .clrf true with segs := [(ea, 8, 0)] } s.fly) ∧
    (ea % 8 ≠ 0 → ∀ i ∈ [Instr.lde x, .stf x, .clrf x], exec i s = traps s { misuse 2 0xB2 c.index with va := ea })

/-- R316, R317: an atomic sends its operand to the home slice before commit; its width follows the shape of the right operand, checked before
the alignment. -/
def Sys2Proof.Claims.AtomicAccesses : Prop :=
  ∀ (s : State) (x : MWord) (ea : Nat) (t : Token) (ds : List Word), wholeFires s x.h true → addressed s x.h x.off 0 ea →
    s.fly.cur.right = some t → operand s.fly.cur x.h true s.fly.cur.right = .ok ds →
    let c := s.fly.cur
    let z := x.h.ty.width / 8
    let acts (i : Instr) (op : Atom) (w : Nat) : Prop :=
      (ea % w = 0 → lsidOpen s x.lsid 1 → exec i s = toPort s { newAccessM s x (.atom op) false with
          n := w, vec := decide (w = 16), segs := [(ea, w, 0)], a := BitVec.ofNat 256 (packElems 64 ds) } s.fly) ∧
      (ea % w ≠ 0 → exec i s = traps s { misuse 2 0xB1 c.index with va := ea })
    let simple := [(Instr.aadd x, Atom.add), (.amin x, .min), (.amax x, .max), (.aminn x, .minn), (.amaxn x, .maxn), (.aand x, .and), (.aor x, .or),
      (.axor x, .xor), (.afadd x, .fadd)]
    (t.vec = false → (∀ p ∈ simple, acts p.1 p.2 z) ∧ acts (.aswp x) .swp z ∧ exec (.acas x) s = traps s (misuse 1 0xB4 c.index)) ∧
    (t.vec = true → (∀ p ∈ simple, exec p.1 s = traps s (misuse 1 0xB4 c.index)) ∧
      (t.len = 1 → acts (.acas x) .cas z ∧ (x.h.ty = .x64 → acts (.aswp x) .swp 16)) ∧
      (t.len = 3 → x.h.ty = .x64 → acts (.acas x) .cas 16) ∧
      (t.len ≠ 1 → t.len ≠ 3 → exec (.acas x) s = traps s (misuse 1 0xB4 c.index) ∧ exec (.aswp x) s = traps s (misuse 1 0xB4 c.index)))

/-- R316, R317: the new value of an atomic of width 4 or 8, on the old bytes and the operand as integers of the width. -/
def Sys2Proof.Claims.AtomicNewValues : Prop :=
  ∀ (ty : Fmt) (w : Nat) (old d : Nat), ((ty = .i32 ∧ w = 4) ∨ (ty = .x64 ∧ w = 8)) → old < 2 ^ (8 * w) → d < 2 ^ (8 * w) →
    let a : BitVec (8 * w) := BitVec.ofNat _ old
    let b : BitVec (8 * w) := BitVec.ofNat _ d
    let new (op : Atom) : Nat := atomNew op ty w old (BitVec.ofNat 256 d)
    new .add = (a + b).toNat ∧ new .and = (a &&& b).toNat ∧ new .or = (a ||| b).toNat ∧ new .xor = (a ^^^ b).toNat ∧ new .swp = d ∧
    new .min = (if b.slt a then d else old) ∧ new .max = (if a.slt b then d else old) ∧
    new .minn = (if d < old then d else old) ∧ new .maxn = (if old < d then d else old)

/-- R318, R319, R177, R179, R321, R301: fences go to the port and answer their LSID for their index, or, fired by nothing, for every index of
the entry; an engine command goes to the port with a transfer token for its slot and generation, whose promise is left open until the
commit (log entry 7, DESIGN CHOICE); that the slot is chosen at fire, and that the token's generation counts the slot's claims before it, is the model's reading (log entry 41,
DEDUCED); a command record that is not 64-byte aligned raises MISALIGN 0xB3. The trigger of a fence has the FMT of an
address, or raises FORMAT, whatever the predicate. -/
def Obligations.FenceAndCopyAccesses : Prop :=
  (∀ (s : State) (x : MWord) (t : Token), s.fly.cur.left = some t → t.fmt ≠ .x64 → (t.fmt = .i32 → x.h.ac = false) →
    ∀ i ∈ [Instr.fence x, .fencea x], ∃ r, isFormat r ∧ exec i s = traps s r) ∧
  ∀ (s : State) (x : MWord), wholeFires s x.h true →
    let c := s.fly.cur
    let last := if c.left = none ∧ s.inst.iter = true then s.inst.n - 1 else 0
    (lsidOpen s x.lsid (last + 1) → (∀ t, c.left = some t → t.fmt = .x64 ∨ (t.fmt = .i32 ∧ x.h.ac = true)) →
      exec (.fence x) s = toPort s { newAccessM s x .fence false with len := last } s.fly ∧
      exec (.fencea x) s = toPort s { newAccessM s x .fencea false with len := last } s.fly) ∧
    (∀ ea i, addressed s x.h x.off 0 ea → c.right = none → s.fly.inst c.clu c.frame = some i →
      (ea % 64 ≠ 0 → ∀ j ∈ [Instr.copy x, .copyt x], exec j s = traps s { misuse 2 0xB3 c.index with va := ea }) ∧
      (ea % 64 = 0 → lsidOpen s x.lsid 1 →
        let k := pickSlot s
        let g := ((s.sys.xfer c.clu k).gen.toNat + slotClaims s.fly c.clu k + 1) % 2048
        ∃ tok : Word, tok.toNat / 2 ^ 53 = g ∧ tok.toNat / 2 ^ 48 % 32 = k ∧
          let f := sendAll c (s.sys.now + 1) [x.t0] [tagged s .x64 tok] s.fly
          let f := f.setInst c.clu c.frame { i with copies := i.copies ++ [(f.nextSer, tok)] }
          let a (op : AccOp) : Access := { newAccessM s x op true with t0 := .none, segs := [(ea, 64, 0)], x := k, y := g }
          exec (.copy x) s = toPort s (a .copy) f ∧ exec (.copyt x) s = toPort s (a .copyt) f))

/-! ### Rings, stitched tensors, messages (R285 to R300) -/

namespace Sys2Proof.Claims

/-- The left operand is a scalar X64 token with value `w`. -/
def leftWord (s : State) (w : Word) : Prop := ∃ t, s.fly.cur.left = some t ∧ t.vec = false ∧ t.fmt = .x64 ∧ w = t.elem 0

/-- An operand of an instruction of TYPE X64 is a scalar with value `w`, as it stands or converted from I32 under `.ac` (R31). -/
def scalarIs (h : Head) (o : Option Token) (w : Word) : Prop :=
  h.ty = .x64 ∧ ∃ t, o = some t ∧ t.vec = false ∧
    ((t.fmt = .x64 ∧ w = t.elem 0) ∨ (t.fmt = .i32 ∧ h.ac = true ∧ w = ((t.elem 0).setWidth 32).signExtend 64))

/-- The right operand likewise. -/
def rightWord (s : State) (w : Word) : Prop := ∃ t, s.fly.cur.right = some t ∧ t.vec = false ∧ t.fmt = .x64 ∧ w = t.elem 0

/-- The value `v` of a field of `n` bits that a left operand, a scalar X64 token, supplies in its low bits, and the instruction's own field at bit
`lo` without one (R322, R287). -/
def fieldFrom (s : State) (ty : Fmt) (imm lo n v : Nat) : Prop :=
  (s.fly.cur.left = none ∧ v = imm / 2 ^ lo % 2 ^ n) ∨ ∃ w, leftWord s w ∧ ty = .x64 ∧ v = w.toNat % 2 ^ n

/-- The instruction raises OWNER. -/
def owners (s : State) (i : Instr) : Prop := ∃ r, r.cause = 8 ∧ r.contained = true ∧ exec i s = traps s r

/-- The firing waits, and is offered again in the next cycle, the later firings of its instruction behind it. -/
def waits (s : State) : Host.Outcome State Fault Refusal := .next { s with fly := waitFiring s.sys.now s.fly.cur s.fly }

end Sys2Proof.Claims

/-- R286 to R290, R135, R143: staging, match entries, the start and recall of a pass, task loads and status. Checks are made at fire, effects
wait for the commit; TGO waits while its ring has a pass, and looks at the barrier of its own cluster (log entry 93, DESIGN CHOICE). A TMATCH has no effect on an entry that is neither EMPTY nor LOADED by its commit (log entry 21, the
model's reading). -/
def Obligations.RingResults : Prop :=
  ∀ (s : State) (x : XRWord), wholeFires s x.h true →
    let c := s.fly.cur
    let thr := s.sys.thr c.clu c.frame
    let ring := c.clu / 8
    (∀ e t, x.h.ty = .x64 → fieldFrom s x.h.ty x.p.toNat 0 8 e → c.right = some t → t.fmt = .x64 → t.elems.length ≠ 2 →
      exec (.tmatch x) s = traps s (misuse 1 0x38 c.index)) ∧
    (∀ e w0 param t, x.h.ty = .x64 → fieldFrom s x.h.ty x.p.toNat 0 8 e → c.right = some t → t.fmt = .x64 → t.elems = [w0, param] →
      let meets := ((w0.toNat / 2 ^ 54 % 8) + (w0.toNat / 2 ^ 51 % 8)) % 8 = 2 * (c.clu % 8) % 8
      let taken := tripleTaken s.sys c.clu e (w0.toNat / 2 ^ 57 % 16, w0.toNat / 2 ^ 54 % 8, w0.toNat / 2 ^ 51 % 8)
      (meets → taken = false → (s.sys.ment c.clu e).busy = false → exec (.tmatch x) s = records s (.tmatch e w0 param)) ∧
      ((¬ meets ∨ taken = true) → exec (.tmatch x) s = traps s (misuse 1 0x31 c.index)) ∧
      (meets → taken = false → (s.sys.ment c.clu e).busy = true → exec (.tmatch x) s = traps s (misuse 1 0x32 c.index))) ∧
    ((∀ e, x.p.toNat % 256 ≤ e → e ≤ x.p.toNat / 256 % 256 → (s.sys.ment c.clu e).busy = false) →
      exec (.tmclr x) s = records s (.tmclr (x.p.toNat % 256) (x.p.toNat / 256 % 256))) ∧
    (∀ e, x.p.toNat % 256 ≤ e → e ≤ x.p.toNat / 256 % 256 → (s.sys.ment c.clu e).busy = true → exec (.tmclr x) s = traps s (misuse 1 0x32 c.index)) ∧
    (ringFree s ring = false → exec (.tgo x) s = waits s) ∧
    (ringFree s ring = true →
      let ts := slotTiles s.sys ring x.slot.toNat
      let b := x.p.toNat / 2 ^ 16 % 256
      let v := s.sys.bar c.clu b
      let mine := (∀ t ∈ heldTiles s.sys ring x.slot.toNat, t.colour = c.colour ∧ t.ctx = thr.ctx) ∧ (v.mode ≠ .free → v.colour = c.colour)
      let fit := ∀ t ∈ ts, tileBytes t.elem ≤ (if (s.sys.clu c.clu).beat8 = 0 then 256 else 512)
      (¬ mine → owners s (.tgo x)) ∧
      (mine → ¬ fit → exec (.tgo x) s = traps s (misuse 1 0x34 c.index)) ∧
      (mine → ts = [] → exec (.tgo x) s = traps s (misuse 1 0x36 c.index)) ∧
      (mine → fit → ts ≠ [] → v.mode ≠ .count → exec (.tgo x) s = traps s (misuse 13 0x27 c.index)) ∧
      (mine → fit → ts ≠ [] → v.mode = .count →
        ∀ sc, decodeScope (x.p.extractLsb' 13 3) = some sc → exec (.tgo x) s = records s (.tgo x.slot.toNat b sc))) ∧
    ((∀ p, (s.sys.ring ring).pass = some p → p.colour = c.colour ∧ p.ctx = thr.ctx) → exec (.trecall x) s = records s .trecall) ∧
    (∀ p, (s.sys.ring ring).pass = some p → (p.colour ≠ c.colour ∨ p.ctx ≠ thr.ctx) → owners s (.trecall x)) ∧
    exec (.trstat x) s = sentWhole s 1 [x.t0] [tagged s .x64 (trstatWord s ring)] ∧
    (∀ v, fieldFrom s x.h.ty x.p.toNat 0 24 v →
      let lap := v / 2 ^ 15 % 256
      let tasks := v / 2 ^ 12 % 8
      (ringFree s ring = true → 0 < lap → 0 < tasks → tasks ≤ 4 → exec (.tpass x) s = records s (.tpass (v / 2 ^ 23 % 2) lap tasks)) ∧
      ((ringFree s ring = false ∨ lap = 0 ∨ tasks = 0 ∨ 4 < tasks) → exec (.tpass x) s = traps s (misuse 1 0x33 c.index))) ∧
    (∀ k u t, thr.task = some k → c.left = some u → u.vec = false → u.fmt = .x64 →
      t = s.sys.tslot c.clu k →
      let elem := if x.fam then t.kelem else t.ielem
      let base := (u.elem 0).toNat % 2 ^ 32
      let n := x.p.toNat % 64
      (x.h.ty = tileType elem → base + n ≤ tileCount elem →
        exec (.tld x) s = sentWhole s ((n + 3) / 4) [x.t0] (runToks c.colour c.frame c.index x.h.ty
          ((List.range n).map fun e => tileElem elem (if x.fam then t.kdata else t.idata) (base + e)))) ∧
      ((x.h.ty ≠ tileType elem ∨ tileCount elem < base + n) → exec (.tld x) s = traps s (misuse 1 0x37 c.index))) ∧
    (∀ w i, leftWord s w → s.fly.inst c.clu c.frame = some i →
      let va := w.toNat % 2 ^ 52
      let key := (if x.fam then 1 else 0) * 16 + x.slot.toNat
      va % 64 = 0 → (s.sys.tile c.clu (if x.fam then 1 else 0) x.slot.toNat).st = .empty →
      (∀ e ∈ s.fly.pending, e.1 / 1024 = c.clu → key ∉ e.2.tiles) → lsidOpen s x.lsid 1 →
      ∃ a : Access, a.op = .tstage ∧ a.released = true ∧ a.segs = [(va, tileBytes x.elem.toNat, 0)] ∧
        exec (.tstage x) s = toPort s a (s.fly.setInst c.clu c.frame { i with tiles := i.tiles ++ [key] }))

/-- R150, R152, R293, R294: SPIN, SPLICE, SNEW and SFREE go to the port with their descriptor; SUNPIN, SIDX, SLEN and SNEXT act on a handle
that is current and of the acting colour; SIDX yields BASE + (x − FIRST) × 2^ESIZE. -/
def Obligations.StitchedResults : Prop :=
  ∀ (s : State) (x : GWord) (y : MWord) (l r : Word), leftWord s l →
    let c := s.fly.cur
    (wholeFires s y.h true →
      let d := (((l.toNat % 2 ^ 52 : Nat) + y.off.toInt) % 2 ^ 52).toNat
      (s.fly.cur.right = none → d % 64 = 0 → lsidOpen s y.lsid 1 →
        exec (.spin y) s = toPort s { newAccessM s y .spin false with segs := [(d, 64, 0)] } s.fly) ∧
      (rightWord s r → d % 64 = 0 → (r.toNat % 2 ^ 52) % 64 = 0 → lsidOpen s y.lsid 1 →
        exec (.splice y) s = toPort s { newAccessM s y .splice true with
          t0 := .none, segs := [(d, 64, 0)], b := BitVec.ofNat 64 (r.toNat % 2 ^ 52) } s.fly) ∧
      (rightWord s r → d % 64 ≠ 0 → exec (.splice y) s = traps s { misuse 2 0xB3 c.index with va := d })) ∧
    (wholeFires s x.h true →
      let d := l.toNat % 2 ^ 52
      let esize := x.imm.toNat % 16
      let fllog := x.imm.toNat / 16 % 16
      (rightWord s r → d % 64 = 0 → (r.toNat % 2 ^ 52) % 2 ^ 22 = 0 →
        (esize ≤ 12 → 4 ≤ fllog → fllog ≤ 12 →
          exec (.snew x) s = toPort s { newAccess s x.h .snew true with
            segs := [(d, 64, 0)], b := BitVec.ofNat 64 (r.toNat % 2 ^ 52), x := esize, y := fllog } s.fly) ∧
        ((12 < esize ∨ fllog < 4 ∨ 12 < fllog) → exec (.snew x) s = traps s (misuse 1 0x42 c.index))) ∧
      (c.right = none → d % 64 = 0 → exec (.sfree x) s = toPort s { newAccess s x.h .sfree true with segs := [(d, 64, 0)] } s.fly)) ∧
    (let e := l.toNat / 256 % 256
     let p := s.sys.pin c.clu e
     let current := p.held = true ∧ p.gen = l.toNat % 256
     (current → p.colour = c.colour → p.ctx = (s.sys.thr c.clu c.frame).ctx →
      (wholeFires s y.h true → c.right = none → lsidOpen s y.lsid 1 → ∃ a : Access, a.op = .sunpin ∧ a.released = true ∧ a.x = e ∧ a.b = BitVec.ofNat 64 p.gen ∧
        a.segs = [(p.desc * 64, 64, 0)] ∧ exec (.sunpin y) s = toPort s a s.fly) ∧
      (wholeFires s x.h true →
        (c.right = none → exec (.slen x) s = sentWhole s 1 [x.t0, x.t1] [tagged s .x64
          (BitVec.ofNat 64 (p.npieces * 2 ^ 52 + p.esize * 2 ^ 48 + p.version.toNat * 2 ^ 32 + p.length))]) ∧
        (rightWord s r →
          let n := r.toNat % 2 ^ 32
          let reads (next : Bool) (k : Nat) := toPort s { newAccess s x.h (.piece next) false with
            t0 := x.t0, t1 := x.t1, segs := [(pieceAt p k, 16, 0)], a := BitVec.ofNat 256 (p.npieces * 65536), x := e, y := n } s.fly
          (n < p.length → (∀ q ∈ p.pieces, (∀ u ∈ p.pieces, u.2.2.1 ≤ n → n < u.2.2.1 + u.2.2.2 → u = q) → q.2.2.1 ≤ n → n < q.2.2.1 + q.2.2.2 →
            exec (.sidx x) s = sentWhole s 2 [x.t0, x.t1]
              [tagged s .x64 (BitVec.ofNat 64 ((q.2.1 + (n - q.2.2.1) * 2 ^ p.esize) % 2 ^ 52))]) ∧
            ((∀ u ∈ p.pieces, ¬ (u.2.2.1 ≤ n ∧ n < u.2.2.1 + u.2.2.2)) → 0 < p.npieces → exec (.sidx x) s = reads false (p.npieces / 2))) ∧
          (p.length ≤ n → exec (.sidx x) s = traps s (misuse 1 0x41 c.index)) ∧
          (p.npieces ≤ n → exec (.snext x) s = sentWhole s 2 [x.t0, x.t1] [tagged s .x64 (BitVec.ofNat 64 (p.length * 2 ^ 32))]) ∧
          (n < p.npieces → (∀ q ∈ p.pieces, (∀ u ∈ p.pieces, u.1 = n → u = q) → q.1 = n →
            exec (.snext x) s = sentWhole s 2 [x.t0, x.t1] [tagged s .x64 (BitVec.ofNat 64 (q.2.2.1 * 2 ^ 32 + q.2.2.2))]) ∧
            ((∀ u ∈ p.pieces, u.1 ≠ n) → exec (.snext x) s = reads true n))))) ∧
     (current → (p.colour ≠ c.colour ∨ p.ctx ≠ (s.sys.thr c.clu c.frame).ctx) → wholeFires s x.h true → c.right = none → owners s (.slen x)) ∧
     (¬ current → wholeFires s x.h true → c.right = none → exec (.slen x) s = traps s (misuse 1 0x40 c.index)))

/-- R296, R297, R298: MSEND records a message to a cluster of its context, MRECV takes the oldest message that none has reserved and waits for
one, MPOLL yields DROPS and the number of messages. -/
def Obligations.MessageResults : Prop :=
  ∀ (s : State) (x : GWord), wholeFires s x.h true →
    let c := s.fly.cur
    let thr := s.sys.thr c.clu c.frame
    (∀ l t ds, leftWord s l → c.right = some t → operand c x.h true c.right = .ok ds →
      let dclu := l.toNat / 2 ^ 10 % 128
      (l.toNat / 2 ^ 17 = 0 → s.sys.ctxOf dclu = thr.ctx →
        let u := if t.vec then vecTok c.colour c.frame c.index x.h.ty ds else tagged s x.h.ty (ds.headD 0)
        let m : Msg := { id := s.fly.nextSer, sclu := c.clu, sfrm := c.frame, fmt := x.h.ty, len := u.len, vec := t.vec, data := u.data, opened := false }
        exec (.msend x) s = .next { s with fly := ({ s.fly with nextSer := s.fly.nextSer + 1 } : Fly).addEff (.msend dclu (l.toNat % 1024) m) }) ∧
      (l.toNat / 2 ^ 17 ≠ 0 → exec (.msend x) s = traps s (misuse 1 0xA0 c.index)) ∧
      (l.toNat / 2 ^ 17 = 0 → s.sys.ctxOf dclu ≠ thr.ctx → exec (.msend x) s = traps s (misuse 1 0xA1 c.index))) ∧
    (unreserved s = [] → exec (.mrecv x) s = waits s) ∧
    (∀ m ms, unreserved s = m :: ms →
      let ts := dataToks c.colour c.frame c.index m.fmt m.len m.vec m.data
      let f := sendAll c (s.sys.now + 1) [x.t0] ts (s.fly.addEff (.mrecv m))
      let from_ := tagged s .x64 (BitVec.ofNat 64 (m.sclu * 1024 + m.sfrm))
      exec (.mrecv x) s = .next { s with fly := sendAll c (s.sys.now + 1) [x.t1] [from_] f }) ∧
    (let v := tagged s .x64 (BitVec.ofNat 64 (thr.drops * 2 ^ 56 + (unreserved s).length))
     (x.h.mod.getLsbD 0 = false → exec (.mpoll x) s = sentWhole s 1 [x.t0, x.t1] [v]) ∧
     (x.h.mod.getLsbD 0 = true → exec (.mpoll x) s = sentWhole { s with fly := s.fly.addEff .mpollClr } 1 [x.t0, x.t1] [v]))

/-! ### Transfers, banks, barriers, groups (R168 to R181, R114 to R128, R322, R323) -/

/-- R178, R180, R202: WAITT sleeps until the later of the token's promise and the slot's PCUR; CPST yields the slot's state, DONE for a token of
another generation (log entry 66, the model's reading of an old token), and PCUR. Both raise OWNER for another colour's transfer while its generation is the slot's (R321). The token of a command of the
firing instance names no slot's transfer yet. -/
def Sys2Proof.Claims.TransferResults : Prop :=
  ∀ (s : State) (x : GWord) (w : Word), wholeFires s x.h true → scalarIs x.h s.fly.cur.left w → s.fly.cur.right = none →
    let c := s.fly.cur
    let v := s.sys.xfer c.clu (w.toNat / 2 ^ 48 % 32)
    let yours := s.fly.ownsTok c w
    let mine := yours = false ∧ v.gen.toNat = w.toNat / 2 ^ 53
    let own := v.colour = c.colour ∧ v.ctx = (s.sys.thr c.clu c.frame).ctx
    (mine → v ≠ Xfer.reset → ¬ own → ∀ i ∈ [Instr.cpst x, .waitt x], ∃ r, r.cause = 8 ∧ r.contained = true ∧ exec i s = traps s r) ∧
    ((mine → v ≠ Xfer.reset → own) →
    (exec (.cpst x) s = sentWhole s 1 [x.t0, x.t1] [tagged s .x64 (BitVec.ofNat 64 (v.pcur.toNat +
      (if mine then (match v.st with | .free => 0 | .queued => 1 | .moving => 2 | .withheld => 3) else 0) * 2 ^ 62))]) ∧
    (∃ z : Sleep, z.f = c ∧ z.t0 = x.t0 ∧ z.t1 = x.t1 ∧ z.start = s.sys.now ∧ z.until_ = cycleOf s.sys.now (wakeAt s.sys c.clu yours w) ∧ s.sys.now ≤ z.until_ ∧
      let f : Fly := { s.fly with nextSer := s.fly.nextSer + 1, sleeps := tabPut s.fly.sleeps s.fly.nextSer z }
      exec (.waitt x) s = .next { s with fly := f.event z.until_ .waittWake { clu := c.clu, frm := c.frame, id := s.fly.nextSer, word := w } }))

/-- R170, R172, R176: BANKM records a bank's new mode; FPUSH appends at commit; FPOP yields the oldest entry that no live FPOP has taken, and
waits while there is none. A bank of another colour raises OWNER, one that is no FIFO ILLOP 0x61. -/
def Sys2Proof.Claims.BankResults : Prop :=
  ∀ (s : State) (x : GWord), wholeFires s x.h true →
    let c := s.fly.cur
    let b := x.imm.toNat % 16
    let v := s.sys.bank c.clu b
    (v.foreign c.colour = false → v.mode ≠ .pending → (v.mode = .fifo → fifoLeft s.fly c.clu b v = [] ∧ fifoWaits s c.clu b = false) →
      (c.left = none → c.right = none → x.imm.toNat / 16 % 4 = 0 → exec (.bankm x) s = records s (.bankm b .scratch false false 0 0)) ∧
      (c.left = none → c.right = none → x.imm.toNat / 16 % 4 = 2 → exec (.bankm x) s = records s (.bankm b .fifo false false 0 0)) ∧
      (∀ l r, scalarIs x.h c.left l → scalarIs x.h c.right r → x.imm.toNat / 16 % 4 = 1 → x.imm.getLsbD 6 = true → (l.toNat % 2 ^ 52) % 65536 = 0 → 0 < r.toNat → r.toNat ≤ 65535 →
        ∃ sh, exec (.bankm x) s = records s (.bankm b .cache true sh (l.toNat % 2 ^ 52 / 65536) r.toNat)) ∧
      (∀ l r, scalarIs x.h c.left l → scalarIs x.h c.right r → x.imm.toNat / 16 % 4 = 1 → x.imm.getLsbD 6 = false → (l.toNat % 2 ^ 52) % 65536 = 0 → 0 < r.toNat → r.toNat ≤ 65535 →
        let ctx := (s.sys.thr c.clu c.frame).ctx
        let page := l.toNat % 2 ^ 52 / 65536
        let sh := allCommon s.sys s.mem ctx page r.toNat
        exec (.bankm x) s = if inOneRange s.sys s.mem ctx c.colour page r.toNat = true ∧ bindingMeets s ctx c.colour sh page r.toNat = false
          then records s (.bankm b .cache false sh page r.toNat) else traps s (misuse 1 0x62 c.index))) ∧
    (∀ l r, scalarIs x.h c.left l → scalarIs x.h c.right r → x.imm.toNat / 16 % 4 = 1 →
      ((l.toNat % 2 ^ 52) % 65536 ≠ 0 → exec (.bankm x) s = traps s { misuse 2 0xB3 c.index with va := l.toNat % 2 ^ 52 }) ∧
      ((l.toNat % 2 ^ 52) % 65536 = 0 → (r.toNat = 0 ∨ 65535 < r.toNat) → exec (.bankm x) s = traps s (misuse 1 0xBA c.index))) ∧
    (c.left = none → c.right = none → x.imm.toNat / 16 % 4 ≠ 1 →
      (v.foreign c.colour = true → owners s (.bankm x)) ∧
      (v.foreign c.colour = false → (v.mode = .pending ∨ (v.mode = .fifo ∧ (fifoLeft s.fly c.clu b v ≠ [] ∨ fifoWaits s c.clu b = true))) →
        exec (.bankm x) s = traps s (misuse 1 0x63 c.index))) ∧
    (v.foreign c.colour = false → v.mode = .fifo →
      (∀ t ds, c.left = some t → operand c x.h true c.left = .ok ds →
        let u := if t.vec then vecTok c.colour c.frame c.index x.h.ty ds else tagged s x.h.ty (ds.headD 0)
        let n : FEnt := { id := s.fly.nextSer, fmt := x.h.ty, len := u.len, vec := t.vec, data := u.data }
        exec (.fpush x) s = .next { s with fly := ({ s.fly with nextSer := s.fly.nextSer + 1 } : Fly).addEff (.fpush b n) }) ∧
      (fifoLeft s.fly c.clu b v = [] → exec (.fpop x) s = waits s) ∧
      (∀ e es, fifoLeft s.fly c.clu b v = e :: es → (∀ w ∈ s.fly.agenda, ∀ f, w.act = .fire f → c.since ≤ f.since) →
        (e.fmt = x.h.ty → exec (.fpop x) s = sentWhole { s with fly := s.fly.addEff (.fpop b e) } 1 [x.t0, x.t1]
          (dataToks c.colour c.frame c.index e.fmt e.len e.vec e.data)) ∧
        (e.fmt ≠ x.h.ty → ∃ r, isFormat r ∧ exec (.fpop x) s = traps s r))) ∧
    (v.foreign c.colour = false → v.mode ≠ .fifo → exec (.fpop x) s = traps s (misuse 1 0x61 c.index) ∧
      ∀ ds, operand c x.h true c.left = .ok ds → exec (.fpush x) s = traps s (misuse 1 0x61 c.index)) ∧
    (v.foreign c.colour = true → owners s (.fpop x) ∧ ∀ ds, operand c x.h true c.left = .ok ds → owners s (.fpush x))

/-- R122, R126, R127: BARI binds or frees a barrier at commit; BARA and BARAW arrive, at most once in an instance, BARA yielding SEQ, one more for an
early arrival; BARW waits until SEQ differs from its token's. -/
def Sys2Proof.Claims.BarrierResults : Prop :=
  ∀ (s : State) (x : GWord), wholeFires s x.h true →
    let c := s.fly.cur
    let free := ∀ t, c.left = some t → t.vec = false
    let b := x.imm.toNat % 256
    let v := s.sys.bar c.clu b
    let thr := s.sys.thr c.clu c.frame
    let bar (code : Nat) := traps s (misuse 13 code c.index)
    (v.mode = .free →
      (∀ n, fieldFrom s x.h.ty x.imm.toNat 8 11 n →
        (0 < n → n ≤ 1024 → exec (.bariCnt x) s = records s (.bariCnt b n)) ∧
        ((n = 0 ∨ 1024 < n) → exec (.bariCnt x) s = bar 0x22)) ∧
      (∀ g, fieldFrom s x.h.ty x.imm.toNat 8 10 g →
       let w := (s.sys.ctx thr.ctx).group g
       (w.live = true → w.colour = c.colour → exec (.bariGrp x) s = records s (.bariGrp b g)) ∧
       (w.live = true → w.colour ≠ c.colour → owners s (.bariGrp x)) ∧ (w.live = false → exec (.bariGrp x) s = bar 0x22)) ∧
      (free → exec (.bariFree x) s = records s (.bariFree b) ∧ exec (.bara x) s = bar 0x23 ∧ exec (.baraw x) s = bar 0x23)) ∧
    (v.mode ≠ .free → v.colour ≠ c.colour →
      (∀ n, fieldFrom s x.h.ty x.imm.toNat 8 11 n → owners s (.bariCnt x)) ∧ (∀ g, fieldFrom s x.h.ty x.imm.toNat 8 10 g → owners s (.bariGrp x)) ∧
      (free → owners s (.bariFree x) ∧ owners s (.bara x) ∧ owners s (.baraw x))) ∧
    (v.mode ≠ .free → v.colour = c.colour →
      (∀ n, fieldFrom s x.h.ty x.imm.toNat 8 11 n → exec (.bariCnt x) s = bar 0x20) ∧
      (∀ g, fieldFrom s x.h.ty x.imm.toNat 8 10 g → (((s.sys.ctx thr.ctx).group g).live = false ∨ ((s.sys.ctx thr.ctx).group g).colour = c.colour) → exec (.bariGrp x) s = bar 0x20) ∧
      (free → let idle := v.arrived = 0 ∧ v.early = 0 ∧ v.pass = false ∧ v.owed = 0 ∧ barWaited s c.clu b = false
       (idle → exec (.bariFree x) s = records s (.bariFree b)) ∧ (¬ idle → exec (.bariFree x) s = bar 0x21)) ∧
      (free → let arrived := s.inst.effs.any fun e => match e.e with | .arrive .. => true | _ => false
       (arrived = true → (v.mode = .group → gmemHas thr.gmem v.group = true ∧ c.frame ∉ v.nxt) → exec (.bara x) s = bar 0x26 ∧ exec (.baraw x) s = bar 0x26) ∧
       (arrived = false → (v.mode = .group → gmemHas thr.gmem v.group = true ∧ c.frame ∉ v.nxt) →
        let early := v.mode = .group ∧ ¬ (c.frame ∈ v.members ∧ c.frame ∉ v.cur)
        exec (.baraw x) s = records s (.arrive b true) ∧
        (early → exec (.bara x) s = sentWhole { s with fly := s.fly.addEff (.arrive b false) } 1 [x.t0, x.t1]
          [tagged s .x64 (BitVec.ofNat 64 ((v.seq.toNat + 1) % 65536))]) ∧
        (¬ early → exec (.bara x) s = sentWhole { s with fly := s.fly.addEff (.arrive b false) } 1 [x.t0, x.t1]
          [tagged s .x64 (BitVec.ofNat 64 v.seq.toNat)])) ∧
       (v.mode = .group → gmemHas thr.gmem v.group = false → exec (.bara x) s = bar 0x24 ∧ exec (.baraw x) s = bar 0x24) ∧
       (v.mode = .group → gmemHas thr.gmem v.group = true → c.frame ∈ v.nxt → exec (.bara x) s = bar 0x25 ∧ exec (.baraw x) s = bar 0x25)))

/-- R126: BARW fires once the barrier's SEQ differs from bits [15:0] of its token, and waits until then; in the cycle in which the phase it waits for completes it waits once more, as the
example of the barrier chapter has it (the model's reading, log entry 36). On a FREE barrier it raises BARRIER 0x23. -/
def Sys2Proof.Claims.BarwResult : Prop :=
  ∀ (s : State) (x : GWord) (w : Word), wholeFires s x.h true → scalarIs x.h s.fly.cur.left w → s.fly.cur.right = none →
    let v := s.sys.bar s.fly.cur.clu (x.imm.toNat % 256)
    (v.mode ≠ .free → v.colour = s.fly.cur.colour →
      (v.seq.toNat = w.toNat % 65536 → exec (.barw x) s = waits s) ∧
      (v.done = some s.sys.now → v.seq.toNat = (w.toNat + 1) % 65536 → exec (.barw x) s = waits s) ∧
      (v.seq.toNat ≠ w.toNat % 65536 → v.done ≠ some s.sys.now → exec (.barw x) s = sentWhole s 1 [x.t0, x.t1] [tagged s .x64 w])) ∧
    (v.mode ≠ .free → v.colour ≠ s.fly.cur.colour → owners s (.barw x)) ∧
    (v.mode = .free → exec (.barw x) s = traps s (misuse 13 0x23 s.fly.cur.index))

/-- R118, R120: JOIN and LEAVE record a change of membership, at most one in an instance, JOIN with a slot of `%gmem` free and LEAVE of a group
that `%gmem` names; GRPQ yields the group word and LCOUNT. -/
def Sys2Proof.Claims.GroupResults : Prop :=
  ∀ (s : State) (x : GWord) (g : Nat), wholeFires s x.h true → fieldFrom s x.h.ty x.imm.toNat 0 10 g →
    let c := s.fly.cur
    let thr := s.sys.thr c.clu c.frame
    let bar (code : Nat) := traps s (misuse 13 code c.index)
    let w := (s.sys.ctx thr.ctx).group g
    (joined s.inst = false →
      (gmemHas thr.gmem g = false → (gmemGroups thr.gmem).length ≠ 4 → exec (.join x) s = records s (.join g)) ∧
      (gmemHas thr.gmem g = false → (gmemGroups thr.gmem).length = 4 → exec (.join x) s = bar 0x10) ∧
      (gmemHas thr.gmem g = true → exec (.join x) s = bar 0x11 ∧ exec (.leave x) s = records s (.leave g)) ∧
      (gmemHas thr.gmem g = false → exec (.leave x) s = bar 0x12)) ∧
    (joined s.inst = true → exec (.join x) s = bar 0x13 ∧ exec (.leave x) s = bar 0x13) ∧
    (w.live = true → w.colour ≠ c.colour → owners s (.grpq x)) ∧
    ((w.live = false ∨ w.colour = c.colour) → exec (.grpq x) s = sentWhole s 1 [x.t0, x.t1] [tagged s .x64
      (BitVec.ofNat 64 (w.epoch.toNat * 2 ^ 48 + (if w.live then 2 ^ 47 else 0) + s.sys.lc c.clu g * 2 ^ 18 + w.total))])

/-- R323: COMB folds its elements into the partial that its entry holds, and yields a value under index 0 for every `n` folded: one element into a
partial of `k`. An entry's first partial takes a matching entry of its colour, which it frees with the value; the firing waits for room (log entry 21, the model's reading of the entry that a partial holds). So it is for the
elements of a run that fire, one after the other. -/
def Sys2Proof.Claims.CombResult : Prop :=
  (∀ (s : State) (x : GWord) (t : Token) (i : Inst), s.fly.cur.left = some t → t.fmt = x.h.ty → t.vec = false → t.len = 0 →
    (x.h.ty = .x64 ∨ x.h.ty = .i32 ∨ x.h.ty = .f64 ∨ x.h.ty = .f32) → x.h.pred = .always → s.fly.cur.right = none → s.fly.cur.pred = none →
    s.fly.inst s.fly.cur.clu s.fly.cur.frame = some i →
    let c := s.fly.cur
    let n := if x.imm.toNat / 4 % 2048 = 0 then i.n else x.imm.toNat / 4 % 2048
    let rest := i.combs.filter fun p => p.idx != c.idx
    let put (l : List Comb) : Fly := s.fly.setInst c.clu c.frame { i with combs := l }
    let settled (f : Fly) : Fly := f.event s.sys.now .tokenArrival { clu := c.clu, reg := c.reg, frm := c.frame, part := 8 }
    (∀ q, i.combs.find? (fun p => p.idx == c.idx) = some q →
      let v := combOp x.h (x.imm.toNat % 4) q.v (t.elem 0)
      (q.k + 1 ≠ n → exec (.comb x) s = .next { s with fly := put (rest ++ [{ idx := c.idx, v := v, k := q.k + 1 }]) }) ∧
      (q.k + 1 = n → exec (.comb x) s = sent { s with fly := settled (put rest) } 1 [x.t0, x.t1] [scalarTok c.colour c.frame 0 x.h.ty v])) ∧
    (i.combs.find? (fun p => p.idx == c.idx) = none → n = 1 →
      exec (.comb x) s = sent { s with fly := put rest } 1 [x.t0, x.t1] [scalarTok c.colour c.frame 0 x.h.ty (t.elem 0)]) ∧
    (i.combs.find? (fun p => p.idx == c.idx) = none → n ≠ 1 →
      exec (.comb x) s = if combRoom s then .next { s with fly := settled (put (rest ++ [{ idx := c.idx, v := t.elem 0, k := 1 }])) } else waits s)) ∧
  (∀ (s : State) (x : GWord) (i : Inst) (xs : List Word) (m : List Bool), s.fly.inst s.fly.cur.clu s.fly.cur.frame = some i →
    operand s.fly.cur x.h false s.fly.cur.left = .ok xs → firedMask s.fly.cur x.h = .ok m →
    let c := s.fly.cur
    let n := if x.imm.toNat / 4 % 2048 = 0 then i.n else x.imm.toNat / 4 % 2048
    let old := i.combs.find? fun p => p.idx == c.idx
    let r := combFold x.h (x.imm.toNat % 4) n (kept m xs) (old.map fun p => (p.v, p.k))
    let f : Fly := s.fly.setInst c.clu c.frame { i with combs := (i.combs.filter fun p => p.idx != c.idx) ++ (r.1.map fun q => { idx := c.idx, v := q.1, k := q.2 : Comb }).toList }
    let g := if old.isSome = r.1.isSome then f else f.event s.sys.now .tokenArrival { clu := c.clu, reg := c.reg, frm := c.frame, part := 8 }
    exec (.comb x) s = if old = none ∧ r.1.isSome = true ∧ combRoom s = false then waits s
      else sent { s with fly := g } 1 [x.t0, x.t1] (r.2.map fun v => scalarTok c.colour c.frame 0 x.h.ty v)) ∧
  (∀ (h : Head) (op n : Nat) (p : Option (Word × Nat)), combFold h op n [] p = (p, []) ∧ ∀ (y : Word) (ys : List Word),
    let w := match p with
      | none => (y, 1)
      | some q => (combOp h op q.1 y, q.2 + 1)
    combFold h op n (y :: ys) p = if w.2 = n then ((combFold h op n ys none).1, w.1 :: (combFold h op n ys none).2) else combFold h op n ys (some w))

/-! ### System instructions (R324 to R332, R74, R343) -/

namespace Sys2Proof.Claims

/-- The acting thread is privileged: a thread of context 0 (R74). -/
def kernelMode (s : State) : Prop := (s.sys.thr s.fly.cur.clu s.fly.cur.frame).ctx = 0

/-- PRIV (R343), with the register's number, or 0xFFF for an instruction. -/
def privTrap (s : State) (n : Nat) : Host.Outcome State Fault Refusal := traps s (misuse 15 n s.fly.cur.index)

end Sys2Proof.Claims

/-- R325, R74: MFS yields a register at fire, MTS records its write for the commit. Privileged code reaches every register of the table;
other code only those with an unprivileged view, and takes PRIV with the register's number on the others. The identity registers, `%now`
and the trap registers read as stated. -/
def Sys2Proof.Claims.SystemRegisterResults : Prop :=
  ∀ (s : State) (x : GWord), wholeFires s x.h true →
    let c := s.fly.cur
    let r := x.imm.toNat % 4096
    let thr := s.sys.thr c.clu c.frame
    ∀ p u, regViews r = some (p, u) →
      ((kernelMode s ∨ u = true) →
        (s.fly.cur.left = none → ∃ v : Word, exec (.mfs x) s = sentWhole s 1 [x.t0, x.t1] [tagged s .x64 v] ∧
          ((r, v) ∈ [(0x000, BitVec.ofNat 64 s.sys.now), (0x001, BitVec.ofNat 64 thr.colour), (0x002, BitVec.ofNat 64 c.frame),
            (0x003, BitVec.ofNat 64 c.clu), (0x004, BitVec.ofNat 64 (c.clu / 8)), (0x005, BitVec.ofNat 64 (c.clu % 8)),
            (0x006, BitVec.ofNat 64 thr.ctx), (0x010, thr.tcause), (0x011, thr.tinfo), (0x012, thr.tva), (0x013, thr.tblk)] ∨ 0x013 < r)) ∧
        (∀ w, scalarIs x.h c.left w → c.right = none → exec (.mts x) s = records s (.mts r w))) ∧
      (¬ kernelMode s → u = false →
        (s.fly.cur.left = none → exec (.mfs x) s = privTrap s r) ∧ (∀ w, scalarIs x.h c.left w → c.right = none → exec (.mts x) s = privTrap s r))

/-- R327, R328: TRAP and TRET record themselves for the commit, at most one in an instance (ILLOP 0xB7); TRET outside a handler raises ILLOP 0xB6. -/
def Sys2Proof.Claims.TrapInstructionResults : Prop :=
  ∀ (s : State) (x : GWord), wholeFires s x.h true →
    let c := s.fly.cur
    let thr := s.sys.thr c.clu c.frame
    (trapFired s.inst = false →
      (c.left = none → exec (.trap x) s = records s (.trap (BitVec.ofNat 64 (x.imm.toNat % 65536)))) ∧
      (∀ w, leftWord s w → x.h.ty = .x64 → exec (.trap x) s = records s (.trap w)) ∧
      (thr.handler = true → exec (.tret x) s = records s .tret)) ∧
    (trapFired s.inst = true → c.left = none →
      exec (.trap x) s = traps s (misuse 1 0xB7 c.index) ∧ (thr.handler = true → exec (.tret x) s = traps s (misuse 1 0xB7 c.index))) ∧
    (thr.handler = false → exec (.tret x) s = traps s (misuse 1 0xB6 c.index))

/-- R329, R330, R331, R74: the queue, drain and load instructions record their effect for the commit; what only privileged code may do raises
PRIV elsewhere. -/
def Sys2Proof.Claims.PrivilegedResults : Prop :=
  ∀ (s : State) (x : GWord), wholeFires s x.h true →
    let c := s.fly.cur
    let ctx := x.imm.toNat % 16
    let n := x.imm.toNat / 16 % 4096
    let own := (s.sys.thr c.clu c.frame).ctx
    (∀ q v ws, q = n → tabFind (s.sys.ctx own).queues q = some v → (kernelMode s ∨ v.colour = c.colour) →
      operand c x.h false c.left = .ok ws → ws.length = 8 → exec (.launch x) s = records s (.launch q ws)) ∧
    (tabFind (s.sys.ctx own).queues n = none → c.left = none → exec (.launch x) s = traps s (misuse 1 0xB5 c.index)) ∧
    (∀ v, tabFind (s.sys.ctx ctx).queues n = some v → (kernelMode s ∨ (ctx = own ∧ v.colour = c.colour)) →
      exec (.qsusp x) s = records s (.qsusp ctx n) ∧ exec (.qresQ x) s = records s (.qresQ ctx n)) ∧
    (kernelMode s → tabFind (s.sys.ctx ctx).queues n = none → exec (.qsusp x) s = traps s (misuse 1 0xB9 c.index)) ∧
    (¬ kernelMode s → ctx ≠ own → exec (.qsusp x) s = privTrap s 0xFFF ∧ exec (.qresQ x) s = privTrap s 0xFFF) ∧
    (kernelMode s →
      (holdsColour s.sys ctx n = true →
        exec (.qresCol x) s = records s (.qresCol ctx n) ∧ exec (.drainCol x) s = records s (.drainCol ctx n)) ∧
      exec (.qresCtx x) s = records s (.qresCtx ctx) ∧ exec (.drainCtx x) s = records s (.drainCtx ctx) ∧
      (∀ w t, leftWord s w → x.h.ty = .x64 → (w.toNat % 2 ^ 52) % 64 = 0 →
        xlateNow s.sys s.mem own c.colour (s.sys.thr c.clu c.frame).ident {} (w.toNat % 2 ^ 52 / 65536) = .ok t → t.sync = true →
        exec (.cfgld x) s = records s (.cfgld (w.toNat % 2 ^ 52) false) ∧ exec (.cfgldRt x) s = records s (.cfgld (w.toNat % 2 ^ 52) true) ∧
        exec (.relat x) s = records s (.relat (w.toNat % 2 ^ 52)))) ∧
    (¬ kernelMode s →
      (∀ i ∈ [Instr.qresCol x, .qresCtx x, .drainCol x, .drainCtx x], exec i s = privTrap s 0xFFF) ∧
      (∀ w, leftWord s w → x.h.ty = .x64 → ∀ i ∈ [Instr.cfgld x, .cfgldRt x, .relat x], exec i s = privTrap s 0xFFF))

/-- R332, R367, R368: the monitor instructions of a unit that the acting code may use, MON READ yielding a word of its record; another's unit, or one of
the first 32 outside context 0, raises PRIV; NOP changes nothing, whatever its predicate, which must be a PRD (R31). -/
def Sys2Proof.Claims.MonitorResults : Prop :=
  (∀ (s : State) (x : GWord) (t : Token), s.fly.cur.pred = some t →
    (t.fmt = .prd → exec (.nop x) s = .next s) ∧ (t.fmt ≠ .prd → ∃ r, isFormat r ∧ exec (.nop x) s = traps s r)) ∧
  ∀ (s : State) (x : GWord), wholeFires s x.h true →
    let c := s.fly.cur
    let u := x.imm.toNat % 64
    let v := s.sys.mon u
    let k := x.imm.toNat / 256 % 32
    ((kernelMode s ∨ (32 ≤ u ∧ (v.armed = false ∨ (v.owner = c.colour ∧ v.ctx = (s.sys.thr c.clu c.frame).ctx)))) →
      exec (.monClear x) s = records s (.monClear u) ∧ exec (.monStop x) s = records s (.monStop u) ∧
      exec (.monRead x) s = sentWhole s 1 [x.t0, x.t1] [tagged s .x64 ([v.min, v.max, v.count].getD k (v.bins.getD (k - 3) 0))] ∧
      (∀ w, leftWord s w → x.h.ty = .x64 →
        (w.toNat / 256 % 2 ^ 43 = 0 → w.toNat % 256 ≤ 4 → (kernelMode s ∨ w.getLsbD 51 = false) → exec (.monArm x) s = records s (.monArm u w)) ∧
        ((w.toNat / 256 % 2 ^ 43 ≠ 0 ∨ 4 < w.toNat % 256) → exec (.monArm x) s = traps s (misuse 1 0xBB c.index)))) ∧
    (¬ kernelMode s → (u < 32 ∨ (v.armed = true ∧ (v.owner ≠ c.colour ∨ v.ctx ≠ (s.sys.thr c.clu c.frame).ctx))) →
      (∀ i ∈ [Instr.monRead x, .monClear x, .monStop x], exec i s = privTrap s 0xFFF) ∧
      (∀ w, leftWord s w → x.h.ty = .x64 → exec (.monArm x) s = privTrap s 0xFFF)) ∧
    exec (.nop x) s = .next s

namespace Sys2Proof.Claims

/-- The operands of the firing are scalars of the instruction's type. -/
def plainOperands (s : State) (h : Head) : Prop :=
  ∀ t, (s.fly.cur.left = some t ∨ s.fly.cur.right = some t) → t.vec = false ∧ t.fmt = h.ty

end Sys2Proof.Claims

/-- R28, R269: an instruction with whole positions whose predicate does not match takes its tokens and produces nothing, whatever its operands say. -/
def Sys2Proof.Claims.PredicatedOff : Prop :=
  (∀ (s : State) (x : XWWord), wholeFires s x.h false → plainOperands s x.h →
    (∀ i ∈
      [Instr.guard x, .packs x, .packl x, .wmul x, .wconv x, .wmulf x, .wmulz x, .pclr x, .pclrFree x, .pstat x, .zalloc x, .xtr x, .xtrf x, .zfree x,
        .zclr x, .zrd x, .zwr x],
      exec i s = .next s) ∧ (s.fly.cur.right = none → x.h.ty = .x64 → exec (.zcvt x) s = .next s)) ∧
  (∀ (s : State) (x : XRWord), wholeFires s x.h false → plainOperands s x.h → x.h.ty = .x64 → ∀ i ∈
      [Instr.tstage x, .tmatch x, .tmclr x, .tgo x, .tld x, .tdone x, .trstat x, .trecall x, .tpass x],
      exec i s = .next s) ∧
  (∀ (s : State) (x : GWord), wholeFires s x.h false → plainOperands s x.h → x.h.ty = .x64 → ∀ i ∈
      [Instr.snew x, .sidx x, .slen x, .snext x, .sfree x, .msend x, .mrecv x, .mpoll x, .waitt x, .cpst x, .bankm x, .fpush x, .fpop x, .bariCnt x,
        .bariGrp x, .bariFree x, .bara x, .barw x, .baraw x, .join x, .leave x, .grpq x, .mfs x, .mts x, .trap x, .tret x, .launch x, .qsusp x,
        .qresQ x, .qresCol x, .qresCtx x, .drainCol x, .drainCtx x, .cfgld x, .cfgldRt x, .relat x, .monArm x, .monRead x, .monClear x, .monStop x],
      exec i s = .next s) ∧
  (∀ (s : State) (x : MWord), wholeFires s x.h false → plainOperands s x.h → x.h.ty = .x64 → ∀ i ∈
      [Instr.splice x, .spin x, .sunpin x, .ld x, .st x, .ldv x, .stv x, .pref x, .lde x, .stf x, .clrf x, .aadd x, .amin x, .amax x, .aminn x,
        .amaxn x, .aand x, .aor x, .axor x, .aswp x, .acas x, .afadd x, .fence x, .fencea x, .copy x, .copyt x],
      exec i s = .next s)

/-! ### Encoding, the step, and the whole machine -/

namespace Sys2Proof.Claims

/-- The keys of a table rise. -/
def rising {α : Type} (t : Tab α) : Prop := t.Pairwise fun a b => a.1 < b.1

/-- Every table of the architectural state lists its keys in order. -/
def tablesRise (y : Sys) : Prop :=
  rising y.mons ∧ rising y.tickets ∧ rising y.shoots ∧ rising y.relats ∧ rising y.loads ∧ rising y.seals ∧ rising y.ctxs ∧ rising y.thrs ∧
  rising y.clus ∧ rising y.regions ∧ rising y.parks ∧ rising y.frames ∧ rising y.ctab ∧ rising y.bars ∧ rising y.lcount ∧ rising y.banks ∧
  rising y.scratch ∧ rising y.xfers ∧ rising y.paccs ∧ rising y.lanes ∧ rising y.pins ∧ rising y.tiles ∧ rising y.ments ∧ rising y.tslots ∧
  rising y.rings ∧ rising y.links ∧ rising y.routers ∧ rising y.lines ∧ rising y.descs ∧ rising y.spill ∧ rising y.portTs ∧ ∀ x ∈ y.ctxs, rising x.2.groups ∧ rising x.2.keys

/-- Memory, the carried registers and every table of the state have their canonical form. -/
def formOk (s : State) : Prop :=
  Memory.wf s.mem = true ∧ rising s.greg ∧ (∀ e ∈ s.greg, rising e.2) ∧ tablesRise s.sys ∧ rising s.fly.insts ∧ rising s.fly.commits ∧
  rising s.fly.accs ∧ rising s.fly.posts ∧ rising s.fly.sleeps

/-- A head with no modifier, always firing, of a type. -/
def plainHead (ty : Fmt) : Head := { ac := false, mod := 0, pred := .always, ty := ty }

/-- The state in which work due in cycle `d` acts: its cycle has come, and it is off the agenda. -/
def takesUp (s : State) (d : Nat) (rest : List Work) : State :=
  { s with sys := { s.sys with now := max s.sys.now d }, fly := { s.fly with agenda := rest } }

end Sys2Proof.Claims

/-- Words written out bit by bit from the field maps of R205 to R210 and the target code of R206 decode to the instructions they stand for. -/
def Sys2Proof.Claims.WrittenWordsDecode : Prop :=
  decode 0x0200202000000001 = .ok (.getg { h := plainHead .x64, t0 := .op .left 1, t1 := .none, imm := 1 }) ∧
  decode 0x1300406000000000 = .ok (.mul { h := plainHead .x64, t0 := .op .right 3, t1 := .none, imm := 0 }) ∧
  decode 0x1200B02827FFFFFF = .ok (.addi { h := plainHead .i32, t0 := .reg 1, t1 := .op .left 4, imm := 0x7FFFFFF }) ∧
  decode 0x0A00080000000000 = .ok (.exit { h := plainHead .x64, exitno := 0, retire := true, off := 0 }) ∧
  decode 0x0A0C000000000000 = .ok (.exit { h := { ac := false, mod := 0, pred := .onFalse, ty := .x64 }, exitno := 0, retire := false, off := 0 }) ∧
  decode 0x4301C06000000000 = .ok (.ffma { h := plainHead .f32, t0 := .op .right 3, t1 := .none, imm := 0 }) ∧
  decode 0xB100000190000000 = .ok (.st { h := plainHead .x64, t0 := .none, lsid := 1, scope := .dev, order := .rel, runlo := 0, scr := false, off := 0 }) ∧
  decode 0xCC00308000000000 = .ok (.aswp { h := plainHead .x64, t0 := .reg 4, lsid := 0, scope := .blk, order := .none, runlo := 0, scr := false, off := 0 }) ∧
  decode 0x9300000000036000 = .ok (.tgo { h := plainHead .x64, t0 := .none, lsid := 0, fam := false, slot := 0, elem := 0, p := 0x36000 }) ∧
  decode 0xF300000000000000 = .ok (.tret { h := plainHead .x64, t0 := .none, t1 := .none, imm := 0 })

/-- Every well-formed instruction word is read back whole: its encoding exists and decodes to it, with every operand; and a word that
decodes is the encoding of what it decodes to, so that no reserved bit is ignored. -/
def Obligations.EncodeDecodeAgree : Prop :=
  (∀ i : Instr, i.wf = true → ∃ w, encode i = some w ∧ decode w = .ok i) ∧
  (∀ (w : Word) (i : Instr), decode w = .ok i → i.wf = true ∧ encode i = some w)

/-- A step runs what the agenda holds next, in its cycle: an event of the table on the objects it names, or the decoded word of a live firing
with that firing in the latch (R28, R197, R205). With an empty agenda a cycle passes; a device held in reset runs nothing; in a C state no instruction issues, and
a firing is offered again (R364). The agenda and the order in it are the model's (log entry 11, DESIGN CHOICE), and so is where `withFetchWord` puts an
instruction (log entry 4, DESIGN CHOICE). -/
def Obligations.StepRunsTheDecoded : Prop :=
  (∀ (s : State) (d : Nat) (i : Instr) (e : Ev) (rest : List Work), s.sys.held = false → s.fly.agenda = { due := d, act := .ev i e } :: rest →
    step s = exec i { takesUp s d rest with fly := { (takesUp s d rest).fly with ev := e } }) ∧
  (∀ (s : State) (d : Nat) (f : Firing) (rest : List Work) (n : Inst) (i : Instr), s.sys.held = false →
    s.fly.agenda = { due := d, act := .fire f } :: rest → s.fly.inst f.clu f.frame = some n → n.ser = f.ser →
    s.sys.pstate.toNat % 8 < 2 → (s.sys.thr f.clu f.frame).halt = 0 → decode ((s.sys.frame f.clu f.reg f.frm).words.getD (f.idx + 2) 0) = .ok i →
    step s = exec i { takesUp s d rest with fly := { (takesUp s d rest).fly with cur := f } }) ∧
  (∀ (s : State) (d : Nat) (f : Firing) (rest : List Work) (n : Inst), s.sys.held = false →
    s.fly.agenda = { due := d, act := .fire f } :: rest → s.fly.inst f.clu f.frame = some n → n.ser = f.ser → 2 ≤ s.sys.pstate.toNat % 8 →
    let u := takesUp s d rest
    step s = .next { u with fly := u.fly.sched (u.sys.now + 1) (.fire f) }) ∧
  (∀ s : State, s.sys.held = false → s.fly.agenda = [] → step s = .next { s with sys := { s.sys with now := s.sys.now + 1 } }) ∧
  (∀ s : State, s.sys.held = true → step s = .fault .heldInReset) ∧
  (∀ (s : State) (n w : Nat) (i : Instr), decode (BitVec.ofNat 64 w) = .ok i →
    ∃ t, step (s.withFetchWord n w) = exec i t ∧ t.mem = s.mem ∧ t.sys.now = s.sys.now)

/-- Every step keeps memory in its canonical form, and every table of the state in order with no key listed twice. -/
def Obligations.StepKeepsForm : Prop := ∀ s t : State, formOk s → step s = .next t → formOk t

/-- R1, R77, R81, R168, R39, R84 and the Reset columns: the state right after reset: context 0 RUNNING with all sixteen rings and every other FREE;
no thread, block, barrier, tile, transfer or accumulator in use; banks SCRATCH; the firmware-status block with the identity and version of R1; registers at the values their field maps give; memory with nothing
listed. The RESET event leaves the machine so, but for the model's counts of free values and for physical memory, whose bytes stay and whose lines no key
opens any more (R357; the model's reading, log entry 62). Where the boot ROM refuses the firmware the device stays held and the status block holds a reason
too, a free value (R360); the order of the block's words is the model's choice (log entry 81). Registers for which the manual gives no
value are zero by the model's choice (log entry 2), as is what unwritten memory reads as (log entry 1). -/
def Obligations.ResetState : Prop :=
  let y := State.reset.sys
  formOk State.reset ∧ State.reset.mem = [] ∧ y.now = 0 ∧ y.held = false ∧
  (y.ctx 0).st = .running ∧ (y.ctx 0).rings = 0xFFFF ∧ (∀ x, x ≠ 0 → (y.ctx x).st = .free ∧ (y.ctx x).rings = 0 ∧ (y.ctx x).kernels = []) ∧
  (∀ x, (y.ctx x).stall = 65536 ∧ (y.ctx x).ftlim = 47000 ∧ (y.ctx x).wlimit = 0 ∧ (y.ctx x).cxvec = 0) ∧
  (∀ c k, (y.thr c k).st = .free ∧ (y.thr c k).handler = false ∧ ∀ n, State.reset.reg c k n = 0) ∧
  (∀ c, (y.clu c).mscfg = 0x200000 ∧ (y.clu c).laplim = 16 ∧ (y.clu c).tasks = 4 ∧ (y.clu c).beat8 = 0) ∧
  (∀ c b, (y.bank c b).mode = .scratch ∧ (y.bank c b).bound = false) ∧ (∀ c b, (y.bar c b).mode = .free) ∧
  (∀ c r f, (y.frame c r f).st = .empty) ∧ (∀ c k, (y.xfer c k).st = .free) ∧ (∀ c p, (y.pacc c p).bound = false) ∧
  (∀ c l, (y.lane c l).alloc = false) ∧ (∀ c f q, (y.tile c f q).st = .empty) ∧ (∀ c e, (y.ment c e).st = .empty) ∧
  (∀ c e, (y.cent c e).valid = false) ∧ (∀ c e, (y.pin c e).held = false) ∧ y.lnk = 0 ∧ y.pstate = 0 ∧ y.fwStatus = [0x0960000A, 1] ∧ State.reset.fly.agenda = [] ∧
  (∀ s : State,
    -- a key of 1,793 bytes, a signature of `n` bytes and the image
    let bs := s.fly.ev.bytes
    let n := s.fly.ev.id
    let key := bs.take 1793
    let bad := !(decide (n ≤ 1280) && decide (1793 + n ≤ bs.length) && Config.digest256 key == Config.bootDigest
      && Config.signatureOk key ((bs.drop 1793).take n) ((bs.drop 1793).drop n))
    ∃ t, exec .reset s = .next t ∧ t.mem = s.mem ∧ t.greg = [] ∧
    t.sys = { y with held := bad, firmwareOk := !bad, fwStatus := y.fwStatus ++ (if bad then [Config.freeValue s.sys.freeIx] else []),
                     freeIx := s.sys.freeIx + (if bad then 1 else 0), fetches := s.sys.fetches, lines := t.sys.lines } ∧
    (rising s.sys.lines → ∀ l,
      (((s.sys.line l).held = none ∧ (s.sys.line l).ktag = none) → t.sys.line l = Line.reset) ∧
      (((s.sys.line l).held.isSome ∨ (s.sys.line l).ktag.isSome) → ∀ k, t.sys.opens (t.sys.line l) k = false)) ∧
    t.fly.agenda = [] ∧ t.fly.insts = [])

/-- R96, R345: an instruction word changes nothing that is visible outside its instance: the next state differs in what is in flight alone (tokens,
buffered accesses, recorded effects, the trap raised). Memory is unchanged, and so are every carried register, special register, accumulator, bank and
status register. -/
def Obligations.WordsChangeOnlyWhatIsInFlight : Prop :=
  ∀ (i : Instr) (s t : State), i.head.isSome = true → exec i s = .next t → t.mem = s.mem ∧ t.greg = s.greg ∧ t.sys = s.sys

/-- R344 to R346, R395, R80: of the traps raised in a live instance in one cycle the one of the lowest instruction index counts, then that of the lowest
INDEX. It is delivered in that cycle: it aborts the instance; registers and memory are as they were at entry. In the next cycle the four trap registers are
set (`%tcause` INDEX, which is 0 at a block entry, DEFER, CONT, CAUSE; the information; the address; the block), and the read of the vector entry of a thread
outside a handler is on its way to its home slice, 14 cycles further; a thread in a handler faults its context with FCAUSE 3 instead. -/
def Obligations.TakingATrap : Prop :=
  (∀ (s : State) (c k n : Nat) (r : TrapRec) (i : Inst), s.fly.inst c k = some i →
    let t := raiseTrap s c k n r
    t.mem = s.mem ∧ t.greg = s.greg ∧ t.sys = s.sys ∧
    (i.trap = none → t.fly.inst c k = some { i with trap := some (n, r) } ∧
      { due := s.sys.now, act := .ev .handlerEntry { clu := c, frm := k, id := i.ser, part := 4 } } ∈ t.fly.agenda) ∧
    (∀ m q, i.trap = some (m, q) →
      ((n < m ∨ (n = m ∧ r.index < q.index)) → t = { s with fly := s.fly.setInst c k { i with trap := some (n, r) } }) ∧
      ((m < n ∨ (n = m ∧ q.index ≤ r.index)) → t = s))) ∧
  (∀ (s : State) (n : Nat) (r : TrapRec) (i : Inst),
    let c := s.fly.ev.clu
    let k := s.fly.ev.frm
    s.fly.ev.part = 4 → s.fly.inst c k = some i → i.ser = s.fly.ev.id → i.trap = some (n, r) → r.cause < 32 → r.index < 1024 →
    ∃ t, exec .handlerEntry s = .next t ∧ t.mem = s.mem ∧ t.greg = s.greg ∧ t.fly.insts = tabDel s.fly.insts (c * 1024 + k) ∧
      (t.sys.thr c k).st = .active ∧ (t.sys.thr c k).pend = some ({ r with defer := false }, i.blk) ∧
      { due := s.sys.now + 1, act := .ev .handlerEntry { clu := c, frm := k, part := 5 } } ∈ t.fly.agenda) ∧
  (∀ (s : State) (r : TrapRec) (blk : Nat),
    let c := s.fly.ev.clu
    let k := s.fly.ev.frm
    let v := s.sys.thr c k
    s.fly.ev.part = 5 → v.pend = some (r, blk) → v.st = .active → s.fly.inst c k = none → s.sys.draining c v = false → (s.sys.ctx v.ctx).st = .running →
    r.cause < 32 → r.index < 1024 →
    ∃ t, exec .handlerEntry s = .next t ∧ t.mem = s.mem ∧
      (let w := (t.sys.thr c k).tcause
       (w.extractLsb' 0 5).toNat = r.cause ∧ w.getLsbD 5 = r.contained ∧ w.getLsbD 6 = r.defer ∧
       (w.extractLsb' 7 10).toNat = (if r.defer then 0 else r.index) ∧ (t.sys.thr c k).tinfo = r.info ∧
       (t.sys.thr c k).tva = BitVec.ofNat 64 (r.va % 2 ^ 52) ∧ (t.sys.thr c k).tblk = BitVec.ofNat 64 (blk % 2 ^ 52) ∨ (v.handler = true ∧ v.ctx = 0)) ∧
      (v.handler = false → t.greg = s.greg ∧ (t.sys.thr c k).handler = false ∧
        ∃ g, { due := s.sys.now + 14, act := .ev .handlerEntry { clu := c, frm := k, reg := g } } ∈ t.fly.agenda) ∧
      (v.handler = true → v.ctx ≠ 0 → (t.sys.ctx v.ctx).st = .faulted ∧ (t.sys.ctx v.ctx).fcause = 3))

/-- R5, R93: a word lies in memory little-endian, byte `i` holding bits [8i+7:8i]; a store touches no other byte, reads back and keeps the canonical form.
g0 reads as zero in every thread and its writes are discarded; any other register reads what was last written, and a write changes no other
register and no other thread's. -/
def Obligations.StorageReadsBack : Prop :=
  (∀ (m : Memory) (a : Nat) (v : Word), Memory.wf m = true →
    readWord (writeWord m a v) a = v ∧ (∀ i < 8, readByte (writeWord m a v) (a + i) = v.extractLsb' (8 * i) 8) ∧
    (∀ b, b < a ∨ a + 8 ≤ b → readByte (writeWord m a v) b = readByte m b) ∧ Memory.wf (writeWord m a v) = true) ∧
  ∀ (s : State) (c k n : Nat) (v : Word), formOk s → k < 1024 →
    s.reg c k 0 = 0 ∧ s.setReg c k 0 v = s ∧ (n ≠ 0 → (s.setReg c k n v).reg c k n = v) ∧ formOk (s.setReg c k n v) ∧
    (∀ m, m ≠ n → (s.setReg c k n v).reg c k m = s.reg c k m) ∧
    (∀ c' k' m, k' < 1024 → (c', k') ≠ (c, k) → (s.setReg c k n v).reg c' k' m = s.reg c' k' m)

/-- R204, R214 on blocks written out, and R16 on its worked address: a block whose header, words and obligations are in order passes the check; one with the
header of another program, one that leaves a register of WRITES without a writer, and one whose exit number exceeds EXITS are refused. -/
def Sys2Proof.Claims.BlocksAndSlicesChecked : Prop :=
  blockCheck 0 [0xB702400000000000, 0x0000000000000000, 0x0A00000000000000] [] = none ∧
  blockCheck 0 [0xB602400000000000, 0x0000000000000000, 0x0A00000000000000] [] = some 0x7F0170 ∧
  blockCheck 0 [0xB702400000000000, 0x0000000000000000, 0x7F00000000000000] [] = some 0x000270 ∧
  blockCheck 0 [0xB702400000000000, 0x0000000000000002, 0x0A00000000000000] [] = some 0x7F0870 ∧
  blockCheck 0 [0xB702400000000000, 0x0000000000000000, 0x0A00200000000000] [] = some 0x000970 ∧
  homeSlice 0x30040 = 49 ∧ (∀ pa, homeSlice pa < 64) ∧ (∀ a : Nat, a < 64 → homeSlice (a * 64) = a)

/-! ### Device events: what they share -/

namespace Sys2Proof.Claims

/-- The event answers a next state of which `P` holds, with memory as it was. -/
def gives (s : State) (i : Instr) (P : State → Prop) : Prop := ∃ t, exec i s = .next t ∧ t.mem = s.mem ∧ P t

/-- An event stands on the agenda. -/
def soon (t : State) (due : Nat) (i : Instr) (e : Ev) : Prop := { due := due, act := .ev i e } ∈ t.fly.agenda

/-- The event changes the architectural state to `y`, and nothing else in the machine. -/
def onlySys (s : State) (i : Instr) (y : Sys) : Prop := exec i s = .next { s with sys := y }

/-- The event leaves the machine as it is. -/
def nothing (s : State) (i : Instr) : Prop := exec i s = .next s

/-- The event is put off to cycle `due` and does nothing else. -/
def putOff (s : State) (i : Instr) (due : Nat) : Prop := exec i s = .next (s.sched due i s.fly.ev)

/-! ### The host link, power states, management -/

/-- `%lnksts` becomes a word with STATE `st` and `Q`, as it was in every bit that neither STATE nor `p` covers; nothing else changes. -/
def linkTo (s : State) (i : Instr) (st : Nat) (p : Nat → Bool) (Q : Word → Prop) : Prop :=
  ∃ L, onlySys s i { s.sys with lnk := L } ∧ (L.extractLsb' 4 3).toNat = st ∧ Q L ∧
    ∀ b < 64, (b < 4 ∨ 7 ≤ b) → p b = false → L.getLsbD b = s.sys.lnk.getLsbD b

/-- Entry to DOWN: DOWNS counts it up to 15; no width, speed or flit mode is left. -/
def linkDown (s : State) (i : Instr) : Prop :=
  linkTo s i 5 (fun b => decide (b < 4) || (decide (16 ≤ b) && decide (b < 24)) || b == 12) fun L =>
    (L.extractLsb' 0 4).toNat = min 15 ((s.sys.lnk.extractLsb' 0 4).toNat + 1) ∧ L.extractLsb' 16 8 = 0 ∧ L.getLsbD 12 = false

/-- Something runs on the device (R365): a thread, a transfer, a ring, or an OPEN queue whose head record can start: no live instance of its own record
holds it back, and a frame is free for it. -/
def running (s : State) : Prop :=
  let y := s.sys
  (∃ e ∈ y.thrs, e.2.st = .active ∨ e.2.st = .waiting) ∨
  (∃ c ∈ y.ctxs, ∃ q ∈ c.2.queues, y.qState q.2 = .opened ∧ ∃ r rest, q.2.buf = r :: rest ∧ (recB r = true → q.2.live = 0) ∧
    (recKind r = 0 → ∃ k < 1020, s.frameFree q.2.clu k = true)) ∨
  (∃ e ∈ y.xfers, e.2.st ≠ .free) ∨ ∃ e ∈ y.rings, e.2.pass.isSome = true ∨ e.2.tails ≠ []

/-- `%pstate` while the device runs: P1 with its cause (the cap, the 1,100 W limit, a thermal limit), or P0 (R366). -/
def runWord (cap limit thermal : Bool) : Word := if cap then 0x11 else if limit then 0x21 else if thermal then 0x31 else 0

/-- The bin of a sample (R368): 0 and 1 in bin 0, otherwise by its highest bit, the last bin taking the rest. -/
def sampleBin (v : Nat) : Nat := if v < 2 then 0 else min 15 (Nat.log2 v)

def upOne (w : Word) : Word := if w.toNat = 2 ^ 64 - 1 then w else w + 1

end Sys2Proof.Claims

/-! ### Device events: link, power, monitors, management (R191 to R193, R362 to R371) -/

/-- R192, R193: every event of the host link moves `%lnksts` as the state table has it and counts what R192 counts; in a state that the event does
not leave it changes nothing. L1 is entered from L0 in a C state with a tolerance of 8 µs at least. That width, speed and flit mode are zero while the link is
down or trains again, that an error adds to UNCORR and CORR as the clauses have it, and that the link can be lost from L1 and RECOVERY too, is the model's
reading (log entry 58, DEDUCED). -/
def Obligations.LinkEvents : Prop :=
  ∀ s : State,
    let e := s.fly.ev
    let st := (s.sys.lnk.extractLsb' 4 3).toNat
    let field (L : Word) (lo n : Nat) : Nat := (L.extractLsb' lo n).toNat
    let inRange (lo hi b : Nat) : Bool := decide (lo ≤ b) && decide (b < hi)
    (st = 0 → linkTo s .receiverDetect 1 (fun _ => false) fun _ => True) ∧ (st ≠ 0 → nothing s .receiverDetect) ∧
    (st = 1 → 1 ≤ e.id → e.id ≤ 3 → 1 ≤ e.part → e.part ≤ 6 → (e.part = 6 → e.p = true) →
      linkTo s .trainingComplete 2 (fun b => inRange 16 24 b || b == 12) fun L =>
        field L 20 4 = e.id ∧ field L 16 4 = e.part ∧ L.getLsbD 12 = e.p) ∧
    (st ≠ 1 → nothing s .trainingComplete ∧ nothing s .trainingFailure) ∧ (st = 1 → linkDown s .trainingFailure) ∧
    (st = 2 → linkTo s .linkError 4 (inRange 32 48) fun L => field L 32 16 = min 65535 (field s.sys.lnk 32 16 + 1)) ∧
    (st = 4 → e.part = 0 → linkTo s .recoveryComplete 2 (fun _ => false) fun _ => True) ∧
    (st = 4 → e.part = 1 → linkTo s .recoveryComplete 1 (fun b => inRange 16 24 b || b == 12) fun L =>
      L.extractLsb' 16 8 = 0 ∧ L.getLsbD 12 = false) ∧
    (st = 4 → 2 ≤ e.part → linkDown s .recoveryComplete) ∧ (st ≠ 4 → nothing s .recoveryComplete) ∧
    (st = 2 → 2 ≤ s.sys.power → 8 ≤ (s.sys.lattol.extractLsb' 0 32).toNat → linkTo s .l1Entry 3 (fun _ => false) fun _ => True) ∧
    (st = 3 → linkTo s .l1Exit 2 (fun _ => false) fun _ => True) ∧ (st ≠ 3 → nothing s .l1Exit) ∧
    ((st = 2 ∨ st = 3 ∨ st = 4) → linkDown s .linkLoss) ∧ ((st < 2 ∨ 4 < st) → nothing s .linkLoss) ∧
    (st = 5 → linkTo s .linkReset 0 (fun _ => false) fun _ => True) ∧ (st ≠ 5 → nothing s .linkReset) ∧
    (st = 2 → linkTo s .correctableLinkError 2 (inRange 48 64) fun L => field L 48 16 = min 65535 (field s.sys.lnk 48 16 + e.id)) ∧
    (st ≠ 2 → nothing s .linkError ∧ nothing s .l1Entry ∧ nothing s .correctableLinkError)

/-- R364 to R368: the device runs in P0, or in P1 with its cause; when nothing runs it enters the deepest C state whose wake latency the tolerance
admits, and WAKE leaves it; a sample goes to every armed unit of its event, colour and context, whose minimum, maximum, count and bins it
changes, and to no other. What counts as running, the order of the causes of P1, and that a tolerance below 2 µs leaves the device in P0 or P1, is the model's
reading (log entry 59, DEDUCED). -/
def Obligations.PowerAndMonitorEvents : Prop :=
  ∀ s : State,
    let e := s.fly.ev
    let tol := (s.sys.lattol.extractLsb' 0 32).toNat
    let cap := s.sys.lattol.getLsbD 32
    let deep : Nat := if 2000 ≤ tol then 4 else if 40 ≤ tol then 3 else 2
    ((running s ∨ tol < 2) → gives s .powerStateChoice fun t => t.sys.pstate = runWord cap e.p e.q ∧ t.greg = s.greg) ∧
    (¬ running s → 2 ≤ tol → gives s .powerStateChoice fun t => t.sys.pstate = BitVec.ofNat 64 deep ∧ t.greg = s.greg ∧
      (8 ≤ tol → soon t s.sys.now .l1Entry {})) ∧
    (2 ≤ s.sys.power → gives s .wake fun t => t.sys.pstate = runWord cap s.sys.powerLimit s.sys.thermal ∧ t.greg = s.greg) ∧
    (s.sys.power < 2 → nothing s .wake) ∧
    (e.part ≠ 1 → gives s .monitorSample fun t => t.greg = s.greg ∧ t.fly = s.fly ∧ t.sys = { s.sys with mons := t.sys.mons } ∧
      ∀ u m, tabFind s.sys.mons u = some m →
        if m.armed = true ∧ m.event = e.id ∧ m.ctx = e.ctx ∧ (m.all = true ∨ m.colour = e.col) then
          ∃ m', tabFind t.sys.mons u = some m' ∧ m'.min.toNat = min m.min.toNat e.word.toNat ∧ m'.max.toNat = max m.max.toNat e.word.toNat ∧
            m'.count = upOne m.count ∧ m'.armed = true ∧
            ∀ k < 16, m'.bins.getD k 0 = if k = sampleBin e.word.toNat then upOne (m.bins.getD k 0) else m.bins.getD k 0
        else tabFind t.sys.mons u = some m) ∧
    (e.part = 1 → (s.sys.mon e.id).armed = true → (s.sys.mon e.id).event = 1 → gives s .monitorSample fun t =>
      t.greg = s.greg ∧ soon t (s.sys.now + 1024) .monitorSample e)

/-- R361, R362, R369 to R371 while the device is awake: the owner exchange of MSESS, and a read of it; a read that the allow-list admits, and one that it refuses, which reads
zero and is counted for the colour that the item's unit is bound to; a report of the header, nonce, kernels and signature; the registration of up to four
signing keys of 1,793 bytes; a key record, which gives its slot a new key. A requester that does not hold the lock is refused. The firmware-status block (R1) is
read in every state. In a C state a command wakes the device first, after the state's latency (R364, R365). How the reads of `%msess` (log entry 57) and of the
status block with its words (log entry 81) are numbered, that BUSY is status 1 and a refused key record status 3 (log entry 57), and that a wake takes exactly its latency (log entry 59) is
the model's choice. -/
def Obligations.ManagementEvents : Prop :=
  ∀ s : State, formOk s →
    let e := s.fly.ev
    let y := s.sys
    let v := y.ctx e.ctx
    let may (who : Nat) : Prop := y.msOwner = 0 ∨ y.msOwner.toNat = who
    let refused (i : Instr) : Prop := onlySys s i { y with mgmtStatus := 1 }
    (y.power < 2 →
      (¬ may e.id → refused .kernelKeyRegister ∧ refused .attestationReport ∧ refused .keyRecord ∧ refused .debugHaltRequest) ∧
      (y.msOwner = 0 → refused .keyRecord) ∧ (e.part = 0 → ¬ may e.col → refused .hostMgmtRead) ∧
      (may e.id →
        ((e.bytes.length ≠ 1793 ∨ 4 ≤ v.signKeys.length ∨ e.bytes ∈ v.signKeys) → nothing s .kernelKeyRegister) ∧
        (e.bytes.length = 1793 → v.signKeys.length < 4 → e.bytes ∉ v.signKeys →
          gives s .kernelKeyRegister fun t => (t.sys.ctx e.ctx).signKeys = v.signKeys ++ [e.bytes])) ∧
      (y.msOwner = e.word.extractLsb' 16 16 → gives s .msessWrite fun t => t.sys.msOwner = e.word.extractLsb' 0 16 ∧ e.id ∉ t.sys.msBusy) ∧
      (y.msOwner ≠ e.word.extractLsb' 16 16 → gives s .msessWrite fun t => t.sys.msOwner = y.msOwner ∧ e.id ∈ t.sys.msBusy) ∧
      (e.part = 0 → may e.col → e.id ∈ v.allow → e.id < 2048 → gives s .hostMgmtRead fun t =>
        t.sys.hostReads = y.hostReads ++ [(e.ctx, e.id, (y.mon (e.id / 32)).word (e.id % 32))]) ∧
      (e.part = 0 → may e.col → e.id ∉ v.allow → gives s .hostMgmtRead fun t => t.sys.hostReads = y.hostReads ++ [(e.ctx, e.id, 0)] ∧
        (e.id < 2048 →
          let owner := (y.mon (e.id / 32)).owner
          (t.sys.ctx e.ctx).audits = tabSet Audit.reset v.audits owner
            { attempts := min 4294967295 ((tabGet Audit.reset v.audits owner).attempts + 1), last := e.id % 4096 }) ∧
        (2048 ≤ e.id → (t.sys.ctx e.ctx).audits = v.audits)) ∧
      (e.part = 3 → gives s .hostMgmtRead fun t => ∃ w : Word, t.sys.hostReads = y.hostReads ++ [(18, e.id, w)] ∧
        w.extractLsb' 0 16 = y.msOwner ∧ (w.getLsbD 16 = true ↔ e.id ∈ y.msBusy) ∧ w.toNat < 2 ^ 17) ∧
      (may e.id → gives s .attestationReport fun t => ∃ b, t.sys.reports = y.reports ++ [b ++ Config.signature b] ∧
        b.length = 112 + 40 * v.kernels.length ∧ leNat (b.take 4) = 0x5441544B ∧ leNat ((b.drop 4).take 4) = 0x0960000A ∧
        (b.drop 8).take 32 = (List.range 32).map fun k => e.bytes.getD k 0) ∧
      (∀ w : Word, w = BitVec.ofNat 64 (leNat (e.bytes.take 8)) → y.msOwner ≠ 0 → y.msOwner.toNat = e.id →
        let x := (w.extractLsb' 0 4).toNat
        let slot := if w.getLsbD 20 then 32776 else (if w.getLsbD 16 then 4096 else (w.extractLsb' 4 12).toNat) * 8 + (w.extractLsb' 17 3).toNat
        let wrapped := (e.bytes.drop 8).take 72
        let ok : Prop := ((y.ctx x).st = .allocated ∨ (y.ctx x).st = .suspended) ∧ keyRecordOk e.bytes = true ∧ Config.unwraps wrapped = true
        let new : Key := { gen := ((y.ctx x).key x slot).gen + 1, pair := Config.unwrapped wrapped, tagKey := Config.tagKeyOf wrapped }
        (ok → gives s .keyRecord fun t => t.sys.mgmtStatus = 0 ∧ (t.sys.ctx x).keys = tabPut (y.ctx x).keys slot new) ∧
        (¬ ok → onlySys s .keyRecord { y with mgmtStatus := 3 }))) ∧
    (e.part = 1 → gives s .hostMgmtRead fun t => t.sys.hostReads = y.hostReads ++ [(17, e.id, y.fwStatus.getD e.id 0)]) ∧
    (2 ≤ y.power → (∀ w ∈ s.fly.agenda, ∀ a, w.act ≠ .ev .wake a) → gives s .msessWrite fun t =>
      let lat := if y.power = 2 then 1880 else if y.power = 3 then 37600 else 1880000
      t.sys = y ∧ soon t (y.now + lat) .wake {} ∧ soon t (y.now + lat) .msessWrite e)

/-! ### Device events: contexts, the watchdog, drains (R77 to R85, R218, R349 to R353) -/

namespace Sys2Proof.Claims

/-- Context commands end at once with a status and no other effect (R79): SELF 4, STATE 2, MASK 3. -/
def cmdRefused (s : State) (i : Instr) (st : Nat) : Prop := onlySys s i { s.sys with cxStatus := st }

/-- The work of a drain, as its events name it. -/
def sameDrain (e : Ev) (d : Drain) : Prop := d.col = (if e.p then some e.col else none) ∧ d.at_ = e.id

/-- A thread stands in the set that a drain of a context names (R349). -/
def inSet (t : Thr) (x : Nat) (d : Drain) : Prop :=
  t.st ≠ .free ∧ t.st ≠ .reserved ∧ t.ctx = x ∧ (d.col = none ∨ d.col = some t.colour)

end Sys2Proof.Claims

/-- R77 to R82: ALLOC moves the rings of its mask from context 0 to a FREE context, whose banks are SCRATCH and unbound; START lets it run; CLEAR makes a
FAULTED one SUSPENDED; DESTROY discards its kernels, queues and threads and the scrub, which ends 262,144 cycles later, gives its rings back,
clears its clusters and leaves no line that one of its keys opens. ALLOC draws key slots and a stream key (R354, R359). A command on context 0, on a context in another state, or with a mask that ALLOC cannot serve ends with SELF, STATE or MASK and has
no other effect. That START leaves SUSPENDED queues so and that the scrub takes its whole bound of 262,144 cycles is the
model's reading (log entry 37). -/
def Sys2Proof.Claims.ContextCommands : Prop :=
  ∀ s : State, formOk s →
    let x := s.fly.ev.ctx
    let v := s.sys.ctx x
    let mask := (s.fly.ev.word.extractLsb' 16 16).toNat
    let served : Prop := mask ≠ 0 ∧ ∀ g < 16, mask.testBit g = true → s.sys.ctxOf (g * 8) = 0 ∧ ringIdle s.sys g = true
    (x = 0 → cmdRefused s .alloc 4 ∧ cmdRefused s .start 4 ∧ cmdRefused s .destroy 4 ∧ cmdRefused s .clear 4) ∧
    (x ≠ 0 →
      (v.st ≠ .free → cmdRefused s .alloc 2) ∧ (v.st ≠ .allocated → cmdRefused s .start 2) ∧ (v.st ≠ .faulted → cmdRefused s .clear 2) ∧
      ((v.st = .free ∨ v.st = .destroying) → cmdRefused s .destroy 2) ∧ (v.st = .free → ¬ served → cmdRefused s .alloc 3) ∧
      (x < 16 → v.st = .free → served → gives s .alloc fun t => (t.sys.ctx x).st = .allocated ∧ (t.sys.ctx x).rings.toNat = mask ∧ t.sys.cxStatus = 0 ∧
        (t.sys.ctx x).kernels = [] ∧ t.greg = s.greg ∧
        (t.sys.ctx x).keys = [] ∧ (t.sys.ctx x).drawn = s.sys.freeIx ∧ (t.sys.ctx x).streamKey = Config.streamKey x s.sys.freeIx ∧
        (t.sys.ctx x).allow = (Config.allowItems x s.sys.freeIx).take 64 ∧
        ∀ g < 16, mask.testBit g = true → ∀ j < 8, t.sys.ctxOf (g * 8 + j) = x ∧ (∀ n < 256, t.sys.pin (g * 8 + j) n = Pin.reset) ∧
          ∀ b < 16, (t.sys.bank (g * 8 + j) b).mode = .scratch ∧ (t.sys.bank (g * 8 + j) b).bound = false) ∧
      (v.st = .allocated → gives s .start fun t => (t.sys.ctx x).st = .running ∧ t.sys.cxStatus = 0 ∧ t.greg = s.greg) ∧
      (v.st = .faulted → gives s .clear fun t => (t.sys.ctx x).st = .suspended ∧ (t.sys.ctx x).fcause = 0 ∧ t.sys.cxStatus = 0 ∧ t.fly = s.fly) ∧
      ((v.st = .allocated ∨ v.st = .running ∨ v.st = .suspended ∨ v.st = .faulted) → gives s .destroy fun t =>
        (t.sys.ctx x).st = .destroying ∧ (t.sys.ctx x).kernels = [] ∧ (t.sys.ctx x).queues = [] ∧ t.sys.cxStatus = 0 ∧
        soon t (s.sys.now + 262144) .scrubComplete { ctx := x } ∧
        ∀ c < 128, s.sys.ctxOf c = x → ∀ k < 1024, (t.sys.thr c k).st = .free ∧ ∀ n, t.reg c k n = 0)) ∧
    (v.st = .destroying → gives s .scrubComplete fun t => (t.sys.ctx x).st = .free ∧ (t.sys.ctx x).rings = 0 ∧
      (∀ l, (t.sys.line l).held.all (·.ctx != x) = true ∧ (t.sys.line l).ktag.all (fun q => q.tag.ctx != x || q.gen.isNone) = true) ∧
      ∀ c < 128, s.sys.ctxOf c = x →
        (∀ b < 16, (t.sys.bank c b).mode = .scratch) ∧ (∀ o < 1048576, t.sys.scr c o = 0) ∧ (∀ n < 64, (t.sys.cent c n).valid = false) ∧
        (∀ n < 256, (t.sys.bar c n).mode = .free ∧ (t.sys.pin c n).held = false ∧ (t.sys.ment c n).st = .empty) ∧
        (∀ l < 4096, (t.sys.lane c l).alloc = false) ∧ ∀ p < 192, (t.sys.pacc c p).bound = false) ∧
    (v.st ≠ .destroying → nothing s .scrubComplete)

/-- R80, R84: a watchdog whose count has reached its limit faults its context with FCAUSE 1 and suspends its queues (context 0 only interrupts); a kick
clears the count, and the next expiry is a whole limit away. A kick of a context that is FAULTED, FREE or DESTROYING is lost (R77). -/
def Sys2Proof.Claims.WatchdogEvents : Prop :=
  ∀ s : State, formOk s →
    let x := s.fly.ev.ctx
    let v := s.sys.ctx x
    (v.wlimit ≠ 0 → s.sys.counting x = true → v.wlimit * 1024 ≤ s.sys.counted x → gives s .watchdogExpiry fun t =>
      (x ≠ 0 → (t.sys.ctx x).st = .faulted ∧ (t.sys.ctx x).fcause = 1 ∧ (x, 1, 0, 0) ∈ t.sys.irqs ∧ ∀ q ∈ (t.sys.ctx x).queues, q.2.st = .suspended) ∧
      (x = 0 → (t.sys.ctx 0).st = .running ∧ (0, 1, 0, 0) ∈ t.sys.irqs ∧ t.sys.thrs = s.sys.thrs)) ∧
    ((v.wlimit = 0 ∨ s.sys.counting x = false ∨ s.sys.counted x < v.wlimit * 1024) → nothing s .watchdogExpiry) ∧
    ((v.st = .faulted ∨ v.st = .free ∨ v.st = .destroying) → nothing s .wdogKick) ∧
    ((v.st = .running ∨ v.st = .suspended ∨ v.st = .allocated) → gives s .wdogKick fun t => (t.sys.ctx x).wcount = 0 ∧ (t.sys.ctx x).wrem = 0 ∧ t.greg = s.greg ∧
      (v.wlimit ≠ 0 → s.sys.counting x = true → soon t (s.sys.now + v.wlimit * 1024) .watchdogExpiry { ctx := x }))

/-- R218, R349, R350, R353: a marker saves the waiting threads of its set at its cluster; the abort event aborts what is still live and saves it before
its block; then what waits is saved too, and the drain completes once R342 holds: the context is SUSPENDED with interrupt 5, drains of colours that are under
way complete with it, or the colour's drain is counted with interrupt 6 (the interrupt numbers are the model's, log entry 88); it is looked at again each cycle
until then. A debugger's request marks its thread. -/
def Obligations.DrainEvents : Prop :=
  ∀ s : State, formOk s →
    let e := s.fly.ev
    let v := s.sys.ctx e.ctx
    let found := v.drains.find? fun d => d.col == (if e.p then some e.col else none) && d.at_ == e.id
    (e.part = 1 → found.all (·.marked.contains e.clu) = true → nothing s .drainMarkerArrival) ∧
    (∀ d ∈ v.drains, d.col = (if e.p then some e.col else none) → (e.part = 1 → found.all (·.marked.contains e.clu) = false) → gives s .drainMarkerArrival fun t =>
      ∀ k < 1024, (s.sys.thr e.clu k).st = .waiting → inSet (s.sys.thr e.clu k) e.ctx d → (t.sys.thr e.clu k).st = .saved) ∧
    (∀ d, found = some d →
      (gives s .drainAbort fun t => ∀ c k i, k < 1024 → inSet (s.sys.thr c k) e.ctx d → s.fly.inst c k = some i →
        (t.sys.thr c k).st = .saved ∧ (t.sys.thr c k).next = i.blk ∧ t.fly.inst c k = none) ∧
      (gives s .drainHalt fun t => soon t s.sys.now .drainCompletion e ∧ { d with halted := true } ∈ (t.sys.ctx e.ctx).drains ∧
        ∀ c k, k < 1024 → inSet (s.sys.thr c k) e.ctx d → (s.sys.thr c k).st = .waiting → (t.sys.thr c k).st = .saved) ∧
      (v.st = .running → drainQuiet s e.ctx d = false → putOff s .drainCompletion (s.sys.now + 1)) ∧
      (v.st = .running → drainQuiet s e.ctx d = true →
        (e.p = false → gives s .drainCompletion fun t => (t.sys.ctx e.ctx).st = .suspended ∧ (e.ctx, 5, 0, 0) ∈ t.sys.irqs ∧ t.greg = s.greg ∧
          (t.sys.ctx e.ctx).drains = [] ∧ (t.sys.ctx e.ctx).drcnt = v.drcnt + BitVec.ofNat 8 (v.drains.filterMap (·.col)).length ∧
          (∀ d' ∈ v.drains, ∀ k, d'.col = some k → k ∈ (t.sys.ctx e.ctx).drained ∧ (e.ctx, 6, k, 0) ∈ t.sys.irqs) ∧
          ∀ q ∈ (t.sys.ctx e.ctx).queues, q.2.st ≠ .draining) ∧
        (e.p = true → gives s .drainCompletion fun t => (t.sys.ctx e.ctx).st = .running ∧ (t.sys.ctx e.ctx).drcol = e.col ∧
          (t.sys.ctx e.ctx).drcnt = v.drcnt + 1 ∧ e.col ∈ (t.sys.ctx e.ctx).drained ∧ (e.ctx, 6, e.col, 0) ∈ t.sys.irqs ∧ t.greg = s.greg))) ∧
    (let h := s.sys.thr e.clu e.frm
     s.sys.power < 2 → (s.sys.msOwner = 0 ∨ s.sys.msOwner.toNat = e.id) →
     (h.st ≠ .free → h.st ≠ .reserved → h.halt = 0 → onlySys s .debugHaltRequest (s.sys.setThr e.clu e.frm { h with halt := 1 })) ∧
     ((h.st = .free ∨ h.st = .reserved ∨ h.halt ≠ 0) → nothing s .debugHaltRequest))

/-! ### Device events: translation, tickets, shoot-downs, system records (R38, R84, R160 to R166, R325, R331, R348) -/

namespace Sys2Proof.Claims

/-- The translation of access `id` is made at its port, and the access is not one with a form of its own. -/
def plainAt (s : State) (id : Nat) (a : Access) : Prop :=
  s.fly.acc id = some a ∧ a.st = .buffered ∧ a.scr = false ∧ latchedXlat s.sys a = none ∧ a.op ≠ .fence ∧ a.op ≠ .fencea ∧ a.op ≠ .sunpin ∧
  a.op ≠ .copy ∧ a.op ≠ .copyt ∧ a.op ≠ .splice

/-- What the port's caches make of an access: the translations of its pages, and what stopped. -/
def byPort (s : State) (a : Access) : List Xlat × Option (Nat × XRes) :=
  xlateAll (s.sys.portT a.clu a.reg) (fun p => decide (2 ≤ (rangesOf s.sys s.mem a.ctx a.colour p).length)) a.ctx a.colour a.ident a.spans []

/-- It is the turn of the access (R304). -/
def inTurn (s : State) (id : Nat) (a : Access) : Prop := a.released = true ∨ a.lsid = none ∨ mayIssue s.sys s.fly id a = true

/-- The line is one that its home slice acts on now: in device memory, held under the key tag, with no perform in this cycle (R358, R383). -/
def lineReady (s : State) (l : Nat) (k : KeyTag) : Prop :=
  hostLine l = false ∧ (s.sys.line l).last ≠ some s.sys.now ∧ (s.sys.line l).held = some k

end Sys2Proof.Claims

/-- R160, R161, R163, R304: a released operation that the port's caches translate waits there for its commit and answers its LSID two cycles after it came; one
that is not in turn waits; a miss of the range cache asks the home slice of the range table a cycle after, one of the leaf cache that of the page table two cycles
after, and the answer leaves the slice eight cycles later. A page that stops the access does so two cycles after it came: ABSENT opens a ticket and withholds it; a
check that fails raises PROT in the instance, and so does a page that no range holds. A read that comes back fills the cache, and the access goes on. The moments of a miss and of an
answer are the model's reading (log entries 12 and 15). -/
def Obligations.TranslationEvents : Prop :=
  ∀ (s : State) (a : Access), formOk s →
    let e := s.fly.ev
    let again (part col : Nat) : Ev := { clu := a.clu, reg := a.reg, id := e.id, part := part, col := col }
    let mine : Prop := ∃ i, s.fly.inst a.clu a.frm = some i ∧ i.ser = a.ser
    (plainAt s e.id a →
      (e.part = 0 → a.released = false → a.lsid.isSome = true → mayIssue s.sys s.fly e.id a = false → gives s .translate fun t =>
        t.sys = s.sys ∧ t.greg = s.greg ∧ t.fly.acc e.id = some { a with st := .atPort }) ∧
      (let spent := if e.part = 2 then e.col else 0
       (e.part = 2 ∨ (e.part = 0 ∧ inTurn s e.id a)) →
        (∀ xs, byPort s a = (xs, none) → a.released = true → gives s .translate fun t =>
          t.fly.acc e.id = some { a with xl := xs, st := .atPort } ∧ t.greg = s.greg ∧
          soon t (s.sys.now + (2 - spent)) .accessRetire { clu := a.clu, reg := a.reg, id := e.id, part := 1 }) ∧
        (∀ xs b, byPort s a = (xs, some (b, .miss false)) → gives s .translate fun t => t.greg = s.greg ∧
          ∃ pa, ∃ due ≥ s.sys.now + (1 - spent) + 10, soon t due .tableReadFill
            { clu := a.clu, reg := a.reg, id := e.id, col := homeSlice pa, word := BitVec.ofNat 64 b, ent := some pa }) ∧
        (∀ xs b r l, byPort s a = (xs, some (b, .miss true)) → (s.sys.portT a.clu a.reg).hits a.ctx a.colour (b / 65536) = r :: l → gives s .translate fun t =>
          t.greg = s.greg ∧ ∃ due ≥ s.sys.now + (2 - spent) + 10,
            let pa := r.pbase + 8 * (b / 2 ^ 43 % 512)
            soon t due .tableReadFill { clu := a.clu, reg := a.reg, id := e.id, part := 1, col := homeSlice pa, word := BitVec.ofNat 64 b, ent := some pa }) ∧
        (∀ xs b r, byPort s a = (xs, some (b, r)) → (∀ leaf, r ≠ .miss leaf) → spent < 2 → gives s .translate fun t =>
          t.sys = s.sys ∧ t.greg = s.greg ∧ t.fly.acc e.id = some a ∧ soon t (s.sys.now + (2 - spent)) .translate (again 2 2)) ∧
        (∀ xs b k, byPort s a = (xs, some (b, .absent k)) → 2 ≤ spent → a.op ≠ .pref → gives s .translate fun t =>
          ∃ n k', t.fly.acc e.id = some { a with st := .withheld n, xl := [] } ∧ tabFind t.sys.tickets n = some k' ∧
            k'.ctx = a.ctx ∧ (k'.colour = a.colour ∨ rangesFor s.sys s.mem a.ctx 4096 (b / 65536) ≠ []) ∧ k'.clu = a.clu ∧ k'.reg = a.reg ∧
            k'.page = b / 65536 ∧ soon t (s.sys.now + max 1024 (s.sys.ctx a.ctx).ftlim.toNat) .checkpoint { id := n, part := e.id, col := s.sys.now }) ∧
        (∀ xs b code, byPort s a = (xs, some (b, .prot code)) → 2 ≤ spent → code ≠ 0x45 → a.op ≠ .pref → mine →
          exec .translate s = .next (raiseTrap s a.clu a.frm a.idx
            { cause := 3, contained := false, index := a.index, info := BitVec.ofNat 64 code, va := b }))) ∧
      (e.part = 3 → a.op ≠ .pref → mine → exec .translate s = .next (raiseTrap s a.clu a.frm a.idx
        { cause := 3, contained := false, index := a.index, info := 0x50, va := e.word.toNat }))) ∧
    (s.fly.acc e.id = some a → a.st = .buffered →
      let page := e.word.toNat / 65536
      (∀ pa, 1 ≤ e.part → e.part < 5 → e.ent = some pa → lineReady s (pa / 64) ((s.sys.line (pa / 64)).readTag a.ctx) → gives s .tableReadFill fun t =>
        t.greg = s.greg ∧ ∃ due ≥ s.sys.now + 8,
          soon t due .tableReadFill { e with part := e.part + 5, q := false, bytes := leBytes 8 (readLE s.mem pa 8) }) ∧
      (e.part = 5 → e.bytes.length < 33 → gives s .tableReadFill fun t =>
        t.sys = s.sys ∧ t.greg = s.greg ∧ soon t (s.sys.now + 1) .translate { again 3 0 with word := e.word }) ∧
      (e.part = 5 → 33 ≤ e.bytes.length → gives s .tableReadFill fun t => t.greg = s.greg ∧
        (∃ r ∈ rangesIn (e.bytes.length / 33) e.bytes,
          (t.sys.portT a.clu a.reg).ranges.head? = some (a.ctx, (if r.common then 4096 else a.colour), r)) ∧
        soon t s.sys.now .translate (again 2 1)) ∧
      (let w : Word := BitVec.ofNat 64 (leNat (e.bytes.take 8))
       (6 ≤ e.part → e.part < 9 → w.getLsbD 0 = true → w.extractLsb' 52 12 = 0 → w.extractLsb' 1 11 = 0 → gives s .tableReadFill fun t =>
         t.greg = s.greg ∧ ∃ due ≥ s.sys.now + 10,
           let pa := (w.extractLsb' 12 40).toNat * 4096 + 8 * (page / 2 ^ (9 * (8 - e.part)) % 512)
           soon t due .tableReadFill { clu := a.clu, reg := a.reg, id := e.id, part := e.part - 4, col := homeSlice pa, word := e.word, ent := some pa }) ∧
       (e.part = 9 → ∀ r l, (s.sys.portT a.clu a.reg).hits a.ctx a.colour page = r :: l → gives s .tableReadFill fun t => t.greg = s.greg ∧
         (t.sys.portT a.clu a.reg).leaves.head? = some (a.ctx, (if r.common then 4096 else a.colour), page, w) ∧
         soon t s.sys.now .translate (again 2 2))))

/-- R163 to R165, R348: an access withheld for its whole limit has the threads saved whose uncommitted accesses of the ticket's colour the ticket withholds, and is waited for until then; firmware's answer ends
the ticket and its accesses are translated again; a shoot-down empties the caches of what it names, and is complete once nothing it awaits is outstanding. A
requester that does not hold the management lock starts none (R370). -/
def Obligations.TicketEvents : Prop :=
  ∀ s : State, formOk s →
    let e := s.fly.ev
    (∀ k, tabFind s.sys.tickets e.id = some k →
      (∀ a, s.fly.acc e.part = some a →
        let due := e.col + max 1024 (s.sys.ctx k.ctx).ftlim.toNat
        (a.st ≠ .withheld e.id → nothing s .checkpoint) ∧
        (a.st = .withheld e.id → s.sys.now < due → putOff s .checkpoint due) ∧
        (a.st = .withheld e.id → due ≤ s.sys.now → gives s .checkpoint fun t =>
          ∀ n b i, s.fly.acc n = some b → b.st = .withheld e.id → b.colour = k.colour → b.committed = false →
            b.frm < 1024 → s.fly.inst b.clu b.frm = some i →
            (t.sys.thr b.clu b.frm).st = .saved ∧ (t.sys.thr b.clu b.frm).ticket = some e.id ∧ (t.sys.thr b.clu b.frm).next = i.blk)) ∧
      (s.sys.power < 2 → (∀ v ∈ s.sys.parks, v.2.on = false ∧ v.2.pending = []) → (∀ j < 32, (s.sys.xfer k.clu j).st ≠ .withheld) →
        (∀ h ∈ s.sys.thrs, h.2.ticket ≠ some e.id) → gives s .pfdoneWrite fun t =>
          tabFind t.sys.tickets e.id = none ∧ t.greg = s.greg ∧
          ∀ n a, s.fly.acc n = some a → a.st = .withheld e.id → t.fly.acc n = some { a with st := .buffered } ∧
            soon t s.sys.now .translate { clu := a.clu, reg := a.reg, id := n })) ∧
    (s.sys.power < 2 → s.sys.msOwner ≠ 0 → s.sys.msOwner.toNat ≠ e.frm → onlySys s .shootDown { s.sys with mgmtStatus := 1 }) ∧
    (s.sys.power < 2 → (s.sys.msOwner = 0 ∨ s.sys.msOwner.toNat = e.frm) → gives s .shootDown fun t => t.greg = s.greg ∧ (∃ id v, tabFind t.sys.shoots id = some v ∧ v.ctx = e.ctx ∧ v.first = e.col ∧ v.last = e.id ∧
        soon t (s.sys.now + 1) .shootDownComplete { id := id }) ∧
      ∀ c < 128, s.sys.ctxOf c = e.ctx → ∀ r < 16,
        (∀ l ∈ (t.sys.portT c r).leaves, l.1 = e.ctx → ¬ (e.col ≤ l.2.2.1 ∧ l.2.2.1 ≤ e.id)) ∧
        ∀ g ∈ (t.sys.portT c r).ranges, g.1 = e.ctx → ¬ (g.2.2.vbase ≤ e.id ∧ e.col ≤ g.2.2.vlast)) ∧
    (∀ v, tabFind s.sys.shoots e.id = some v →
      ((∀ n ∈ v.waits, ∀ a, s.fly.acc n = some a → a.st = .retired) →
        onlySys s .shootDownComplete { s.sys with shoots := tabDel s.sys.shoots e.id }) ∧
      (∀ n ∈ v.waits, ∀ a, s.fly.acc n = some a → a.st ≠ .retired →
        exec .shootDownComplete s = .next (s.sched (s.sys.now + 1) .shootDownComplete { id := e.id })))

/-- R38, R86, R166, R331, R333: the record of a RELAT or a CFGLD is read at its home slice, and one with a reserved field traps instead of what it asks. A RELAT that has
passed every slot fills its status word with how many there were; a CFGLD fills its own with the kernel's identity and the result, in one store of eight
bytes; a load whose header is wrong has result 1, one that succeeds leaves its kernel READY in the context. Which reason a load reports where several apply (log entry 55) and what
the retirement of a kernel answers (log entry 56) is the model's choice. -/
def Obligations.SystemRecordEvents : Prop :=
  ∀ s : State, formOk s →
    let e := s.fly.ev
    let bad (t : State) (c k owner ser : Nat) : Prop :=
      let h := s.sys.thr c k
      h.st ≠ .free → h.serial = owner → h.told ≠ some ser → (∀ r ∈ h.deferred, r.ser ≠ some ser) →
        { misuse 1 0xB8 0 with ser := some ser } ∈ (t.sys.thr c k).deferred
    (∀ v, tabFind s.sys.relats e.id = some v → lineReady s (v.record / 64) v.key →
      (e.part = 1 → relatBad s.mem v.record = true → gives s .relatEmerge fun t =>
        bad t v.clu v.frm v.owner v.ser ∧ t.sys.relats = tabDel s.sys.relats e.id ∧ t.greg = s.greg ∧ t.fly = s.fly) ∧
      (e.part = 1 → relatBad s.mem v.record = false → gives s .relatEmerge fun t => t.greg = s.greg ∧
        (∃ v', tabFind t.sys.relats e.id = some v' ∧ v'.told = true ∧ v'.record = v.record) ∧ soon t (s.sys.now + 1) .relatEmerge { id := e.id }) ∧
      (e.part = 0 → (∀ n ∈ v.waits, ∀ a, s.fly.acc n = some a → a.st = .retired) →
        ∃ t, exec .relatEmerge s = .next t ∧ t.mem = writeWord s.mem (v.record + 24) (BitVec.ofNat 64 v.slots) ∧ t.greg = s.greg ∧
          t.sys.relats = tabDel s.sys.relats e.id ∧ (t.sys.line ((v.record + 24) / 64)).fe &&& feBit (v.record + 24) ≠ 0)) ∧
    (∀ q, tabFind s.sys.loads e.id = some q → lineReady s (q.record / 64) q.key →
      let ws : List Word := (List.range 8).map fun n => readWord s.mem (q.record + 8 * n)
      (e.part = 0 → loadRecordBad (ws.getD · 0) = true → gives s .kernelLoading fun t =>
        bad t q.clu q.frm q.owner q.ser ∧ t.sys.loads = tabDel s.sys.loads e.id ∧ t.greg = s.greg ∧ t.fly = s.fly) ∧
      (e.part = 0 → loadRecordBad (ws.getD · 0) = false → gives s .kernelLoading fun t => t.greg = s.greg ∧
        tabFind t.sys.loads e.id = some { q with words := ws } ∧ soon t (s.sys.now + 1) .kernelLoading { e with part := 1 }) ∧
      (e.part = 1 →
        let w (n : Nat) : Word := q.words.getD n 0
        let x := ((w 1).extractLsb' 0 4).toNat
        let pa := ((w 0).extractLsb' 0 52).toNat
        let rt := ((w 1).extractLsb' 16 16).toNat
        let result (n : Nat) : Word := BitVec.ofNat 64 ((if q.rt then rt else readLE s.mem (pa + 8) 2) * 2 ^ 48 + n)
        let filled (m : Memory) (n : Nat) (t : State) : Prop := exec .kernelLoading s = .next t ∧ t.mem = writeWord m (q.record + 16) (result n)
        (∀ u, q.rt = false → openLines [{ line := q.record / 64, key := q.key, w := true }] s = .ok u →
          let s' : State := { u with sys := { u.sys with loads := tabDel u.sys.loads e.id } }
          (∀ r, loadKernel s' x pa = .error r → ∃ t, filled s.mem r t ∧ t.greg = s.greg) ∧
          (∀ z, loadKernel s' x pa = .ok z → ∃ t, filled z.mem 0 t ∧
            ∃ k ∈ (t.sys.ctx x).kernels, k.ident = readLE s.mem (pa + 8) 2 ∧ k.st = .ready)) ∧
        (q.rt = true →
          (mayLoadKernel (s.sys.ctx x).st = false → ∃ t, filled s.mem 7 t) ∧
          (mayLoadKernel (s.sys.ctx x).st = true → (s.sys.ctx x).kernel rt = none → ∃ t, filled s.mem 6 t) ∧
          (mayLoadKernel (s.sys.ctx x).st = true → (s.sys.ctx x).kernel rt ≠ none →
            ∃ t, filled s.mem 0 t ∧ ∀ k ∈ (t.sys.ctx x).kernels, k.ident = rt → k.st = .retiring)))) ∧
    (∀ (x pa : Nat), imageBad s.mem pa = true → loadKernel s x pa = .error 1)

/-- R38, R78, R79, R83, R84, R157, R325, R326, R369: a register that is written takes the value within the bits its field map lets software write; user code
writes its own four registers and the kick alone; `%wdog` takes LIMIT and COUNT, then the kick, and its expiry is timed anew; an accepted command of `%cxcmd` counts SEQ
and is BUSY until it ends, one in a reserved code ends at once; counts that are cleared by writing ones lose the bits written. A colour-table word takes PARKSIZE and PARKBASE and loses the FAULTS
written as ones, or, with the checks of R38, the whole of word 0 but its read-only bits. A write to a register of a context that is FREE, FAULTED or DESTROYING
is ignored, as is one to another register than `%rtbase`, `%cxvec` and `%wdog` of an ALLOCATED one (log entry 35, DESIGN CHOICE). -/
def Obligations.RegisterWriteEvents : Prop :=
  ∀ s : State,
    let e := s.fly.ev
    let y := s.sys
    let v := e.word
    let low (n : Nat) : Word := BitVec.ofNat 64 (v.toNat % 2 ^ n)
    let h := y.thr e.clu e.frm
    let u := y.clu e.clu
    let x := (y.cxsel.extractLsb' 0 4).toNat
    let thr (h' : Thr) : Prop := h.st ≠ .free → onlySys s .registerWrite (y.setThr e.clu e.frm h')
    let live (k : Nat) : Prop := (y.ctx k).st = .running ∨ (y.ctx k).st = .suspended
    let open_ (k : Nat) : Prop := live k ∨ (y.ctx k).st = .allocated
    let armed (t : State) (k limit count : Nat) : Prop := limit ≠ 0 → y.counting k = true →
      soon t (max (y.now + 1) (y.now + limit * 1024 - count * 1024)) .watchdogExpiry { ctx := k }
    (e.id = 0x020 → thr { h with dphase := v.setWidth 5 }) ∧ (e.id = 0x021 → thr { h with sprog := v }) ∧
    (e.id = 0x030 → onlySys s .registerWrite (y.setClu e.clu { u with barsel := low 9 })) ∧
    (e.id = 0x032 → onlySys s .registerWrite (y.setClu e.clu { u with bksel := low 5 })) ∧
    (e.id = 0x01A → e.p = false →
      ((v.getLsbD 0 = false ∨ ¬ open_ e.ctx) → nothing s .registerWrite) ∧
      (v.getLsbD 0 = true → open_ e.ctx → gives s .registerWrite fun t => t.greg = s.greg ∧ (t.sys.ctx e.ctx).wcount = 0 ∧ (t.sys.ctx e.ctx).wrem = 0 ∧
        (t.sys.ctx e.ctx).wlimit = (y.ctx e.ctx).wlimit ∧ armed t e.ctx (y.ctx e.ctx).wlimit 0)) ∧
    (e.p = false → e.id ∉ [0x01A, 0x020, 0x021, 0x030, 0x032] → nothing s .registerWrite) ∧
    (e.p = true →
      (e.id = 0x010 → thr { h with tcause := low 17 }) ∧ (e.id = 0x011 → thr { h with tinfo := v }) ∧ (e.id = 0x012 → thr { h with tva := low 52 }) ∧
      (e.id = 0x013 → thr { h with tblk := low 52 }) ∧
      (e.id = 0x040 → onlySys s .registerWrite { y with cxsel := low 4 }) ∧ (e.id = 0x049 → onlySys s .registerWrite { y with ctsel := low 14 }) ∧
      (e.id = 0x060 → onlySys s .registerWrite { y with lattol := low 33 }) ∧
      (e.id = 0x045 → exec .registerWrite s = .next (s.sched y.now .pfdoneWrite { id := (v.extractLsb' 0 32).toNat })) ∧
      (e.id = 0x04A → exec .registerWrite s = exec .ctentWrite s) ∧
      (e.id = 0x048 → gives s .registerWrite fun t =>
        t.sys = y.setClu e.clu { u with mscfg := BitVec.ofNat 64 ((v.extractLsb' 16 9).toNat * 2 ^ 16) } ∧ t.greg = s.greg) ∧
      (e.id = 0x050 → ∃ L : Word, onlySys s .registerWrite { y with lnk := L } ∧
        L.extractLsb' 0 4 = y.lnk.extractLsb' 0 4 &&& ~~~(v.extractLsb' 0 4) ∧ L.extractLsb' 4 28 = y.lnk.extractLsb' 4 28 ∧
        L.extractLsb' 32 16 = y.lnk.extractLsb' 32 16 &&& ~~~(v.extractLsb' 32 16) ∧
        L.extractLsb' 48 16 = y.lnk.extractLsb' 48 16 &&& ~~~(v.extractLsb' 48 16)) ∧
      (live x →
        (e.id = 0x018 → gives s .registerWrite fun t => t.sys = y.setCtx x { y.ctx x with stall := v.setWidth 32 } ∧ t.greg = s.greg) ∧
        (e.id = 0x019 → gives s .registerWrite fun t => t.sys = y.setCtx x { y.ctx x with ftlim := v.setWidth 32 } ∧ t.greg = s.greg) ∧
        (e.id = 0x062 →
          let k := (y.cent (ctselOf y).1 (ctselOf y).2.1).colour
          let a := tabGet Audit.reset (y.ctx x).audits k
          ∃ n : BitVec 32, n = BitVec.ofNat 32 a.attempts &&& ~~~(v.extractLsb' 32 32) ∧
            onlySys s .registerWrite (y.setCtx x { y.ctx x with audits := tabSet Audit.reset (y.ctx x).audits k { attempts := n.toNat, last := a.last } }))) ∧
      (¬ live x → e.id ∈ [0x018, 0x019, 0x062] → gives s .registerWrite fun t => t.sys = y ∧ t.greg = s.greg) ∧
      (open_ x →
        (e.id = 0x043 → onlySys s .registerWrite (y.setCtx x { y.ctx x with
          cxvec := BitVec.ofNat 64 ((v.extractLsb' 8 44).toNat * 2 ^ 8 + (v.extractLsb' 0 1).toNat) })) ∧
        (e.id = 0x044 → onlySys s .registerWrite (y.setCtx x { y.ctx x with rtbase := BitVec.ofNat 64 ((v.extractLsb' 25 27).toNat * 2 ^ 25) })) ∧
        (e.id = 0x01A → gives s .registerWrite fun t => t.greg = s.greg ∧
          let n := if v.getLsbD 0 then 0 else (v.extractLsb' 1 31).toNat
          (t.sys.ctx x).wlimit = (v.extractLsb' 33 31).toNat ∧ (t.sys.ctx x).wcount = n ∧ (t.sys.ctx x).wrem = 0 ∧
          armed t x (v.extractLsb' 33 31).toNat n)) ∧
      (¬ open_ x → e.id ∈ [0x043, 0x044, 0x01A] → nothing s .registerWrite) ∧
      (e.id = 0x041 →
        let cmd := (v.extractLsb' 0 4).toNat
        ((cmd = 0 ∨ y.cxStatus = 1) → nothing s .registerWrite) ∧
        (cmd ≠ 0 → y.cxStatus ≠ 1 → gives s .registerWrite fun t =>
          t.sys = { y with cxSeq := y.cxSeq + 1, cxStatus := if cmd < 5 then 1 else 5 } ∧ t.greg = s.greg ∧
          ∀ i, (cmd, i) ∈ [(1, Instr.alloc), (2, .start), (3, .destroy), (4, .clear)] →
            ∃ due > y.now, soon t due i { ctx := (v.extractLsb' 8 4).toNat, word := v }))) ∧
    (let c := (ctselOf y).1
     let n := (ctselOf y).2.1
     let old := y.cent c n
     let may : Prop := live (y.ctxOf c)
     ((y.ctxOf c ≠ x ∨ ¬ may) → nothing s .ctentWrite) ∧
     (y.ctxOf c = x → may → (ctselOf y).2.2 = true → gives s .ctentWrite fun t => t.greg = s.greg ∧
       ∃ w : Word, t.sys = y.setCent c n { old with w1 := w } ∧ w.extractLsb' 52 12 = v.extractLsb' 52 12 ∧
         w.extractLsb' 16 36 = v.extractLsb' 16 36 ∧ w.extractLsb' 8 8 = (old.w1.extractLsb' 8 8 &&& ~~~(v.extractLsb' 8 8)) ∧ w.extractLsb' 0 8 = 0) ∧
     (y.ctxOf c = x → may → (ctselOf y).2.2 = false → old.valid = false → ∀ w : Word, w.extractLsb' 6 58 = v.extractLsb' 6 58 →
       w.getLsbD 4 = v.getLsbD 4 → w.getLsbD 5 = false → w.extractLsb' 0 4 = 0 →
       let ok := ctabOk ((List.range 64).map fun m => if m = n then { old with w0 := w } else y.cent c m)
       gives s .ctentWrite fun t => t.greg = s.greg ∧ t.sys = if ok then y.setCent c n { old with w0 := w } else y))

/-! ### Device events: queues, exit ports, the block scheduler (R26, R89 to R93, R101 to R113, R236, R394) -/

namespace Sys2Proof.Claims

/-- Where a thread's next block may be entered at once: frame `n` of region `r` holds it; the context runs and is not drained there, no debugger halts
the thread, no trap waits for it, and the block is a valid one of its kernel, not iterated. -/
def mayEnter (s : State) (c k r n : Nat) : Prop :=
  let t := s.sys.thr c k
  s.sys.draining c t = false ∧ (s.sys.ctx t.ctx).st = .running ∧ t.halt = 0 ∧ t.next ≠ 0 ∧ t.deferred = [] ∧ t.pend = none ∧
  (∃ q b, (s.sys.ctx t.ctx).kernel t.ident = some q ∧ q.blocks.find? (fun b => b.addr == t.next) = some b ∧ b.bad = none) ∧
  s.sys.residentAt c t.ctx t.next = some (r, n) ∧ (s.sys.frame c r n).iterated = false

/-- The thread runs a new instance of the block at `blk`, in that frame. -/
def runsBlock (t : State) (c k r n blk : Nat) : Prop :=
  (t.sys.thr c k).st = .active ∧ ∃ i, t.fly.inst c k = some i ∧ i.blk = blk ∧ i.reg = r ∧ i.frm = n ∧ i.n = 1 ∧ i.exit = none

/-- The host's port is open: the link is in L0 and the device awake. -/
def portOpen (y : Sys) : Prop := (y.lnk.extractLsb' 4 3).toNat = 2 ∧ (y.pstate.extractLsb' 0 3).toNat < 2

/-- A well-formed create record (R107): KIND 00, reserved fields zero. -/
def createRecord (r : List Word) : Prop :=
  (r.headD 0).extractLsb' 62 2 = 0 ∧ (r.headD 0).extractLsb' 52 9 = 0 ∧ (r.headD 0).extractLsb' 0 6 = 0

/-- The first record of a list, if it is an inject record, names a block that its kernel has (R108, code 7). -/
def headKept (y : Sys) (x : Nat) (v : Queue) (rs : List (List Word)) : Prop := ∀ h, rs.head? = some h → injectLost y x v h = false

/-- Nothing starts from another queue of the cluster first (R110). -/
def firstToStart (s : State) (v : Queue) : Prop :=
  (s.sys.clu v.clu).started ≠ s.sys.now + 1 ∧ ∀ w ∈ s.fly.agenda, ∀ e, w.act = .ev .recordStart e → e.part ≠ 0

end Sys2Proof.Claims

/-- R105 to R108, R110, R112, R113, R193: the aperture offset names context, window and offset; a whole create record written to a queue with a free slot is kept, one that is not whole, malformed, without a slot or of a
RETIRING kernel is discarded with codes 1, 2, 3, 4 and counted; with the link in DETECT, TRAINING or DOWN a host's write is lost. A LAUNCH record fills its reserved slot. HEAD takes what the host
writes unless more records than the port holds would be unread. That the lowest code of several is reported (log entry 79) and that a write waits in L1 and RECOVERY (log entry 58) is
the model's reading. -/
def Obligations.QueueWriteEvents : Prop :=
  ∀ (s : State) (v : Queue),
    let e := s.fly.ev
    let r := leWords 8 e.bytes
    let x := e.col / 2 ^ 25 % 16
    let w := e.col / 2 ^ 12 % 2 ^ 13
    let o := e.col % 2 ^ 12
    let retiring := ((s.sys.ctx x).kernel v.ident).any (·.st == .retiring)
    let refused (code : Nat) := gives s .hostRecordWrite fun t => t.greg = s.greg ∧ t.fly = s.fly ∧
      tabFind (t.sys.ctx x).queues w = some { v with errs := min 255 (v.errs + 1), lasterr := code }
    (portOpen s.sys → w < 4096 → tabFind (s.sys.ctx x).queues w = some v →
      (o = 0 → e.bytes.length = 64 → createRecord r → v.buf.length + v.resv < v.depth → retiring = false → headKept s.sys x v v.buf →
        gives s .hostRecordWrite fun t => t.greg = s.greg ∧ tabFind (t.sys.ctx x).queues w = some { v with buf := v.buf ++ [r] } ∧
          ∃ k ∈ t.fly.agenda, ∃ a, k.act = .ev .recordStart a ∧ a.ctx = x ∧ a.id = w ∧ a.part ≠ 1) ∧
      (o < 64 → (o ≠ 0 ∨ e.bytes.length ≠ 64) → refused 1) ∧
      (o = 0 → e.bytes.length = 64 → 2 ≤ ((r.headD 0).extractLsb' 62 2).toNat → refused 2) ∧
      (o = 0 → e.bytes.length = 64 → createRecord r → v.depth ≤ v.buf.length + v.resv → refused 3) ∧
      (o = 0 → e.bytes.length = 64 → createRecord r → v.buf.length + v.resv < v.depth → retiring = true → refused 4)) ∧
    (portOpen s.sys → (4096 ≤ w ∨ 64 ≤ o ∨ tabFind (s.sys.ctx x).queues w = none) → nothing s .hostRecordWrite) ∧
    ((s.sys.lnk.extractLsb' 4 3).toNat ∈ [0, 1, 5] → nothing s .hostRecordWrite ∧ nothing s .exitHeadWrite) ∧
    (portOpen s.sys → (w < 4096 ∨ o ≠ 64) → nothing s .exitHeadWrite) ∧
    (portOpen s.sys → 4096 ≤ w → o = 64 → ∀ p, tabFind (s.sys.ctx x).ports (w - 4096) = some p →
      ((p.tail - e.word.setWidth 32).toNat ≤ p.size → gives s .exitHeadWrite fun t => t.greg = s.greg ∧ t.fly = s.fly ∧
        tabFind (t.sys.ctx x).ports (w - 4096) = some { p with head := e.word.setWidth 32 }) ∧
      (p.size < (p.tail - e.word.setWidth 32).toNat → nothing s .exitHeadWrite)) ∧
    (∀ p q ws, tabFind s.fly.posts e.id = some p → p.act = .launch q ws → tabFind (s.sys.ctx p.ctx).queues q = some v →
      (s.sys.pstate.extractLsb' 0 3).toNat < 2 → createRecord ws → ((s.sys.ctx p.ctx).kernel v.ident).any (·.st == .retiring) = false → headKept s.sys p.ctx v v.buf →
      gives s .launchAppend fun t => t.greg = s.greg ∧ t.fly.posts = tabDel s.fly.posts e.id ∧
        tabFind (t.sys.ctx p.ctx).queues q = some { v with buf := v.buf ++ [ws], resv := v.resv - 1 })

/-- R93, R107, R110, R111, R236, R394: at the end of its cycle the head record of a queue starts: a create record makes a thread in the lowest free frame, with the registers of the record, which
enters its block in the next cycle; an inject record delivers its token to the block where it stands. SPAWN's frame becomes a thread in the same way. In a C
state the records that LAUNCH and SPAWN send wait for the wake (R364). -/
def Obligations.RecordStartEvents : Prop :=
  ∀ (s : State) (v : Queue) (r : List Word) (rest : List (List Word)), formOk s →
    let e := s.fly.ev
    let x := e.ctx
    (e.part = 0 → tabFind (s.sys.ctx x).queues e.id = some v → v.buf = r :: rest → firstToStart s v → headKept s.sys x v rest →
      (createRecord r → ∀ k < 1020, s.frameFree v.clu k = true → (∀ j < k, s.frameFree v.clu j = false) → gives s .recordStart fun t =>
        (t.sys.thr v.clu k).st = .waiting ∧ (t.sys.thr v.clu k).ctx = x ∧ (t.sys.thr v.clu k).colour = v.colour ∧
        (t.sys.thr v.clu k).next = ((r.headD 0).extractLsb' 0 52).toNat ∧ (t.sys.thr v.clu k).queue = some e.id ∧
        (∀ n, 1 ≤ n → n ≤ 7 → r.length = 8 → t.reg v.clu k n = r.getD n 0) ∧
        (∃ v', tabFind (t.sys.ctx x).queues e.id = some v' ∧ v'.buf = rest ∧ v'.live = v.live + 1 ∧ v'.next = s.sys.now + 2) ∧
        soon t (s.sys.now + 1) .recordStart { clu := v.clu, frm := k, part := 1 }) ∧
      (recKind r = 1 → ∀ g n, startCode s.sys x v r = none → s.sys.residentAt v.clu x (recBlock r) = some (g, n) → gives s .recordStart fun t =>
        t.greg = s.greg ∧ soon t s.sys.now .tokenArrival
          { clu := v.clu, reg := g, frm := n, tok := injectTok v.colour r,
            dest := { clu := v.clu, reg := g, frm := n, idx := recIdx r, pos := posOfCode (recPos r) } })) ∧
    (e.part = 2 → tabFind (s.sys.ctx x).queues e.id = some v → v.buf = r :: rest → injectLost s.sys x v r = false → mayStart s x v r = true →
      exec .recordStart s = .next (s.sched s.sys.now .recordStart { ctx := x, id := e.id, part := 0 })) ∧
    (e.part = 1 → (s.sys.thr e.clu e.frm).st = .waiting → ∀ g n, mayEnter s e.clu e.frm g n → gives s .recordStart fun t =>
      t.greg = s.greg ∧ runsBlock t e.clu e.frm g n (s.sys.thr e.clu e.frm).next) ∧
    (∀ p frm addr g1 g2 g3, tabFind s.fly.posts e.id = some p → p.act = .spawn frm addr g1 g2 g3 → (s.sys.pstate.extractLsb' 0 3).toNat < 2 → gives s .spawnCreate fun t =>
      (t.sys.thr p.clu frm).st = .waiting ∧ (t.sys.thr p.clu frm).ctx = p.ctx ∧ (t.sys.thr p.clu frm).colour = p.colour ∧ (t.sys.thr p.clu frm).next = addr ∧
      t.reg p.clu frm 1 = g1 ∧ t.reg p.clu frm 2 = g2 ∧ t.reg p.clu frm 3 = g3 ∧ t.fly.posts = tabDel s.fly.posts e.id ∧
      soon t (s.sys.now + 1) .recordStart { clu := p.clu, frm := frm, part := 1 })

/-- R89 to R91, R101 to R103, R215: a reload decision loads the one block that waits into an EMPTY frame, which takes 32 cycles and one for each instruction, longer only behind what is on its way to the same home slices (R14, R190); a block
whose words may be fetched and pass the check becomes RESIDENT with its words and expected positions; one that does not pass becomes invalid; one whose
region still has stores of its last block outstanding waits another cycle; one on an ABSENT page waits under a ticket (R163; log entry 44). -/
def Obligations.SchedulerEvents : Prop :=
  ∀ s : State, formOk s →
    let e := s.fly.ev
    let c := e.clu
    (∀ w : Wait, (s.sys.clu c).table = [w] → (s.sys.clu c).overflow = [] → w.who ≠ [] → ((s.sys.ctx w.ctx).kernelOf w.blk).isSome = true →
      s.sys.present c w.ctx w.blk = false → (s.sys.clu c).decided ≠ s.sys.now + 1 → (∀ o ∈ s.fly.agenda, ∀ a, o.act = .ev .reloadDecision a → a.clu ≠ c) →
      ∀ n < 64, (s.sys.frame c (n / 4) (n % 4)).st = .empty → (∀ m < n, (s.sys.frame c (m / 4) (m % 4)).st ≠ .empty) → gives s .reloadDecision fun t =>
        let f := t.sys.frame c (n / 4) (n % 4)
        f.st = .loading ∧ f.blk = w.blk ∧ f.ctx = w.ctx ∧ t.greg = s.greg ∧
        ∀ q h, (s.sys.ctx w.ctx).kernelOf w.blk = some q → fetchVirt s.sys s.mem w.ctx q.ident w.blk = some h →
          let at_ := s.sys.now + 32 + (h.extractLsb' 49 7).toNat
          ∃ due ≥ at_, soon t due .frameLoadComplete { clu := c, reg := n / 4, frm := n % 4 } ∧
            ((∀ o ∈ s.fly.agenda, ∀ i a, o.act = .ev i a → a.clu ≠ c) → due = at_)) ∧
    (let f := s.sys.frame c e.reg e.frm
     f.st = .loading → e.frm < 4 → e.reg < 16 →
      (oldStores s c e.reg e.frm = true → putOff s .frameLoadComplete (s.sys.now + 1)) ∧
      (oldStores s c e.reg e.frm = false →
        (∀ b k, fetchStop s.sys s.mem f.ctx f.ident f.blk = some (b, .absent k) → gives s .frameLoadComplete fun t =>
          (t.sys.frame c e.reg e.frm).st = .loading ∧ t.greg = s.greg ∧ t.fly = s.fly ∧
          ∃ n v, tabFind t.sys.tickets n = some v ∧ v.ctx = f.ctx ∧ v.clu = c ∧ v.reg = e.reg ∧ v.page = b / 65536) ∧
        ((∀ d < 128, (s.sys.clu d).table = [] ∧ (s.sys.clu d).overflow = []) →
         ∀ q h, (s.sys.ctx f.ctx).kernel f.ident = some q → q.st = .ready → fetchVirt s.sys s.mem f.ctx f.ident f.blk = some h →
          let inj := (q.injects.filter fun j => j.1 == f.blk).map fun j => j.2
          ∀ ws u, fetchBlock s f.ctx f.ident f.blk = .ok (ws, u) →
            fetchWords s.sys s.mem f.ctx f.ident f.blk ((h.extractLsb' 49 7).toNat + 2) = some ws ∧
            (blockCheck f.blk ws inj = none → gives s .frameLoadComplete fun t =>
              let g := t.sys.frame c e.reg e.frm
              g.st = .resident ∧ g.blk = f.blk ∧ g.words = ws ∧ g.expect = expectOf (ws.drop 2) inj ∧ t.greg = s.greg) ∧
            (∀ info, blockCheck f.blk ws inj = some info → gives s .frameLoadComplete fun t =>
              (t.sys.frame c e.reg e.frm).st = .empty ∧ t.greg = s.greg ∧
              ∃ q', (t.sys.ctx f.ctx).kernel f.ident = some q' ∧ ∀ b ∈ q'.blocks, b.addr = f.blk → b.bad = some info))))

/-! ### Device events: tokens, control tokens, commits, traps (R26 to R45, R60, R95 to R100, R126, R345, R346, R395) -/

namespace Sys2Proof.Claims

/-- A token of a live instance may be taken in (R28, R35): its instance is live in the block it is bound for, its tag was not aborted, and its colour has a valid
entry there that admits the block's class. -/
def welcome (s : State) (e : Ev) (i : Inst) : Prop :=
  let b := s.sys.frame e.clu e.dest.reg e.dest.frm
  s.fly.inst e.clu e.tok.frame = some i ∧ i.reg = e.dest.reg ∧ i.frm = e.dest.frm ∧ i.colour = e.tok.colour ∧ (e.ent = none ∨ e.ent = some i.ser) ∧
  (s.sys.thr e.clu e.tok.frame).aborted = [] ∧
  (∃ n, s.sys.centOf e.clu e.tok.colour = some n ∧ (s.sys.cent e.clu n).w0.getLsbD (36 + b.cls) = true) ∧
  (e.dest.pos = .right → e.tok.vec = true → scalarRight (((b.word e.dest.idx).extractLsb' 56 8).toNat) = false)

/-- A position in the coding of expected sets. -/
def posBit : Pos → Nat
  | .left => 1 | .right => 2 | .pred => 4

/-- An effect that a commit performs at once and wholly in its cluster, or hands on as an event: an MTS, a lane operation, a LAUNCH. -/
def plainEff : Eff → Bool
  | .mts .. | .lane .. | .launch .. => true
  | _ => false

/-- A commit of an instance with no accesses and no transfers whose effects are plain ones. -/
def plainInst (s : State) (i : Inst) : Prop :=
  (∀ n ∈ i.effs, plainEff n.e = true) ∧ i.copies = [] ∧ i.sends = 0 ∧ s.fly.accs = []

/-- What an effect makes of lane `l`. -/
def laneAfter (l : Nat) (v : Lane) (n : EffAt) : Lane :=
  match n.e with
  | .lane j o => if j = l then { v with val := o.apply v.val } else v
  | _ => v

/-- The lanes that an instance reserved or works on are lanes of the cluster. -/
def lanesIn (i : Inst) : Prop := (∀ l ∈ i.lanes, l < 4096) ∧ ∀ n ∈ i.effs, ∀ l o, n.e = .lane l o → l < 4096

/-- The effects of an instance are one record for exit port `p`, and no other commit of its context is under way (R113). -/
def soleRecord (s : State) (i : Inst) (p : Nat) (tok : Token) : Prop :=
  (∃ m x, i.effs = [{ idx := m, index := x, e := .emit p tok }]) ∧ i.copies = [] ∧ i.sends = 0 ∧ s.fly.accs = [] ∧
  ∀ d ∈ s.fly.commits, d.2.ser ≠ i.ser → d.2.ctx ≠ i.ctx

/-- A firing `g` is one of instruction `d.idx` that token `e.tok` may complete, under its thread (R30). -/
def sameFiring (e : Ev) (g : Firing) : Prop :=
  g.clu = e.clu ∧ g.frame = e.tok.frame ∧ g.idx = e.dest.idx ∧ g.reg = e.dest.reg ∧ g.frm = e.dest.frm

/-- The first page of a park area's bytes that does not translate, and why. -/
def parkBars (s : State) (x colour ident va n : Nat) : Option (Nat × XRes) :=
  firstBad s.sys s.mem x colour ident { w := true, writes := true } (pagesOf va n)

/-- The lines of a range are held under their keys, none in host memory, and none performed in this cycle. -/
def linesReady (s : State) (x colour va n : Nat) (w : Bool) : Prop := ∀ q ∈ linesOf s.sys s.mem x colour va n w, lineReady s q.line q.key

/-- A context other than 0 that runs. -/
def runningCtx (y : Sys) (x : Nat) : Prop := x ≠ 0 ∧ (y.ctx x).st = .running

end Sys2Proof.Claims

/-- R26, R28, R40, R95, R345: a token whose instruction expects its position alone completes it, and the firing issues two cycles later (three where it converts an operand; behind a
like firing under its tag); a token whose partner is missing waits, and takes an entry at the end of its cycle while its colour's reserve has one; the entries that a firing frees are free in the cycle after. At the commit unit a register's first token is its value and
an exit's first token the exit; a second one raises ILLOP 0x02 or 0x01. COMB's partials hold one entry each (R323). A token of an instance that is gone is dropped. A division waits while the divider of its PE is held (R224; log entry 13), so that the first clause is of a cycle in
which none is held. -/
def Obligations.TokenEvents : Prop :=
  ∀ s : State, formOk s →
    let e := s.fly.ev
    let g := s.sys.region e.clu e.dest.reg
    let b := s.sys.frame e.clu e.dest.reg e.dest.frm
    (∀ i, e.part = 0 → welcome s e i → g.entries = [] → g.holds = [] → g.arrived = [] →
      (∀ w ∈ s.fly.agenda, ∀ a, w.act = .ev .tokenArrival a → a.part ≠ 10) →
      (b.expect.getD e.dest.idx 0 = posBit e.dest.pos → gives s .tokenArrival fun t => t.greg = s.greg ∧
        ∃ f : Firing, ∃ due, s.sys.now + 2 ≤ due ∧ { due := due, act := .fire f } ∈ t.fly.agenda ∧ f.clu = e.clu ∧
          ((∀ w ∈ s.fly.agenda, ∀ g, w.act = .fire g → ¬ sameFiring e g) → due ≤ s.sys.now + 3) ∧
          (∀ w ∈ s.fly.agenda, ∀ g, w.act = .fire g → sameFiring e g → g.index = e.tok.index → w.due < due) ∧
          f.idx = e.dest.idx ∧ f.colour = e.tok.colour ∧ f.frame = e.tok.frame ∧ f.index = e.tok.index ∧ f.ser = i.ser ∧
          ((e.dest.pos = .left → f.left.isSome = true ∧ f.right = none ∧ f.pred = none) ∧
           (e.dest.pos = .right → f.right.isSome = true ∧ f.left = none ∧ f.pred = none) ∧
           (e.dest.pos = .pred → f.pred.isSome = true ∧ f.left = none ∧ f.right = none))) ∧
      ((∃ p, p ≠ e.dest.pos ∧ p ∈ positions (b.expect.getD e.dest.idx 0)) → gives s .tokenArrival fun t => t.greg = s.greg ∧
        (t.sys.region e.clu e.dest.reg).arrived = [{ dest := e.dest, ent := e.ent, tok := e.tok, first := s.sys.now }] ∧
        ∃ w ∈ t.fly.agenda, ∃ a, w.act = .ev .tokenArrival a ∧ a.part = 9 ∧ a.clu = e.clu ∧ a.reg = e.dest.reg) ∧
      ((∃ p, p ≠ e.dest.pos ∧ p ∈ positions (b.expect.getD e.dest.idx 0)) →
        (∀ w ∈ s.fly.agenda, ∀ a, w.act = .ev .tokenArrival a → a.part ≠ 9) →
        exec .tokenArrival s = .next (State.sched
          { s with sys := s.sys.setRegion e.clu e.dest.reg { g with arrived := [{ dest := e.dest, ent := e.ent, tok := e.tok, first := s.sys.now }] } }
          s.sys.now .tokenArrival { clu := e.clu, reg := e.dest.reg, part := 9 }))) ∧
    (∀ a n, e.part = 9 → (s.sys.region e.clu e.reg).arrived = [a] → (s.sys.region e.clu e.reg).entries = [] → (s.sys.region e.clu e.reg).holds = [] →
      (s.sys.region e.clu e.reg).partials = [] → (s.sys.region e.clu e.reg).freeing = [] → s.sys.parked e.clu a.tok.colour = false → s.sys.centOf e.clu a.tok.colour = some n → 0 < (s.sys.cent e.clu n).reserve →
      gives s .tokenArrival fun t => t.greg = s.greg ∧ (t.sys.region e.clu e.reg).entries = [a] ∧ (t.sys.region e.clu e.reg).arrived = []) ∧
    (e.part = 7 → gives s .tokenArrival fun t => t.greg = s.greg ∧ (t.sys.region e.clu e.reg).freeing = [] ∧
      (t.sys.region e.clu e.reg).entries = (s.sys.region e.clu e.reg).entries) ∧
    (e.part = 8 → gives s .tokenArrival fun t => t.greg = s.greg ∧ (t.sys.region e.clu e.reg).entries = (s.sys.region e.clu e.reg).entries ∧
      ∀ p, p ∈ (t.sys.region e.clu e.reg).partials ↔ (p ∈ (s.sys.region e.clu e.reg).partials ∧ p.2.1 ≠ e.frm) ∨
        ∃ i, s.fly.inst e.clu e.frm = some i ∧ i.reg = e.reg ∧ ∃ q ∈ i.combs, p = (i.colour, e.frm, q.idx)) ∧
    (∀ i, s.fly.inst e.clu e.tok.frame = some i → e.ent = some i.ser →
      (e.part = 1 → e.tok.vec = false → (∀ w ∈ i.writes, w.1 ≠ e.col) → gives s .tokenArrival fun t => t.sys = s.sys ∧ t.greg = s.greg ∧
        ∃ i', t.fly.inst e.clu e.tok.frame = some i' ∧ i'.writes = i.writes ++ [(e.col, some (e.tok.data.setWidth 64))] ∧ i'.exit = i.exit) ∧
      (e.part = 1 → e.tok.vec = false → (∃ w ∈ i.writes, w.1 = e.col) →
        exec .tokenArrival s = .next (raiseTrap s e.clu e.tok.frame e.id (misuse 1 0x02 e.tok.index))) ∧
      (e.part = 2 → i.exit = none → e.col = 0 → gives s .tokenArrival fun t => t.sys = s.sys ∧ t.greg = s.greg ∧
        ∃ i', t.fly.inst e.clu e.tok.frame = some i' ∧ i'.exit = some (.goto e.word.toNat) ∧ i'.writes = i.writes) ∧
      (e.part = 2 → i.exit.isSome = true → exec .tokenArrival s = .next (raiseTrap s e.clu e.tok.frame e.id (misuse 1 0x01 e.tok.index)))) ∧
    (∀ n, 1 ≤ e.part → e.part ≤ 5 → s.fly.inst e.clu e.tok.frame = none → e.ent = some n → nothing s .tokenArrival)

/-- R29, R40, R42, R44: a held token whose colour has an entry left in its reserve takes it; while a region is below its low-water mark the colour of its oldest aged token is parked and its records
sent in order to their home slice, where each is written when its lines can be had; a retry or a resumption with no record left ends the parking, and a record that cannot be read keeps it, with the timer running again; the oldest control
entry of a region is acted on: a drain marker at its cluster, a signal at the ring stop or the block scheduler, in that cycle. -/
def Obligations.StoreEvents : Prop :=
  ∀ s : State, formOk s →
    let e := s.fly.ev
    let g := s.sys.region e.clu e.reg
    (∀ a n, g.holds = [a] → g.entries = [] → g.arrived = [] → g.partials = [] → g.freeing = [] → s.fly.inst e.clu a.tok.frame = none → s.sys.centOf e.clu a.tok.colour = some n →
      0 < (s.sys.cent e.clu n).reserve → gives s .holdQueueAdmit fun t => t.greg = s.greg ∧ (t.sys.region e.clu e.reg).entries = [a] ∧
        (t.sys.region e.clu e.reg).holds = []) ∧
    (∀ a n, e.part = 0 → g.entries = [a] → g.holds = [] → a.ent = none → e.reg < 16 → (∀ r < 16, r ≠ e.reg → s.sys.region e.clu r = Region.reset) →
      s.sys.freeShared e.clu e.reg < ((s.sys.clu e.clu).mscfg.extractLsb' 16 9).toNat → s.sys.centOf e.clu a.tok.colour = some n → s.sys.park e.clu a.tok.colour = Park.reset →
      parkBuffered s.sys e.clu e.reg = 0 →
      let bad := parkBars s (s.sys.ctxOf e.clu) a.tok.colour (s.sys.thr e.clu a.tok.frame).ident (s.sys.cent e.clu n).parkBase (64 * (1 + contOf a.tok))
      (bad = none ∨ ∃ b k, bad = some (b, .absent k)) →
      a.first + (s.sys.cent e.clu n).parkAge < s.sys.now → (1 + contOf a.tok) * 64 ≤ (s.sys.cent e.clu n).parkSize → contOf a.tok ≤ 3 →
      gives s .parking fun t => t.greg = s.greg ∧ (t.sys.park e.clu a.tok.colour).on = true ∧ (t.sys.park e.clu a.tok.colour).recs = [(0, a)] ∧
        (t.sys.park e.clu a.tok.colour).pending = [(0, 0, a)] ∧ (t.sys.region e.clu e.reg).entries = [] ∧
        (bad = none → ∃ due ≥ s.sys.now + 13, ∃ z, soon t due .parking (parkEvent e.clu e.reg z a.tok.colour 0 false))) ∧
    (let p := s.sys.park e.clu e.frm
     let x := s.sys.ctxOf e.clu
     ∀ q n, e.part = 1 → e.frm < 4096 → p.pending.find? (·.1 == e.id) = some q → p.injecting = false → s.sys.centOf e.clu e.frm = some n →
      let va := (s.sys.cent e.clu n).parkBase + 64 * e.id
      let bs := parkBytes q.2.2 q.2.1
      parkBars s x e.frm (s.sys.thr e.clu q.2.2.tok.frame).ident va bs.length = none → linesReady s x e.frm va bs.length true →
      ∃ t, exec .parking s = .next t ∧ t.greg = s.greg ∧ t.mem = (putVirt s x e.frm (s.sys.thr e.clu q.2.2.tok.frame).ident va bs).mem ∧
        (t.sys.park e.clu e.frm).pending = p.pending.filter (·.1 != e.id) ∧ (t.sys.park e.clu e.frm).recs = p.recs) ∧
    (e.part = 0 → s.sys.freeShared e.clu e.reg ≥ ((s.sys.clu e.clu).mscfg.extractLsb' 16 9).toNat → nothing s .parking) ∧
    (let p := s.sys.park e.clu e.col
     p.on = true → e.col < 4096 → s.sys.stopped e.clu (s.sys.ctxOf e.clu) e.col = false →
      (p.recs = [] → (∃ d, p.retryAt = some d ∧ d ≤ s.sys.now) → s.sys.power < 2 →
        gives s .retryTimerExpiry fun t => t.greg = s.greg ∧ (t.sys.park e.clu e.col).on = false) ∧
      (p.recs = [] → p.injecting = true → gives s .reInjectionResume fun t => t.greg = s.greg ∧ (t.sys.park e.clu e.col).on = false) ∧
      (∀ q rest d n, p.recs = q :: rest → p.retryAt = some d → d ≤ s.sys.now → s.sys.power < 2 → s.sys.centOf e.clu e.col = some n →
        0 < (s.sys.cent e.clu n).retry →
        readVirt s.sys s.mem (s.sys.ctxOf e.clu) e.col ((s.sys.cent e.clu n).parkBase + q.1 * 64) (64 * (1 + contOf q.2.tok)) = none →
        gives s .retryTimerExpiry fun t => t.greg = s.greg ∧ (t.sys.park e.clu e.col).on = true ∧ (t.sys.park e.clu e.col).recs = p.recs ∧
          (t.sys.park e.clu e.col).injecting = true ∧
          soon t (s.sys.now + (s.sys.cent e.clu n).retry) .retryTimerExpiry { clu := e.clu, col := e.col })) ∧
    (∀ m rest, g.ctrl = m :: rest → gives s .controlTokenDelivery fun t => t.greg = s.greg ∧
      (t.sys.region e.clu e.reg).ctrl = rest ++ (g.ctrlWait.take 1).map Prod.fst ∧ (t.sys.region e.clu e.reg).ctrlWait = g.ctrlWait.drop 1 ∧
      (∀ x col, m = .marker x col → soon t s.sys.now .drainMarkerArrival { clu := e.clu, ctx := x, col := col.getD 0, p := col.isSome }) ∧
      (m = .stopDone → soon t s.sys.now .stopCompletion { clu := e.clu }) ∧
      (∀ x n, m = .kernelDone x n → soon t s.sys.now .completionToken { ctx := x, clu := e.clu, id := n }))

/-- R60, R95, R96, R112, R113, R126, R234, R272, R281, R282, R325, R328: a commit whose instance finds no room is looked at again; one that is decided leaves the live instances, takes effect two cycles after its last obligation and
lets the thread go on one cycle later. With its effect every register written holds its value and no other changes, a CALL pushes and a RET pops the return stack, `%dphase` advances, its open accumulators become
committed state, the lanes it reserved are ALLOCATED and each lane holds what its operations make of it in instruction order, every MTS is done and every LAUNCH sends its record in that
cycle. An instance with no stores writes its exit record at the port's TAIL as it leaves, with TAIL's word, and TAIL advances. The thread then enters the block its exit named (after a TRET, the one at `%tblk`, outside the handler). A BARI takes
effect on its barrier after the arrivals of the cycle; a BARI.free that meets one takes BARRIER 0x21 at the next block entry (R128). -/
def Obligations.CommitEvents : Prop :=
  ∀ (s : State) (i : Inst), formOk s →
    let e := s.fly.ev
    let c := e.clu
    let k := e.frm
    (e.part = 0 → s.fly.inst c k = some i → i.ser = e.id → i.committing = true →
      (roomOk s e i = false → putOff s .commit (s.sys.now + 1)) ∧
      (roomOk s e i = true → i.msends.length ≤ i.sends → gives s .commit fun t => t.greg = s.greg ∧ t.fly.inst c k = none ∧
        tabFind t.fly.commits (c * 1024 + k) = some i ∧ soon t s.sys.now .commit { e with part := 2 })) ∧
    (k < 1024 → tabFind s.fly.commits (c * 1024 + k) = some i → i.ser = e.id → plainInst s i →
      (∀ a, e.part = 2 → i.exit = some (.goto a) → a ≠ 0 → gives s .commit fun t => t.greg = s.greg ∧ (t.sys.thr c k).next = a ∧
        soon t (s.sys.now + 1) .commit { clu := c, frm := k, id := i.ser, part := 3, word := BitVec.ofNat 64 (s.sys.thr c k).serial } ∧
        soon t (s.sys.now + 2) .commit { clu := c, frm := k, id := i.ser, part := 1, word := BitVec.ofNat 64 (s.sys.thr c k).serial }) ∧
      (e.part = 3 → e.q = false → (s.sys.thr c k).serial = e.word.toNat → gives s .commit fun t => tabFind t.fly.commits (c * 1024 + k) = none ∧
        ((i.writes.map Prod.fst).Nodup → ∀ n v, (n, some v) ∈ i.writes → n ≠ 0 → t.reg c k n = v) ∧
        (∀ m, (∀ w ∈ i.writes, w.1 = m → w.2 = none) → t.reg c k m = s.reg c k m) ∧
        (t.sys.thr c k).dphase = (s.sys.thr c k).dphase + BitVec.ofNat 5 i.dstep ∧
        ((i.opens.map Prod.fst).Nodup → (∀ o ∈ i.opens, o.1 < 192) → (∀ o ∈ i.opens, t.sys.pacc c o.1 = o.2) ∧
          ∀ p < 192, (∀ o ∈ i.opens, o.1 ≠ p) → t.sys.pacc c p = s.sys.pacc c p) ∧
        (lanesIn i → ∀ l < 4096, t.sys.lane c l = (sortEffs i.effs).foldl (laneAfter l)
          (if l ∈ i.lanes then { alloc := true, colour := i.colour, val := 0 } else s.sys.lane c l)) ∧
        (∀ n ∈ i.effs, ∀ r v, n.e = .mts r v →
          (i.ctx = 0 → r = 0x04A → soon t s.sys.now .ctentWrite { word := v }) ∧
          (i.ctx = 0 → r = 0x045 → soon t s.sys.now .pfdoneWrite { id := (v.extractLsb' 0 32).toNat }) ∧
          (i.ctx ≠ 0 → r = 0x01A → v.getLsbD 0 = true → soon t s.sys.now .wdogKick { ctx := i.ctx }) ∧
          (r ≠ 0x04A → r ≠ 0x045 → r ≠ 0x01A →
            soon t s.sys.now .registerWrite { ctx := i.ctx, clu := c, frm := k, id := r, p := i.ctx == 0, word := v })) ∧
        (∀ n ∈ i.effs, ∀ q ws, n.e = .launch q ws → ∃ p id, tabFind t.fly.posts id = some p ∧ p.ctx = i.ctx ∧ p.act = .launch q ws ∧
          soon t s.sys.now .launchAppend { id := id }) ∧
        (∀ c' k' m, k' < 1024 → (c', k') ≠ (c, k) → t.reg c' k' m = s.reg c' k' m) ∧
        (∀ a r, i.exit = some (.call a r) → (t.sys.thr c k).stack = r % 2 ^ 52 :: (s.sys.thr c k).stack) ∧
        (∀ a, i.exit = some (.ret a) → (t.sys.thr c k).stack = (s.sys.thr c k).stack.tail))) ∧
    (∀ p tok v a, k < 1024 → tabFind s.fly.commits (c * 1024 + k) = some i → i.ser = e.id → soleRecord s i p tok → e.part = 2 → i.exit = some (.goto a) → a ≠ 0 →
      (s.sys.ctx i.ctx).port p = some v → v.late = [] →
      let va := (v.base + v.tail.toNat % v.size * 64) % vaMod
      parkBars s i.ctx v.colour v.ident va 64 = none → linesReady s i.ctx v.colour va 64 true →
      ∃ t, exec .commit s = .next t ∧ t.greg = s.greg ∧ t.mem = (putVirt s i.ctx v.colour v.ident va (exitRecord s.sys.now v.tail tok)).mem ∧
        (t.sys.ctx i.ctx).port p = some { v with tail := v.tail + 1, claimed := v.claimed - 1 }) ∧
    (e.part = 1 → (s.sys.thr c k).serial = e.word.toNat → (s.sys.thr c k).st = .active → s.fly.inst c k = none → (s.sys.thr c k).held = false → (s.sys.thr c k).baraw = none →
      ∀ r n, (e.p = false → mayEnter s c k r n → gives s .commit fun t => t.greg = s.greg ∧ runsBlock t c k r n (s.sys.thr c k).next) ∧
        (e.p = true → ∀ s', s' = { s with sys := s.sys.setThr c k { s.sys.thr c k with next := ((s.sys.thr c k).tblk.extractLsb' 0 52).toNat, handler := false } } →
          mayEnter s' c k r n → gives s .commit fun t => t.greg = s.greg ∧ (t.sys.thr c k).handler = false ∧
            runsBlock t c k r n ((s.sys.thr c k).tblk.extractLsb' 0 52).toNat)) ∧
    (let v := s.sys.bar c e.id
     (e.part = 5 → bariCheck s c e.ctx e.col (.bariCnt e.id e.reg) = none →
       onlySys s .commit (s.sys.setBar c e.id { v with mode := .count, colour := e.col, expect := e.reg, arrived := 0 })) ∧
     (e.part = 6 → bariCheck s c e.ctx e.col (.bariGrp e.id e.reg) = none → s.sys.lc c e.reg = 0 → gives s .commit fun t => t.greg = s.greg ∧ t.fly = s.fly ∧
       (t.sys.bar c e.id).mode = .group ∧ (t.sys.bar c e.id).colour = e.col ∧ (t.sys.bar c e.id).group = e.reg ∧ (t.sys.bar c e.id).begun = false) ∧
     (e.part = 6 → bariCheck s c e.ctx e.col (.bariGrp e.id e.reg) = none → s.sys.lc c e.reg ≠ 0 → gives s .commit fun t => t.greg = s.greg ∧ t.fly = s.fly ∧
       (t.sys.bar c e.id).mode = .group ∧ (t.sys.bar c e.id).begun = true ∧ (t.sys.bar c e.id).expect = s.sys.lc c e.reg ∧
       (t.sys.bar c e.id).arrived = v.early) ∧
     (e.part = 7 → bariCheck s c e.ctx e.col (.bariFree e.id) = none → v.mode ≠ .free → v.hit ≠ s.sys.now + 1 →
       onlySys s .commit (s.sys.setBar c e.id { Bar.reset with seq := v.seq })) ∧
     (e.part = 7 → v.mode ≠ .free → v.colour = e.col → v.hit = s.sys.now + 1 → e.q = false → (s.sys.thr c k).serial = e.word.toNat →
       exec .commit s = .next (deferTrap s c k e.ent (misuse 13 0x21 0))))

/-- R98, R180, R345, R346, R395: an instance live for `%stall` cycles, those asleep in WAITT not counted, takes STALL, and not before; a trap that has been taken reads the vector of its
cause through its port tile, where a miss of the range cache or leaf cache takes its 18 or 72 cycles first (R161; log entry 32, the model's reading), and the entry is back nine cycles
after the read (R395; log entry 12, the model's reading of the path); then the thread enters its handler, or, where the table is not in use or names none, its context faults with FCAUSE 2. -/
def Obligations.StallAndHandlerEvents : Prop :=
  ∀ s : State, formOk s →
    let e := s.fly.ev
    (∀ i, s.fly.inst e.clu e.frm = some i → i.ser = e.id → (∀ v ∈ s.fly.sleeps, v.2.f.ser ≠ i.ser) →
      let due := i.start + (s.sys.ctx i.ctx).stall.toNat + i.asleep
      (s.sys.now < due → putOff s .stallExpiry due) ∧
      (due ≤ s.sys.now → exec .stallExpiry s = .next (raiseTrap s e.clu e.frm 128
        { cause := 11, contained := false, index := 0, info := (s.sys.ctx i.ctx).stall.setWidth 64, va := 0 }))) ∧
    (∀ r blk, let h := s.sys.thr e.clu e.frm
      h.pend = some (r, blk) → e.part ≠ 4 → e.part ≠ 5 → h.st = .active → s.fly.inst e.clu e.frm = none → s.sys.draining e.clu h = false →
      (s.sys.ctx h.ctx).st = .running →
      let back (a : Option Nat) : Ev := { e with part := 6, p := a.isSome, col := a.getD 0 }
      let va := ((s.sys.ctx h.ctx).cxvec.extractLsb' 8 44).toNat * 256 + 8 * r.cause
      let page := va / 65536
      let hits := (s.sys.portT e.clu e.reg).hits h.ctx h.colour page
      let leaf (q : Range) : Prop := ∃ z ∈ (s.sys.portT e.clu e.reg).leaves, z.1 = h.ctx ∧ z.2.1 = (if q.common then 4096 else h.colour) ∧ z.2.2.1 = page
      (e.part ≠ 6 →
        ((s.sys.ctx h.ctx).cxvec.getLsbD 0 = false ∨ rangesOf s.sys s.mem h.ctx h.colour page = [] → gives s .handlerEntry fun t =>
          t.sys = s.sys ∧ t.greg = s.greg ∧ soon t (s.sys.now + 9) .handlerEntry (back none)) ∧
        ((s.sys.ctx h.ctx).cxvec.getLsbD 0 = true → rangesOf s.sys s.mem h.ctx h.colour page ≠ [] →
          (hits = [] → e.part ≠ 1 → gives s .handlerEntry fun t => t.sys = s.sys ∧ t.greg = s.greg ∧
            ∃ due ≥ s.sys.now + 18, soon t due .handlerEntry { e with part := 1 }) ∧
          (∀ q l, hits = q :: l → q.paged = true → ¬ leaf q → e.part ≠ 2 → gives s .handlerEntry fun t => t.sys = s.sys ∧ t.greg = s.greg ∧
            ∃ due ≥ s.sys.now + 72, soon t due .handlerEntry { e with part := 2 }) ∧
          (∀ q l, hits = q :: l → (q.paged = true → leaf q) →
            (vectorEntry s h.ctx h.colour h.ident r.cause = none → gives s .handlerEntry fun t =>
              t.sys = s.sys ∧ t.greg = s.greg ∧ soon t (s.sys.now + 9) .handlerEntry (back none)) ∧
            (∀ a, vectorEntry s h.ctx h.colour h.ident r.cause = some a → linesReady s h.ctx h.colour va 8 false → gives s .handlerEntry fun t =>
              t.greg = s.greg ∧ soon t (s.sys.now + 9) .handlerEntry (back (some a)))))) ∧
      (e.part = 6 →
        (e.p = false → h.ctx ≠ 0 → gives s .handlerEntry fun t => (t.sys.ctx h.ctx).st = .faulted ∧ (t.sys.ctx h.ctx).fcause = 2) ∧
        (∀ s' g n, e.p = true → h.late = false →
          s' = { s with sys := s.sys.setThr e.clu e.frm { h with handler := true, pend := none, next := e.col } } → mayEnter s' e.clu e.frm g n →
          gives s .handlerEntry fun t => t.greg = s.greg ∧ (t.sys.thr e.clu e.frm).handler = true ∧ runsBlock t e.clu e.frm g n e.col)))

/-! ### Device events: home slices, banks, stitched tensors (R145 to R155, R174, R293, R303 to R320, R357, R358, R382, R383, R397) -/

namespace Sys2Proof.Claims

/-- Part `e.part` of an access, in the line `vl` of its addresses, lies in physical line `l` of device memory, which no CACHE bank of the cluster
serves. -/
def partAt (s : State) (a : Access) (x : Xlat) (vl l : Nat) : Prop :=
  s.fly.acc s.fly.ev.id = some a ∧ a.lines[s.fly.ev.part]? = some vl ∧ a.xlat (vl * 64) = some x ∧ l = (x.pa + vl * 64 % 65536) / 64 ∧ l < 2 ^ 33 ∧
  bankServes s.sys a l x = none

/-- The line is held under the access's key tag, and has performed nothing in this cycle. -/
def lineFree (s : State) (a : Access) (x : Xlat) (l : Nat) : Prop :=
  (s.sys.line l).held = some (a.tagAt s.sys l x) ∧ (s.sys.line l).last ≠ some s.sys.now

/-- The line has performed in this cycle, under its next sequence tag (R382): 1 follows 65,535. -/
def performed (s t : State) (l : Nat) : Prop :=
  (t.sys.line l).last = some s.sys.now ∧
  (t.sys.line l).tag.toNat = if (s.sys.line l).tag.toNat = 65535 then 1 else (s.sys.line l).tag.toNat + 1

/-- The access has one part more performed; after its last it is on its way back, eight cycles and more. -/
def partOver (s t : State) (a : Access) (Q : Access → Prop) : Prop :=
  ∃ b, t.fly.acc s.fly.ev.id = some b ∧ b.done = a.done + 1 ∧ Q b ∧
    (a.lines.length ≤ a.done + 1 → b.st = .performed ∧ ∃ d e, s.sys.now + 8 ≤ d ∧ soon t d .accessRetire e ∧ e.id = s.fly.ev.id ∧ e.part = 0) ∧
    (a.done + 1 < a.lines.length → b.st = .issued)

/-- The access answers a next state, of which `P` holds. -/
def reaches (s : State) (i : Instr) (P : State → Prop) : Prop := ∃ t, exec i s = .next t ∧ P t

/-- Memory is unchanged outside the bytes of `ps`. -/
def onlyBytes (s t : State) (ps : Nat → Prop) : Prop := ∀ p, ¬ ps p → readByte t.mem p = readByte s.mem p

/-- The access has read the bytes of the line. -/
def hasRead (s : State) (a b : Access) (vl : Nat) : Prop :=
  ∀ va ∈ a.inLine vl, ∀ p, a.pa va = some p → (va, readByte s.mem p) ∈ b.got

/-- The descriptor's line is that of the access's first address: in device memory, held under its key tag, with nothing performed in this cycle. -/
def atDesc (s : State) (a : Access) (l : Nat) : Prop :=
  s.fly.acc s.fly.ev.id = some a ∧ ∃ x, let va := (a.segs.headD (0, 0, 0)).1
    a.xlat va = some x ∧ l = (x.pa + va % 65536) / 64 ∧ l < 2 ^ 33 ∧ lineFree s a x l

/-- Each line that is asked for is held under its key, in device memory, and has performed nothing in this cycle. -/
def asksReady (s : State) (l : List Ask) : Prop := ∀ q ∈ l, lineReady s q.line q.key

end Sys2Proof.Claims

/-- R303, R311 to R317, R382, R383: an access whose line its home slice holds performs there, under the line's next sequence tag, and leaves every byte that it does not write:
a load reads its bytes; a store changes the bits that it writes and no others; an atomic writes its new value and reads the old one; STF sets its word full and serves the
readers parked on it; CLRF sets it empty; an LDE reads a full word, and parks on an empty one in the line's list of eight, or is refused for 256 cycles. A second perform of a line in one cycle
waits for the next. -/
def Obligations.AccessEvents : Prop :=
  ∀ (s : State) (a : Access) (x : Xlat) (vl l : Nat), formOk s → partAt s a x vl l →
    let e := s.fly.ev
    let pa := a.word.getD 0 * 8
    let v := s.sys.line l
    let empty := v.fe &&& BitVec.ofNat 8 (2 ^ (pa % 64 / 8)) = 0
    (lineFree s a x l → tabFind s.sys.descs l = none →
      (a.op = .ld → gives s .accessPerform fun t => t.greg = s.greg ∧ performed s t l ∧ partOver s t a fun b => hasRead s a b vl) ∧
      (a.op = .st → reaches s .accessPerform fun t => t.greg = s.greg ∧ performed s t l ∧ (t.sys.line l).fe = v.fe ∧ partOver s t a (fun _ => True) ∧
        onlyBytes s t (fun p => ∃ w ∈ a.wr, w.va / 64 = vl ∧ a.pa w.va = some p) ∧
        ∀ w ∈ a.wr, ∀ p, w.va / 64 = vl → a.pa w.va = some p → (a.wr.filter fun u => decide (u.va / 64 = vl) && decide (a.pa u.va = some p)) = [w] →
          readByte t.mem p = (readByte s.mem p &&& ~~~w.mask) ||| (w.val &&& w.mask)) ∧
      (∀ op va m, a.op = .atom op → a.segs = [(va, a.n, m)] → reaches s .accessPerform fun t => t.greg = s.greg ∧ performed s t l ∧ (t.sys.line l).fe = v.fe ∧
        let at_ := l * 64 + va % 64
        partOver s t a (fun b => hasRead s a b vl) ∧ onlyBytes s t (fun p => at_ ≤ p ∧ p < at_ + a.n) ∧
        readLE t.mem at_ a.n = atomNew op a.fmt a.n (readLE s.mem at_ a.n) a.a % 2 ^ (8 * a.n)) ∧
      (a.op = .stf → pa / 64 = l → reaches s .accessPerform fun t => t.greg = s.greg ∧ performed s t l ∧ partOver s t a (fun _ => True) ∧
        (t.sys.line l).fe = v.fe ||| BitVec.ofNat 8 (2 ^ (pa % 64 / 8)) ∧ onlyBytes s t (fun p => ∃ w ∈ a.wr, w.va / 64 = vl ∧ a.pa w.va = some p) ∧
        ∀ r b, r ∈ v.parked → r ≠ e.id → s.fly.acc r = some b → b.word = some (pa / 8) → r ∉ (t.sys.line l).parked ∧
          ∃ c, t.fly.acc r = some c ∧ c.st = .performed ∧ hasRead t b c ((b.segs.headD (0, 0, 0)).1 / 64)) ∧
      (a.op = .clrf → pa / 64 = l → gives s .accessPerform fun t => t.greg = s.greg ∧ performed s t l ∧ partOver s t a (fun _ => True) ∧
        (t.sys.line l).fe = v.fe &&& ~~~ BitVec.ofNat 8 (2 ^ (pa % 64 / 8)) ∧ (t.sys.line l).parked = v.parked)) ∧
    (lineFree s a x l → a.op = .lde →
      (¬ empty → gives s .accessPerform fun t => t.greg = s.greg ∧ performed s t l ∧ (t.sys.line l).fe = v.fe ∧
        partOver s t a fun b => hasRead s a b ((a.segs.headD (0, 0, 0)).1 / 64)) ∧
      (empty → a.dead = false → v.parked.length < 8 → gives s .accessPerform fun t => t.greg = s.greg ∧ (t.sys.line l).parked = v.parked ++ [e.id] ∧
        (t.sys.line l).tag = v.tag ∧ t.fly.acc e.id = some { a with st := .parked }) ∧
      (empty → a.dead = false → 8 ≤ v.parked.length → 4096 ≤ (tabGet [] s.sys.spill (a.slice e.part)).length →
        exec .accessPerform s = .next (s.sched (s.sys.now + 256) .ldeRetry { e with col := a.slice e.part }))) ∧
    (a.op ≠ .pref → v.last = some s.sys.now → exec .accessPerform s = .next (s.sched (s.sys.now + 1) .accessPerform { e with col := a.slice e.part, q := true }))

/-- R17, R18, R315, R357, R358: an access whose line its home slice does not hold under its key tag has the line written back and fetched; a fetch that passes its checks holds
the line under the access's key tag with its sequence tag 0, and one that fails (its ECC does, or the line is stored under another key tag or an older key) withholds the access and faults its context with FCAUSE 4. A withdrawal takes a parked
reader off its list; a refused LDE is sent again. That memory keeps plaintext with the tag and the key that a line is stored under, and that a line with none passes under any, is the
model's reading (log entry 27); whether a fetch passes its ECC is a free value (log entry 9). -/
def Sys2Proof.Claims.LineEvents : Prop :=
  ∀ (s : State) (a : Access) (x : Xlat) (vl l : Nat), formOk s →
    let e := s.fly.ev
    let v := s.sys.line l
    let k := a.tagAt s.sys l x
    let n := s.sys.fetches
    (partAt s a x vl l →
      (a.op ≠ .pref → v.held ≠ some k → v.last ≠ some s.sys.now → gives s .accessPerform fun t => t.greg = s.greg ∧ (t.sys.line l).held = none ∧
        (∀ h, v.held = some h → (t.sys.line l).ktag = some (s.sys.storedAs h)) ∧ ∃ d r, soon t d .lineFetch r ∧ r.id = e.id ∧ r.part = e.part ∧ r.ent = some l) ∧
      (v.held = none → (a.op = .ld ∨ a.op = .st ∨ a.op = .lde ∨ a.op = .stf ∨ a.op = .clrf ∨ ∃ o, a.op = .atom o) →
        (Config.eccOk n = true → (v.ktag = none ∨ v.ktag = some (s.sys.storedAs k)) → gives s .lineFetch fun t => t.greg = s.greg ∧ (t.sys.line l).held = some k ∧
          (t.sys.line l).tag = 0 ∧ (t.sys.line l).fe = v.fe ∧ ∃ r, soon t s.sys.now .accessPerform r ∧ r.id = e.id ∧ r.part = e.part) ∧
        ((Config.eccOk n = false ∨ ∃ h, v.ktag = some h ∧ h ≠ s.sys.storedAs k) → a.ctx ≠ 0 → (s.sys.ctx a.ctx).st = .running → gives s .lineFetch fun t =>
          (t.sys.ctx a.ctx).st = .faulted ∧ (t.sys.ctx a.ctx).fcause = 4))) ∧
    (s.fly.accs = [(e.id, a)] →
      (a.st = .parked → gives s .ldeWithdrawal fun t => t.greg = s.greg ∧ t.fly.accs = [] ∧ e.id ∉ (t.sys.line (a.word.getD 0 / 8)).parked ∧
        ∀ r, r ≠ e.id → (r ∈ (t.sys.line (a.word.getD 0 / 8)).parked ↔ r ∈ (s.sys.line (a.word.getD 0 / 8)).parked)) ∧
      (a.st ≠ .parked → nothing s .ldeWithdrawal) ∧
      (a.dead = false → ∃ due ≥ s.sys.now + 10, exec .ldeRetry s = .next (s.sched due .accessPerform { e with clu := a.clu, col := a.slice 0, q := false })))

/-- R48, R190, R303, R306, R307, R320, R383, R396, R397: the response of a scalar load yields its value, extended from its memory layout, under the tag of its address token: the token leaves the port in the next cycle, and the port
retires the access, whose sequence tag is then `%seqlast`. A scratch access performs at its bank, one in a cycle, and writes no other byte of scratch and none of memory; its response comes four
cycles later. -/
def Sys2Proof.Claims.ResponseEvents : Prop :=
  ∀ (s : State) (a : Access), formOk s →
    let e := s.fly.ev
    (s.fly.accs = [(e.id, a)] → s.fly.posts = [] → s.fly.inst a.clu a.frm = none → e.part = 0 → a.dead = false → (a.st = .performed ∨ a.st = .issued) →
      a.clu < 1024 → a.frm < 1024 → a.lsid.isSome = true →
      (∀ va b m p j, a.op = .ld → a.vec = false → a.y = 0 → 0 < a.n → (m = 0 ∨ a.fmt = .i32) → a.segs = [(va, b, m)] → a.t0 = .op p j → a.t1 = .none → gives s .accessRetire fun t =>
        t.greg = s.greg ∧ t.fly.accs = [] ∧
        (∃ r, soon t (s.sys.now + 2 + peCol j.toNat) .tokenArrival r ∧ r.dest = { clu := a.clu, reg := a.reg, frm := a.bf, idx := j.toNat, pos := p } ∧
          r.ent = some a.ser ∧ r.tok.colour = a.colour ∧ r.tok.frame = a.frm ∧ r.tok.index = a.index ∧ r.tok.fmt = a.fmt ∧ r.tok.vec = false ∧
          let v := memLoad m (leNat (a.gotBytes (va, b, m)) % 2 ^ memBits a.fmt m)
          r.tok.data.extractLsb' 0 32 = v.extractLsb' 0 32 ∧ (a.fmt = .x64 → r.tok.data.extractLsb' 0 64 = v)) ∧
        (a.tag ≠ 0 → (s.sys.thr a.clu a.frm).serial = a.owner → (t.sys.thr a.clu a.frm).seqlast = a.tag)) ∧
      (a.op = .st → a.released = true → gives s .accessRetire fun t => t.greg = s.greg ∧ t.fly.accs = [] ∧ t.fly.agenda = s.fly.agenda ∧
        (a.tag ≠ 0 → (s.sys.thr a.clu a.frm).serial = a.owner → (t.sys.thr a.clu a.frm).seqlast = a.tag))) ∧
    (∀ vl, s.fly.acc e.id = some a → a.lines[e.part]? = some vl → let b := vl / 1024
      ((s.sys.bank a.clu b).used = some s.sys.now → exec .scratchPerform s = .next (s.sched (s.sys.now + 1) .scratchPerform { e with q := true })) ∧
      ((s.sys.bank a.clu b).used ≠ some s.sys.now → gives s .scratchPerform fun t => t.greg = s.greg ∧ (t.sys.bank a.clu b).used = some s.sys.now ∧
        (a.lines.length ≤ a.done + 1 → ∃ r, soon t (s.sys.now + 4) .accessRetire r ∧ r.id = e.id) ∧
        (a.op = .ld → t.sys.scratch = s.sys.scratch ∧ ∃ c, t.fly.acc e.id = some c ∧ ∀ o ∈ a.inLine vl, (o, s.sys.scr a.clu o) ∈ c.got) ∧
        (a.op = .st → (∀ c o, (∀ w ∈ a.wr, w.va / 64 = vl → a.clu * 1048576 + w.va ≠ c * 1048576 + o) → t.sys.scr c o = s.sys.scr c o) ∧
          ∀ w ∈ a.wr, w.va / 64 = vl → (a.wr.filter fun u => u.va == w.va) = [w] →
            t.sys.scr a.clu w.va = (s.sys.scr a.clu w.va &&& ~~~w.mask) ||| (w.val &&& w.mask))))

/-- R145, R146, R149, R153, R154, R293, R383: at the descriptor's home slice, once every line that it acts on can perform, a splice of its owner either makes the next version, which its result word then names, or fills its status word with the first failing check of a range past the
length (1), an empty or misaligned piece (4), a length past 2^32 − 1 (5); SNEW makes a descriptor with version 0 where none is live, and SFREE
ends one that has no pins and one version; a store to a live descriptor by another colour is refused; a free extent is written to the list while it has room,
and FLTAIL counts it. -/
def Obligations.StitchedEvents : Prop :=
  ∀ (s : State) (a : Access) (l : Nat), formOk s →
    let e := s.fly.ev
    let none_ := tabFind s.sys.descs l = none
    (∀ d, atDesc s a l → tabFind s.sys.descs l = some d →
      (d.ctx = a.ctx → d.colour = a.colour → ∀ p, a.pa ((fieldOf a.b 0 52 + 24) % vaMod) = some p → ∀ r, a.pa (fieldOf a.b 0 52 % vaMod) = some r → ∀ q, a.pa ((fieldOf a.b 0 52 + 8) % vaMod) = some q →
        p / 64 ≠ l → p % 8 = 0 →
        let pos := ((readWord s.mem r).extractLsb' 0 32).toNat
        let rem := ((readWord s.mem q).extractLsb' 0 32).toNat
        let len := ((readWord s.mem (l * 64)).extractLsb' 0 32).toNat
        (len < pos + rem → asksReady s (spliceAsks s.sys s.mem a d l (.status 1)) → reaches s .splicePerform fun t => t.greg = s.greg ∧ readWord t.mem p = 1 ∧ onlyBytes s t (fun b => p ≤ b ∧ b < p + 8) ∧
          tabFind t.sys.descs l = some d ∧ (t.sys.line (p / 64)).fe = (s.sys.line (p / 64)).fe ||| BitVec.ofNat 8 (2 ^ (p % 64 / 8))) ∧
        (∀ ins, ins = (List.range a.x).map (fun k => (fieldOf (readWord s.mem ((a.pa ((fieldOf a.b 0 52 + (64 + 16 * k)) % vaMod)).getD 0)) 0 52,
            fieldOf (readWord s.mem ((a.pa ((fieldOf a.b 0 52 + (72 + 16 * k)) % vaMod)).getD 0)) 0 32)) → pos + rem ≤ len →
          ((∃ i ∈ ins, i.2 = 0 ∨ i.1 % 2 ^ d.esize ≠ 0) → asksReady s (spliceAsks s.sys s.mem a d l (.status 4)) → reaches s .splicePerform fun t => t.greg = s.greg ∧ readWord t.mem p = 4 ∧
            onlyBytes s t (fun b => p ≤ b ∧ b < p + 8) ∧ tabFind t.sys.descs l = some d) ∧
          ((∀ i ∈ ins, i.2 ≠ 0 ∧ i.1 % 2 ^ d.esize = 0) → 2 ^ 32 ≤ len - rem + (ins.map Prod.snd).sum →
            asksReady s (spliceAsks s.sys s.mem a d l (.status 5)) → reaches s .splicePerform fun t =>
            t.greg = s.greg ∧ readWord t.mem p = 5 ∧ onlyBytes s t (fun b => p ≤ b ∧ b < p + 8)) ∧
          (∀ slot n ps xs, spliceOf s.sys s.mem l d pos rem ins = .version slot n ps xs →
            asksReady s (spliceAsks s.sys s.mem a d l (.version slot n ps xs)) → reaches s .splicePerform fun t => t.greg = s.greg ∧ readWord t.mem p = 0 ∧
            n = len - rem + (ins.map Prod.snd).sum ∧ ∃ d', tabFind t.sys.descs l = some d' ∧ d'.seq = d.seq + 1 ∧ ∃ w ∈ d'.vers, w.seq = d.seq + 1 ∧ w.slot = slot ∧ w.pins = 0))) ∧
      (exec .snewPerform s = .next (refuseAcc s e.id e.col a (misuse 1 0x42 a.index))) ∧
      (d.ctx = a.ctx → d.colour = a.colour → ((readWord s.mem (l * 64 + 24)).extractLsb' 0 16).toNat = 0 → d.vers.length ≤ 1 → gives s .sfreePerform fun t =>
        t.greg = s.greg ∧ tabFind t.sys.descs l = none ∧ (∀ l', l' ≠ l → tabFind t.sys.descs l' = tabFind s.sys.descs l') ∧ performed s t l) ∧
      (d.ctx = a.ctx → d.colour = a.colour → (((readWord s.mem (l * 64 + 24)).extractLsb' 0 16).toNat ≠ 0 ∨ 1 < d.vers.length) →
        exec .sfreePerform s = .next (refuseAcc s e.id e.col a (misuse 1 0x44 a.index)))) ∧
    (atDesc s a l → none_ → (∀ d : Desc, d.ctx = a.ctx → d.colour = a.colour → asksReady s (areaAsks s.sys s.mem d (fieldOf a.b 0 52) 64 true) →
      ∀ va, va = fieldOf a.b 0 52 → reaches s .snewPerform fun t => t.greg = s.greg ∧
        readWord t.mem (l * 64) = BitVec.ofNat 64 (a.colour * 2 ^ 52 + a.x * 2 ^ 48) ∧ readWord t.mem (l * 64 + 8) = BitVec.ofNat 64 va ∧
        readWord t.mem (l * 64 + 16) = 1 ∧ readWord t.mem (l * 64 + 24) = 0 ∧ readWord t.mem (l * 64 + 40) = 0 ∧
        ∃ d, tabFind t.sys.descs l = some d ∧ d.ctx = a.ctx ∧ d.colour = a.colour ∧ d.seq = 0 ∧ d.esize = a.x)) ∧
    (∀ x vl d w, partAt s a x vl l → lineFree s a x l → tabFind s.sys.descs l = some d → a.op = .st → w ∈ a.wr → w.va / 64 = vl → w.mask ≠ 0 →
      (a.ctx ≠ d.ctx ∨ a.colour ≠ d.colour) → gives s .accessPerform fun t => t.sys.descs = s.sys.descs) ∧
    (∀ d x rest, l = e.id → tabFind s.sys.descs l = some d → d.exts = x :: rest →
      let tail := (readWord s.mem (l * 64 + 40)).extractLsb' 32 32
      let head := (readWord s.mem (l * 64 + 40)).extractLsb' 0 32
      ((x.freedBy = none ∨ 2 ^ d.fllog ≤ (tail - head).toNat) → onlySys s .freeListWrite (recallLine s.sys l)) ∧
      (x.freedBy.isSome = true → (tail - head).toNat < 2 ^ d.fllog → (s.sys.line l).held.isSome = true → hostLine l = false → (s.sys.line l).last ≠ some s.sys.now →
        asksReady s (areaAsks s.sys s.mem d ((d.va + 64 + 16 * (tail.toNat % 2 ^ d.fllog)) % vaMod) 16 true) →
        reaches s .freeListWrite fun t => t.greg = s.greg ∧ ∃ d', tabFind t.sys.descs l = some d' ∧ d'.exts.length = rest.length ∧
          (readWord t.mem (l * 64 + 40)).extractLsb' 32 32 = tail + 1))

/-! ### Device events: banks and transfers, rings, the token network (R129, R131 to R144, R168 to R190, R351, R359) -/

namespace Sys2Proof.Claims

/-- The engine of a cluster moves the transfer in a slot: it is MOVING and has bytes to move. -/
def moves (s : State) (c k : Nat) : Prop := (s.sys.xfer c k).st = .moving ∧ (s.sys.xfer c k).ends = 0

/-- The transfer in slot `k` is the one the engine serves: none that it moves, or that is queued where `q`, comes before it in commit order. -/
def served (s : State) (c : Nat) (v : Xfer) (q : Bool) : Prop :=
  ∀ n < 32, (moves s c n → q = false ∧ v.seq ≤ (s.sys.xfer c n).seq) ∧ (q = true → (s.sys.xfer c n).st = .queued → v.seq ≤ (s.sys.xfer c n).seq)

/-- The engine takes no step in this cycle: in P1 its clock runs at 70/94 of the reference (R179, R364). -/
def noTick (s : State) : Prop := (s.sys.pstate.extractLsb' 0 3).toNat = 1 ∧ (s.sys.now + 1) * 70 / 94 = s.sys.now * 70 / 94

/-- A COPY from scratch to scratch, of which some is to be moved, within the space and with ranges apart. -/
def scratchCopy (v : Xfer) : Prop :=
  v.copyt = false ∧ v.conj = false ∧ v.sscr = true ∧ v.dscr = true ∧ v.moved < v.len ∧ v.src + v.len ≤ 1048576 ∧ v.dst + v.len ≤ 1048576 ∧
  (v.src + v.len ≤ v.dst ∨ v.dst + v.len ≤ v.src)

/-- The engine's cycle for transfer `v` of slot `k`: the next 64 bytes, or what is left of them, are moved and no others (R179); after the last the transfer is done
by its promise, or 256 cycles later. -/
def stepped (s t : State) (c k : Nat) (v : Xfer) : Prop :=
  let n := min 64 (v.len - v.moved)
  let to_ := v.dst + v.moved
  let next_ : Ev := { clu := c, id := k, col := v.gen.toNat, part := 1 }
  (noTick s → t.sys.xfer c k = v ∧ t.sys.scratch = s.sys.scratch ∧ soon t (s.sys.now + 1) .transferDone next_) ∧
  (¬ noTick s → (∀ j < n, t.sys.scr c (to_ + j) = s.sys.scr c (v.src + v.moved + j)) ∧
    (∀ d o, (d * 1048576 + o < c * 1048576 + to_ ∨ c * 1048576 + to_ + n ≤ d * 1048576 + o) → t.sys.scr d o = s.sys.scr d o) ∧
    (v.moved + n < v.len → t.sys.xfer c k = { v with moved := v.moved + n } ∧ soon t (s.sys.now + 1) .transferDone next_) ∧
    (v.len ≤ v.moved + n → t.sys.xfer c k = { v with moved := v.moved + n, ends := s.sys.now + 1 } ∧
      soon t (doneAt s.sys v) .transferDone { clu := c, id := k, col := v.gen.toNat }))

/-- The pass of a ring is not drained and not at its lap limit at beat `b`. -/
def goesOn (s : State) (g b : Nat) (p : Pass) : Prop :=
  p.st = .running ∧ passDrained s.sys g { p with beat := b } = false ∧ (b < 8 * p.laplim ∨ p.tiles = [])

/-- Event `i` is beat `b` of pass `p`, which goes on: beat 0 of one that starts in this cycle, or a later one of one that runs. -/
def beatOf (s : State) (i : Instr) (b : Nat) (p : Pass) : Prop :=
  let e := s.fly.ev
  goesOn s e.id b p ∧
  ((i = .beat ∧ e.part ≠ 1 ∧ e.col = b ∧ (s.sys.ring e.id).pass = some p) ∨
   (i = .beat0 ∧ b = 0 ∧ ∃ q : Pass, (s.sys.ring e.id).pass = some q ∧ q.st = .starting ∧ q.armed = true ∧ q.beat = 0 ∧ q.g = s.sys.now ∧
     p = { q with st := .running }))

/-- The cycle in which beat `b` of a pass begins (R137). -/
def beatAt (p : Pass) (b : Nat) : Nat := p.g + b * (if p.beat8 = 0 then 4 else 8)

/-- The entry's two tiles, the only live ones, are at its stop at beat `b` (R137, R140). -/
def pairThere (p : Pass) (c b : Nat) (m : MEnt) (i k : PTile) : Prop :=
  p.tiles = [i, k] ∧ i.fam = 0 ∧ k.fam = 1 ∧ i.origin = m.istop ∧ k.origin = m.kstop ∧ 0 < i.remain ∧ 0 < k.remain ∧
  (m.istop + b) % 8 = c % 8 ∧ (m.kstop + 7 * b) % 8 = c % 8

/-- The physical lines of a tile's bytes, with the key tags under which its access reaches them. -/
def tileLines (a : Access) : List Ask :=
  a.lines.filterMap fun l => (a.xlat (l * 64)).map fun x => { line := (x.pa + l * 64 % 65536) / 64, key := a.keyTag x, w := false }

/-- Busy task slots of a cluster. -/
def busyTasks (y : Sys) (c : Nat) : Nat := ((List.range 4).filter fun k => (y.tslot c k).busy).length

end Sys2Proof.Claims

/-- R171, R175: a PENDING bank waits while anything is in flight to it; then its bytes become zero, which takes 512 cycles, and it enters the mode of its BANKM. The
completion of a kernel leaves no dirty line in a writable CACHE bank of its cluster. -/
def Sys2Proof.Claims.BankEvents : Prop :=
  ∀ s : State, formOk s →
    let e := s.fly.ev
    let v := s.sys.bank e.clu e.id
    let busy := (∃ k < 32, (s.sys.xfer e.clu k).inBank e.id = true) ∨ ∃ a ∈ s.fly.accs, a.2.clu = e.clu ∧ a.2.inBank e.id = true ∧ a.2.st = .issued
    (v.mode = .pending →
      (e.part = 1 → onlySys s .bankPendingComplete (s.sys.setBank e.clu e.id { v with mode := v.next, next := .scratch })) ∧
      (e.part ≠ 1 → busy → putOff s .bankPendingComplete (s.sys.now + 1)) ∧
      (e.part ≠ 1 → ¬ busy → gives s .bankPendingComplete fun t => t.greg = s.greg ∧ (t.sys.bank e.clu e.id).lines = [] ∧ (t.sys.bank e.clu e.id).fifo = [] ∧ (t.sys.bank e.clu e.id).mode = .pending ∧
        (∀ o, e.id * 65536 ≤ o → o < (e.id + 1) * 65536 → t.sys.scr e.clu o = 0) ∧
        (∀ c o, (c * 1048576 + o < e.clu * 1048576 + e.id * 65536 ∨ e.clu * 1048576 + (e.id + 1) * 65536 ≤ c * 1048576 + o) → t.sys.scr c o = s.sys.scr c o) ∧
        soon t (s.sys.now + 512) .bankPendingComplete { clu := e.clu, id := e.id, part := 1 })) ∧
    (v.mode ≠ .pending → nothing s .bankPendingComplete) ∧
    (gives s .completionToken fun t => t.greg = s.greg ∧ t.fly = s.fly ∧ (s.sys.ctxOf e.clu = e.ctx → ∀ b < 16, (s.sys.bank e.clu b).mode = .cache →
      (s.sys.bank e.clu b).rdonly = false → ∀ l ∈ (t.sys.bank e.clu b).lines, l.2.2 = false))

/-- R177 to R180: the engine starts the oldest queued transfer when it moves no other, and moves 64 bytes of it in each of its cycles, no others; a transfer whose last write is acknowledged is DONE: its slot is FREE
and its command answered. One that meets a byte whose page does not translate learns so 255 cycles later (log entry 33, the model's reading of the engine's 257 cycles) and is withheld there with a
PCUR of its limit, or goes on where the page translates by then. A WAITT yields its token when the transfer is done, sleeps on until a later PCUR, and takes PROMISE when the transfer
is not done then, as that of a command of its own instance never is (R202; log entry 66, the model's reading of the token's own promise). -/
def Sys2Proof.Claims.TransferEvents : Prop :=
  ∀ s : State, formOk s →
    let e := s.fly.ev
    (∀ v, v = s.sys.xfer e.clu e.part → v.acc = e.id → e.part < 32 → v.st = .queued →
      (served s e.clu v true → scratchCopy v → gives s .transferStart fun t => t.greg = s.greg ∧
        stepped s t e.clu e.part { v with st := .moving, starts := s.sys.now, ends := 0 }) ∧
      ((∃ n < 32, moves s e.clu n ∨ ((s.sys.xfer e.clu n).st = .queued ∧ (s.sys.xfer e.clu n).seq < v.seq)) → nothing s .transferStart)) ∧
    (∀ v, v = s.sys.xfer e.clu e.id → e.id < 32 → v.st = .moving → v.gen.toNat = e.col →
      (e.part = 1 → v.ends = 0 →
        (served s e.clu v false → scratchCopy v → gives s .transferDone fun t => t.greg = s.greg ∧ stepped s t e.clu e.id v) ∧
        (served s e.clu v false → ¬ noTick s → v.moved < v.total → (v.stopAt s.sys s.mem (xferIdent s.fly v) v.moved).isSome = true →
          gives s .transferDone fun t => t.greg = s.greg ∧ t.sys.xfer e.clu e.id = { v with ends := s.sys.now + 1 } ∧ t.sys.scratch = s.sys.scratch ∧
            soon t (s.sys.now + 255) .transferWithhold { clu := e.clu, id := e.id, col := e.col }) ∧
        ((∃ n < 32, moves s e.clu n ∧ (s.sys.xfer e.clu n).seq < v.seq) →
          exec .transferDone s = .next (s.sched (s.sys.now + 1) .transferDone { clu := e.clu, id := e.id, col := e.col, part := 1 }))) ∧
      (e.part ≠ 1 → v.ends ≠ 0 → v.total ≤ v.moved → gives s .transferDone fun t => t.greg = s.greg ∧
        t.sys = s.sys.setXfer e.clu e.id { v with st := .free, moved := 0 } ∧
        ((s.fly.acc v.acc).isSome = true → soon t s.sys.now .accessRetire { clu := e.clu, id := v.acc })) ∧
      (e.part ≠ 1 → v.ends ≠ 0 →
        (v.stopAt s.sys s.mem (xferIdent s.fly v) v.moved = none → gives s .transferWithhold fun t => t.greg = s.greg ∧
          t.sys.xfer e.clu e.id = { v with st := .moving, starts := s.sys.now + 1, ends := 0 } ∧
          soon t (s.sys.now + 1) .transferDone { clu := e.clu, id := e.id, col := e.col, part := 1 }) ∧
        (∀ a r, v.stopAt s.sys s.mem (xferIdent s.fly v) v.moved = some (a, r) → r ≠ .uncorrectable → gives s .transferWithhold fun t => t.greg = s.greg ∧
          ∃ n, t.sys.xfer e.clu e.id = { v with st := .withheld, wva := a, ticket := n, pcur := BitVec.ofNat 48 (s.sys.now + ftLimit s.sys v.ctx) }))) ∧
    (∀ z, tabFind s.fly.sleeps e.id = some z →
      let own := (s.fly.inst z.f.clu z.f.frame).any fun i => i.ser == z.f.ser && i.copies.any fun p => p.2 == e.word
      let due := cycleOf s.sys.now (wakeAt s.sys e.clu own e.word)
      let v := s.sys.xfer e.clu (e.word.toNat / 2 ^ 48 % 32)
      let mine := v.gen.toNat = e.word.toNat / 2 ^ 53
      (s.sys.now < due → gives s .waittWake fun t => t.sys = s.sys ∧ t.greg = s.greg ∧ soon t due .waittWake e ∧
        tabFind t.fly.sleeps e.id = some { z with until_ := due }) ∧
      (due ≤ s.sys.now → own = false → (¬ mine ∨ v.st = .free) → gives s .waittWake fun t => t.sys = s.sys ∧ t.greg = s.greg ∧ tabFind t.fly.sleeps e.id = none ∧
        ∀ p j, z.t0 = .op p j → soon t (s.sys.now + 1 + distance z.f.idx j.toNat) .tokenArrival
          { clu := z.f.clu, reg := z.f.reg, frm := z.f.frm, dest := { clu := z.f.clu, reg := z.f.reg, frm := z.f.frm, idx := j.toNat, pos := p },
            id := z.f.idx, ent := some z.f.ser, tok := scalarTok z.f.colour z.f.frame z.f.index .x64 e.word }) ∧
      (due ≤ s.sys.now → (own = true ∨ (mine ∧ v.st ≠ .free)) → ∃ u r, u.mem = s.mem ∧ u.greg = s.greg ∧ exec .waittWake s = .next (raiseTrap u e.clu z.f.frame z.f.idx r) ∧ r.cause = 10 ∧
        r.contained = false ∧ r.index = z.f.index ∧ r.va = if v.st = .withheld ∧ own = false then v.wva else 0) ∧
      (due ≤ s.sys.now → own = false → mine → v.st ≠ .free → s.fly.inst e.clu z.f.frame = none → gives s .waittWake fun t => tabFind t.fly.sleeps e.id = none ∧
        (v.st = .withheld → (t.sys.xfer e.clu (e.word.toNat / 2 ^ 48 % 32)).pcur = BitVec.ofNat 48 (s.sys.now + ftLimit s.sys v.ctx))))

/-- R132, R136, R137, R140 to R143: a tile that is filled, its lines there, is STAGED with the bytes of its TSTAGE; beat 0 puts the tiles of the pass into circulation. At a beat, beat 0 too, the pair of an entry that meets at its stop takes the
lowest free task slot while fewer than TASKS are busy, each tile's REMAIN falling by 1, and its task thread is created at the next beat; otherwise the entry is MISSED and REMAIN
stands. A recalled pass ends at its next beat. -/
def Obligations.PassEvents : Prop :=
  ∀ s : State, formOk s →
    let e := s.fly.ev
    (∀ a q, s.fly.acc e.id = some a → q < 16 → (a.x = q ∨ a.x = 16 + q) → (s.sys.ring (a.clu / 8)).pass = none → (s.sys.tile a.clu (a.x / 16) q).st = .filling →
      (s.sys.tile a.clu (a.x / 16) q).acc = e.id → (∃ u, openLines (tileLines a) s = .ok u) → let w := s.sys.tile a.clu (a.x / 16) q
      gives s .tstageFillComplete fun t => t.greg = s.greg ∧ soon t s.sys.now .accessRetire { clu := a.clu, id := e.id } ∧
        (w.doomed = true → (t.sys.tile a.clu (a.x / 16) q).st = .empty) ∧
        (w.doomed = false → (t.sys.tile a.clu (a.x / 16) q).st = .staged ∧ (t.sys.tile a.clu (a.x / 16) q).elem = w.elem ∧
          ∀ n < a.y, n < 512 → ∀ p, a.pa (((a.segs.headD (0, 0, 0)).1 + n) % vaMod) = some p →
            (t.sys.tile a.clu (a.x / 16) q).data.extractLsb' (8 * n) 8 = readByte s.mem p)) ∧
    (∀ i p b, beatOf s i b p →
      (p.entries = [] → gives s i fun t => t.greg = s.greg ∧ (t.sys.ring e.id).pass = some { p with beat := b } ∧
        soon t (beatAt p (b + 1)) .beat { id := e.id, col := b + 1 } ∧
        ∀ w, i = .beat0 → p.tiles = [w] → (t.sys.tile (e.id * 8 + w.origin) w.fam p.slot).st = .circulating) ∧
      (∀ c n m x k, p.entries = [(c, n)] → m = s.sys.ment c n → (m.st = .armed ∨ m.st = .missed) → pairThere p c b m x k →
        (∀ f < 4, (s.sys.tslot c f).busy = false → (∀ j < f, (s.sys.tslot c j).busy = true) → busyTasks s.sys c < p.tasks.getD (c % 8) 4 → gives s i fun t =>
          t.greg = s.greg ∧ t.sys.ment c n = { m with st := .running } ∧
          t.sys.tslot c f = { busy := true, entry := n, ielem := x.elem, kelem := k.elem, idata := x.data, kdata := k.data } ∧
          (∃ p', (t.sys.ring e.id).pass = some p' ∧ p'.tiles = [{ x with remain := x.remain - 1 }, { k with remain := k.remain - 1 }].filter fun w => w.remain != 0) ∧
          ∃ r, soon t (beatAt p (b + 1)) .beat r ∧ r.part = 1 ∧ r.clu = c ∧ r.frm = 1020 + f ∧ r.col = p.colour ∧ r.ctx = p.ctx ∧
            r.word = BitVec.ofNat 64 (m.task * 64) ∧ leWords 4 r.bytes = [m.param, x.header p.slot b, k.header p.slot b,
              BitVec.ofNat 64 (n * 2 ^ 56 + c % 8 * 2 ^ 53 + b % 2 ^ 32)]) ∧
        (p.tasks.getD (c % 8) 4 ≤ busyTasks s.sys c → gives s i fun t => t.greg = s.greg ∧
          t.sys.ment c n = { m with st := .missed, misses := min 31 (m.misses + 1) } ∧ (t.sys.ring e.id).pass = some { p with beat := b }))) ∧
    (∀ p, e.part ≠ 1 → (s.sys.ring e.id).pass = some p → p.st = .recalled → (s.sys.thr p.clu p.frm).held = false → gives s .beat fun t => t.greg = s.greg ∧
      (t.sys.ring e.id).pass = none ∧ (t.sys.ring e.id).last = 3) ∧
    (e.part = 1 → e.clu < 128 → 1020 ≤ e.frm → e.frm < 1024 → (s.sys.ctx e.ctx).st = .running → s.sys.draining e.clu { newThread e.ctx e.id e.col e.word.toNat with task := some (e.frm - 1020) } = false →
      e.word ≠ 0 → s.sys.residentAt e.clu e.ctx e.word.toNat = none → (∃ q b, (s.sys.ctx e.ctx).kernel e.id = some q ∧ q.blocks.find? (fun b => b.addr == e.word.toNat) = some b ∧ b.bad = none) →
      gives s .beat fun t => (t.sys.thr e.clu e.frm).ctx = e.ctx ∧ (t.sys.thr e.clu e.frm).colour = e.col ∧ (t.sys.thr e.clu e.frm).task = some (e.frm - 1020) ∧
        (∀ n, 1 ≤ n → n ≤ 4 → t.reg e.clu e.frm n = (leWords 4 e.bytes).getD (n - 1) 0) ∧ (∀ n, 5 ≤ n → t.reg e.clu e.frm n = 0) ∧
        ∀ c k n, k < 1024 → (c, k) ≠ (e.clu, e.frm) → t.reg c k n = s.reg c k n)

/-- R129, R142, R351: a stop whose tiles have all retired and whose entries are all DONE arrives on the pass's barrier, and the last stop ends the pass; a suspended pass takes its ring back when the ring is free, and goes on at its
beat 24 cycles later. -/
def Obligations.PassEndEvents : Prop :=
  ∀ s : State, formOk s →
    let e := s.fly.ev
    let g := e.clu / 8
    let r := s.sys.ring g
    (∀ p, r.pass = some p → r.tails = [] → p.armed = true → p.tiles = [] → e.clu ∉ p.arrived → (∀ n ∈ p.entries, n.1 = e.clu → (s.sys.ment n.1 n.2).st = .done) →
      (p.arrived.length < 7 → gives s .stopCompletion fun t => t.greg = s.greg ∧ (t.sys.ring g).pass = some { p with arrived := p.arrived ++ [e.clu] } ∧
        soon t s.sys.now .barrierArrival { clu := e.clu, id := p.bar, col := p.colour, part := 2 }) ∧
      (p.arrived.length = 7 → (s.sys.thr p.clu p.frm).held = false → gives s .stopCompletion fun t => t.greg = s.greg ∧ (t.sys.ring g).pass = none ∧ (t.sys.ring g).last = 1 ∧
        soon t s.sys.now .barrierArrival { clu := e.clu, id := p.bar, col := p.colour, part := 2 })) ∧
    (∀ p, r.pass = some p → r.tails = [] → p.tiles ≠ [] → gives s .stopCompletion fun t => t.greg = s.greg ∧ t.fly = s.fly ∧ (t.sys.ring g).pass = some p) ∧
    (∀ p, r.susp = [p] → p.clu = e.clu → p.frm = e.frm → passDrained s.sys g p = false →
      (ringFree s g = false → putOff s .passResume (s.sys.now + 1)) ∧
      (ringFree s g = true → gives s .passResume fun t => t.greg = s.greg ∧ (t.sys.ring g).susp = [] ∧
        (t.sys.ring g).pass = some { p with g := s.sys.now + 24 - p.beat * (if p.beat8 = 0 then 4 else 8) } ∧
        soon t (s.sys.now + 24) .beat { id := g, col := p.beat })) ∧
    (∀ p, r.susp = [p] → p.clu = e.clu → p.frm = e.frm → passDrained s.sys g p = true → nothing s .passResume) ∧
    (r.susp = [] → nothing s .passResume)

/-- R183, R185 to R187, R189, R190, R359: a link sends one flit of a packet whose channel has a free slot, VE first, and takes the slot; a whole packet arrives two cycles later; a freed slot is
counted back. The fence router counts the seal of an outward packet, which is at its ring's router 18 cycles later, opened, and goes on from stop 0. A message that has
reached its cluster crosses the switch box in one cycle (R183; log entry 13, the model's reading). -/
def Obligations.NetworkEvents : Prop :=
  ∀ s : State, formOk s →
    let e := s.fly.ev
    let g := e.clu / 8
    let a := e.clu % 8
    (∀ d p, d < 2 → e.part = d → let n := a * 2 + d
      let l := s.sys.link g n
      l.queue = [p] → l.sent ≠ s.sys.now + 1 → tileCrosses s.sys g a d = false → p.inCh = none →
      let free := if p.ve then l.ve else if p.vc1 then l.vc1 else l.vc0
      (free = 0 → gives s .flitTransfer fun t => t.sys = s.sys ∧ t.greg = s.greg) ∧
      (0 < free → gives s .flitTransfer fun t => t.greg = s.greg ∧ (let l' := t.sys.link g n
        (if p.ve then l'.ve else if p.vc1 then l'.vc1 else l'.vc0) = free - 1 ∧
        (p.left = 1 → l'.queue = [] ∧ l'.flight = l.flight ++ [p] ∧
          soon t (s.sys.now + 2) .flitTransfer { clu := g * 8 + (if d = 0 then (a + 1) % 8 else (a + 7) % 8), part := 2 + d }) ∧
        (p.left ≠ 1 → l'.queue = [{ p with left := p.left - 1 }] ∧ l'.flight = l.flight)))) ∧
    (∀ d p rest, d < 2 → e.part = 2 + d → let n := (if d = 0 then (a + 7) % 8 else (a + 1) % 8) * 2 + d
      (s.sys.link g n).flight = p :: rest → gives s .flitTransfer fun t => t.greg = s.greg ∧ (t.sys.link g n).flight = rest ∧
        (∀ i, p.dst = e.clu → p.ctrl = none → p.post = some i → soon t (s.sys.now + 1) .messageArrival { clu := e.clu, id := i, col := p.since }) ∧
        (∀ m, p.dst = e.clu → p.ctrl = some m → (s.sys.region e.clu 8).ctrl.length < 16 → (t.sys.region e.clu 8).ctrl = (s.sys.region e.clu 8).ctrl ++ [m]) ∧
        (p.dst / 8 ≠ g → a = 0 → soon t (s.sys.now + 12) .fenceRouterPass { id := g, part := 0 })) ∧
    (∀ d, d < 2 → e.part = 4 + d → let n := (if d = 0 then (a + 7) % 8 else (a + 1) % 8) * 2 + d
      let l := s.sys.link g n
      gives s .flitTransfer fun t => t.greg = s.greg ∧ t.sys.link g n =
        (if e.col = 2 then { l with ve := l.ve + 1 } else if e.col = 1 then { l with vc1 := l.vc1 + 1 } else { l with vc0 := l.vc0 + 1 })) ∧
    (∀ p rest, tabGet [] s.sys.routers (e.id * 2 + e.part) = p :: rest →
      (e.part = 0 → let h := p.dst / 8
        gives s .fenceRouterPass fun t => t.greg = s.greg ∧ tabGet [] t.sys.routers (e.id * 2) = rest ∧
        tabGet [] t.sys.routers (h * 2 + 1) = tabGet [] s.sys.routers (h * 2 + 1) ++ [p] ∧ soon t (s.sys.now + 18) .fenceRouterPass { id := h, part := 1 } ∧
        tabGet 0 t.sys.seals (p.ctx * 256 + e.id * 16 + h) = tabGet 0 s.sys.seals (p.ctx * 256 + e.id * 16 + h) + 1) ∧
      (e.part = 1 → Config.streamOk s.sys.freeIx = false → p.ctx ≠ 0 → (s.sys.ctx p.ctx).st = .running → gives s .fenceRouterPass fun t =>
        (t.sys.ctx p.ctx).st = .faulted ∧ (t.sys.ctx p.ctx).fcause = 4) ∧
      (e.part = 1 → Config.streamOk s.sys.freeIx = false → p.ctx = 0 → gives s .fenceRouterPass fun t => (t.sys.ctx 0).fcause = 4) ∧
      (e.part = 1 → Config.streamOk s.sys.freeIx = true → ∀ i, p.dst = e.id * 8 → p.ctrl = none → p.post = some i → gives s .fenceRouterPass fun t => t.greg = s.greg ∧
        tabGet [] t.sys.routers (e.id * 2 + 1) = rest ∧ soon t (s.sys.now + 1) .messageArrival { clu := p.dst, id := i, col := p.since }))

/-! ### Device events: barriers, groups, messages (R114 to R129, R295, R296); which events write memory -/

namespace Sys2Proof.Claims

/-- An arrival of a post's thread that does not wait. -/
def arrives (s : State) (p : Post) (b idx : Nat) : Prop := tabFind s.fly.posts s.fly.ev.id = some p ∧ p.act = .arrive b idx false ∧ s.fly.ev.part = 0

/-- The message of a post. -/
def carries (s : State) (p : Post) (c k : Nat) (m : Msg) : Prop := tabFind s.fly.posts s.fly.ev.id = some p ∧ p.act = .message c k m

/-- The instructions that may write memory: the commit (its exit records), PARKING (park records), the performs of accesses and of stitched tensors, the copy engine, and the
firmware's records. -/
def memoryWriters : List Instr :=
  [.commit, .parking, .accessPerform, .splicePerform, .snewPerform, .freeListWrite, .transferStart, .transferDone, .kernelLoading, .relatEmerge]

/-- A phase ends with this arrival or in this cycle: full but for `n` arrivals, and not begun in this cycle (R125). -/
def endsWith (s : State) (v : Bar) (n : Nat) : Prop := v.arrived + n = v.expect ∧ v.begins ≠ s.sys.now + 1

/-- The next phase of a GROUP barrier whose phase has ended as `v` was (R125): it begins with the early arrivals, where the cluster has a member. -/
def nextGroupPhase (s t : State) (c b : Nat) (v : Bar) : Prop :=
  let w := t.sys.bar c b
  let e := s.sys.lc c v.group
  w.mode = .group ∧ w.colour = v.colour ∧ w.group = v.group ∧ w.seq = v.seq + 1 ∧ w.done = some s.sys.now ∧
  (e = 0 → w.begun = false ∧ w.expect = 0 ∧ w.members = [] ∧ w.arrived = 0 ∧ w.cur = []) ∧
  (e ≠ 0 → w.begun = true ∧ w.expect = e ∧ w.arrived = v.early ∧ w.early = 0 ∧ w.cur = v.nxt ∧ w.nxt = [] ∧ w.begins = s.sys.now + 1)

/-- No trap of this instance waits at the thread, or was the last it took: the next one is kept (R345). -/
def untold (s : State) (c k ser : Nat) : Prop :=
  (s.sys.thr c k).st ≠ .free ∧ (s.sys.thr c k).told ≠ some ser ∧ ∀ d ∈ (s.sys.thr c k).deferred, d.ser ≠ some ser

end Sys2Proof.Claims

/-- R124 to R129: an arrival is counted on its barrier, in a GROUP phase as early where the member has arrived already or is none of the phase; the one that makes
ARRIVED equal E ends the phase: SEQ counts it and ARRIVED falls to 0, or, for a GROUP, the next phase begins with its early arrivals. A phase that began full, and one that became full otherwise, ends
in a later cycle. An arrival on a FREE barrier changes nothing of it, and its thread takes BARRIER 0x23 at its next block entry. A ring stop counts as an arrival on a barrier of its pass's colour and clears
PASS; on a FREE or foreign barrier it is lost (log entry 34, the model's reading). A GROUP phase without members begins in the cycle after the cluster has one, and a thread that waits for a phase that has
completed enters its next block. -/
def Obligations.BarrierEvents : Prop :=
  ∀ s : State, formOk s →
    let e := s.fly.ev
    (∀ p b idx, arrives s p b idx → b < 256 → let v := s.sys.bar p.clu b
      (v.mode = .count → v.colour = p.colour → v.expect ≠ 0 → v.arrived < v.expect → gives s .barrierArrival fun t => t.greg = s.greg ∧
        soon t (s.sys.now + 1) .barrierArrival { clu := p.clu, id := b, part := 1 } ∧
        (endsWith s v 1 → t.sys = s.sys.setBar p.clu b
          { v with owed := v.owed - 1, hit := s.sys.now + 1, seq := v.seq + 1, arrived := 0, done := some s.sys.now }) ∧
        (¬ endsWith s v 1 → t.sys = s.sys.setBar p.clu b { v with owed := v.owed - 1, hit := s.sys.now + 1, arrived := v.arrived + 1 })) ∧
      (v.mode = .group → v.colour = p.colour → p.frm ∈ v.members → p.frm ∉ v.cur → gives s .barrierArrival fun t => t.greg = s.greg ∧
        (endsWith s v 1 → nextGroupPhase s t p.clu b v ∧ ∀ c' b', b' < 256 → (c', b') ≠ (p.clu, b) → t.sys.bar c' b' = s.sys.bar c' b') ∧
        (¬ endsWith s v 1 →
          t.sys = s.sys.setBar p.clu b { v with owed := v.owed - 1, hit := s.sys.now + 1, arrived := v.arrived + 1, cur := p.frm :: v.cur })) ∧
      (v.mode = .group → v.colour = p.colour → (p.frm ∉ v.members ∨ p.frm ∈ v.cur) → v.arrived ≠ v.expect → gives s .barrierArrival fun t => t.greg = s.greg ∧
        t.sys = s.sys.setBar p.clu b { v with owed := v.owed - 1, hit := s.sys.now + 1, early := v.early + 1, nxt := p.frm :: v.nxt }) ∧
      (v.mode = .free → gives s .barrierArrival fun t => t.greg = s.greg ∧ t.sys.bar p.clu b = { v with owed := v.owed - 1 } ∧
        ((s.sys.thr p.clu p.frm).serial = p.owner → untold s p.clu p.frm p.ser →
          ∃ r, (t.sys.thr p.clu p.frm).deferred = (s.sys.thr p.clu p.frm).deferred ++ [r] ∧ r.cause = 13 ∧ r.info.extractLsb' 0 8 = 0x23))) ∧
    ((e.part = 1 ∨ e.part = 3) → e.id < 256 → let v := s.sys.bar e.clu e.id
      let idle : Prop := ∀ h ∈ s.sys.thrs, h.2.st ≠ .waiting
      (e.part = 1 → idle → (v.arrived ≠ v.expect ∨ v.expect = 0) → nothing s .barrierArrival) ∧
      (e.part = 1 → idle → v.mode = .count → v.expect ≠ 0 → endsWith s v 0 → gives s .barrierArrival fun t => t.greg = s.greg ∧
        t.sys = s.sys.setBar e.clu e.id { v with seq := v.seq + 1, arrived := 0, done := some s.sys.now }) ∧
      (e.part = 1 → idle → v.mode = .group → v.expect ≠ 0 → endsWith s v 0 → gives s .barrierArrival fun t => t.greg = s.greg ∧ nextGroupPhase s t e.clu e.id v) ∧
      (e.part = 3 → idle → v.mode = .group → v.begun = false → s.sys.lc e.clu v.group ≠ 0 → gives s .barrierArrival fun t => t.greg = s.greg ∧
        let w := t.sys.bar e.clu e.id
        w.begun = true ∧ w.expect = s.sys.lc e.clu v.group ∧ w.arrived = v.early ∧ w.early = 0 ∧ w.cur = v.nxt ∧ w.nxt = [] ∧ w.seq = v.seq ∧
        (v.early = s.sys.lc e.clu v.group → soon t (s.sys.now + 1) .barrierArrival { clu := e.clu, id := e.id, part := 1 })) ∧
      (∀ k h r n b q, e.part = 1 → k < 1024 → s.sys.thrs = [(e.clu * 1024 + k, h)] → h.st = .waiting → h.baraw = some (b, some q) →
        (v.arrived ≠ v.expect ∨ v.expect = 0) → (s.sys.bar e.clu b).seq = q + 1 → mayEnter s e.clu k r n →
        gives s .barrierArrival fun t => t.greg = s.greg ∧ runsBlock t e.clu k r n h.next)) ∧
    (e.part = 2 → e.id < 256 → let v := s.sys.bar e.clu e.id
      (v.mode = .count → v.colour = e.col → v.expect ≠ 0 → v.arrived < v.expect → gives s .barrierArrival fun t => t.greg = s.greg ∧
        (endsWith s v 1 → t.sys = s.sys.setBar e.clu e.id { v with pass := false, hit := s.sys.now + 1, seq := v.seq + 1, arrived := 0, done := some s.sys.now }) ∧
        (¬ endsWith s v 1 → t.sys = s.sys.setBar e.clu e.id { v with pass := false, arrived := v.arrived + 1, hit := s.sys.now + 1 })) ∧
      ((v.mode = .free ∨ v.colour ≠ e.col) → onlySys s .barrierArrival (s.sys.setBar e.clu e.id { v with pass := false })))

/-- R114, R117, R118: the first JOIN makes a group LIVE under its colour and counts an epoch, another of that colour counts in TOTAL, and the LEAVE that brings TOTAL to 0 makes it FREE; a JOIN of another
colour changes no group, and its thread takes OWNER at its next block entry. The changes of one thread perform in the order in which it sent them (R190), each in the cycle in which it is
taken up (log entry 92, the model's reading: the rules give the path of such a change no time). A LEAVE that finds no group of its colour changes nothing (log entry 76, the model's reading). -/
def Sys2Proof.Claims.GroupEvents : Prop :=
  ∀ (s : State) (p : Post) (g idx : Nat) (join : Bool), formOk s → tabFind s.fly.posts s.fly.ev.id = some p → p.act = .group g idx join →
    (∀ q ∈ s.fly.posts, q.2.clu = p.clu → q.2.frm = p.frm → q.2.owner = p.owner → (∃ n j, q.2.act = .group g n j) → s.fly.ev.id ≤ q.1) →
    let v := tabGet Grp.reset (s.sys.ctx p.ctx).groups g
    let becomes (w : Grp) : Prop := gives s .groupTotalUpdate fun t => t.greg = s.greg ∧ tabGet Grp.reset (t.sys.ctx p.ctx).groups g = w ∧
      (∀ h, h ≠ g → tabGet Grp.reset (t.sys.ctx p.ctx).groups h = tabGet Grp.reset (s.sys.ctx p.ctx).groups h) ∧ tabFind t.fly.posts s.fly.ev.id = none
    (join = true → v.live = false → becomes { epoch := v.epoch + 1, live := true, colour := p.colour, total := 1 }) ∧
    (join = true → v.live = true → v.colour = p.colour → becomes { v with total := v.total + 1 }) ∧
    (join = false → v.live = true → v.colour = p.colour → 1 < v.total → becomes { v with total := v.total - 1, live := true }) ∧
    (join = false → v.live = true → v.colour = p.colour → v.total = 1 → becomes { v with total := 0, live := false }) ∧
    (join = false → (v.live = false ∨ v.colour ≠ p.colour) → becomes v) ∧
    (join = true → v.live = true → v.colour ≠ p.colour → (s.sys.thr p.clu p.frm).serial = p.owner →
      untold s p.clu p.frm p.ser → gives s .groupTotalUpdate fun t => t.greg = s.greg ∧ tabGet Grp.reset (t.sys.ctx p.ctx).groups g = v ∧
        ∃ r ∈ (t.sys.thr p.clu p.frm).deferred, r.cause = 8 ∧ r.contained = true)

/-- R295, R296: a message to its own cluster arrives in the next cycle, one to another cluster crosses the switch boxes to its ring stop, where one for a cluster of the ring is queued at its first link, the shorter way round; a mailbox of the sender's colour with room takes it,
a full one or that of a SAVED thread has it sent again 64 cycles after it was sent (log entries 13 and 28, the model's readings of the way and of the resending), and a frame that is free or another colour's discards it and counts a DROP. -/
def Sys2Proof.Claims.MessageEvents : Prop :=
  ∀ (s : State) (p : Post) (c k : Nat) (m : Msg), formOk s → carries s p c k m →
    let e := s.fly.ev
    let now := s.sys.now
    let t0 := s.sys.thr c k
    let heard : Prop := t0.st ≠ .free ∧ t0.st ≠ .reserved ∧ t0.colour = p.colour ∧ t0.ctx = p.ctx
    (∀ i ∈ [Instr.messageSend, .messageResend], (i = .messageSend → e.part ≠ 1) →
      (c = p.clu → exec i s = .next (s.sched (now + 1) .messageArrival { clu := c, id := e.id, col := now })) ∧
      (c ≠ p.clu → ∃ d ≥ 1, exec i s = .next (s.sched (now + d) .messageSend { id := e.id, part := 1, col := now }))) ∧
    (e.part = 1 → c ≠ p.clu → c / 8 = p.clu / 8 → gives s .messageSend fun t => t.greg = s.greg ∧
        let a := p.clu % 8
        let n := a * 2 + (if (c % 8 + 8 - a) % 8 ≤ 4 then 0 else 1)
        ∃ q, (t.sys.link (c / 8) n).queue = (s.sys.link (c / 8) n).queue ++ [q] ∧ q.src = p.clu ∧ q.dst = c ∧ q.ve = false ∧ q.post = some e.id ∧ q.since = e.col ∧
          q.left = q.flits ∧ q.flits = 1 + ((if m.vec then ((m.len + 1) * m.fmt.width + 7) / 8 else 8) - 56 + 63) / 64) ∧
    (k < 1024 → p.frm < 1024 →
      (heard → t0.st ≠ .saved → t0.mbox.length < 4 → gives s .messageArrival fun t => t.greg = s.greg ∧ (s.fly.inst p.clu p.frm = none → tabFind t.fly.posts e.id = none) ∧
        t.sys = s.sys.setThr c k { t0 with mbox := t0.mbox ++ [m] }) ∧
      (heard → (t0.st = .saved ∨ 4 ≤ t0.mbox.length) →
        exec .messageArrival s = .next (s.sched (max (now + 1) (e.col + 64)) .messageResend { id := e.id })) ∧
      (¬ heard → (s.sys.thr p.clu p.frm).serial = p.owner → gives s .messageArrival fun t => t.greg = s.greg ∧ (s.fly.inst p.clu p.frm = none → tabFind t.fly.posts e.id = none) ∧
        (t.sys.thr p.clu p.frm).drops = min 255 ((s.sys.thr p.clu p.frm).drops + 1) ∧
        ∀ c' k', k' < 1024 → (c', k') ≠ (p.clu, p.frm) → (t.sys.thr c' k') = s.sys.thr c' k'))

/-- R96, R113, R42, R45, R293, R303: memory is written only by a commit that writes exit records, by park records, by performs at the home slices, by transfers and by firmware's answers. Every other
instruction, and a commit without an EMIT, leaves every byte as it was. -/
def Obligations.MemoryWrittenOnlyHere : Prop :=
  (∀ (s t : State) (i : Instr), exec i s = .next t → i ∉ memoryWriters → t.mem = s.mem) ∧
  (∀ s t : State, exec .parking s = .next t → s.fly.ev.part ≠ 1 → t.mem = s.mem) ∧
  (∀ s t : State, exec .commit s = .next t → s.fly.ev.part ≠ 9 → (∀ i, tabFind s.fly.commits (s.fly.ev.clu * 1024 + s.fly.ev.frm) = some i →
    ∀ n ∈ i.effs, ∀ p u, n.e ≠ .emit p u) → t.mem = s.mem)

/-! ### Statements of several parts -/

/-- Logic, shifts, bit counts and bit fields. -/
def Obligations.LogicShiftAndFieldResults : Prop := LogicAndShiftResults ∧ BitFieldResults

/-- Integer compares and LEA. -/
def Obligations.CompareAndLeaResults : Prop := CompareResults ∧ LeaResult

/-- The format check of operands, the predicate operand, and the instructions that take scalars only. -/
def Obligations.OperandRules : Prop := OperandFormats ∧ PredicateSelects ∧ PredicatedOff ∧ ScalarOnlyFormat

/-- Moves, constants, and what the carried registers and special operands yield. -/
def Obligations.MoveAndRegisterResults : Prop := MoveResults ∧ RegisterResults

/-- NULL, exits, SPAWN and EMIT. -/
def Obligations.ExitSpawnAndEmitResults : Prop := NullAnswers ∧ ExitResults ∧ SpawnResult ∧ SpawnOff ∧ EmitResult ∧ EmitRuns

/-- Floating-point compares, minima and maxima, on the order of the encodings. -/
def Obligations.FloatComparisons : Prop := FloatCompareResults ∧ FloatOrderOfEncodings

/-- Encoding a decoded value gives the value back. -/
def Obligations.FormatsRoundTrip : Prop := FloatEncodeDecode ∧ TaperedEncodeDecode

/-- Instructions on runs of elements, with the manual's examples. -/
def Obligations.RunBehaviour : Prop := RunResults ∧ RunExamples

/-- The states of packed accumulators, and their slots as signed digits. -/
def Obligations.AccumulatorBehaviour : Prop := AccumulatorStateResults ∧ SlotsAreSignedDigits

/-- Lanes, and ZALLOC. -/
def Obligations.LaneAndZallocResults : Prop := LaneResults ∧ ZallocResult

/-- Loads, stores, gathers, scatters and PREF at fire. -/
def Obligations.LoadAndStoreAccesses : Prop := LoadStoreAccesses ∧ GatherScatterAccesses

/-- Full/empty words and atomics at fire, and the value that an atomic writes. -/
def Obligations.WordAndAtomicAccesses : Prop := FullEmptyAccesses ∧ AtomicAccesses ∧ AtomicNewValues

/-- The barrier instructions at fire. -/
def Obligations.BarrierInstructions : Prop := BarrierResults ∧ BarwResult

/-- Group instructions and COMB at fire. -/
def Obligations.GroupAndCombResults : Prop := GroupResults ∧ CombResult

/-- MFS, MTS and the monitor instructions. -/
def Obligations.SystemRegisterAndMonitorResults : Prop := SystemRegisterResults ∧ MonitorResults

/-- Traps raised and returned from by instructions, and the privileged instructions. -/
def Obligations.TrapAndPrivilegedResults : Prop := TrapInstructionResults ∧ PrivilegedResults

/-- Banks, at fire and as their mode changes. -/
def Obligations.BankBehaviour : Prop := BankResults ∧ BankEvents

/-- Transfers, at fire and as the engine carries them out. -/
def Obligations.TransferBehaviour : Prop := TransferResults ∧ TransferEvents

/-- Context commands and the watchdog. -/
def Obligations.ContextAndWatchdogEvents : Prop := ContextCommands ∧ WatchdogEvents

/-- Fetches, withdrawals, responses, scratch. -/
def Obligations.LineAndResponseEvents : Prop := LineEvents ∧ ResponseEvents

/-- Group words and messages. -/
def Obligations.GroupAndMessageEvents : Prop := GroupEvents ∧ MessageEvents

/-- Words written out from the encodings decode to their instructions; blocks and slices are checked. -/
def Obligations.WordsAndBlocksRead : Prop := WrittenWordsDecode ∧ BlocksAndSlicesChecked
end

