-- ==== Sys2Proof/Laws/State.lean ====
section
/-!
SUPPORT. What each update of the state, of its architectural part and of what is in flight leaves alone: one lemma per field per
update, true by unfolding.
-/
namespace Sys2Proof.Machine

/-! ### State -/

@[simp] theorem State.mapSys_mem (s : State) (h : Sys → Sys) : (s.mapSys h).mem = s.mem := rfl
@[simp] theorem State.mapSys_greg (s : State) (h : Sys → Sys) : (s.mapSys h).greg = s.greg := rfl
@[simp] theorem State.mapSys_sys (s : State) (h : Sys → Sys) : (s.mapSys h).sys = h s.sys := rfl
@[simp] theorem State.mapSys_fly (s : State) (h : Sys → Sys) : (s.mapSys h).fly = s.fly := rfl
@[simp] theorem State.mapFly_mem (s : State) (h : Fly → Fly) : (s.mapFly h).mem = s.mem := rfl
@[simp] theorem State.mapFly_greg (s : State) (h : Fly → Fly) : (s.mapFly h).greg = s.greg := rfl
@[simp] theorem State.mapFly_sys (s : State) (h : Fly → Fly) : (s.mapFly h).sys = s.sys := rfl
@[simp] theorem State.mapFly_fly (s : State) (h : Fly → Fly) : (s.mapFly h).fly = h s.fly := rfl
@[simp] theorem State.sched_mem (s : State) (n : Nat) (i : Instr) (e : Ev) : (s.sched n i e).mem = s.mem := rfl
@[simp] theorem State.sched_greg (s : State) (n : Nat) (i : Instr) (e : Ev) : (s.sched n i e).greg = s.greg := rfl
@[simp] theorem State.sched_sys (s : State) (n : Nat) (i : Instr) (e : Ev) : (s.sched n i e).sys = s.sys := rfl
@[simp] theorem State.sched_fly (s : State) (n : Nat) (i : Instr) (e : Ev) : (s.sched n i e).fly = s.fly.event n i e := rfl
@[simp] theorem State.setRegs_mem (s : State) (c f : Nat) (r : Regs) : (s.setRegs c f r).mem = s.mem := rfl
@[simp] theorem State.setRegs_greg (s : State) (c f : Nat) (r : Regs) : (s.setRegs c f r).greg = tabSet [] s.greg (tkey c f) r := rfl
@[simp] theorem State.setRegs_sys (s : State) (c f : Nat) (r : Regs) : (s.setRegs c f r).sys = s.sys := rfl
@[simp] theorem State.setRegs_fly (s : State) (c f : Nat) (r : Regs) : (s.setRegs c f r).fly = s.fly := rfl
@[simp] theorem State.setReg_mem (s : State) (c f n : Nat) (v : Word) : (s.setReg c f n v).mem = s.mem := by
  unfold State.setReg; split <;> rfl
@[simp] theorem State.setReg_sys (s : State) (c f n : Nat) (v : Word) : (s.setReg c f n v).sys = s.sys := by
  unfold State.setReg; split <;> rfl
@[simp] theorem State.setReg_fly (s : State) (c f n : Nat) (v : Word) : (s.setReg c f n v).fly = s.fly := by
  unfold State.setReg; split <;> rfl

/-! ### What is in flight -/

@[simp] theorem Fly.setInst_cur (f : Fly) (c k : Nat) (v : Inst) : (f.setInst c k v).cur = f.cur := rfl
@[simp] theorem Fly.setInst_ev (f : Fly) (c k : Nat) (v : Inst) : (f.setInst c k v).ev = f.ev := rfl
@[simp] theorem Fly.setInst_agenda (f : Fly) (c k : Nat) (v : Inst) : (f.setInst c k v).agenda = f.agenda := rfl
@[simp] theorem Fly.setInst_delays (f : Fly) (c k : Nat) (v : Inst) : (f.setInst c k v).delays = f.delays := rfl
@[simp] theorem Fly.setInst_nextSer (f : Fly) (c k : Nat) (v : Inst) : (f.setInst c k v).nextSer = f.nextSer := rfl
@[simp] theorem Fly.setInst_commits (f : Fly) (c k : Nat) (v : Inst) : (f.setInst c k v).commits = f.commits := rfl
@[simp] theorem Fly.setInst_accs (f : Fly) (c k : Nat) (v : Inst) : (f.setInst c k v).accs = f.accs := rfl
@[simp] theorem Fly.setInst_posts (f : Fly) (c k : Nat) (v : Inst) : (f.setInst c k v).posts = f.posts := rfl
@[simp] theorem Fly.setInst_sleeps (f : Fly) (c k : Nat) (v : Inst) : (f.setInst c k v).sleeps = f.sleeps := rfl
@[simp] theorem Fly.setInst_calm (f : Fly) (c k : Nat) (v : Inst) : (f.setInst c k v).calm = f.calm := rfl
@[simp] theorem Fly.delInst_cur (f : Fly) (c k : Nat) : (f.delInst c k).cur = f.cur := rfl
@[simp] theorem Fly.delInst_ev (f : Fly) (c k : Nat) : (f.delInst c k).ev = f.ev := rfl
@[simp] theorem Fly.delInst_agenda (f : Fly) (c k : Nat) : (f.delInst c k).agenda = f.agenda := rfl
@[simp] theorem Fly.delInst_delays (f : Fly) (c k : Nat) : (f.delInst c k).delays = f.delays := rfl
@[simp] theorem Fly.delInst_nextSer (f : Fly) (c k : Nat) : (f.delInst c k).nextSer = f.nextSer := rfl
@[simp] theorem Fly.delInst_commits (f : Fly) (c k : Nat) : (f.delInst c k).commits = f.commits := rfl
@[simp] theorem Fly.delInst_accs (f : Fly) (c k : Nat) : (f.delInst c k).accs = f.accs := rfl
@[simp] theorem Fly.delInst_posts (f : Fly) (c k : Nat) : (f.delInst c k).posts = f.posts := rfl
@[simp] theorem Fly.delInst_sleeps (f : Fly) (c k : Nat) : (f.delInst c k).sleeps = f.sleeps := rfl
@[simp] theorem Fly.delInst_calm (f : Fly) (c k : Nat) : (f.delInst c k).calm = f.calm := rfl
@[simp] theorem Fly.setAcc_cur (f : Fly) (n : Nat) (v : Access) : (f.setAcc n v).cur = f.cur := rfl
@[simp] theorem Fly.setAcc_ev (f : Fly) (n : Nat) (v : Access) : (f.setAcc n v).ev = f.ev := rfl
@[simp] theorem Fly.setAcc_agenda (f : Fly) (n : Nat) (v : Access) : (f.setAcc n v).agenda = f.agenda := rfl
@[simp] theorem Fly.setAcc_delays (f : Fly) (n : Nat) (v : Access) : (f.setAcc n v).delays = f.delays := rfl
@[simp] theorem Fly.setAcc_nextSer (f : Fly) (n : Nat) (v : Access) : (f.setAcc n v).nextSer = f.nextSer := rfl
@[simp] theorem Fly.setAcc_insts (f : Fly) (n : Nat) (v : Access) : (f.setAcc n v).insts = f.insts := rfl
@[simp] theorem Fly.setAcc_commits (f : Fly) (n : Nat) (v : Access) : (f.setAcc n v).commits = f.commits := rfl
@[simp] theorem Fly.setAcc_posts (f : Fly) (n : Nat) (v : Access) : (f.setAcc n v).posts = f.posts := rfl
@[simp] theorem Fly.setAcc_sleeps (f : Fly) (n : Nat) (v : Access) : (f.setAcc n v).sleeps = f.sleeps := rfl
@[simp] theorem Fly.setAcc_calm (f : Fly) (n : Nat) (v : Access) : (f.setAcc n v).calm = f.calm := rfl
@[simp] theorem Fly.delAcc_cur (f : Fly) (n : Nat) : (f.delAcc n).cur = f.cur := rfl
@[simp] theorem Fly.delAcc_ev (f : Fly) (n : Nat) : (f.delAcc n).ev = f.ev := rfl
@[simp] theorem Fly.delAcc_agenda (f : Fly) (n : Nat) : (f.delAcc n).agenda = f.agenda := rfl
@[simp] theorem Fly.delAcc_delays (f : Fly) (n : Nat) : (f.delAcc n).delays = f.delays := rfl
@[simp] theorem Fly.delAcc_nextSer (f : Fly) (n : Nat) : (f.delAcc n).nextSer = f.nextSer := rfl
@[simp] theorem Fly.delAcc_insts (f : Fly) (n : Nat) : (f.delAcc n).insts = f.insts := rfl
@[simp] theorem Fly.delAcc_commits (f : Fly) (n : Nat) : (f.delAcc n).commits = f.commits := rfl
@[simp] theorem Fly.delAcc_posts (f : Fly) (n : Nat) : (f.delAcc n).posts = f.posts := rfl
@[simp] theorem Fly.delAcc_sleeps (f : Fly) (n : Nat) : (f.delAcc n).sleeps = f.sleeps := rfl
@[simp] theorem Fly.delAcc_calm (f : Fly) (n : Nat) : (f.delAcc n).calm = f.calm := rfl
@[simp] theorem Fly.setPost_cur (f : Fly) (n : Nat) (v : Post) : (f.setPost n v).cur = f.cur := rfl
@[simp] theorem Fly.setPost_ev (f : Fly) (n : Nat) (v : Post) : (f.setPost n v).ev = f.ev := rfl
@[simp] theorem Fly.setPost_agenda (f : Fly) (n : Nat) (v : Post) : (f.setPost n v).agenda = f.agenda := rfl
@[simp] theorem Fly.setPost_delays (f : Fly) (n : Nat) (v : Post) : (f.setPost n v).delays = f.delays := rfl
@[simp] theorem Fly.setPost_nextSer (f : Fly) (n : Nat) (v : Post) : (f.setPost n v).nextSer = f.nextSer := rfl
@[simp] theorem Fly.setPost_insts (f : Fly) (n : Nat) (v : Post) : (f.setPost n v).insts = f.insts := rfl
@[simp] theorem Fly.setPost_commits (f : Fly) (n : Nat) (v : Post) : (f.setPost n v).commits = f.commits := rfl
@[simp] theorem Fly.setPost_accs (f : Fly) (n : Nat) (v : Post) : (f.setPost n v).accs = f.accs := rfl
@[simp] theorem Fly.setPost_sleeps (f : Fly) (n : Nat) (v : Post) : (f.setPost n v).sleeps = f.sleeps := rfl
@[simp] theorem Fly.setPost_calm (f : Fly) (n : Nat) (v : Post) : (f.setPost n v).calm = f.calm := rfl
@[simp] theorem Fly.delPost_cur (f : Fly) (n : Nat) : (f.delPost n).cur = f.cur := rfl
@[simp] theorem Fly.delPost_ev (f : Fly) (n : Nat) : (f.delPost n).ev = f.ev := rfl
@[simp] theorem Fly.delPost_agenda (f : Fly) (n : Nat) : (f.delPost n).agenda = f.agenda := rfl
@[simp] theorem Fly.delPost_delays (f : Fly) (n : Nat) : (f.delPost n).delays = f.delays := rfl
@[simp] theorem Fly.delPost_nextSer (f : Fly) (n : Nat) : (f.delPost n).nextSer = f.nextSer := rfl
@[simp] theorem Fly.delPost_insts (f : Fly) (n : Nat) : (f.delPost n).insts = f.insts := rfl
@[simp] theorem Fly.delPost_commits (f : Fly) (n : Nat) : (f.delPost n).commits = f.commits := rfl
@[simp] theorem Fly.delPost_accs (f : Fly) (n : Nat) : (f.delPost n).accs = f.accs := rfl
@[simp] theorem Fly.delPost_sleeps (f : Fly) (n : Nat) : (f.delPost n).sleeps = f.sleeps := rfl
@[simp] theorem Fly.delPost_calm (f : Fly) (n : Nat) : (f.delPost n).calm = f.calm := rfl
@[simp] theorem Fly.sched_cur (f : Fly) (n : Nat) (a : Act) : (f.sched n a).cur = f.cur := rfl
@[simp] theorem Fly.sched_ev (f : Fly) (n : Nat) (a : Act) : (f.sched n a).ev = f.ev := rfl
@[simp] theorem Fly.sched_delays (f : Fly) (n : Nat) (a : Act) : (f.sched n a).delays = f.delays := rfl
@[simp] theorem Fly.sched_nextSer (f : Fly) (n : Nat) (a : Act) : (f.sched n a).nextSer = f.nextSer := rfl
@[simp] theorem Fly.sched_insts (f : Fly) (n : Nat) (a : Act) : (f.sched n a).insts = f.insts := rfl
@[simp] theorem Fly.sched_commits (f : Fly) (n : Nat) (a : Act) : (f.sched n a).commits = f.commits := rfl
@[simp] theorem Fly.sched_accs (f : Fly) (n : Nat) (a : Act) : (f.sched n a).accs = f.accs := rfl
@[simp] theorem Fly.sched_posts (f : Fly) (n : Nat) (a : Act) : (f.sched n a).posts = f.posts := rfl
@[simp] theorem Fly.sched_sleeps (f : Fly) (n : Nat) (a : Act) : (f.sched n a).sleeps = f.sleeps := rfl
@[simp] theorem Fly.sched_calm (f : Fly) (n : Nat) (a : Act) : (f.sched n a).calm = f.calm := rfl
@[simp] theorem Fly.event_cur (f : Fly) (n : Nat) (i : Instr) (e : Ev) : (f.event n i e).cur = f.cur := rfl
@[simp] theorem Fly.event_ev (f : Fly) (n : Nat) (i : Instr) (e : Ev) : (f.event n i e).ev = f.ev := rfl
@[simp] theorem Fly.event_delays (f : Fly) (n : Nat) (i : Instr) (e : Ev) : (f.event n i e).delays = f.delays := rfl
@[simp] theorem Fly.event_nextSer (f : Fly) (n : Nat) (i : Instr) (e : Ev) : (f.event n i e).nextSer = f.nextSer := rfl
@[simp] theorem Fly.event_insts (f : Fly) (n : Nat) (i : Instr) (e : Ev) : (f.event n i e).insts = f.insts := rfl
@[simp] theorem Fly.event_commits (f : Fly) (n : Nat) (i : Instr) (e : Ev) : (f.event n i e).commits = f.commits := rfl
@[simp] theorem Fly.event_accs (f : Fly) (n : Nat) (i : Instr) (e : Ev) : (f.event n i e).accs = f.accs := rfl
@[simp] theorem Fly.event_posts (f : Fly) (n : Nat) (i : Instr) (e : Ev) : (f.event n i e).posts = f.posts := rfl
@[simp] theorem Fly.event_sleeps (f : Fly) (n : Nat) (i : Instr) (e : Ev) : (f.event n i e).sleeps = f.sleeps := rfl
@[simp] theorem Fly.event_calm (f : Fly) (n : Nat) (i : Instr) (e : Ev) : (f.event n i e).calm = f.calm := rfl
@[simp] theorem Fly.fresh_cur (f : Fly) : (f.fresh.2).cur = f.cur := rfl
@[simp] theorem Fly.fresh_ev (f : Fly) : (f.fresh.2).ev = f.ev := rfl
@[simp] theorem Fly.fresh_agenda (f : Fly) : (f.fresh.2).agenda = f.agenda := rfl
@[simp] theorem Fly.fresh_delays (f : Fly) : (f.fresh.2).delays = f.delays := rfl
@[simp] theorem Fly.fresh_insts (f : Fly) : (f.fresh.2).insts = f.insts := rfl
@[simp] theorem Fly.fresh_commits (f : Fly) : (f.fresh.2).commits = f.commits := rfl
@[simp] theorem Fly.fresh_accs (f : Fly) : (f.fresh.2).accs = f.accs := rfl
@[simp] theorem Fly.fresh_posts (f : Fly) : (f.fresh.2).posts = f.posts := rfl
@[simp] theorem Fly.fresh_sleeps (f : Fly) : (f.fresh.2).sleeps = f.sleeps := rfl
@[simp] theorem Fly.fresh_calm (f : Fly) : (f.fresh.2).calm = f.calm := rfl
@[simp] theorem Fly.draw_cur (f : Fly) : f.draw.2.cur = f.cur := by unfold Fly.draw; split <;> rfl
@[simp] theorem Fly.modInst_cur (f : Fly) (c : Firing) (h : Inst → Inst) : (f.modInst c h).cur = f.cur := by
  unfold Fly.modInst; split <;> rfl
@[simp] theorem Fly.addEff_cur (f : Fly) (e : Eff) : (f.addEff e).cur = f.cur := by simp [Fly.addEff]
@[simp] theorem Fly.draw_ev (f : Fly) : f.draw.2.ev = f.ev := by unfold Fly.draw; split <;> rfl
@[simp] theorem Fly.modInst_ev (f : Fly) (c : Firing) (h : Inst → Inst) : (f.modInst c h).ev = f.ev := by
  unfold Fly.modInst; split <;> rfl
@[simp] theorem Fly.addEff_ev (f : Fly) (e : Eff) : (f.addEff e).ev = f.ev := by simp [Fly.addEff]
@[simp] theorem Fly.draw_agenda (f : Fly) : f.draw.2.agenda = f.agenda := by unfold Fly.draw; split <;> rfl
@[simp] theorem Fly.modInst_agenda (f : Fly) (c : Firing) (h : Inst → Inst) : (f.modInst c h).agenda = f.agenda := by
  unfold Fly.modInst; split <;> rfl
@[simp] theorem Fly.addEff_agenda (f : Fly) (e : Eff) : (f.addEff e).agenda = f.agenda := by simp [Fly.addEff]
@[simp] theorem Fly.modInst_delays (f : Fly) (c : Firing) (h : Inst → Inst) : (f.modInst c h).delays = f.delays := by
  unfold Fly.modInst; split <;> rfl
@[simp] theorem Fly.addEff_delays (f : Fly) (e : Eff) : (f.addEff e).delays = f.delays := by simp [Fly.addEff]
@[simp] theorem Fly.draw_nextSer (f : Fly) : f.draw.2.nextSer = f.nextSer := by unfold Fly.draw; split <;> rfl
@[simp] theorem Fly.modInst_nextSer (f : Fly) (c : Firing) (h : Inst → Inst) : (f.modInst c h).nextSer = f.nextSer := by
  unfold Fly.modInst; split <;> rfl
@[simp] theorem Fly.addEff_nextSer (f : Fly) (e : Eff) : (f.addEff e).nextSer = f.nextSer := by simp [Fly.addEff]
@[simp] theorem Fly.draw_insts (f : Fly) : f.draw.2.insts = f.insts := by unfold Fly.draw; split <;> rfl
@[simp] theorem Fly.draw_commits (f : Fly) : f.draw.2.commits = f.commits := by unfold Fly.draw; split <;> rfl
@[simp] theorem Fly.modInst_commits (f : Fly) (c : Firing) (h : Inst → Inst) : (f.modInst c h).commits = f.commits := by
  unfold Fly.modInst; split <;> rfl
@[simp] theorem Fly.addEff_commits (f : Fly) (e : Eff) : (f.addEff e).commits = f.commits := by simp [Fly.addEff]
@[simp] theorem Fly.draw_accs (f : Fly) : f.draw.2.accs = f.accs := by unfold Fly.draw; split <;> rfl
@[simp] theorem Fly.modInst_accs (f : Fly) (c : Firing) (h : Inst → Inst) : (f.modInst c h).accs = f.accs := by
  unfold Fly.modInst; split <;> rfl
@[simp] theorem Fly.addEff_accs (f : Fly) (e : Eff) : (f.addEff e).accs = f.accs := by simp [Fly.addEff]
@[simp] theorem Fly.draw_posts (f : Fly) : f.draw.2.posts = f.posts := by unfold Fly.draw; split <;> rfl
@[simp] theorem Fly.modInst_posts (f : Fly) (c : Firing) (h : Inst → Inst) : (f.modInst c h).posts = f.posts := by
  unfold Fly.modInst; split <;> rfl
@[simp] theorem Fly.addEff_posts (f : Fly) (e : Eff) : (f.addEff e).posts = f.posts := by simp [Fly.addEff]
@[simp] theorem Fly.draw_sleeps (f : Fly) : f.draw.2.sleeps = f.sleeps := by unfold Fly.draw; split <;> rfl
@[simp] theorem Fly.modInst_sleeps (f : Fly) (c : Firing) (h : Inst → Inst) : (f.modInst c h).sleeps = f.sleeps := by
  unfold Fly.modInst; split <;> rfl
@[simp] theorem Fly.addEff_sleeps (f : Fly) (e : Eff) : (f.addEff e).sleeps = f.sleeps := by simp [Fly.addEff]
@[simp] theorem Fly.draw_calm (f : Fly) : f.draw.2.calm = f.calm := by unfold Fly.draw; split <;> rfl
@[simp] theorem Fly.modInst_calm (f : Fly) (c : Firing) (h : Inst → Inst) : (f.modInst c h).calm = f.calm := by
  unfold Fly.modInst; split <;> rfl
@[simp] theorem Fly.addEff_calm (f : Fly) (e : Eff) : (f.addEff e).calm = f.calm := by simp [Fly.addEff]

/-! ### The architectural state -/

@[simp] theorem Sys.setCtx_now (y : Sys) (x : Nat) (v : Ctx) : (y.setCtx x v).now = y.now := rfl
@[simp] theorem Sys.setCtx_held (y : Sys) (x : Nat) (v : Ctx) : (y.setCtx x v).held = y.held := rfl
@[simp] theorem Sys.setCtx_firmwareOk (y : Sys) (x : Nat) (v : Ctx) : (y.setCtx x v).firmwareOk = y.firmwareOk := rfl
@[simp] theorem Sys.setCtx_cxsel (y : Sys) (x : Nat) (v : Ctx) : (y.setCtx x v).cxsel = y.cxsel := rfl
@[simp] theorem Sys.setCtx_cxStatus (y : Sys) (x : Nat) (v : Ctx) : (y.setCtx x v).cxStatus = y.cxStatus := rfl
@[simp] theorem Sys.setCtx_cxSeq (y : Sys) (x : Nat) (v : Ctx) : (y.setCtx x v).cxSeq = y.cxSeq := rfl
@[simp] theorem Sys.setCtx_ctsel (y : Sys) (x : Nat) (v : Ctx) : (y.setCtx x v).ctsel = y.ctsel := rfl
@[simp] theorem Sys.setCtx_lattol (y : Sys) (x : Nat) (v : Ctx) : (y.setCtx x v).lattol = y.lattol := rfl
@[simp] theorem Sys.setCtx_pstate (y : Sys) (x : Nat) (v : Ctx) : (y.setCtx x v).pstate = y.pstate := rfl
@[simp] theorem Sys.setCtx_powerLimit (y : Sys) (x : Nat) (v : Ctx) : (y.setCtx x v).powerLimit = y.powerLimit := rfl
@[simp] theorem Sys.setCtx_thermal (y : Sys) (x : Nat) (v : Ctx) : (y.setCtx x v).thermal = y.thermal := rfl
@[simp] theorem Sys.setCtx_lnk (y : Sys) (x : Nat) (v : Ctx) : (y.setCtx x v).lnk = y.lnk := rfl
@[simp] theorem Sys.setCtx_msOwner (y : Sys) (x : Nat) (v : Ctx) : (y.setCtx x v).msOwner = y.msOwner := rfl
@[simp] theorem Sys.setCtx_msBusy (y : Sys) (x : Nat) (v : Ctx) : (y.setCtx x v).msBusy = y.msBusy := rfl
@[simp] theorem Sys.setCtx_irqs (y : Sys) (x : Nat) (v : Ctx) : (y.setCtx x v).irqs = y.irqs := rfl
@[simp] theorem Sys.setCtx_fwStatus (y : Sys) (x : Nat) (v : Ctx) : (y.setCtx x v).fwStatus = y.fwStatus := rfl
@[simp] theorem Sys.setCtx_mons (y : Sys) (x : Nat) (v : Ctx) : (y.setCtx x v).mons = y.mons := rfl
@[simp] theorem Sys.setCtx_tickets (y : Sys) (x : Nat) (v : Ctx) : (y.setCtx x v).tickets = y.tickets := rfl
@[simp] theorem Sys.setCtx_nextTicket (y : Sys) (x : Nat) (v : Ctx) : (y.setCtx x v).nextTicket = y.nextTicket := rfl
@[simp] theorem Sys.setCtx_faultq (y : Sys) (x : Nat) (v : Ctx) : (y.setCtx x v).faultq = y.faultq := rfl
@[simp] theorem Sys.setCtx_shoots (y : Sys) (x : Nat) (v : Ctx) : (y.setCtx x v).shoots = y.shoots := rfl
@[simp] theorem Sys.setCtx_relats (y : Sys) (x : Nat) (v : Ctx) : (y.setCtx x v).relats = y.relats := rfl
@[simp] theorem Sys.setCtx_loads (y : Sys) (x : Nat) (v : Ctx) : (y.setCtx x v).loads = y.loads := rfl
@[simp] theorem Sys.setCtx_seals (y : Sys) (x : Nat) (v : Ctx) : (y.setCtx x v).seals = y.seals := rfl
@[simp] theorem Sys.setCtx_reports (y : Sys) (x : Nat) (v : Ctx) : (y.setCtx x v).reports = y.reports := rfl
@[simp] theorem Sys.setCtx_hostReads (y : Sys) (x : Nat) (v : Ctx) : (y.setCtx x v).hostReads = y.hostReads := rfl
@[simp] theorem Sys.setCtx_mgmtStatus (y : Sys) (x : Nat) (v : Ctx) : (y.setCtx x v).mgmtStatus = y.mgmtStatus := rfl
@[simp] theorem Sys.setCtx_freeIx (y : Sys) (x : Nat) (v : Ctx) : (y.setCtx x v).freeIx = y.freeIx := rfl
@[simp] theorem Sys.setCtx_fetches (y : Sys) (x : Nat) (v : Ctx) : (y.setCtx x v).fetches = y.fetches := rfl
@[simp] theorem Sys.setCtx_thrs (y : Sys) (x : Nat) (v : Ctx) : (y.setCtx x v).thrs = y.thrs := rfl
@[simp] theorem Sys.setCtx_clus (y : Sys) (x : Nat) (v : Ctx) : (y.setCtx x v).clus = y.clus := rfl
@[simp] theorem Sys.setCtx_regions (y : Sys) (x : Nat) (v : Ctx) : (y.setCtx x v).regions = y.regions := rfl
@[simp] theorem Sys.setCtx_parks (y : Sys) (x : Nat) (v : Ctx) : (y.setCtx x v).parks = y.parks := rfl
@[simp] theorem Sys.setCtx_frames (y : Sys) (x : Nat) (v : Ctx) : (y.setCtx x v).frames = y.frames := rfl
@[simp] theorem Sys.setCtx_ctab (y : Sys) (x : Nat) (v : Ctx) : (y.setCtx x v).ctab = y.ctab := rfl
@[simp] theorem Sys.setCtx_bars (y : Sys) (x : Nat) (v : Ctx) : (y.setCtx x v).bars = y.bars := rfl
@[simp] theorem Sys.setCtx_lcount (y : Sys) (x : Nat) (v : Ctx) : (y.setCtx x v).lcount = y.lcount := rfl
@[simp] theorem Sys.setCtx_banks (y : Sys) (x : Nat) (v : Ctx) : (y.setCtx x v).banks = y.banks := rfl
@[simp] theorem Sys.setCtx_scratch (y : Sys) (x : Nat) (v : Ctx) : (y.setCtx x v).scratch = y.scratch := rfl
@[simp] theorem Sys.setCtx_xfers (y : Sys) (x : Nat) (v : Ctx) : (y.setCtx x v).xfers = y.xfers := rfl
@[simp] theorem Sys.setCtx_paccs (y : Sys) (x : Nat) (v : Ctx) : (y.setCtx x v).paccs = y.paccs := rfl
@[simp] theorem Sys.setCtx_lanes (y : Sys) (x : Nat) (v : Ctx) : (y.setCtx x v).lanes = y.lanes := rfl
@[simp] theorem Sys.setCtx_pins (y : Sys) (x : Nat) (v : Ctx) : (y.setCtx x v).pins = y.pins := rfl
@[simp] theorem Sys.setCtx_tiles (y : Sys) (x : Nat) (v : Ctx) : (y.setCtx x v).tiles = y.tiles := rfl
@[simp] theorem Sys.setCtx_ments (y : Sys) (x : Nat) (v : Ctx) : (y.setCtx x v).ments = y.ments := rfl
@[simp] theorem Sys.setCtx_tslots (y : Sys) (x : Nat) (v : Ctx) : (y.setCtx x v).tslots = y.tslots := rfl
@[simp] theorem Sys.setCtx_rings (y : Sys) (x : Nat) (v : Ctx) : (y.setCtx x v).rings = y.rings := rfl
@[simp] theorem Sys.setCtx_links (y : Sys) (x : Nat) (v : Ctx) : (y.setCtx x v).links = y.links := rfl
@[simp] theorem Sys.setCtx_routers (y : Sys) (x : Nat) (v : Ctx) : (y.setCtx x v).routers = y.routers := rfl
@[simp] theorem Sys.setCtx_lines (y : Sys) (x : Nat) (v : Ctx) : (y.setCtx x v).lines = y.lines := rfl
@[simp] theorem Sys.setCtx_descs (y : Sys) (x : Nat) (v : Ctx) : (y.setCtx x v).descs = y.descs := rfl
@[simp] theorem Sys.setCtx_spill (y : Sys) (x : Nat) (v : Ctx) : (y.setCtx x v).spill = y.spill := rfl
@[simp] theorem Sys.setCtx_portTs (y : Sys) (x : Nat) (v : Ctx) : (y.setCtx x v).portTs = y.portTs := rfl
@[simp] theorem Sys.setThr_now (y : Sys) (c f : Nat) (v : Thr) : (y.setThr c f v).now = y.now := rfl
@[simp] theorem Sys.setThr_held (y : Sys) (c f : Nat) (v : Thr) : (y.setThr c f v).held = y.held := rfl
@[simp] theorem Sys.setThr_firmwareOk (y : Sys) (c f : Nat) (v : Thr) : (y.setThr c f v).firmwareOk = y.firmwareOk := rfl
@[simp] theorem Sys.setThr_cxsel (y : Sys) (c f : Nat) (v : Thr) : (y.setThr c f v).cxsel = y.cxsel := rfl
@[simp] theorem Sys.setThr_cxStatus (y : Sys) (c f : Nat) (v : Thr) : (y.setThr c f v).cxStatus = y.cxStatus := rfl
@[simp] theorem Sys.setThr_cxSeq (y : Sys) (c f : Nat) (v : Thr) : (y.setThr c f v).cxSeq = y.cxSeq := rfl
@[simp] theorem Sys.setThr_ctsel (y : Sys) (c f : Nat) (v : Thr) : (y.setThr c f v).ctsel = y.ctsel := rfl
@[simp] theorem Sys.setThr_lattol (y : Sys) (c f : Nat) (v : Thr) : (y.setThr c f v).lattol = y.lattol := rfl
@[simp] theorem Sys.setThr_pstate (y : Sys) (c f : Nat) (v : Thr) : (y.setThr c f v).pstate = y.pstate := rfl
@[simp] theorem Sys.setThr_powerLimit (y : Sys) (c f : Nat) (v : Thr) : (y.setThr c f v).powerLimit = y.powerLimit := rfl
@[simp] theorem Sys.setThr_thermal (y : Sys) (c f : Nat) (v : Thr) : (y.setThr c f v).thermal = y.thermal := rfl
@[simp] theorem Sys.setThr_lnk (y : Sys) (c f : Nat) (v : Thr) : (y.setThr c f v).lnk = y.lnk := rfl
@[simp] theorem Sys.setThr_msOwner (y : Sys) (c f : Nat) (v : Thr) : (y.setThr c f v).msOwner = y.msOwner := rfl
@[simp] theorem Sys.setThr_msBusy (y : Sys) (c f : Nat) (v : Thr) : (y.setThr c f v).msBusy = y.msBusy := rfl
@[simp] theorem Sys.setThr_irqs (y : Sys) (c f : Nat) (v : Thr) : (y.setThr c f v).irqs = y.irqs := rfl
@[simp] theorem Sys.setThr_fwStatus (y : Sys) (c f : Nat) (v : Thr) : (y.setThr c f v).fwStatus = y.fwStatus := rfl
@[simp] theorem Sys.setThr_mons (y : Sys) (c f : Nat) (v : Thr) : (y.setThr c f v).mons = y.mons := rfl
@[simp] theorem Sys.setThr_tickets (y : Sys) (c f : Nat) (v : Thr) : (y.setThr c f v).tickets = y.tickets := rfl
@[simp] theorem Sys.setThr_nextTicket (y : Sys) (c f : Nat) (v : Thr) : (y.setThr c f v).nextTicket = y.nextTicket := rfl
@[simp] theorem Sys.setThr_faultq (y : Sys) (c f : Nat) (v : Thr) : (y.setThr c f v).faultq = y.faultq := rfl
@[simp] theorem Sys.setThr_shoots (y : Sys) (c f : Nat) (v : Thr) : (y.setThr c f v).shoots = y.shoots := rfl
@[simp] theorem Sys.setThr_relats (y : Sys) (c f : Nat) (v : Thr) : (y.setThr c f v).relats = y.relats := rfl
@[simp] theorem Sys.setThr_loads (y : Sys) (c f : Nat) (v : Thr) : (y.setThr c f v).loads = y.loads := rfl
@[simp] theorem Sys.setThr_seals (y : Sys) (c f : Nat) (v : Thr) : (y.setThr c f v).seals = y.seals := rfl
@[simp] theorem Sys.setThr_reports (y : Sys) (c f : Nat) (v : Thr) : (y.setThr c f v).reports = y.reports := rfl
@[simp] theorem Sys.setThr_hostReads (y : Sys) (c f : Nat) (v : Thr) : (y.setThr c f v).hostReads = y.hostReads := rfl
@[simp] theorem Sys.setThr_mgmtStatus (y : Sys) (c f : Nat) (v : Thr) : (y.setThr c f v).mgmtStatus = y.mgmtStatus := rfl
@[simp] theorem Sys.setThr_freeIx (y : Sys) (c f : Nat) (v : Thr) : (y.setThr c f v).freeIx = y.freeIx := rfl
@[simp] theorem Sys.setThr_fetches (y : Sys) (c f : Nat) (v : Thr) : (y.setThr c f v).fetches = y.fetches := rfl
@[simp] theorem Sys.setThr_ctxs (y : Sys) (c f : Nat) (v : Thr) : (y.setThr c f v).ctxs = y.ctxs := rfl
@[simp] theorem Sys.setThr_clus (y : Sys) (c f : Nat) (v : Thr) : (y.setThr c f v).clus = y.clus := rfl
@[simp] theorem Sys.setThr_regions (y : Sys) (c f : Nat) (v : Thr) : (y.setThr c f v).regions = y.regions := rfl
@[simp] theorem Sys.setThr_parks (y : Sys) (c f : Nat) (v : Thr) : (y.setThr c f v).parks = y.parks := rfl
@[simp] theorem Sys.setThr_frames (y : Sys) (c f : Nat) (v : Thr) : (y.setThr c f v).frames = y.frames := rfl
@[simp] theorem Sys.setThr_ctab (y : Sys) (c f : Nat) (v : Thr) : (y.setThr c f v).ctab = y.ctab := rfl
@[simp] theorem Sys.setThr_bars (y : Sys) (c f : Nat) (v : Thr) : (y.setThr c f v).bars = y.bars := rfl
@[simp] theorem Sys.setThr_lcount (y : Sys) (c f : Nat) (v : Thr) : (y.setThr c f v).lcount = y.lcount := rfl
@[simp] theorem Sys.setThr_banks (y : Sys) (c f : Nat) (v : Thr) : (y.setThr c f v).banks = y.banks := rfl
@[simp] theorem Sys.setThr_scratch (y : Sys) (c f : Nat) (v : Thr) : (y.setThr c f v).scratch = y.scratch := rfl
@[simp] theorem Sys.setThr_xfers (y : Sys) (c f : Nat) (v : Thr) : (y.setThr c f v).xfers = y.xfers := rfl
@[simp] theorem Sys.setThr_paccs (y : Sys) (c f : Nat) (v : Thr) : (y.setThr c f v).paccs = y.paccs := rfl
@[simp] theorem Sys.setThr_lanes (y : Sys) (c f : Nat) (v : Thr) : (y.setThr c f v).lanes = y.lanes := rfl
@[simp] theorem Sys.setThr_pins (y : Sys) (c f : Nat) (v : Thr) : (y.setThr c f v).pins = y.pins := rfl
@[simp] theorem Sys.setThr_tiles (y : Sys) (c f : Nat) (v : Thr) : (y.setThr c f v).tiles = y.tiles := rfl
@[simp] theorem Sys.setThr_ments (y : Sys) (c f : Nat) (v : Thr) : (y.setThr c f v).ments = y.ments := rfl
@[simp] theorem Sys.setThr_tslots (y : Sys) (c f : Nat) (v : Thr) : (y.setThr c f v).tslots = y.tslots := rfl
@[simp] theorem Sys.setThr_rings (y : Sys) (c f : Nat) (v : Thr) : (y.setThr c f v).rings = y.rings := rfl
@[simp] theorem Sys.setThr_links (y : Sys) (c f : Nat) (v : Thr) : (y.setThr c f v).links = y.links := rfl
@[simp] theorem Sys.setThr_routers (y : Sys) (c f : Nat) (v : Thr) : (y.setThr c f v).routers = y.routers := rfl
@[simp] theorem Sys.setThr_lines (y : Sys) (c f : Nat) (v : Thr) : (y.setThr c f v).lines = y.lines := rfl
@[simp] theorem Sys.setThr_descs (y : Sys) (c f : Nat) (v : Thr) : (y.setThr c f v).descs = y.descs := rfl
@[simp] theorem Sys.setThr_spill (y : Sys) (c f : Nat) (v : Thr) : (y.setThr c f v).spill = y.spill := rfl
@[simp] theorem Sys.setThr_portTs (y : Sys) (c f : Nat) (v : Thr) : (y.setThr c f v).portTs = y.portTs := rfl
@[simp] theorem Sys.setClu_now (y : Sys) (c : Nat) (v : Clu) : (y.setClu c v).now = y.now := rfl
@[simp] theorem Sys.setClu_held (y : Sys) (c : Nat) (v : Clu) : (y.setClu c v).held = y.held := rfl
@[simp] theorem Sys.setClu_firmwareOk (y : Sys) (c : Nat) (v : Clu) : (y.setClu c v).firmwareOk = y.firmwareOk := rfl
@[simp] theorem Sys.setClu_cxsel (y : Sys) (c : Nat) (v : Clu) : (y.setClu c v).cxsel = y.cxsel := rfl
@[simp] theorem Sys.setClu_cxStatus (y : Sys) (c : Nat) (v : Clu) : (y.setClu c v).cxStatus = y.cxStatus := rfl
@[simp] theorem Sys.setClu_cxSeq (y : Sys) (c : Nat) (v : Clu) : (y.setClu c v).cxSeq = y.cxSeq := rfl
@[simp] theorem Sys.setClu_ctsel (y : Sys) (c : Nat) (v : Clu) : (y.setClu c v).ctsel = y.ctsel := rfl
@[simp] theorem Sys.setClu_lattol (y : Sys) (c : Nat) (v : Clu) : (y.setClu c v).lattol = y.lattol := rfl
@[simp] theorem Sys.setClu_pstate (y : Sys) (c : Nat) (v : Clu) : (y.setClu c v).pstate = y.pstate := rfl
@[simp] theorem Sys.setClu_powerLimit (y : Sys) (c : Nat) (v : Clu) : (y.setClu c v).powerLimit = y.powerLimit := rfl
@[simp] theorem Sys.setClu_thermal (y : Sys) (c : Nat) (v : Clu) : (y.setClu c v).thermal = y.thermal := rfl
@[simp] theorem Sys.setClu_lnk (y : Sys) (c : Nat) (v : Clu) : (y.setClu c v).lnk = y.lnk := rfl
@[simp] theorem Sys.setClu_msOwner (y : Sys) (c : Nat) (v : Clu) : (y.setClu c v).msOwner = y.msOwner := rfl
@[simp] theorem Sys.setClu_msBusy (y : Sys) (c : Nat) (v : Clu) : (y.setClu c v).msBusy = y.msBusy := rfl
@[simp] theorem Sys.setClu_irqs (y : Sys) (c : Nat) (v : Clu) : (y.setClu c v).irqs = y.irqs := rfl
@[simp] theorem Sys.setClu_fwStatus (y : Sys) (c : Nat) (v : Clu) : (y.setClu c v).fwStatus = y.fwStatus := rfl
@[simp] theorem Sys.setClu_mons (y : Sys) (c : Nat) (v : Clu) : (y.setClu c v).mons = y.mons := rfl
@[simp] theorem Sys.setClu_tickets (y : Sys) (c : Nat) (v : Clu) : (y.setClu c v).tickets = y.tickets := rfl
@[simp] theorem Sys.setClu_nextTicket (y : Sys) (c : Nat) (v : Clu) : (y.setClu c v).nextTicket = y.nextTicket := rfl
@[simp] theorem Sys.setClu_faultq (y : Sys) (c : Nat) (v : Clu) : (y.setClu c v).faultq = y.faultq := rfl
@[simp] theorem Sys.setClu_shoots (y : Sys) (c : Nat) (v : Clu) : (y.setClu c v).shoots = y.shoots := rfl
@[simp] theorem Sys.setClu_relats (y : Sys) (c : Nat) (v : Clu) : (y.setClu c v).relats = y.relats := rfl
@[simp] theorem Sys.setClu_loads (y : Sys) (c : Nat) (v : Clu) : (y.setClu c v).loads = y.loads := rfl
@[simp] theorem Sys.setClu_seals (y : Sys) (c : Nat) (v : Clu) : (y.setClu c v).seals = y.seals := rfl
@[simp] theorem Sys.setClu_reports (y : Sys) (c : Nat) (v : Clu) : (y.setClu c v).reports = y.reports := rfl
@[simp] theorem Sys.setClu_hostReads (y : Sys) (c : Nat) (v : Clu) : (y.setClu c v).hostReads = y.hostReads := rfl
@[simp] theorem Sys.setClu_mgmtStatus (y : Sys) (c : Nat) (v : Clu) : (y.setClu c v).mgmtStatus = y.mgmtStatus := rfl
@[simp] theorem Sys.setClu_freeIx (y : Sys) (c : Nat) (v : Clu) : (y.setClu c v).freeIx = y.freeIx := rfl
@[simp] theorem Sys.setClu_fetches (y : Sys) (c : Nat) (v : Clu) : (y.setClu c v).fetches = y.fetches := rfl
@[simp] theorem Sys.setClu_ctxs (y : Sys) (c : Nat) (v : Clu) : (y.setClu c v).ctxs = y.ctxs := rfl
@[simp] theorem Sys.setClu_thrs (y : Sys) (c : Nat) (v : Clu) : (y.setClu c v).thrs = y.thrs := rfl
@[simp] theorem Sys.setClu_regions (y : Sys) (c : Nat) (v : Clu) : (y.setClu c v).regions = y.regions := rfl
@[simp] theorem Sys.setClu_parks (y : Sys) (c : Nat) (v : Clu) : (y.setClu c v).parks = y.parks := rfl
@[simp] theorem Sys.setClu_frames (y : Sys) (c : Nat) (v : Clu) : (y.setClu c v).frames = y.frames := rfl
@[simp] theorem Sys.setClu_ctab (y : Sys) (c : Nat) (v : Clu) : (y.setClu c v).ctab = y.ctab := rfl
@[simp] theorem Sys.setClu_bars (y : Sys) (c : Nat) (v : Clu) : (y.setClu c v).bars = y.bars := rfl
@[simp] theorem Sys.setClu_lcount (y : Sys) (c : Nat) (v : Clu) : (y.setClu c v).lcount = y.lcount := rfl
@[simp] theorem Sys.setClu_banks (y : Sys) (c : Nat) (v : Clu) : (y.setClu c v).banks = y.banks := rfl
@[simp] theorem Sys.setClu_scratch (y : Sys) (c : Nat) (v : Clu) : (y.setClu c v).scratch = y.scratch := rfl
@[simp] theorem Sys.setClu_xfers (y : Sys) (c : Nat) (v : Clu) : (y.setClu c v).xfers = y.xfers := rfl
@[simp] theorem Sys.setClu_paccs (y : Sys) (c : Nat) (v : Clu) : (y.setClu c v).paccs = y.paccs := rfl
@[simp] theorem Sys.setClu_lanes (y : Sys) (c : Nat) (v : Clu) : (y.setClu c v).lanes = y.lanes := rfl
@[simp] theorem Sys.setClu_pins (y : Sys) (c : Nat) (v : Clu) : (y.setClu c v).pins = y.pins := rfl
@[simp] theorem Sys.setClu_tiles (y : Sys) (c : Nat) (v : Clu) : (y.setClu c v).tiles = y.tiles := rfl
@[simp] theorem Sys.setClu_ments (y : Sys) (c : Nat) (v : Clu) : (y.setClu c v).ments = y.ments := rfl
@[simp] theorem Sys.setClu_tslots (y : Sys) (c : Nat) (v : Clu) : (y.setClu c v).tslots = y.tslots := rfl
@[simp] theorem Sys.setClu_rings (y : Sys) (c : Nat) (v : Clu) : (y.setClu c v).rings = y.rings := rfl
@[simp] theorem Sys.setClu_links (y : Sys) (c : Nat) (v : Clu) : (y.setClu c v).links = y.links := rfl
@[simp] theorem Sys.setClu_routers (y : Sys) (c : Nat) (v : Clu) : (y.setClu c v).routers = y.routers := rfl
@[simp] theorem Sys.setClu_lines (y : Sys) (c : Nat) (v : Clu) : (y.setClu c v).lines = y.lines := rfl
@[simp] theorem Sys.setClu_descs (y : Sys) (c : Nat) (v : Clu) : (y.setClu c v).descs = y.descs := rfl
@[simp] theorem Sys.setClu_spill (y : Sys) (c : Nat) (v : Clu) : (y.setClu c v).spill = y.spill := rfl
@[simp] theorem Sys.setClu_portTs (y : Sys) (c : Nat) (v : Clu) : (y.setClu c v).portTs = y.portTs := rfl
@[simp] theorem Sys.setRegion_now (y : Sys) (c r : Nat) (v : Region) : (y.setRegion c r v).now = y.now := rfl
@[simp] theorem Sys.setRegion_held (y : Sys) (c r : Nat) (v : Region) : (y.setRegion c r v).held = y.held := rfl
@[simp] theorem Sys.setRegion_firmwareOk (y : Sys) (c r : Nat) (v : Region) : (y.setRegion c r v).firmwareOk = y.firmwareOk := rfl
@[simp] theorem Sys.setRegion_cxsel (y : Sys) (c r : Nat) (v : Region) : (y.setRegion c r v).cxsel = y.cxsel := rfl
@[simp] theorem Sys.setRegion_cxStatus (y : Sys) (c r : Nat) (v : Region) : (y.setRegion c r v).cxStatus = y.cxStatus := rfl
@[simp] theorem Sys.setRegion_cxSeq (y : Sys) (c r : Nat) (v : Region) : (y.setRegion c r v).cxSeq = y.cxSeq := rfl
@[simp] theorem Sys.setRegion_ctsel (y : Sys) (c r : Nat) (v : Region) : (y.setRegion c r v).ctsel = y.ctsel := rfl
@[simp] theorem Sys.setRegion_lattol (y : Sys) (c r : Nat) (v : Region) : (y.setRegion c r v).lattol = y.lattol := rfl
@[simp] theorem Sys.setRegion_pstate (y : Sys) (c r : Nat) (v : Region) : (y.setRegion c r v).pstate = y.pstate := rfl
@[simp] theorem Sys.setRegion_powerLimit (y : Sys) (c r : Nat) (v : Region) : (y.setRegion c r v).powerLimit = y.powerLimit := rfl
@[simp] theorem Sys.setRegion_thermal (y : Sys) (c r : Nat) (v : Region) : (y.setRegion c r v).thermal = y.thermal := rfl
@[simp] theorem Sys.setRegion_lnk (y : Sys) (c r : Nat) (v : Region) : (y.setRegion c r v).lnk = y.lnk := rfl
@[simp] theorem Sys.setRegion_msOwner (y : Sys) (c r : Nat) (v : Region) : (y.setRegion c r v).msOwner = y.msOwner := rfl
@[simp] theorem Sys.setRegion_msBusy (y : Sys) (c r : Nat) (v : Region) : (y.setRegion c r v).msBusy = y.msBusy := rfl
@[simp] theorem Sys.setRegion_irqs (y : Sys) (c r : Nat) (v : Region) : (y.setRegion c r v).irqs = y.irqs := rfl
@[simp] theorem Sys.setRegion_fwStatus (y : Sys) (c r : Nat) (v : Region) : (y.setRegion c r v).fwStatus = y.fwStatus := rfl
@[simp] theorem Sys.setRegion_mons (y : Sys) (c r : Nat) (v : Region) : (y.setRegion c r v).mons = y.mons := rfl
@[simp] theorem Sys.setRegion_tickets (y : Sys) (c r : Nat) (v : Region) : (y.setRegion c r v).tickets = y.tickets := rfl
@[simp] theorem Sys.setRegion_nextTicket (y : Sys) (c r : Nat) (v : Region) : (y.setRegion c r v).nextTicket = y.nextTicket := rfl
@[simp] theorem Sys.setRegion_faultq (y : Sys) (c r : Nat) (v : Region) : (y.setRegion c r v).faultq = y.faultq := rfl
@[simp] theorem Sys.setRegion_shoots (y : Sys) (c r : Nat) (v : Region) : (y.setRegion c r v).shoots = y.shoots := rfl
@[simp] theorem Sys.setRegion_relats (y : Sys) (c r : Nat) (v : Region) : (y.setRegion c r v).relats = y.relats := rfl
@[simp] theorem Sys.setRegion_loads (y : Sys) (c r : Nat) (v : Region) : (y.setRegion c r v).loads = y.loads := rfl
@[simp] theorem Sys.setRegion_seals (y : Sys) (c r : Nat) (v : Region) : (y.setRegion c r v).seals = y.seals := rfl
@[simp] theorem Sys.setRegion_reports (y : Sys) (c r : Nat) (v : Region) : (y.setRegion c r v).reports = y.reports := rfl
@[simp] theorem Sys.setRegion_hostReads (y : Sys) (c r : Nat) (v : Region) : (y.setRegion c r v).hostReads = y.hostReads := rfl
@[simp] theorem Sys.setRegion_mgmtStatus (y : Sys) (c r : Nat) (v : Region) : (y.setRegion c r v).mgmtStatus = y.mgmtStatus := rfl
@[simp] theorem Sys.setRegion_freeIx (y : Sys) (c r : Nat) (v : Region) : (y.setRegion c r v).freeIx = y.freeIx := rfl
@[simp] theorem Sys.setRegion_fetches (y : Sys) (c r : Nat) (v : Region) : (y.setRegion c r v).fetches = y.fetches := rfl
@[simp] theorem Sys.setRegion_ctxs (y : Sys) (c r : Nat) (v : Region) : (y.setRegion c r v).ctxs = y.ctxs := rfl
@[simp] theorem Sys.setRegion_thrs (y : Sys) (c r : Nat) (v : Region) : (y.setRegion c r v).thrs = y.thrs := rfl
@[simp] theorem Sys.setRegion_clus (y : Sys) (c r : Nat) (v : Region) : (y.setRegion c r v).clus = y.clus := rfl
@[simp] theorem Sys.setRegion_parks (y : Sys) (c r : Nat) (v : Region) : (y.setRegion c r v).parks = y.parks := rfl
@[simp] theorem Sys.setRegion_frames (y : Sys) (c r : Nat) (v : Region) : (y.setRegion c r v).frames = y.frames := rfl
@[simp] theorem Sys.setRegion_ctab (y : Sys) (c r : Nat) (v : Region) : (y.setRegion c r v).ctab = y.ctab := rfl
@[simp] theorem Sys.setRegion_bars (y : Sys) (c r : Nat) (v : Region) : (y.setRegion c r v).bars = y.bars := rfl
@[simp] theorem Sys.setRegion_lcount (y : Sys) (c r : Nat) (v : Region) : (y.setRegion c r v).lcount = y.lcount := rfl
@[simp] theorem Sys.setRegion_banks (y : Sys) (c r : Nat) (v : Region) : (y.setRegion c r v).banks = y.banks := rfl
@[simp] theorem Sys.setRegion_scratch (y : Sys) (c r : Nat) (v : Region) : (y.setRegion c r v).scratch = y.scratch := rfl
@[simp] theorem Sys.setRegion_xfers (y : Sys) (c r : Nat) (v : Region) : (y.setRegion c r v).xfers = y.xfers := rfl
@[simp] theorem Sys.setRegion_paccs (y : Sys) (c r : Nat) (v : Region) : (y.setRegion c r v).paccs = y.paccs := rfl
@[simp] theorem Sys.setRegion_lanes (y : Sys) (c r : Nat) (v : Region) : (y.setRegion c r v).lanes = y.lanes := rfl
@[simp] theorem Sys.setRegion_pins (y : Sys) (c r : Nat) (v : Region) : (y.setRegion c r v).pins = y.pins := rfl
@[simp] theorem Sys.setRegion_tiles (y : Sys) (c r : Nat) (v : Region) : (y.setRegion c r v).tiles = y.tiles := rfl
@[simp] theorem Sys.setRegion_ments (y : Sys) (c r : Nat) (v : Region) : (y.setRegion c r v).ments = y.ments := rfl
@[simp] theorem Sys.setRegion_tslots (y : Sys) (c r : Nat) (v : Region) : (y.setRegion c r v).tslots = y.tslots := rfl
@[simp] theorem Sys.setRegion_rings (y : Sys) (c r : Nat) (v : Region) : (y.setRegion c r v).rings = y.rings := rfl
@[simp] theorem Sys.setRegion_links (y : Sys) (c r : Nat) (v : Region) : (y.setRegion c r v).links = y.links := rfl
@[simp] theorem Sys.setRegion_routers (y : Sys) (c r : Nat) (v : Region) : (y.setRegion c r v).routers = y.routers := rfl
@[simp] theorem Sys.setRegion_lines (y : Sys) (c r : Nat) (v : Region) : (y.setRegion c r v).lines = y.lines := rfl
@[simp] theorem Sys.setRegion_descs (y : Sys) (c r : Nat) (v : Region) : (y.setRegion c r v).descs = y.descs := rfl
@[simp] theorem Sys.setRegion_spill (y : Sys) (c r : Nat) (v : Region) : (y.setRegion c r v).spill = y.spill := rfl
@[simp] theorem Sys.setRegion_portTs (y : Sys) (c r : Nat) (v : Region) : (y.setRegion c r v).portTs = y.portTs := rfl
@[simp] theorem Sys.setPark_now (y : Sys) (c k : Nat) (v : Park) : (y.setPark c k v).now = y.now := rfl
@[simp] theorem Sys.setPark_held (y : Sys) (c k : Nat) (v : Park) : (y.setPark c k v).held = y.held := rfl
@[simp] theorem Sys.setPark_firmwareOk (y : Sys) (c k : Nat) (v : Park) : (y.setPark c k v).firmwareOk = y.firmwareOk := rfl
@[simp] theorem Sys.setPark_cxsel (y : Sys) (c k : Nat) (v : Park) : (y.setPark c k v).cxsel = y.cxsel := rfl
@[simp] theorem Sys.setPark_cxStatus (y : Sys) (c k : Nat) (v : Park) : (y.setPark c k v).cxStatus = y.cxStatus := rfl
@[simp] theorem Sys.setPark_cxSeq (y : Sys) (c k : Nat) (v : Park) : (y.setPark c k v).cxSeq = y.cxSeq := rfl
@[simp] theorem Sys.setPark_ctsel (y : Sys) (c k : Nat) (v : Park) : (y.setPark c k v).ctsel = y.ctsel := rfl
@[simp] theorem Sys.setPark_lattol (y : Sys) (c k : Nat) (v : Park) : (y.setPark c k v).lattol = y.lattol := rfl
@[simp] theorem Sys.setPark_pstate (y : Sys) (c k : Nat) (v : Park) : (y.setPark c k v).pstate = y.pstate := rfl
@[simp] theorem Sys.setPark_powerLimit (y : Sys) (c k : Nat) (v : Park) : (y.setPark c k v).powerLimit = y.powerLimit := rfl
@[simp] theorem Sys.setPark_thermal (y : Sys) (c k : Nat) (v : Park) : (y.setPark c k v).thermal = y.thermal := rfl
@[simp] theorem Sys.setPark_lnk (y : Sys) (c k : Nat) (v : Park) : (y.setPark c k v).lnk = y.lnk := rfl
@[simp] theorem Sys.setPark_msOwner (y : Sys) (c k : Nat) (v : Park) : (y.setPark c k v).msOwner = y.msOwner := rfl
@[simp] theorem Sys.setPark_msBusy (y : Sys) (c k : Nat) (v : Park) : (y.setPark c k v).msBusy = y.msBusy := rfl
@[simp] theorem Sys.setPark_irqs (y : Sys) (c k : Nat) (v : Park) : (y.setPark c k v).irqs = y.irqs := rfl
@[simp] theorem Sys.setPark_fwStatus (y : Sys) (c k : Nat) (v : Park) : (y.setPark c k v).fwStatus = y.fwStatus := rfl
@[simp] theorem Sys.setPark_mons (y : Sys) (c k : Nat) (v : Park) : (y.setPark c k v).mons = y.mons := rfl
@[simp] theorem Sys.setPark_tickets (y : Sys) (c k : Nat) (v : Park) : (y.setPark c k v).tickets = y.tickets := rfl
@[simp] theorem Sys.setPark_nextTicket (y : Sys) (c k : Nat) (v : Park) : (y.setPark c k v).nextTicket = y.nextTicket := rfl
@[simp] theorem Sys.setPark_faultq (y : Sys) (c k : Nat) (v : Park) : (y.setPark c k v).faultq = y.faultq := rfl
@[simp] theorem Sys.setPark_shoots (y : Sys) (c k : Nat) (v : Park) : (y.setPark c k v).shoots = y.shoots := rfl
@[simp] theorem Sys.setPark_relats (y : Sys) (c k : Nat) (v : Park) : (y.setPark c k v).relats = y.relats := rfl
@[simp] theorem Sys.setPark_loads (y : Sys) (c k : Nat) (v : Park) : (y.setPark c k v).loads = y.loads := rfl
@[simp] theorem Sys.setPark_seals (y : Sys) (c k : Nat) (v : Park) : (y.setPark c k v).seals = y.seals := rfl
@[simp] theorem Sys.setPark_reports (y : Sys) (c k : Nat) (v : Park) : (y.setPark c k v).reports = y.reports := rfl
@[simp] theorem Sys.setPark_hostReads (y : Sys) (c k : Nat) (v : Park) : (y.setPark c k v).hostReads = y.hostReads := rfl
@[simp] theorem Sys.setPark_mgmtStatus (y : Sys) (c k : Nat) (v : Park) : (y.setPark c k v).mgmtStatus = y.mgmtStatus := rfl
@[simp] theorem Sys.setPark_freeIx (y : Sys) (c k : Nat) (v : Park) : (y.setPark c k v).freeIx = y.freeIx := rfl
@[simp] theorem Sys.setPark_fetches (y : Sys) (c k : Nat) (v : Park) : (y.setPark c k v).fetches = y.fetches := rfl
@[simp] theorem Sys.setPark_ctxs (y : Sys) (c k : Nat) (v : Park) : (y.setPark c k v).ctxs = y.ctxs := rfl
@[simp] theorem Sys.setPark_thrs (y : Sys) (c k : Nat) (v : Park) : (y.setPark c k v).thrs = y.thrs := rfl
@[simp] theorem Sys.setPark_clus (y : Sys) (c k : Nat) (v : Park) : (y.setPark c k v).clus = y.clus := rfl
@[simp] theorem Sys.setPark_regions (y : Sys) (c k : Nat) (v : Park) : (y.setPark c k v).regions = y.regions := rfl
@[simp] theorem Sys.setPark_frames (y : Sys) (c k : Nat) (v : Park) : (y.setPark c k v).frames = y.frames := rfl
@[simp] theorem Sys.setPark_ctab (y : Sys) (c k : Nat) (v : Park) : (y.setPark c k v).ctab = y.ctab := rfl
@[simp] theorem Sys.setPark_bars (y : Sys) (c k : Nat) (v : Park) : (y.setPark c k v).bars = y.bars := rfl
@[simp] theorem Sys.setPark_lcount (y : Sys) (c k : Nat) (v : Park) : (y.setPark c k v).lcount = y.lcount := rfl
@[simp] theorem Sys.setPark_banks (y : Sys) (c k : Nat) (v : Park) : (y.setPark c k v).banks = y.banks := rfl
@[simp] theorem Sys.setPark_scratch (y : Sys) (c k : Nat) (v : Park) : (y.setPark c k v).scratch = y.scratch := rfl
@[simp] theorem Sys.setPark_xfers (y : Sys) (c k : Nat) (v : Park) : (y.setPark c k v).xfers = y.xfers := rfl
@[simp] theorem Sys.setPark_paccs (y : Sys) (c k : Nat) (v : Park) : (y.setPark c k v).paccs = y.paccs := rfl
@[simp] theorem Sys.setPark_lanes (y : Sys) (c k : Nat) (v : Park) : (y.setPark c k v).lanes = y.lanes := rfl
@[simp] theorem Sys.setPark_pins (y : Sys) (c k : Nat) (v : Park) : (y.setPark c k v).pins = y.pins := rfl
@[simp] theorem Sys.setPark_tiles (y : Sys) (c k : Nat) (v : Park) : (y.setPark c k v).tiles = y.tiles := rfl
@[simp] theorem Sys.setPark_ments (y : Sys) (c k : Nat) (v : Park) : (y.setPark c k v).ments = y.ments := rfl
@[simp] theorem Sys.setPark_tslots (y : Sys) (c k : Nat) (v : Park) : (y.setPark c k v).tslots = y.tslots := rfl
@[simp] theorem Sys.setPark_rings (y : Sys) (c k : Nat) (v : Park) : (y.setPark c k v).rings = y.rings := rfl
@[simp] theorem Sys.setPark_links (y : Sys) (c k : Nat) (v : Park) : (y.setPark c k v).links = y.links := rfl
@[simp] theorem Sys.setPark_routers (y : Sys) (c k : Nat) (v : Park) : (y.setPark c k v).routers = y.routers := rfl
@[simp] theorem Sys.setPark_lines (y : Sys) (c k : Nat) (v : Park) : (y.setPark c k v).lines = y.lines := rfl
@[simp] theorem Sys.setPark_descs (y : Sys) (c k : Nat) (v : Park) : (y.setPark c k v).descs = y.descs := rfl
@[simp] theorem Sys.setPark_spill (y : Sys) (c k : Nat) (v : Park) : (y.setPark c k v).spill = y.spill := rfl
@[simp] theorem Sys.setPark_portTs (y : Sys) (c k : Nat) (v : Park) : (y.setPark c k v).portTs = y.portTs := rfl
@[simp] theorem Sys.setFrame_now (y : Sys) (c r f : Nat) (v : BFrame) : (y.setFrame c r f v).now = y.now := rfl
@[simp] theorem Sys.setFrame_held (y : Sys) (c r f : Nat) (v : BFrame) : (y.setFrame c r f v).held = y.held := rfl
@[simp] theorem Sys.setFrame_firmwareOk (y : Sys) (c r f : Nat) (v : BFrame) : (y.setFrame c r f v).firmwareOk = y.firmwareOk := rfl
@[simp] theorem Sys.setFrame_cxsel (y : Sys) (c r f : Nat) (v : BFrame) : (y.setFrame c r f v).cxsel = y.cxsel := rfl
@[simp] theorem Sys.setFrame_cxStatus (y : Sys) (c r f : Nat) (v : BFrame) : (y.setFrame c r f v).cxStatus = y.cxStatus := rfl
@[simp] theorem Sys.setFrame_cxSeq (y : Sys) (c r f : Nat) (v : BFrame) : (y.setFrame c r f v).cxSeq = y.cxSeq := rfl
@[simp] theorem Sys.setFrame_ctsel (y : Sys) (c r f : Nat) (v : BFrame) : (y.setFrame c r f v).ctsel = y.ctsel := rfl
@[simp] theorem Sys.setFrame_lattol (y : Sys) (c r f : Nat) (v : BFrame) : (y.setFrame c r f v).lattol = y.lattol := rfl
@[simp] theorem Sys.setFrame_pstate (y : Sys) (c r f : Nat) (v : BFrame) : (y.setFrame c r f v).pstate = y.pstate := rfl
@[simp] theorem Sys.setFrame_powerLimit (y : Sys) (c r f : Nat) (v : BFrame) : (y.setFrame c r f v).powerLimit = y.powerLimit := rfl
@[simp] theorem Sys.setFrame_thermal (y : Sys) (c r f : Nat) (v : BFrame) : (y.setFrame c r f v).thermal = y.thermal := rfl
@[simp] theorem Sys.setFrame_lnk (y : Sys) (c r f : Nat) (v : BFrame) : (y.setFrame c r f v).lnk = y.lnk := rfl
@[simp] theorem Sys.setFrame_msOwner (y : Sys) (c r f : Nat) (v : BFrame) : (y.setFrame c r f v).msOwner = y.msOwner := rfl
@[simp] theorem Sys.setFrame_msBusy (y : Sys) (c r f : Nat) (v : BFrame) : (y.setFrame c r f v).msBusy = y.msBusy := rfl
@[simp] theorem Sys.setFrame_irqs (y : Sys) (c r f : Nat) (v : BFrame) : (y.setFrame c r f v).irqs = y.irqs := rfl
@[simp] theorem Sys.setFrame_fwStatus (y : Sys) (c r f : Nat) (v : BFrame) : (y.setFrame c r f v).fwStatus = y.fwStatus := rfl
@[simp] theorem Sys.setFrame_mons (y : Sys) (c r f : Nat) (v : BFrame) : (y.setFrame c r f v).mons = y.mons := rfl
@[simp] theorem Sys.setFrame_tickets (y : Sys) (c r f : Nat) (v : BFrame) : (y.setFrame c r f v).tickets = y.tickets := rfl
@[simp] theorem Sys.setFrame_nextTicket (y : Sys) (c r f : Nat) (v : BFrame) : (y.setFrame c r f v).nextTicket = y.nextTicket := rfl
@[simp] theorem Sys.setFrame_faultq (y : Sys) (c r f : Nat) (v : BFrame) : (y.setFrame c r f v).faultq = y.faultq := rfl
@[simp] theorem Sys.setFrame_shoots (y : Sys) (c r f : Nat) (v : BFrame) : (y.setFrame c r f v).shoots = y.shoots := rfl
@[simp] theorem Sys.setFrame_relats (y : Sys) (c r f : Nat) (v : BFrame) : (y.setFrame c r f v).relats = y.relats := rfl
@[simp] theorem Sys.setFrame_loads (y : Sys) (c r f : Nat) (v : BFrame) : (y.setFrame c r f v).loads = y.loads := rfl
@[simp] theorem Sys.setFrame_seals (y : Sys) (c r f : Nat) (v : BFrame) : (y.setFrame c r f v).seals = y.seals := rfl
@[simp] theorem Sys.setFrame_reports (y : Sys) (c r f : Nat) (v : BFrame) : (y.setFrame c r f v).reports = y.reports := rfl
@[simp] theorem Sys.setFrame_hostReads (y : Sys) (c r f : Nat) (v : BFrame) : (y.setFrame c r f v).hostReads = y.hostReads := rfl
@[simp] theorem Sys.setFrame_mgmtStatus (y : Sys) (c r f : Nat) (v : BFrame) : (y.setFrame c r f v).mgmtStatus = y.mgmtStatus := rfl
@[simp] theorem Sys.setFrame_freeIx (y : Sys) (c r f : Nat) (v : BFrame) : (y.setFrame c r f v).freeIx = y.freeIx := rfl
@[simp] theorem Sys.setFrame_fetches (y : Sys) (c r f : Nat) (v : BFrame) : (y.setFrame c r f v).fetches = y.fetches := rfl
@[simp] theorem Sys.setFrame_ctxs (y : Sys) (c r f : Nat) (v : BFrame) : (y.setFrame c r f v).ctxs = y.ctxs := rfl
@[simp] theorem Sys.setFrame_thrs (y : Sys) (c r f : Nat) (v : BFrame) : (y.setFrame c r f v).thrs = y.thrs := rfl
@[simp] theorem Sys.setFrame_clus (y : Sys) (c r f : Nat) (v : BFrame) : (y.setFrame c r f v).clus = y.clus := rfl
@[simp] theorem Sys.setFrame_regions (y : Sys) (c r f : Nat) (v : BFrame) : (y.setFrame c r f v).regions = y.regions := rfl
@[simp] theorem Sys.setFrame_parks (y : Sys) (c r f : Nat) (v : BFrame) : (y.setFrame c r f v).parks = y.parks := rfl
@[simp] theorem Sys.setFrame_ctab (y : Sys) (c r f : Nat) (v : BFrame) : (y.setFrame c r f v).ctab = y.ctab := rfl
@[simp] theorem Sys.setFrame_bars (y : Sys) (c r f : Nat) (v : BFrame) : (y.setFrame c r f v).bars = y.bars := rfl
@[simp] theorem Sys.setFrame_lcount (y : Sys) (c r f : Nat) (v : BFrame) : (y.setFrame c r f v).lcount = y.lcount := rfl
@[simp] theorem Sys.setFrame_banks (y : Sys) (c r f : Nat) (v : BFrame) : (y.setFrame c r f v).banks = y.banks := rfl
@[simp] theorem Sys.setFrame_scratch (y : Sys) (c r f : Nat) (v : BFrame) : (y.setFrame c r f v).scratch = y.scratch := rfl
@[simp] theorem Sys.setFrame_xfers (y : Sys) (c r f : Nat) (v : BFrame) : (y.setFrame c r f v).xfers = y.xfers := rfl
@[simp] theorem Sys.setFrame_paccs (y : Sys) (c r f : Nat) (v : BFrame) : (y.setFrame c r f v).paccs = y.paccs := rfl
@[simp] theorem Sys.setFrame_lanes (y : Sys) (c r f : Nat) (v : BFrame) : (y.setFrame c r f v).lanes = y.lanes := rfl
@[simp] theorem Sys.setFrame_pins (y : Sys) (c r f : Nat) (v : BFrame) : (y.setFrame c r f v).pins = y.pins := rfl
@[simp] theorem Sys.setFrame_tiles (y : Sys) (c r f : Nat) (v : BFrame) : (y.setFrame c r f v).tiles = y.tiles := rfl
@[simp] theorem Sys.setFrame_ments (y : Sys) (c r f : Nat) (v : BFrame) : (y.setFrame c r f v).ments = y.ments := rfl
@[simp] theorem Sys.setFrame_tslots (y : Sys) (c r f : Nat) (v : BFrame) : (y.setFrame c r f v).tslots = y.tslots := rfl
@[simp] theorem Sys.setFrame_rings (y : Sys) (c r f : Nat) (v : BFrame) : (y.setFrame c r f v).rings = y.rings := rfl
@[simp] theorem Sys.setFrame_links (y : Sys) (c r f : Nat) (v : BFrame) : (y.setFrame c r f v).links = y.links := rfl
@[simp] theorem Sys.setFrame_routers (y : Sys) (c r f : Nat) (v : BFrame) : (y.setFrame c r f v).routers = y.routers := rfl
@[simp] theorem Sys.setFrame_lines (y : Sys) (c r f : Nat) (v : BFrame) : (y.setFrame c r f v).lines = y.lines := rfl
@[simp] theorem Sys.setFrame_descs (y : Sys) (c r f : Nat) (v : BFrame) : (y.setFrame c r f v).descs = y.descs := rfl
@[simp] theorem Sys.setFrame_spill (y : Sys) (c r f : Nat) (v : BFrame) : (y.setFrame c r f v).spill = y.spill := rfl
@[simp] theorem Sys.setFrame_portTs (y : Sys) (c r f : Nat) (v : BFrame) : (y.setFrame c r f v).portTs = y.portTs := rfl
@[simp] theorem Sys.setCent_now (y : Sys) (c e : Nat) (v : CEnt) : (y.setCent c e v).now = y.now := rfl
@[simp] theorem Sys.setCent_held (y : Sys) (c e : Nat) (v : CEnt) : (y.setCent c e v).held = y.held := rfl
@[simp] theorem Sys.setCent_firmwareOk (y : Sys) (c e : Nat) (v : CEnt) : (y.setCent c e v).firmwareOk = y.firmwareOk := rfl
@[simp] theorem Sys.setCent_cxsel (y : Sys) (c e : Nat) (v : CEnt) : (y.setCent c e v).cxsel = y.cxsel := rfl
@[simp] theorem Sys.setCent_cxStatus (y : Sys) (c e : Nat) (v : CEnt) : (y.setCent c e v).cxStatus = y.cxStatus := rfl
@[simp] theorem Sys.setCent_cxSeq (y : Sys) (c e : Nat) (v : CEnt) : (y.setCent c e v).cxSeq = y.cxSeq := rfl
@[simp] theorem Sys.setCent_ctsel (y : Sys) (c e : Nat) (v : CEnt) : (y.setCent c e v).ctsel = y.ctsel := rfl
@[simp] theorem Sys.setCent_lattol (y : Sys) (c e : Nat) (v : CEnt) : (y.setCent c e v).lattol = y.lattol := rfl
@[simp] theorem Sys.setCent_pstate (y : Sys) (c e : Nat) (v : CEnt) : (y.setCent c e v).pstate = y.pstate := rfl
@[simp] theorem Sys.setCent_powerLimit (y : Sys) (c e : Nat) (v : CEnt) : (y.setCent c e v).powerLimit = y.powerLimit := rfl
@[simp] theorem Sys.setCent_thermal (y : Sys) (c e : Nat) (v : CEnt) : (y.setCent c e v).thermal = y.thermal := rfl
@[simp] theorem Sys.setCent_lnk (y : Sys) (c e : Nat) (v : CEnt) : (y.setCent c e v).lnk = y.lnk := rfl
@[simp] theorem Sys.setCent_msOwner (y : Sys) (c e : Nat) (v : CEnt) : (y.setCent c e v).msOwner = y.msOwner := rfl
@[simp] theorem Sys.setCent_msBusy (y : Sys) (c e : Nat) (v : CEnt) : (y.setCent c e v).msBusy = y.msBusy := rfl
@[simp] theorem Sys.setCent_irqs (y : Sys) (c e : Nat) (v : CEnt) : (y.setCent c e v).irqs = y.irqs := rfl
@[simp] theorem Sys.setCent_fwStatus (y : Sys) (c e : Nat) (v : CEnt) : (y.setCent c e v).fwStatus = y.fwStatus := rfl
@[simp] theorem Sys.setCent_mons (y : Sys) (c e : Nat) (v : CEnt) : (y.setCent c e v).mons = y.mons := rfl
@[simp] theorem Sys.setCent_tickets (y : Sys) (c e : Nat) (v : CEnt) : (y.setCent c e v).tickets = y.tickets := rfl
@[simp] theorem Sys.setCent_nextTicket (y : Sys) (c e : Nat) (v : CEnt) : (y.setCent c e v).nextTicket = y.nextTicket := rfl
@[simp] theorem Sys.setCent_faultq (y : Sys) (c e : Nat) (v : CEnt) : (y.setCent c e v).faultq = y.faultq := rfl
@[simp] theorem Sys.setCent_shoots (y : Sys) (c e : Nat) (v : CEnt) : (y.setCent c e v).shoots = y.shoots := rfl
@[simp] theorem Sys.setCent_relats (y : Sys) (c e : Nat) (v : CEnt) : (y.setCent c e v).relats = y.relats := rfl
@[simp] theorem Sys.setCent_loads (y : Sys) (c e : Nat) (v : CEnt) : (y.setCent c e v).loads = y.loads := rfl
@[simp] theorem Sys.setCent_seals (y : Sys) (c e : Nat) (v : CEnt) : (y.setCent c e v).seals = y.seals := rfl
@[simp] theorem Sys.setCent_reports (y : Sys) (c e : Nat) (v : CEnt) : (y.setCent c e v).reports = y.reports := rfl
@[simp] theorem Sys.setCent_hostReads (y : Sys) (c e : Nat) (v : CEnt) : (y.setCent c e v).hostReads = y.hostReads := rfl
@[simp] theorem Sys.setCent_mgmtStatus (y : Sys) (c e : Nat) (v : CEnt) : (y.setCent c e v).mgmtStatus = y.mgmtStatus := rfl
@[simp] theorem Sys.setCent_freeIx (y : Sys) (c e : Nat) (v : CEnt) : (y.setCent c e v).freeIx = y.freeIx := rfl
@[simp] theorem Sys.setCent_fetches (y : Sys) (c e : Nat) (v : CEnt) : (y.setCent c e v).fetches = y.fetches := rfl
@[simp] theorem Sys.setCent_ctxs (y : Sys) (c e : Nat) (v : CEnt) : (y.setCent c e v).ctxs = y.ctxs := rfl
@[simp] theorem Sys.setCent_thrs (y : Sys) (c e : Nat) (v : CEnt) : (y.setCent c e v).thrs = y.thrs := rfl
@[simp] theorem Sys.setCent_clus (y : Sys) (c e : Nat) (v : CEnt) : (y.setCent c e v).clus = y.clus := rfl
@[simp] theorem Sys.setCent_regions (y : Sys) (c e : Nat) (v : CEnt) : (y.setCent c e v).regions = y.regions := rfl
@[simp] theorem Sys.setCent_parks (y : Sys) (c e : Nat) (v : CEnt) : (y.setCent c e v).parks = y.parks := rfl
@[simp] theorem Sys.setCent_frames (y : Sys) (c e : Nat) (v : CEnt) : (y.setCent c e v).frames = y.frames := rfl
@[simp] theorem Sys.setCent_bars (y : Sys) (c e : Nat) (v : CEnt) : (y.setCent c e v).bars = y.bars := rfl
@[simp] theorem Sys.setCent_lcount (y : Sys) (c e : Nat) (v : CEnt) : (y.setCent c e v).lcount = y.lcount := rfl
@[simp] theorem Sys.setCent_banks (y : Sys) (c e : Nat) (v : CEnt) : (y.setCent c e v).banks = y.banks := rfl
@[simp] theorem Sys.setCent_scratch (y : Sys) (c e : Nat) (v : CEnt) : (y.setCent c e v).scratch = y.scratch := rfl
@[simp] theorem Sys.setCent_xfers (y : Sys) (c e : Nat) (v : CEnt) : (y.setCent c e v).xfers = y.xfers := rfl
@[simp] theorem Sys.setCent_paccs (y : Sys) (c e : Nat) (v : CEnt) : (y.setCent c e v).paccs = y.paccs := rfl
@[simp] theorem Sys.setCent_lanes (y : Sys) (c e : Nat) (v : CEnt) : (y.setCent c e v).lanes = y.lanes := rfl
@[simp] theorem Sys.setCent_pins (y : Sys) (c e : Nat) (v : CEnt) : (y.setCent c e v).pins = y.pins := rfl
@[simp] theorem Sys.setCent_tiles (y : Sys) (c e : Nat) (v : CEnt) : (y.setCent c e v).tiles = y.tiles := rfl
@[simp] theorem Sys.setCent_ments (y : Sys) (c e : Nat) (v : CEnt) : (y.setCent c e v).ments = y.ments := rfl
@[simp] theorem Sys.setCent_tslots (y : Sys) (c e : Nat) (v : CEnt) : (y.setCent c e v).tslots = y.tslots := rfl
@[simp] theorem Sys.setCent_rings (y : Sys) (c e : Nat) (v : CEnt) : (y.setCent c e v).rings = y.rings := rfl
@[simp] theorem Sys.setCent_links (y : Sys) (c e : Nat) (v : CEnt) : (y.setCent c e v).links = y.links := rfl
@[simp] theorem Sys.setCent_routers (y : Sys) (c e : Nat) (v : CEnt) : (y.setCent c e v).routers = y.routers := rfl
@[simp] theorem Sys.setCent_lines (y : Sys) (c e : Nat) (v : CEnt) : (y.setCent c e v).lines = y.lines := rfl
@[simp] theorem Sys.setCent_descs (y : Sys) (c e : Nat) (v : CEnt) : (y.setCent c e v).descs = y.descs := rfl
@[simp] theorem Sys.setCent_spill (y : Sys) (c e : Nat) (v : CEnt) : (y.setCent c e v).spill = y.spill := rfl
@[simp] theorem Sys.setCent_portTs (y : Sys) (c e : Nat) (v : CEnt) : (y.setCent c e v).portTs = y.portTs := rfl
@[simp] theorem Sys.setBar_now (y : Sys) (c b : Nat) (v : Bar) : (y.setBar c b v).now = y.now := rfl
@[simp] theorem Sys.setBar_held (y : Sys) (c b : Nat) (v : Bar) : (y.setBar c b v).held = y.held := rfl
@[simp] theorem Sys.setBar_firmwareOk (y : Sys) (c b : Nat) (v : Bar) : (y.setBar c b v).firmwareOk = y.firmwareOk := rfl
@[simp] theorem Sys.setBar_cxsel (y : Sys) (c b : Nat) (v : Bar) : (y.setBar c b v).cxsel = y.cxsel := rfl
@[simp] theorem Sys.setBar_cxStatus (y : Sys) (c b : Nat) (v : Bar) : (y.setBar c b v).cxStatus = y.cxStatus := rfl
@[simp] theorem Sys.setBar_cxSeq (y : Sys) (c b : Nat) (v : Bar) : (y.setBar c b v).cxSeq = y.cxSeq := rfl
@[simp] theorem Sys.setBar_ctsel (y : Sys) (c b : Nat) (v : Bar) : (y.setBar c b v).ctsel = y.ctsel := rfl
@[simp] theorem Sys.setBar_lattol (y : Sys) (c b : Nat) (v : Bar) : (y.setBar c b v).lattol = y.lattol := rfl
@[simp] theorem Sys.setBar_pstate (y : Sys) (c b : Nat) (v : Bar) : (y.setBar c b v).pstate = y.pstate := rfl
@[simp] theorem Sys.setBar_powerLimit (y : Sys) (c b : Nat) (v : Bar) : (y.setBar c b v).powerLimit = y.powerLimit := rfl
@[simp] theorem Sys.setBar_thermal (y : Sys) (c b : Nat) (v : Bar) : (y.setBar c b v).thermal = y.thermal := rfl
@[simp] theorem Sys.setBar_lnk (y : Sys) (c b : Nat) (v : Bar) : (y.setBar c b v).lnk = y.lnk := rfl
@[simp] theorem Sys.setBar_msOwner (y : Sys) (c b : Nat) (v : Bar) : (y.setBar c b v).msOwner = y.msOwner := rfl
@[simp] theorem Sys.setBar_msBusy (y : Sys) (c b : Nat) (v : Bar) : (y.setBar c b v).msBusy = y.msBusy := rfl
@[simp] theorem Sys.setBar_irqs (y : Sys) (c b : Nat) (v : Bar) : (y.setBar c b v).irqs = y.irqs := rfl
@[simp] theorem Sys.setBar_fwStatus (y : Sys) (c b : Nat) (v : Bar) : (y.setBar c b v).fwStatus = y.fwStatus := rfl
@[simp] theorem Sys.setBar_mons (y : Sys) (c b : Nat) (v : Bar) : (y.setBar c b v).mons = y.mons := rfl
@[simp] theorem Sys.setBar_tickets (y : Sys) (c b : Nat) (v : Bar) : (y.setBar c b v).tickets = y.tickets := rfl
@[simp] theorem Sys.setBar_nextTicket (y : Sys) (c b : Nat) (v : Bar) : (y.setBar c b v).nextTicket = y.nextTicket := rfl
@[simp] theorem Sys.setBar_faultq (y : Sys) (c b : Nat) (v : Bar) : (y.setBar c b v).faultq = y.faultq := rfl
@[simp] theorem Sys.setBar_shoots (y : Sys) (c b : Nat) (v : Bar) : (y.setBar c b v).shoots = y.shoots := rfl
@[simp] theorem Sys.setBar_relats (y : Sys) (c b : Nat) (v : Bar) : (y.setBar c b v).relats = y.relats := rfl
@[simp] theorem Sys.setBar_loads (y : Sys) (c b : Nat) (v : Bar) : (y.setBar c b v).loads = y.loads := rfl
@[simp] theorem Sys.setBar_seals (y : Sys) (c b : Nat) (v : Bar) : (y.setBar c b v).seals = y.seals := rfl
@[simp] theorem Sys.setBar_reports (y : Sys) (c b : Nat) (v : Bar) : (y.setBar c b v).reports = y.reports := rfl
@[simp] theorem Sys.setBar_hostReads (y : Sys) (c b : Nat) (v : Bar) : (y.setBar c b v).hostReads = y.hostReads := rfl
@[simp] theorem Sys.setBar_mgmtStatus (y : Sys) (c b : Nat) (v : Bar) : (y.setBar c b v).mgmtStatus = y.mgmtStatus := rfl
@[simp] theorem Sys.setBar_freeIx (y : Sys) (c b : Nat) (v : Bar) : (y.setBar c b v).freeIx = y.freeIx := rfl
@[simp] theorem Sys.setBar_fetches (y : Sys) (c b : Nat) (v : Bar) : (y.setBar c b v).fetches = y.fetches := rfl
@[simp] theorem Sys.setBar_ctxs (y : Sys) (c b : Nat) (v : Bar) : (y.setBar c b v).ctxs = y.ctxs := rfl
@[simp] theorem Sys.setBar_thrs (y : Sys) (c b : Nat) (v : Bar) : (y.setBar c b v).thrs = y.thrs := rfl
@[simp] theorem Sys.setBar_clus (y : Sys) (c b : Nat) (v : Bar) : (y.setBar c b v).clus = y.clus := rfl
@[simp] theorem Sys.setBar_regions (y : Sys) (c b : Nat) (v : Bar) : (y.setBar c b v).regions = y.regions := rfl
@[simp] theorem Sys.setBar_parks (y : Sys) (c b : Nat) (v : Bar) : (y.setBar c b v).parks = y.parks := rfl
@[simp] theorem Sys.setBar_frames (y : Sys) (c b : Nat) (v : Bar) : (y.setBar c b v).frames = y.frames := rfl
@[simp] theorem Sys.setBar_ctab (y : Sys) (c b : Nat) (v : Bar) : (y.setBar c b v).ctab = y.ctab := rfl
@[simp] theorem Sys.setBar_lcount (y : Sys) (c b : Nat) (v : Bar) : (y.setBar c b v).lcount = y.lcount := rfl
@[simp] theorem Sys.setBar_banks (y : Sys) (c b : Nat) (v : Bar) : (y.setBar c b v).banks = y.banks := rfl
@[simp] theorem Sys.setBar_scratch (y : Sys) (c b : Nat) (v : Bar) : (y.setBar c b v).scratch = y.scratch := rfl
@[simp] theorem Sys.setBar_xfers (y : Sys) (c b : Nat) (v : Bar) : (y.setBar c b v).xfers = y.xfers := rfl
@[simp] theorem Sys.setBar_paccs (y : Sys) (c b : Nat) (v : Bar) : (y.setBar c b v).paccs = y.paccs := rfl
@[simp] theorem Sys.setBar_lanes (y : Sys) (c b : Nat) (v : Bar) : (y.setBar c b v).lanes = y.lanes := rfl
@[simp] theorem Sys.setBar_pins (y : Sys) (c b : Nat) (v : Bar) : (y.setBar c b v).pins = y.pins := rfl
@[simp] theorem Sys.setBar_tiles (y : Sys) (c b : Nat) (v : Bar) : (y.setBar c b v).tiles = y.tiles := rfl
@[simp] theorem Sys.setBar_ments (y : Sys) (c b : Nat) (v : Bar) : (y.setBar c b v).ments = y.ments := rfl
@[simp] theorem Sys.setBar_tslots (y : Sys) (c b : Nat) (v : Bar) : (y.setBar c b v).tslots = y.tslots := rfl
@[simp] theorem Sys.setBar_rings (y : Sys) (c b : Nat) (v : Bar) : (y.setBar c b v).rings = y.rings := rfl
@[simp] theorem Sys.setBar_links (y : Sys) (c b : Nat) (v : Bar) : (y.setBar c b v).links = y.links := rfl
@[simp] theorem Sys.setBar_routers (y : Sys) (c b : Nat) (v : Bar) : (y.setBar c b v).routers = y.routers := rfl
@[simp] theorem Sys.setBar_lines (y : Sys) (c b : Nat) (v : Bar) : (y.setBar c b v).lines = y.lines := rfl
@[simp] theorem Sys.setBar_descs (y : Sys) (c b : Nat) (v : Bar) : (y.setBar c b v).descs = y.descs := rfl
@[simp] theorem Sys.setBar_spill (y : Sys) (c b : Nat) (v : Bar) : (y.setBar c b v).spill = y.spill := rfl
@[simp] theorem Sys.setBar_portTs (y : Sys) (c b : Nat) (v : Bar) : (y.setBar c b v).portTs = y.portTs := rfl
@[simp] theorem Sys.setBank_now (y : Sys) (c b : Nat) (v : Bank) : (y.setBank c b v).now = y.now := rfl
@[simp] theorem Sys.setBank_held (y : Sys) (c b : Nat) (v : Bank) : (y.setBank c b v).held = y.held := rfl
@[simp] theorem Sys.setBank_firmwareOk (y : Sys) (c b : Nat) (v : Bank) : (y.setBank c b v).firmwareOk = y.firmwareOk := rfl
@[simp] theorem Sys.setBank_cxsel (y : Sys) (c b : Nat) (v : Bank) : (y.setBank c b v).cxsel = y.cxsel := rfl
@[simp] theorem Sys.setBank_cxStatus (y : Sys) (c b : Nat) (v : Bank) : (y.setBank c b v).cxStatus = y.cxStatus := rfl
@[simp] theorem Sys.setBank_cxSeq (y : Sys) (c b : Nat) (v : Bank) : (y.setBank c b v).cxSeq = y.cxSeq := rfl
@[simp] theorem Sys.setBank_ctsel (y : Sys) (c b : Nat) (v : Bank) : (y.setBank c b v).ctsel = y.ctsel := rfl
@[simp] theorem Sys.setBank_lattol (y : Sys) (c b : Nat) (v : Bank) : (y.setBank c b v).lattol = y.lattol := rfl
@[simp] theorem Sys.setBank_pstate (y : Sys) (c b : Nat) (v : Bank) : (y.setBank c b v).pstate = y.pstate := rfl
@[simp] theorem Sys.setBank_powerLimit (y : Sys) (c b : Nat) (v : Bank) : (y.setBank c b v).powerLimit = y.powerLimit := rfl
@[simp] theorem Sys.setBank_thermal (y : Sys) (c b : Nat) (v : Bank) : (y.setBank c b v).thermal = y.thermal := rfl
@[simp] theorem Sys.setBank_lnk (y : Sys) (c b : Nat) (v : Bank) : (y.setBank c b v).lnk = y.lnk := rfl
@[simp] theorem Sys.setBank_msOwner (y : Sys) (c b : Nat) (v : Bank) : (y.setBank c b v).msOwner = y.msOwner := rfl
@[simp] theorem Sys.setBank_msBusy (y : Sys) (c b : Nat) (v : Bank) : (y.setBank c b v).msBusy = y.msBusy := rfl
@[simp] theorem Sys.setBank_irqs (y : Sys) (c b : Nat) (v : Bank) : (y.setBank c b v).irqs = y.irqs := rfl
@[simp] theorem Sys.setBank_fwStatus (y : Sys) (c b : Nat) (v : Bank) : (y.setBank c b v).fwStatus = y.fwStatus := rfl
@[simp] theorem Sys.setBank_mons (y : Sys) (c b : Nat) (v : Bank) : (y.setBank c b v).mons = y.mons := rfl
@[simp] theorem Sys.setBank_tickets (y : Sys) (c b : Nat) (v : Bank) : (y.setBank c b v).tickets = y.tickets := rfl
@[simp] theorem Sys.setBank_nextTicket (y : Sys) (c b : Nat) (v : Bank) : (y.setBank c b v).nextTicket = y.nextTicket := rfl
@[simp] theorem Sys.setBank_faultq (y : Sys) (c b : Nat) (v : Bank) : (y.setBank c b v).faultq = y.faultq := rfl
@[simp] theorem Sys.setBank_shoots (y : Sys) (c b : Nat) (v : Bank) : (y.setBank c b v).shoots = y.shoots := rfl
@[simp] theorem Sys.setBank_relats (y : Sys) (c b : Nat) (v : Bank) : (y.setBank c b v).relats = y.relats := rfl
@[simp] theorem Sys.setBank_loads (y : Sys) (c b : Nat) (v : Bank) : (y.setBank c b v).loads = y.loads := rfl
@[simp] theorem Sys.setBank_seals (y : Sys) (c b : Nat) (v : Bank) : (y.setBank c b v).seals = y.seals := rfl
@[simp] theorem Sys.setBank_reports (y : Sys) (c b : Nat) (v : Bank) : (y.setBank c b v).reports = y.reports := rfl
@[simp] theorem Sys.setBank_hostReads (y : Sys) (c b : Nat) (v : Bank) : (y.setBank c b v).hostReads = y.hostReads := rfl
@[simp] theorem Sys.setBank_mgmtStatus (y : Sys) (c b : Nat) (v : Bank) : (y.setBank c b v).mgmtStatus = y.mgmtStatus := rfl
@[simp] theorem Sys.setBank_freeIx (y : Sys) (c b : Nat) (v : Bank) : (y.setBank c b v).freeIx = y.freeIx := rfl
@[simp] theorem Sys.setBank_fetches (y : Sys) (c b : Nat) (v : Bank) : (y.setBank c b v).fetches = y.fetches := rfl
@[simp] theorem Sys.setBank_ctxs (y : Sys) (c b : Nat) (v : Bank) : (y.setBank c b v).ctxs = y.ctxs := rfl
@[simp] theorem Sys.setBank_thrs (y : Sys) (c b : Nat) (v : Bank) : (y.setBank c b v).thrs = y.thrs := rfl
@[simp] theorem Sys.setBank_clus (y : Sys) (c b : Nat) (v : Bank) : (y.setBank c b v).clus = y.clus := rfl
@[simp] theorem Sys.setBank_regions (y : Sys) (c b : Nat) (v : Bank) : (y.setBank c b v).regions = y.regions := rfl
@[simp] theorem Sys.setBank_parks (y : Sys) (c b : Nat) (v : Bank) : (y.setBank c b v).parks = y.parks := rfl
@[simp] theorem Sys.setBank_frames (y : Sys) (c b : Nat) (v : Bank) : (y.setBank c b v).frames = y.frames := rfl
@[simp] theorem Sys.setBank_ctab (y : Sys) (c b : Nat) (v : Bank) : (y.setBank c b v).ctab = y.ctab := rfl
@[simp] theorem Sys.setBank_bars (y : Sys) (c b : Nat) (v : Bank) : (y.setBank c b v).bars = y.bars := rfl
@[simp] theorem Sys.setBank_lcount (y : Sys) (c b : Nat) (v : Bank) : (y.setBank c b v).lcount = y.lcount := rfl
@[simp] theorem Sys.setBank_scratch (y : Sys) (c b : Nat) (v : Bank) : (y.setBank c b v).scratch = y.scratch := rfl
@[simp] theorem Sys.setBank_xfers (y : Sys) (c b : Nat) (v : Bank) : (y.setBank c b v).xfers = y.xfers := rfl
@[simp] theorem Sys.setBank_paccs (y : Sys) (c b : Nat) (v : Bank) : (y.setBank c b v).paccs = y.paccs := rfl
@[simp] theorem Sys.setBank_lanes (y : Sys) (c b : Nat) (v : Bank) : (y.setBank c b v).lanes = y.lanes := rfl
@[simp] theorem Sys.setBank_pins (y : Sys) (c b : Nat) (v : Bank) : (y.setBank c b v).pins = y.pins := rfl
@[simp] theorem Sys.setBank_tiles (y : Sys) (c b : Nat) (v : Bank) : (y.setBank c b v).tiles = y.tiles := rfl
@[simp] theorem Sys.setBank_ments (y : Sys) (c b : Nat) (v : Bank) : (y.setBank c b v).ments = y.ments := rfl
@[simp] theorem Sys.setBank_tslots (y : Sys) (c b : Nat) (v : Bank) : (y.setBank c b v).tslots = y.tslots := rfl
@[simp] theorem Sys.setBank_rings (y : Sys) (c b : Nat) (v : Bank) : (y.setBank c b v).rings = y.rings := rfl
@[simp] theorem Sys.setBank_links (y : Sys) (c b : Nat) (v : Bank) : (y.setBank c b v).links = y.links := rfl
@[simp] theorem Sys.setBank_routers (y : Sys) (c b : Nat) (v : Bank) : (y.setBank c b v).routers = y.routers := rfl
@[simp] theorem Sys.setBank_lines (y : Sys) (c b : Nat) (v : Bank) : (y.setBank c b v).lines = y.lines := rfl
@[simp] theorem Sys.setBank_descs (y : Sys) (c b : Nat) (v : Bank) : (y.setBank c b v).descs = y.descs := rfl
@[simp] theorem Sys.setBank_spill (y : Sys) (c b : Nat) (v : Bank) : (y.setBank c b v).spill = y.spill := rfl
@[simp] theorem Sys.setBank_portTs (y : Sys) (c b : Nat) (v : Bank) : (y.setBank c b v).portTs = y.portTs := rfl
@[simp] theorem Sys.setXfer_now (y : Sys) (c k : Nat) (v : Xfer) : (y.setXfer c k v).now = y.now := rfl
@[simp] theorem Sys.setXfer_held (y : Sys) (c k : Nat) (v : Xfer) : (y.setXfer c k v).held = y.held := rfl
@[simp] theorem Sys.setXfer_firmwareOk (y : Sys) (c k : Nat) (v : Xfer) : (y.setXfer c k v).firmwareOk = y.firmwareOk := rfl
@[simp] theorem Sys.setXfer_cxsel (y : Sys) (c k : Nat) (v : Xfer) : (y.setXfer c k v).cxsel = y.cxsel := rfl
@[simp] theorem Sys.setXfer_cxStatus (y : Sys) (c k : Nat) (v : Xfer) : (y.setXfer c k v).cxStatus = y.cxStatus := rfl
@[simp] theorem Sys.setXfer_cxSeq (y : Sys) (c k : Nat) (v : Xfer) : (y.setXfer c k v).cxSeq = y.cxSeq := rfl
@[simp] theorem Sys.setXfer_ctsel (y : Sys) (c k : Nat) (v : Xfer) : (y.setXfer c k v).ctsel = y.ctsel := rfl
@[simp] theorem Sys.setXfer_lattol (y : Sys) (c k : Nat) (v : Xfer) : (y.setXfer c k v).lattol = y.lattol := rfl
@[simp] theorem Sys.setXfer_pstate (y : Sys) (c k : Nat) (v : Xfer) : (y.setXfer c k v).pstate = y.pstate := rfl
@[simp] theorem Sys.setXfer_powerLimit (y : Sys) (c k : Nat) (v : Xfer) : (y.setXfer c k v).powerLimit = y.powerLimit := rfl
@[simp] theorem Sys.setXfer_thermal (y : Sys) (c k : Nat) (v : Xfer) : (y.setXfer c k v).thermal = y.thermal := rfl
@[simp] theorem Sys.setXfer_lnk (y : Sys) (c k : Nat) (v : Xfer) : (y.setXfer c k v).lnk = y.lnk := rfl
@[simp] theorem Sys.setXfer_msOwner (y : Sys) (c k : Nat) (v : Xfer) : (y.setXfer c k v).msOwner = y.msOwner := rfl
@[simp] theorem Sys.setXfer_msBusy (y : Sys) (c k : Nat) (v : Xfer) : (y.setXfer c k v).msBusy = y.msBusy := rfl
@[simp] theorem Sys.setXfer_irqs (y : Sys) (c k : Nat) (v : Xfer) : (y.setXfer c k v).irqs = y.irqs := rfl
@[simp] theorem Sys.setXfer_fwStatus (y : Sys) (c k : Nat) (v : Xfer) : (y.setXfer c k v).fwStatus = y.fwStatus := rfl
@[simp] theorem Sys.setXfer_mons (y : Sys) (c k : Nat) (v : Xfer) : (y.setXfer c k v).mons = y.mons := rfl
@[simp] theorem Sys.setXfer_tickets (y : Sys) (c k : Nat) (v : Xfer) : (y.setXfer c k v).tickets = y.tickets := rfl
@[simp] theorem Sys.setXfer_nextTicket (y : Sys) (c k : Nat) (v : Xfer) : (y.setXfer c k v).nextTicket = y.nextTicket := rfl
@[simp] theorem Sys.setXfer_faultq (y : Sys) (c k : Nat) (v : Xfer) : (y.setXfer c k v).faultq = y.faultq := rfl
@[simp] theorem Sys.setXfer_shoots (y : Sys) (c k : Nat) (v : Xfer) : (y.setXfer c k v).shoots = y.shoots := rfl
@[simp] theorem Sys.setXfer_relats (y : Sys) (c k : Nat) (v : Xfer) : (y.setXfer c k v).relats = y.relats := rfl
@[simp] theorem Sys.setXfer_loads (y : Sys) (c k : Nat) (v : Xfer) : (y.setXfer c k v).loads = y.loads := rfl
@[simp] theorem Sys.setXfer_seals (y : Sys) (c k : Nat) (v : Xfer) : (y.setXfer c k v).seals = y.seals := rfl
@[simp] theorem Sys.setXfer_reports (y : Sys) (c k : Nat) (v : Xfer) : (y.setXfer c k v).reports = y.reports := rfl
@[simp] theorem Sys.setXfer_hostReads (y : Sys) (c k : Nat) (v : Xfer) : (y.setXfer c k v).hostReads = y.hostReads := rfl
@[simp] theorem Sys.setXfer_mgmtStatus (y : Sys) (c k : Nat) (v : Xfer) : (y.setXfer c k v).mgmtStatus = y.mgmtStatus := rfl
@[simp] theorem Sys.setXfer_freeIx (y : Sys) (c k : Nat) (v : Xfer) : (y.setXfer c k v).freeIx = y.freeIx := rfl
@[simp] theorem Sys.setXfer_fetches (y : Sys) (c k : Nat) (v : Xfer) : (y.setXfer c k v).fetches = y.fetches := rfl
@[simp] theorem Sys.setXfer_ctxs (y : Sys) (c k : Nat) (v : Xfer) : (y.setXfer c k v).ctxs = y.ctxs := rfl
@[simp] theorem Sys.setXfer_thrs (y : Sys) (c k : Nat) (v : Xfer) : (y.setXfer c k v).thrs = y.thrs := rfl
@[simp] theorem Sys.setXfer_clus (y : Sys) (c k : Nat) (v : Xfer) : (y.setXfer c k v).clus = y.clus := rfl
@[simp] theorem Sys.setXfer_regions (y : Sys) (c k : Nat) (v : Xfer) : (y.setXfer c k v).regions = y.regions := rfl
@[simp] theorem Sys.setXfer_parks (y : Sys) (c k : Nat) (v : Xfer) : (y.setXfer c k v).parks = y.parks := rfl
@[simp] theorem Sys.setXfer_frames (y : Sys) (c k : Nat) (v : Xfer) : (y.setXfer c k v).frames = y.frames := rfl
@[simp] theorem Sys.setXfer_ctab (y : Sys) (c k : Nat) (v : Xfer) : (y.setXfer c k v).ctab = y.ctab := rfl
@[simp] theorem Sys.setXfer_bars (y : Sys) (c k : Nat) (v : Xfer) : (y.setXfer c k v).bars = y.bars := rfl
@[simp] theorem Sys.setXfer_lcount (y : Sys) (c k : Nat) (v : Xfer) : (y.setXfer c k v).lcount = y.lcount := rfl
@[simp] theorem Sys.setXfer_banks (y : Sys) (c k : Nat) (v : Xfer) : (y.setXfer c k v).banks = y.banks := rfl
@[simp] theorem Sys.setXfer_scratch (y : Sys) (c k : Nat) (v : Xfer) : (y.setXfer c k v).scratch = y.scratch := rfl
@[simp] theorem Sys.setXfer_paccs (y : Sys) (c k : Nat) (v : Xfer) : (y.setXfer c k v).paccs = y.paccs := rfl
@[simp] theorem Sys.setXfer_lanes (y : Sys) (c k : Nat) (v : Xfer) : (y.setXfer c k v).lanes = y.lanes := rfl
@[simp] theorem Sys.setXfer_pins (y : Sys) (c k : Nat) (v : Xfer) : (y.setXfer c k v).pins = y.pins := rfl
@[simp] theorem Sys.setXfer_tiles (y : Sys) (c k : Nat) (v : Xfer) : (y.setXfer c k v).tiles = y.tiles := rfl
@[simp] theorem Sys.setXfer_ments (y : Sys) (c k : Nat) (v : Xfer) : (y.setXfer c k v).ments = y.ments := rfl
@[simp] theorem Sys.setXfer_tslots (y : Sys) (c k : Nat) (v : Xfer) : (y.setXfer c k v).tslots = y.tslots := rfl
@[simp] theorem Sys.setXfer_rings (y : Sys) (c k : Nat) (v : Xfer) : (y.setXfer c k v).rings = y.rings := rfl
@[simp] theorem Sys.setXfer_links (y : Sys) (c k : Nat) (v : Xfer) : (y.setXfer c k v).links = y.links := rfl
@[simp] theorem Sys.setXfer_routers (y : Sys) (c k : Nat) (v : Xfer) : (y.setXfer c k v).routers = y.routers := rfl
@[simp] theorem Sys.setXfer_lines (y : Sys) (c k : Nat) (v : Xfer) : (y.setXfer c k v).lines = y.lines := rfl
@[simp] theorem Sys.setXfer_descs (y : Sys) (c k : Nat) (v : Xfer) : (y.setXfer c k v).descs = y.descs := rfl
@[simp] theorem Sys.setXfer_spill (y : Sys) (c k : Nat) (v : Xfer) : (y.setXfer c k v).spill = y.spill := rfl
@[simp] theorem Sys.setXfer_portTs (y : Sys) (c k : Nat) (v : Xfer) : (y.setXfer c k v).portTs = y.portTs := rfl
@[simp] theorem Sys.setPacc_now (y : Sys) (c p : Nat) (v : PAcc) : (y.setPacc c p v).now = y.now := rfl
@[simp] theorem Sys.setPacc_held (y : Sys) (c p : Nat) (v : PAcc) : (y.setPacc c p v).held = y.held := rfl
@[simp] theorem Sys.setPacc_firmwareOk (y : Sys) (c p : Nat) (v : PAcc) : (y.setPacc c p v).firmwareOk = y.firmwareOk := rfl
@[simp] theorem Sys.setPacc_cxsel (y : Sys) (c p : Nat) (v : PAcc) : (y.setPacc c p v).cxsel = y.cxsel := rfl
@[simp] theorem Sys.setPacc_cxStatus (y : Sys) (c p : Nat) (v : PAcc) : (y.setPacc c p v).cxStatus = y.cxStatus := rfl
@[simp] theorem Sys.setPacc_cxSeq (y : Sys) (c p : Nat) (v : PAcc) : (y.setPacc c p v).cxSeq = y.cxSeq := rfl
@[simp] theorem Sys.setPacc_ctsel (y : Sys) (c p : Nat) (v : PAcc) : (y.setPacc c p v).ctsel = y.ctsel := rfl
@[simp] theorem Sys.setPacc_lattol (y : Sys) (c p : Nat) (v : PAcc) : (y.setPacc c p v).lattol = y.lattol := rfl
@[simp] theorem Sys.setPacc_pstate (y : Sys) (c p : Nat) (v : PAcc) : (y.setPacc c p v).pstate = y.pstate := rfl
@[simp] theorem Sys.setPacc_powerLimit (y : Sys) (c p : Nat) (v : PAcc) : (y.setPacc c p v).powerLimit = y.powerLimit := rfl
@[simp] theorem Sys.setPacc_thermal (y : Sys) (c p : Nat) (v : PAcc) : (y.setPacc c p v).thermal = y.thermal := rfl
@[simp] theorem Sys.setPacc_lnk (y : Sys) (c p : Nat) (v : PAcc) : (y.setPacc c p v).lnk = y.lnk := rfl
@[simp] theorem Sys.setPacc_msOwner (y : Sys) (c p : Nat) (v : PAcc) : (y.setPacc c p v).msOwner = y.msOwner := rfl
@[simp] theorem Sys.setPacc_msBusy (y : Sys) (c p : Nat) (v : PAcc) : (y.setPacc c p v).msBusy = y.msBusy := rfl
@[simp] theorem Sys.setPacc_irqs (y : Sys) (c p : Nat) (v : PAcc) : (y.setPacc c p v).irqs = y.irqs := rfl
@[simp] theorem Sys.setPacc_fwStatus (y : Sys) (c p : Nat) (v : PAcc) : (y.setPacc c p v).fwStatus = y.fwStatus := rfl
@[simp] theorem Sys.setPacc_mons (y : Sys) (c p : Nat) (v : PAcc) : (y.setPacc c p v).mons = y.mons := rfl
@[simp] theorem Sys.setPacc_tickets (y : Sys) (c p : Nat) (v : PAcc) : (y.setPacc c p v).tickets = y.tickets := rfl
@[simp] theorem Sys.setPacc_nextTicket (y : Sys) (c p : Nat) (v : PAcc) : (y.setPacc c p v).nextTicket = y.nextTicket := rfl
@[simp] theorem Sys.setPacc_faultq (y : Sys) (c p : Nat) (v : PAcc) : (y.setPacc c p v).faultq = y.faultq := rfl
@[simp] theorem Sys.setPacc_shoots (y : Sys) (c p : Nat) (v : PAcc) : (y.setPacc c p v).shoots = y.shoots := rfl
@[simp] theorem Sys.setPacc_relats (y : Sys) (c p : Nat) (v : PAcc) : (y.setPacc c p v).relats = y.relats := rfl
@[simp] theorem Sys.setPacc_loads (y : Sys) (c p : Nat) (v : PAcc) : (y.setPacc c p v).loads = y.loads := rfl
@[simp] theorem Sys.setPacc_seals (y : Sys) (c p : Nat) (v : PAcc) : (y.setPacc c p v).seals = y.seals := rfl
@[simp] theorem Sys.setPacc_reports (y : Sys) (c p : Nat) (v : PAcc) : (y.setPacc c p v).reports = y.reports := rfl
@[simp] theorem Sys.setPacc_hostReads (y : Sys) (c p : Nat) (v : PAcc) : (y.setPacc c p v).hostReads = y.hostReads := rfl
@[simp] theorem Sys.setPacc_mgmtStatus (y : Sys) (c p : Nat) (v : PAcc) : (y.setPacc c p v).mgmtStatus = y.mgmtStatus := rfl
@[simp] theorem Sys.setPacc_freeIx (y : Sys) (c p : Nat) (v : PAcc) : (y.setPacc c p v).freeIx = y.freeIx := rfl
@[simp] theorem Sys.setPacc_fetches (y : Sys) (c p : Nat) (v : PAcc) : (y.setPacc c p v).fetches = y.fetches := rfl
@[simp] theorem Sys.setPacc_ctxs (y : Sys) (c p : Nat) (v : PAcc) : (y.setPacc c p v).ctxs = y.ctxs := rfl
@[simp] theorem Sys.setPacc_thrs (y : Sys) (c p : Nat) (v : PAcc) : (y.setPacc c p v).thrs = y.thrs := rfl
@[simp] theorem Sys.setPacc_clus (y : Sys) (c p : Nat) (v : PAcc) : (y.setPacc c p v).clus = y.clus := rfl
@[simp] theorem Sys.setPacc_regions (y : Sys) (c p : Nat) (v : PAcc) : (y.setPacc c p v).regions = y.regions := rfl
@[simp] theorem Sys.setPacc_parks (y : Sys) (c p : Nat) (v : PAcc) : (y.setPacc c p v).parks = y.parks := rfl
@[simp] theorem Sys.setPacc_frames (y : Sys) (c p : Nat) (v : PAcc) : (y.setPacc c p v).frames = y.frames := rfl
@[simp] theorem Sys.setPacc_ctab (y : Sys) (c p : Nat) (v : PAcc) : (y.setPacc c p v).ctab = y.ctab := rfl
@[simp] theorem Sys.setPacc_bars (y : Sys) (c p : Nat) (v : PAcc) : (y.setPacc c p v).bars = y.bars := rfl
@[simp] theorem Sys.setPacc_lcount (y : Sys) (c p : Nat) (v : PAcc) : (y.setPacc c p v).lcount = y.lcount := rfl
@[simp] theorem Sys.setPacc_banks (y : Sys) (c p : Nat) (v : PAcc) : (y.setPacc c p v).banks = y.banks := rfl
@[simp] theorem Sys.setPacc_scratch (y : Sys) (c p : Nat) (v : PAcc) : (y.setPacc c p v).scratch = y.scratch := rfl
@[simp] theorem Sys.setPacc_xfers (y : Sys) (c p : Nat) (v : PAcc) : (y.setPacc c p v).xfers = y.xfers := rfl
@[simp] theorem Sys.setPacc_lanes (y : Sys) (c p : Nat) (v : PAcc) : (y.setPacc c p v).lanes = y.lanes := rfl
@[simp] theorem Sys.setPacc_pins (y : Sys) (c p : Nat) (v : PAcc) : (y.setPacc c p v).pins = y.pins := rfl
@[simp] theorem Sys.setPacc_tiles (y : Sys) (c p : Nat) (v : PAcc) : (y.setPacc c p v).tiles = y.tiles := rfl
@[simp] theorem Sys.setPacc_ments (y : Sys) (c p : Nat) (v : PAcc) : (y.setPacc c p v).ments = y.ments := rfl
@[simp] theorem Sys.setPacc_tslots (y : Sys) (c p : Nat) (v : PAcc) : (y.setPacc c p v).tslots = y.tslots := rfl
@[simp] theorem Sys.setPacc_rings (y : Sys) (c p : Nat) (v : PAcc) : (y.setPacc c p v).rings = y.rings := rfl
@[simp] theorem Sys.setPacc_links (y : Sys) (c p : Nat) (v : PAcc) : (y.setPacc c p v).links = y.links := rfl
@[simp] theorem Sys.setPacc_routers (y : Sys) (c p : Nat) (v : PAcc) : (y.setPacc c p v).routers = y.routers := rfl
@[simp] theorem Sys.setPacc_lines (y : Sys) (c p : Nat) (v : PAcc) : (y.setPacc c p v).lines = y.lines := rfl
@[simp] theorem Sys.setPacc_descs (y : Sys) (c p : Nat) (v : PAcc) : (y.setPacc c p v).descs = y.descs := rfl
@[simp] theorem Sys.setPacc_spill (y : Sys) (c p : Nat) (v : PAcc) : (y.setPacc c p v).spill = y.spill := rfl
@[simp] theorem Sys.setPacc_portTs (y : Sys) (c p : Nat) (v : PAcc) : (y.setPacc c p v).portTs = y.portTs := rfl
@[simp] theorem Sys.setLane_now (y : Sys) (c l : Nat) (v : Lane) : (y.setLane c l v).now = y.now := rfl
@[simp] theorem Sys.setLane_held (y : Sys) (c l : Nat) (v : Lane) : (y.setLane c l v).held = y.held := rfl
@[simp] theorem Sys.setLane_firmwareOk (y : Sys) (c l : Nat) (v : Lane) : (y.setLane c l v).firmwareOk = y.firmwareOk := rfl
@[simp] theorem Sys.setLane_cxsel (y : Sys) (c l : Nat) (v : Lane) : (y.setLane c l v).cxsel = y.cxsel := rfl
@[simp] theorem Sys.setLane_cxStatus (y : Sys) (c l : Nat) (v : Lane) : (y.setLane c l v).cxStatus = y.cxStatus := rfl
@[simp] theorem Sys.setLane_cxSeq (y : Sys) (c l : Nat) (v : Lane) : (y.setLane c l v).cxSeq = y.cxSeq := rfl
@[simp] theorem Sys.setLane_ctsel (y : Sys) (c l : Nat) (v : Lane) : (y.setLane c l v).ctsel = y.ctsel := rfl
@[simp] theorem Sys.setLane_lattol (y : Sys) (c l : Nat) (v : Lane) : (y.setLane c l v).lattol = y.lattol := rfl
@[simp] theorem Sys.setLane_pstate (y : Sys) (c l : Nat) (v : Lane) : (y.setLane c l v).pstate = y.pstate := rfl
@[simp] theorem Sys.setLane_powerLimit (y : Sys) (c l : Nat) (v : Lane) : (y.setLane c l v).powerLimit = y.powerLimit := rfl
@[simp] theorem Sys.setLane_thermal (y : Sys) (c l : Nat) (v : Lane) : (y.setLane c l v).thermal = y.thermal := rfl
@[simp] theorem Sys.setLane_lnk (y : Sys) (c l : Nat) (v : Lane) : (y.setLane c l v).lnk = y.lnk := rfl
@[simp] theorem Sys.setLane_msOwner (y : Sys) (c l : Nat) (v : Lane) : (y.setLane c l v).msOwner = y.msOwner := rfl
@[simp] theorem Sys.setLane_msBusy (y : Sys) (c l : Nat) (v : Lane) : (y.setLane c l v).msBusy = y.msBusy := rfl
@[simp] theorem Sys.setLane_irqs (y : Sys) (c l : Nat) (v : Lane) : (y.setLane c l v).irqs = y.irqs := rfl
@[simp] theorem Sys.setLane_fwStatus (y : Sys) (c l : Nat) (v : Lane) : (y.setLane c l v).fwStatus = y.fwStatus := rfl
@[simp] theorem Sys.setLane_mons (y : Sys) (c l : Nat) (v : Lane) : (y.setLane c l v).mons = y.mons := rfl
@[simp] theorem Sys.setLane_tickets (y : Sys) (c l : Nat) (v : Lane) : (y.setLane c l v).tickets = y.tickets := rfl
@[simp] theorem Sys.setLane_nextTicket (y : Sys) (c l : Nat) (v : Lane) : (y.setLane c l v).nextTicket = y.nextTicket := rfl
@[simp] theorem Sys.setLane_faultq (y : Sys) (c l : Nat) (v : Lane) : (y.setLane c l v).faultq = y.faultq := rfl
@[simp] theorem Sys.setLane_shoots (y : Sys) (c l : Nat) (v : Lane) : (y.setLane c l v).shoots = y.shoots := rfl
@[simp] theorem Sys.setLane_relats (y : Sys) (c l : Nat) (v : Lane) : (y.setLane c l v).relats = y.relats := rfl
@[simp] theorem Sys.setLane_loads (y : Sys) (c l : Nat) (v : Lane) : (y.setLane c l v).loads = y.loads := rfl
@[simp] theorem Sys.setLane_seals (y : Sys) (c l : Nat) (v : Lane) : (y.setLane c l v).seals = y.seals := rfl
@[simp] theorem Sys.setLane_reports (y : Sys) (c l : Nat) (v : Lane) : (y.setLane c l v).reports = y.reports := rfl
@[simp] theorem Sys.setLane_hostReads (y : Sys) (c l : Nat) (v : Lane) : (y.setLane c l v).hostReads = y.hostReads := rfl
@[simp] theorem Sys.setLane_mgmtStatus (y : Sys) (c l : Nat) (v : Lane) : (y.setLane c l v).mgmtStatus = y.mgmtStatus := rfl
@[simp] theorem Sys.setLane_freeIx (y : Sys) (c l : Nat) (v : Lane) : (y.setLane c l v).freeIx = y.freeIx := rfl
@[simp] theorem Sys.setLane_fetches (y : Sys) (c l : Nat) (v : Lane) : (y.setLane c l v).fetches = y.fetches := rfl
@[simp] theorem Sys.setLane_ctxs (y : Sys) (c l : Nat) (v : Lane) : (y.setLane c l v).ctxs = y.ctxs := rfl
@[simp] theorem Sys.setLane_thrs (y : Sys) (c l : Nat) (v : Lane) : (y.setLane c l v).thrs = y.thrs := rfl
@[simp] theorem Sys.setLane_clus (y : Sys) (c l : Nat) (v : Lane) : (y.setLane c l v).clus = y.clus := rfl
@[simp] theorem Sys.setLane_regions (y : Sys) (c l : Nat) (v : Lane) : (y.setLane c l v).regions = y.regions := rfl
@[simp] theorem Sys.setLane_parks (y : Sys) (c l : Nat) (v : Lane) : (y.setLane c l v).parks = y.parks := rfl
@[simp] theorem Sys.setLane_frames (y : Sys) (c l : Nat) (v : Lane) : (y.setLane c l v).frames = y.frames := rfl
@[simp] theorem Sys.setLane_ctab (y : Sys) (c l : Nat) (v : Lane) : (y.setLane c l v).ctab = y.ctab := rfl
@[simp] theorem Sys.setLane_bars (y : Sys) (c l : Nat) (v : Lane) : (y.setLane c l v).bars = y.bars := rfl
@[simp] theorem Sys.setLane_lcount (y : Sys) (c l : Nat) (v : Lane) : (y.setLane c l v).lcount = y.lcount := rfl
@[simp] theorem Sys.setLane_banks (y : Sys) (c l : Nat) (v : Lane) : (y.setLane c l v).banks = y.banks := rfl
@[simp] theorem Sys.setLane_scratch (y : Sys) (c l : Nat) (v : Lane) : (y.setLane c l v).scratch = y.scratch := rfl
@[simp] theorem Sys.setLane_xfers (y : Sys) (c l : Nat) (v : Lane) : (y.setLane c l v).xfers = y.xfers := rfl
@[simp] theorem Sys.setLane_paccs (y : Sys) (c l : Nat) (v : Lane) : (y.setLane c l v).paccs = y.paccs := rfl
@[simp] theorem Sys.setLane_pins (y : Sys) (c l : Nat) (v : Lane) : (y.setLane c l v).pins = y.pins := rfl
@[simp] theorem Sys.setLane_tiles (y : Sys) (c l : Nat) (v : Lane) : (y.setLane c l v).tiles = y.tiles := rfl
@[simp] theorem Sys.setLane_ments (y : Sys) (c l : Nat) (v : Lane) : (y.setLane c l v).ments = y.ments := rfl
@[simp] theorem Sys.setLane_tslots (y : Sys) (c l : Nat) (v : Lane) : (y.setLane c l v).tslots = y.tslots := rfl
@[simp] theorem Sys.setLane_rings (y : Sys) (c l : Nat) (v : Lane) : (y.setLane c l v).rings = y.rings := rfl
@[simp] theorem Sys.setLane_links (y : Sys) (c l : Nat) (v : Lane) : (y.setLane c l v).links = y.links := rfl
@[simp] theorem Sys.setLane_routers (y : Sys) (c l : Nat) (v : Lane) : (y.setLane c l v).routers = y.routers := rfl
@[simp] theorem Sys.setLane_lines (y : Sys) (c l : Nat) (v : Lane) : (y.setLane c l v).lines = y.lines := rfl
@[simp] theorem Sys.setLane_descs (y : Sys) (c l : Nat) (v : Lane) : (y.setLane c l v).descs = y.descs := rfl
@[simp] theorem Sys.setLane_spill (y : Sys) (c l : Nat) (v : Lane) : (y.setLane c l v).spill = y.spill := rfl
@[simp] theorem Sys.setLane_portTs (y : Sys) (c l : Nat) (v : Lane) : (y.setLane c l v).portTs = y.portTs := rfl
@[simp] theorem Sys.setPin_now (y : Sys) (c e : Nat) (v : Pin) : (y.setPin c e v).now = y.now := rfl
@[simp] theorem Sys.setPin_held (y : Sys) (c e : Nat) (v : Pin) : (y.setPin c e v).held = y.held := rfl
@[simp] theorem Sys.setPin_firmwareOk (y : Sys) (c e : Nat) (v : Pin) : (y.setPin c e v).firmwareOk = y.firmwareOk := rfl
@[simp] theorem Sys.setPin_cxsel (y : Sys) (c e : Nat) (v : Pin) : (y.setPin c e v).cxsel = y.cxsel := rfl
@[simp] theorem Sys.setPin_cxStatus (y : Sys) (c e : Nat) (v : Pin) : (y.setPin c e v).cxStatus = y.cxStatus := rfl
@[simp] theorem Sys.setPin_cxSeq (y : Sys) (c e : Nat) (v : Pin) : (y.setPin c e v).cxSeq = y.cxSeq := rfl
@[simp] theorem Sys.setPin_ctsel (y : Sys) (c e : Nat) (v : Pin) : (y.setPin c e v).ctsel = y.ctsel := rfl
@[simp] theorem Sys.setPin_lattol (y : Sys) (c e : Nat) (v : Pin) : (y.setPin c e v).lattol = y.lattol := rfl
@[simp] theorem Sys.setPin_pstate (y : Sys) (c e : Nat) (v : Pin) : (y.setPin c e v).pstate = y.pstate := rfl
@[simp] theorem Sys.setPin_powerLimit (y : Sys) (c e : Nat) (v : Pin) : (y.setPin c e v).powerLimit = y.powerLimit := rfl
@[simp] theorem Sys.setPin_thermal (y : Sys) (c e : Nat) (v : Pin) : (y.setPin c e v).thermal = y.thermal := rfl
@[simp] theorem Sys.setPin_lnk (y : Sys) (c e : Nat) (v : Pin) : (y.setPin c e v).lnk = y.lnk := rfl
@[simp] theorem Sys.setPin_msOwner (y : Sys) (c e : Nat) (v : Pin) : (y.setPin c e v).msOwner = y.msOwner := rfl
@[simp] theorem Sys.setPin_msBusy (y : Sys) (c e : Nat) (v : Pin) : (y.setPin c e v).msBusy = y.msBusy := rfl
@[simp] theorem Sys.setPin_irqs (y : Sys) (c e : Nat) (v : Pin) : (y.setPin c e v).irqs = y.irqs := rfl
@[simp] theorem Sys.setPin_fwStatus (y : Sys) (c e : Nat) (v : Pin) : (y.setPin c e v).fwStatus = y.fwStatus := rfl
@[simp] theorem Sys.setPin_mons (y : Sys) (c e : Nat) (v : Pin) : (y.setPin c e v).mons = y.mons := rfl
@[simp] theorem Sys.setPin_tickets (y : Sys) (c e : Nat) (v : Pin) : (y.setPin c e v).tickets = y.tickets := rfl
@[simp] theorem Sys.setPin_nextTicket (y : Sys) (c e : Nat) (v : Pin) : (y.setPin c e v).nextTicket = y.nextTicket := rfl
@[simp] theorem Sys.setPin_faultq (y : Sys) (c e : Nat) (v : Pin) : (y.setPin c e v).faultq = y.faultq := rfl
@[simp] theorem Sys.setPin_shoots (y : Sys) (c e : Nat) (v : Pin) : (y.setPin c e v).shoots = y.shoots := rfl
@[simp] theorem Sys.setPin_relats (y : Sys) (c e : Nat) (v : Pin) : (y.setPin c e v).relats = y.relats := rfl
@[simp] theorem Sys.setPin_loads (y : Sys) (c e : Nat) (v : Pin) : (y.setPin c e v).loads = y.loads := rfl
@[simp] theorem Sys.setPin_seals (y : Sys) (c e : Nat) (v : Pin) : (y.setPin c e v).seals = y.seals := rfl
@[simp] theorem Sys.setPin_reports (y : Sys) (c e : Nat) (v : Pin) : (y.setPin c e v).reports = y.reports := rfl
@[simp] theorem Sys.setPin_hostReads (y : Sys) (c e : Nat) (v : Pin) : (y.setPin c e v).hostReads = y.hostReads := rfl
@[simp] theorem Sys.setPin_mgmtStatus (y : Sys) (c e : Nat) (v : Pin) : (y.setPin c e v).mgmtStatus = y.mgmtStatus := rfl
@[simp] theorem Sys.setPin_freeIx (y : Sys) (c e : Nat) (v : Pin) : (y.setPin c e v).freeIx = y.freeIx := rfl
@[simp] theorem Sys.setPin_fetches (y : Sys) (c e : Nat) (v : Pin) : (y.setPin c e v).fetches = y.fetches := rfl
@[simp] theorem Sys.setPin_ctxs (y : Sys) (c e : Nat) (v : Pin) : (y.setPin c e v).ctxs = y.ctxs := rfl
@[simp] theorem Sys.setPin_thrs (y : Sys) (c e : Nat) (v : Pin) : (y.setPin c e v).thrs = y.thrs := rfl
@[simp] theorem Sys.setPin_clus (y : Sys) (c e : Nat) (v : Pin) : (y.setPin c e v).clus = y.clus := rfl
@[simp] theorem Sys.setPin_regions (y : Sys) (c e : Nat) (v : Pin) : (y.setPin c e v).regions = y.regions := rfl
@[simp] theorem Sys.setPin_parks (y : Sys) (c e : Nat) (v : Pin) : (y.setPin c e v).parks = y.parks := rfl
@[simp] theorem Sys.setPin_frames (y : Sys) (c e : Nat) (v : Pin) : (y.setPin c e v).frames = y.frames := rfl
@[simp] theorem Sys.setPin_ctab (y : Sys) (c e : Nat) (v : Pin) : (y.setPin c e v).ctab = y.ctab := rfl
@[simp] theorem Sys.setPin_bars (y : Sys) (c e : Nat) (v : Pin) : (y.setPin c e v).bars = y.bars := rfl
@[simp] theorem Sys.setPin_lcount (y : Sys) (c e : Nat) (v : Pin) : (y.setPin c e v).lcount = y.lcount := rfl
@[simp] theorem Sys.setPin_banks (y : Sys) (c e : Nat) (v : Pin) : (y.setPin c e v).banks = y.banks := rfl
@[simp] theorem Sys.setPin_scratch (y : Sys) (c e : Nat) (v : Pin) : (y.setPin c e v).scratch = y.scratch := rfl
@[simp] theorem Sys.setPin_xfers (y : Sys) (c e : Nat) (v : Pin) : (y.setPin c e v).xfers = y.xfers := rfl
@[simp] theorem Sys.setPin_paccs (y : Sys) (c e : Nat) (v : Pin) : (y.setPin c e v).paccs = y.paccs := rfl
@[simp] theorem Sys.setPin_lanes (y : Sys) (c e : Nat) (v : Pin) : (y.setPin c e v).lanes = y.lanes := rfl
@[simp] theorem Sys.setPin_tiles (y : Sys) (c e : Nat) (v : Pin) : (y.setPin c e v).tiles = y.tiles := rfl
@[simp] theorem Sys.setPin_ments (y : Sys) (c e : Nat) (v : Pin) : (y.setPin c e v).ments = y.ments := rfl
@[simp] theorem Sys.setPin_tslots (y : Sys) (c e : Nat) (v : Pin) : (y.setPin c e v).tslots = y.tslots := rfl
@[simp] theorem Sys.setPin_rings (y : Sys) (c e : Nat) (v : Pin) : (y.setPin c e v).rings = y.rings := rfl
@[simp] theorem Sys.setPin_links (y : Sys) (c e : Nat) (v : Pin) : (y.setPin c e v).links = y.links := rfl
@[simp] theorem Sys.setPin_routers (y : Sys) (c e : Nat) (v : Pin) : (y.setPin c e v).routers = y.routers := rfl
@[simp] theorem Sys.setPin_lines (y : Sys) (c e : Nat) (v : Pin) : (y.setPin c e v).lines = y.lines := rfl
@[simp] theorem Sys.setPin_descs (y : Sys) (c e : Nat) (v : Pin) : (y.setPin c e v).descs = y.descs := rfl
@[simp] theorem Sys.setPin_spill (y : Sys) (c e : Nat) (v : Pin) : (y.setPin c e v).spill = y.spill := rfl
@[simp] theorem Sys.setPin_portTs (y : Sys) (c e : Nat) (v : Pin) : (y.setPin c e v).portTs = y.portTs := rfl
@[simp] theorem Sys.setTile_now (y : Sys) (c m q : Nat) (v : Tile) : (y.setTile c m q v).now = y.now := rfl
@[simp] theorem Sys.setTile_held (y : Sys) (c m q : Nat) (v : Tile) : (y.setTile c m q v).held = y.held := rfl
@[simp] theorem Sys.setTile_firmwareOk (y : Sys) (c m q : Nat) (v : Tile) : (y.setTile c m q v).firmwareOk = y.firmwareOk := rfl
@[simp] theorem Sys.setTile_cxsel (y : Sys) (c m q : Nat) (v : Tile) : (y.setTile c m q v).cxsel = y.cxsel := rfl
@[simp] theorem Sys.setTile_cxStatus (y : Sys) (c m q : Nat) (v : Tile) : (y.setTile c m q v).cxStatus = y.cxStatus := rfl
@[simp] theorem Sys.setTile_cxSeq (y : Sys) (c m q : Nat) (v : Tile) : (y.setTile c m q v).cxSeq = y.cxSeq := rfl
@[simp] theorem Sys.setTile_ctsel (y : Sys) (c m q : Nat) (v : Tile) : (y.setTile c m q v).ctsel = y.ctsel := rfl
@[simp] theorem Sys.setTile_lattol (y : Sys) (c m q : Nat) (v : Tile) : (y.setTile c m q v).lattol = y.lattol := rfl
@[simp] theorem Sys.setTile_pstate (y : Sys) (c m q : Nat) (v : Tile) : (y.setTile c m q v).pstate = y.pstate := rfl
@[simp] theorem Sys.setTile_powerLimit (y : Sys) (c m q : Nat) (v : Tile) : (y.setTile c m q v).powerLimit = y.powerLimit := rfl
@[simp] theorem Sys.setTile_thermal (y : Sys) (c m q : Nat) (v : Tile) : (y.setTile c m q v).thermal = y.thermal := rfl
@[simp] theorem Sys.setTile_lnk (y : Sys) (c m q : Nat) (v : Tile) : (y.setTile c m q v).lnk = y.lnk := rfl
@[simp] theorem Sys.setTile_msOwner (y : Sys) (c m q : Nat) (v : Tile) : (y.setTile c m q v).msOwner = y.msOwner := rfl
@[simp] theorem Sys.setTile_msBusy (y : Sys) (c m q : Nat) (v : Tile) : (y.setTile c m q v).msBusy = y.msBusy := rfl
@[simp] theorem Sys.setTile_irqs (y : Sys) (c m q : Nat) (v : Tile) : (y.setTile c m q v).irqs = y.irqs := rfl
@[simp] theorem Sys.setTile_fwStatus (y : Sys) (c m q : Nat) (v : Tile) : (y.setTile c m q v).fwStatus = y.fwStatus := rfl
@[simp] theorem Sys.setTile_mons (y : Sys) (c m q : Nat) (v : Tile) : (y.setTile c m q v).mons = y.mons := rfl
@[simp] theorem Sys.setTile_tickets (y : Sys) (c m q : Nat) (v : Tile) : (y.setTile c m q v).tickets = y.tickets := rfl
@[simp] theorem Sys.setTile_nextTicket (y : Sys) (c m q : Nat) (v : Tile) : (y.setTile c m q v).nextTicket = y.nextTicket := rfl
@[simp] theorem Sys.setTile_faultq (y : Sys) (c m q : Nat) (v : Tile) : (y.setTile c m q v).faultq = y.faultq := rfl
@[simp] theorem Sys.setTile_shoots (y : Sys) (c m q : Nat) (v : Tile) : (y.setTile c m q v).shoots = y.shoots := rfl
@[simp] theorem Sys.setTile_relats (y : Sys) (c m q : Nat) (v : Tile) : (y.setTile c m q v).relats = y.relats := rfl
@[simp] theorem Sys.setTile_loads (y : Sys) (c m q : Nat) (v : Tile) : (y.setTile c m q v).loads = y.loads := rfl
@[simp] theorem Sys.setTile_seals (y : Sys) (c m q : Nat) (v : Tile) : (y.setTile c m q v).seals = y.seals := rfl
@[simp] theorem Sys.setTile_reports (y : Sys) (c m q : Nat) (v : Tile) : (y.setTile c m q v).reports = y.reports := rfl
@[simp] theorem Sys.setTile_hostReads (y : Sys) (c m q : Nat) (v : Tile) : (y.setTile c m q v).hostReads = y.hostReads := rfl
@[simp] theorem Sys.setTile_mgmtStatus (y : Sys) (c m q : Nat) (v : Tile) : (y.setTile c m q v).mgmtStatus = y.mgmtStatus := rfl
@[simp] theorem Sys.setTile_freeIx (y : Sys) (c m q : Nat) (v : Tile) : (y.setTile c m q v).freeIx = y.freeIx := rfl
@[simp] theorem Sys.setTile_fetches (y : Sys) (c m q : Nat) (v : Tile) : (y.setTile c m q v).fetches = y.fetches := rfl
@[simp] theorem Sys.setTile_ctxs (y : Sys) (c m q : Nat) (v : Tile) : (y.setTile c m q v).ctxs = y.ctxs := rfl
@[simp] theorem Sys.setTile_thrs (y : Sys) (c m q : Nat) (v : Tile) : (y.setTile c m q v).thrs = y.thrs := rfl
@[simp] theorem Sys.setTile_clus (y : Sys) (c m q : Nat) (v : Tile) : (y.setTile c m q v).clus = y.clus := rfl
@[simp] theorem Sys.setTile_regions (y : Sys) (c m q : Nat) (v : Tile) : (y.setTile c m q v).regions = y.regions := rfl
@[simp] theorem Sys.setTile_parks (y : Sys) (c m q : Nat) (v : Tile) : (y.setTile c m q v).parks = y.parks := rfl
@[simp] theorem Sys.setTile_frames (y : Sys) (c m q : Nat) (v : Tile) : (y.setTile c m q v).frames = y.frames := rfl
@[simp] theorem Sys.setTile_ctab (y : Sys) (c m q : Nat) (v : Tile) : (y.setTile c m q v).ctab = y.ctab := rfl
@[simp] theorem Sys.setTile_bars (y : Sys) (c m q : Nat) (v : Tile) : (y.setTile c m q v).bars = y.bars := rfl
@[simp] theorem Sys.setTile_lcount (y : Sys) (c m q : Nat) (v : Tile) : (y.setTile c m q v).lcount = y.lcount := rfl
@[simp] theorem Sys.setTile_banks (y : Sys) (c m q : Nat) (v : Tile) : (y.setTile c m q v).banks = y.banks := rfl
@[simp] theorem Sys.setTile_scratch (y : Sys) (c m q : Nat) (v : Tile) : (y.setTile c m q v).scratch = y.scratch := rfl
@[simp] theorem Sys.setTile_xfers (y : Sys) (c m q : Nat) (v : Tile) : (y.setTile c m q v).xfers = y.xfers := rfl
@[simp] theorem Sys.setTile_paccs (y : Sys) (c m q : Nat) (v : Tile) : (y.setTile c m q v).paccs = y.paccs := rfl
@[simp] theorem Sys.setTile_lanes (y : Sys) (c m q : Nat) (v : Tile) : (y.setTile c m q v).lanes = y.lanes := rfl
@[simp] theorem Sys.setTile_pins (y : Sys) (c m q : Nat) (v : Tile) : (y.setTile c m q v).pins = y.pins := rfl
@[simp] theorem Sys.setTile_ments (y : Sys) (c m q : Nat) (v : Tile) : (y.setTile c m q v).ments = y.ments := rfl
@[simp] theorem Sys.setTile_tslots (y : Sys) (c m q : Nat) (v : Tile) : (y.setTile c m q v).tslots = y.tslots := rfl
@[simp] theorem Sys.setTile_rings (y : Sys) (c m q : Nat) (v : Tile) : (y.setTile c m q v).rings = y.rings := rfl
@[simp] theorem Sys.setTile_links (y : Sys) (c m q : Nat) (v : Tile) : (y.setTile c m q v).links = y.links := rfl
@[simp] theorem Sys.setTile_routers (y : Sys) (c m q : Nat) (v : Tile) : (y.setTile c m q v).routers = y.routers := rfl
@[simp] theorem Sys.setTile_lines (y : Sys) (c m q : Nat) (v : Tile) : (y.setTile c m q v).lines = y.lines := rfl
@[simp] theorem Sys.setTile_descs (y : Sys) (c m q : Nat) (v : Tile) : (y.setTile c m q v).descs = y.descs := rfl
@[simp] theorem Sys.setTile_spill (y : Sys) (c m q : Nat) (v : Tile) : (y.setTile c m q v).spill = y.spill := rfl
@[simp] theorem Sys.setTile_portTs (y : Sys) (c m q : Nat) (v : Tile) : (y.setTile c m q v).portTs = y.portTs := rfl
@[simp] theorem Sys.setMent_now (y : Sys) (c e : Nat) (v : MEnt) : (y.setMent c e v).now = y.now := rfl
@[simp] theorem Sys.setMent_held (y : Sys) (c e : Nat) (v : MEnt) : (y.setMent c e v).held = y.held := rfl
@[simp] theorem Sys.setMent_firmwareOk (y : Sys) (c e : Nat) (v : MEnt) : (y.setMent c e v).firmwareOk = y.firmwareOk := rfl
@[simp] theorem Sys.setMent_cxsel (y : Sys) (c e : Nat) (v : MEnt) : (y.setMent c e v).cxsel = y.cxsel := rfl
@[simp] theorem Sys.setMent_cxStatus (y : Sys) (c e : Nat) (v : MEnt) : (y.setMent c e v).cxStatus = y.cxStatus := rfl
@[simp] theorem Sys.setMent_cxSeq (y : Sys) (c e : Nat) (v : MEnt) : (y.setMent c e v).cxSeq = y.cxSeq := rfl
@[simp] theorem Sys.setMent_ctsel (y : Sys) (c e : Nat) (v : MEnt) : (y.setMent c e v).ctsel = y.ctsel := rfl
@[simp] theorem Sys.setMent_lattol (y : Sys) (c e : Nat) (v : MEnt) : (y.setMent c e v).lattol = y.lattol := rfl
@[simp] theorem Sys.setMent_pstate (y : Sys) (c e : Nat) (v : MEnt) : (y.setMent c e v).pstate = y.pstate := rfl
@[simp] theorem Sys.setMent_powerLimit (y : Sys) (c e : Nat) (v : MEnt) : (y.setMent c e v).powerLimit = y.powerLimit := rfl
@[simp] theorem Sys.setMent_thermal (y : Sys) (c e : Nat) (v : MEnt) : (y.setMent c e v).thermal = y.thermal := rfl
@[simp] theorem Sys.setMent_lnk (y : Sys) (c e : Nat) (v : MEnt) : (y.setMent c e v).lnk = y.lnk := rfl
@[simp] theorem Sys.setMent_msOwner (y : Sys) (c e : Nat) (v : MEnt) : (y.setMent c e v).msOwner = y.msOwner := rfl
@[simp] theorem Sys.setMent_msBusy (y : Sys) (c e : Nat) (v : MEnt) : (y.setMent c e v).msBusy = y.msBusy := rfl
@[simp] theorem Sys.setMent_irqs (y : Sys) (c e : Nat) (v : MEnt) : (y.setMent c e v).irqs = y.irqs := rfl
@[simp] theorem Sys.setMent_fwStatus (y : Sys) (c e : Nat) (v : MEnt) : (y.setMent c e v).fwStatus = y.fwStatus := rfl
@[simp] theorem Sys.setMent_mons (y : Sys) (c e : Nat) (v : MEnt) : (y.setMent c e v).mons = y.mons := rfl
@[simp] theorem Sys.setMent_tickets (y : Sys) (c e : Nat) (v : MEnt) : (y.setMent c e v).tickets = y.tickets := rfl
@[simp] theorem Sys.setMent_nextTicket (y : Sys) (c e : Nat) (v : MEnt) : (y.setMent c e v).nextTicket = y.nextTicket := rfl
@[simp] theorem Sys.setMent_faultq (y : Sys) (c e : Nat) (v : MEnt) : (y.setMent c e v).faultq = y.faultq := rfl
@[simp] theorem Sys.setMent_shoots (y : Sys) (c e : Nat) (v : MEnt) : (y.setMent c e v).shoots = y.shoots := rfl
@[simp] theorem Sys.setMent_relats (y : Sys) (c e : Nat) (v : MEnt) : (y.setMent c e v).relats = y.relats := rfl
@[simp] theorem Sys.setMent_loads (y : Sys) (c e : Nat) (v : MEnt) : (y.setMent c e v).loads = y.loads := rfl
@[simp] theorem Sys.setMent_seals (y : Sys) (c e : Nat) (v : MEnt) : (y.setMent c e v).seals = y.seals := rfl
@[simp] theorem Sys.setMent_reports (y : Sys) (c e : Nat) (v : MEnt) : (y.setMent c e v).reports = y.reports := rfl
@[simp] theorem Sys.setMent_hostReads (y : Sys) (c e : Nat) (v : MEnt) : (y.setMent c e v).hostReads = y.hostReads := rfl
@[simp] theorem Sys.setMent_mgmtStatus (y : Sys) (c e : Nat) (v : MEnt) : (y.setMent c e v).mgmtStatus = y.mgmtStatus := rfl
@[simp] theorem Sys.setMent_freeIx (y : Sys) (c e : Nat) (v : MEnt) : (y.setMent c e v).freeIx = y.freeIx := rfl
@[simp] theorem Sys.setMent_fetches (y : Sys) (c e : Nat) (v : MEnt) : (y.setMent c e v).fetches = y.fetches := rfl
@[simp] theorem Sys.setMent_ctxs (y : Sys) (c e : Nat) (v : MEnt) : (y.setMent c e v).ctxs = y.ctxs := rfl
@[simp] theorem Sys.setMent_thrs (y : Sys) (c e : Nat) (v : MEnt) : (y.setMent c e v).thrs = y.thrs := rfl
@[simp] theorem Sys.setMent_clus (y : Sys) (c e : Nat) (v : MEnt) : (y.setMent c e v).clus = y.clus := rfl
@[simp] theorem Sys.setMent_regions (y : Sys) (c e : Nat) (v : MEnt) : (y.setMent c e v).regions = y.regions := rfl
@[simp] theorem Sys.setMent_parks (y : Sys) (c e : Nat) (v : MEnt) : (y.setMent c e v).parks = y.parks := rfl
@[simp] theorem Sys.setMent_frames (y : Sys) (c e : Nat) (v : MEnt) : (y.setMent c e v).frames = y.frames := rfl
@[simp] theorem Sys.setMent_ctab (y : Sys) (c e : Nat) (v : MEnt) : (y.setMent c e v).ctab = y.ctab := rfl
@[simp] theorem Sys.setMent_bars (y : Sys) (c e : Nat) (v : MEnt) : (y.setMent c e v).bars = y.bars := rfl
@[simp] theorem Sys.setMent_lcount (y : Sys) (c e : Nat) (v : MEnt) : (y.setMent c e v).lcount = y.lcount := rfl
@[simp] theorem Sys.setMent_banks (y : Sys) (c e : Nat) (v : MEnt) : (y.setMent c e v).banks = y.banks := rfl
@[simp] theorem Sys.setMent_scratch (y : Sys) (c e : Nat) (v : MEnt) : (y.setMent c e v).scratch = y.scratch := rfl
@[simp] theorem Sys.setMent_xfers (y : Sys) (c e : Nat) (v : MEnt) : (y.setMent c e v).xfers = y.xfers := rfl
@[simp] theorem Sys.setMent_paccs (y : Sys) (c e : Nat) (v : MEnt) : (y.setMent c e v).paccs = y.paccs := rfl
@[simp] theorem Sys.setMent_lanes (y : Sys) (c e : Nat) (v : MEnt) : (y.setMent c e v).lanes = y.lanes := rfl
@[simp] theorem Sys.setMent_pins (y : Sys) (c e : Nat) (v : MEnt) : (y.setMent c e v).pins = y.pins := rfl
@[simp] theorem Sys.setMent_tiles (y : Sys) (c e : Nat) (v : MEnt) : (y.setMent c e v).tiles = y.tiles := rfl
@[simp] theorem Sys.setMent_tslots (y : Sys) (c e : Nat) (v : MEnt) : (y.setMent c e v).tslots = y.tslots := rfl
@[simp] theorem Sys.setMent_rings (y : Sys) (c e : Nat) (v : MEnt) : (y.setMent c e v).rings = y.rings := rfl
@[simp] theorem Sys.setMent_links (y : Sys) (c e : Nat) (v : MEnt) : (y.setMent c e v).links = y.links := rfl
@[simp] theorem Sys.setMent_routers (y : Sys) (c e : Nat) (v : MEnt) : (y.setMent c e v).routers = y.routers := rfl
@[simp] theorem Sys.setMent_lines (y : Sys) (c e : Nat) (v : MEnt) : (y.setMent c e v).lines = y.lines := rfl
@[simp] theorem Sys.setMent_descs (y : Sys) (c e : Nat) (v : MEnt) : (y.setMent c e v).descs = y.descs := rfl
@[simp] theorem Sys.setMent_spill (y : Sys) (c e : Nat) (v : MEnt) : (y.setMent c e v).spill = y.spill := rfl
@[simp] theorem Sys.setMent_portTs (y : Sys) (c e : Nat) (v : MEnt) : (y.setMent c e v).portTs = y.portTs := rfl
@[simp] theorem Sys.setTslot_now (y : Sys) (c k : Nat) (v : TSlot) : (y.setTslot c k v).now = y.now := rfl
@[simp] theorem Sys.setTslot_held (y : Sys) (c k : Nat) (v : TSlot) : (y.setTslot c k v).held = y.held := rfl
@[simp] theorem Sys.setTslot_firmwareOk (y : Sys) (c k : Nat) (v : TSlot) : (y.setTslot c k v).firmwareOk = y.firmwareOk := rfl
@[simp] theorem Sys.setTslot_cxsel (y : Sys) (c k : Nat) (v : TSlot) : (y.setTslot c k v).cxsel = y.cxsel := rfl
@[simp] theorem Sys.setTslot_cxStatus (y : Sys) (c k : Nat) (v : TSlot) : (y.setTslot c k v).cxStatus = y.cxStatus := rfl
@[simp] theorem Sys.setTslot_cxSeq (y : Sys) (c k : Nat) (v : TSlot) : (y.setTslot c k v).cxSeq = y.cxSeq := rfl
@[simp] theorem Sys.setTslot_ctsel (y : Sys) (c k : Nat) (v : TSlot) : (y.setTslot c k v).ctsel = y.ctsel := rfl
@[simp] theorem Sys.setTslot_lattol (y : Sys) (c k : Nat) (v : TSlot) : (y.setTslot c k v).lattol = y.lattol := rfl
@[simp] theorem Sys.setTslot_pstate (y : Sys) (c k : Nat) (v : TSlot) : (y.setTslot c k v).pstate = y.pstate := rfl
@[simp] theorem Sys.setTslot_powerLimit (y : Sys) (c k : Nat) (v : TSlot) : (y.setTslot c k v).powerLimit = y.powerLimit := rfl
@[simp] theorem Sys.setTslot_thermal (y : Sys) (c k : Nat) (v : TSlot) : (y.setTslot c k v).thermal = y.thermal := rfl
@[simp] theorem Sys.setTslot_lnk (y : Sys) (c k : Nat) (v : TSlot) : (y.setTslot c k v).lnk = y.lnk := rfl
@[simp] theorem Sys.setTslot_msOwner (y : Sys) (c k : Nat) (v : TSlot) : (y.setTslot c k v).msOwner = y.msOwner := rfl
@[simp] theorem Sys.setTslot_msBusy (y : Sys) (c k : Nat) (v : TSlot) : (y.setTslot c k v).msBusy = y.msBusy := rfl
@[simp] theorem Sys.setTslot_irqs (y : Sys) (c k : Nat) (v : TSlot) : (y.setTslot c k v).irqs = y.irqs := rfl
@[simp] theorem Sys.setTslot_fwStatus (y : Sys) (c k : Nat) (v : TSlot) : (y.setTslot c k v).fwStatus = y.fwStatus := rfl
@[simp] theorem Sys.setTslot_mons (y : Sys) (c k : Nat) (v : TSlot) : (y.setTslot c k v).mons = y.mons := rfl
@[simp] theorem Sys.setTslot_tickets (y : Sys) (c k : Nat) (v : TSlot) : (y.setTslot c k v).tickets = y.tickets := rfl
@[simp] theorem Sys.setTslot_nextTicket (y : Sys) (c k : Nat) (v : TSlot) : (y.setTslot c k v).nextTicket = y.nextTicket := rfl
@[simp] theorem Sys.setTslot_faultq (y : Sys) (c k : Nat) (v : TSlot) : (y.setTslot c k v).faultq = y.faultq := rfl
@[simp] theorem Sys.setTslot_shoots (y : Sys) (c k : Nat) (v : TSlot) : (y.setTslot c k v).shoots = y.shoots := rfl
@[simp] theorem Sys.setTslot_relats (y : Sys) (c k : Nat) (v : TSlot) : (y.setTslot c k v).relats = y.relats := rfl
@[simp] theorem Sys.setTslot_loads (y : Sys) (c k : Nat) (v : TSlot) : (y.setTslot c k v).loads = y.loads := rfl
@[simp] theorem Sys.setTslot_seals (y : Sys) (c k : Nat) (v : TSlot) : (y.setTslot c k v).seals = y.seals := rfl
@[simp] theorem Sys.setTslot_reports (y : Sys) (c k : Nat) (v : TSlot) : (y.setTslot c k v).reports = y.reports := rfl
@[simp] theorem Sys.setTslot_hostReads (y : Sys) (c k : Nat) (v : TSlot) : (y.setTslot c k v).hostReads = y.hostReads := rfl
@[simp] theorem Sys.setTslot_mgmtStatus (y : Sys) (c k : Nat) (v : TSlot) : (y.setTslot c k v).mgmtStatus = y.mgmtStatus := rfl
@[simp] theorem Sys.setTslot_freeIx (y : Sys) (c k : Nat) (v : TSlot) : (y.setTslot c k v).freeIx = y.freeIx := rfl
@[simp] theorem Sys.setTslot_fetches (y : Sys) (c k : Nat) (v : TSlot) : (y.setTslot c k v).fetches = y.fetches := rfl
@[simp] theorem Sys.setTslot_ctxs (y : Sys) (c k : Nat) (v : TSlot) : (y.setTslot c k v).ctxs = y.ctxs := rfl
@[simp] theorem Sys.setTslot_thrs (y : Sys) (c k : Nat) (v : TSlot) : (y.setTslot c k v).thrs = y.thrs := rfl
@[simp] theorem Sys.setTslot_clus (y : Sys) (c k : Nat) (v : TSlot) : (y.setTslot c k v).clus = y.clus := rfl
@[simp] theorem Sys.setTslot_regions (y : Sys) (c k : Nat) (v : TSlot) : (y.setTslot c k v).regions = y.regions := rfl
@[simp] theorem Sys.setTslot_parks (y : Sys) (c k : Nat) (v : TSlot) : (y.setTslot c k v).parks = y.parks := rfl
@[simp] theorem Sys.setTslot_frames (y : Sys) (c k : Nat) (v : TSlot) : (y.setTslot c k v).frames = y.frames := rfl
@[simp] theorem Sys.setTslot_ctab (y : Sys) (c k : Nat) (v : TSlot) : (y.setTslot c k v).ctab = y.ctab := rfl
@[simp] theorem Sys.setTslot_bars (y : Sys) (c k : Nat) (v : TSlot) : (y.setTslot c k v).bars = y.bars := rfl
@[simp] theorem Sys.setTslot_lcount (y : Sys) (c k : Nat) (v : TSlot) : (y.setTslot c k v).lcount = y.lcount := rfl
@[simp] theorem Sys.setTslot_banks (y : Sys) (c k : Nat) (v : TSlot) : (y.setTslot c k v).banks = y.banks := rfl
@[simp] theorem Sys.setTslot_scratch (y : Sys) (c k : Nat) (v : TSlot) : (y.setTslot c k v).scratch = y.scratch := rfl
@[simp] theorem Sys.setTslot_xfers (y : Sys) (c k : Nat) (v : TSlot) : (y.setTslot c k v).xfers = y.xfers := rfl
@[simp] theorem Sys.setTslot_paccs (y : Sys) (c k : Nat) (v : TSlot) : (y.setTslot c k v).paccs = y.paccs := rfl
@[simp] theorem Sys.setTslot_lanes (y : Sys) (c k : Nat) (v : TSlot) : (y.setTslot c k v).lanes = y.lanes := rfl
@[simp] theorem Sys.setTslot_pins (y : Sys) (c k : Nat) (v : TSlot) : (y.setTslot c k v).pins = y.pins := rfl
@[simp] theorem Sys.setTslot_tiles (y : Sys) (c k : Nat) (v : TSlot) : (y.setTslot c k v).tiles = y.tiles := rfl
@[simp] theorem Sys.setTslot_ments (y : Sys) (c k : Nat) (v : TSlot) : (y.setTslot c k v).ments = y.ments := rfl
@[simp] theorem Sys.setTslot_rings (y : Sys) (c k : Nat) (v : TSlot) : (y.setTslot c k v).rings = y.rings := rfl
@[simp] theorem Sys.setTslot_links (y : Sys) (c k : Nat) (v : TSlot) : (y.setTslot c k v).links = y.links := rfl
@[simp] theorem Sys.setTslot_routers (y : Sys) (c k : Nat) (v : TSlot) : (y.setTslot c k v).routers = y.routers := rfl
@[simp] theorem Sys.setTslot_lines (y : Sys) (c k : Nat) (v : TSlot) : (y.setTslot c k v).lines = y.lines := rfl
@[simp] theorem Sys.setTslot_descs (y : Sys) (c k : Nat) (v : TSlot) : (y.setTslot c k v).descs = y.descs := rfl
@[simp] theorem Sys.setTslot_spill (y : Sys) (c k : Nat) (v : TSlot) : (y.setTslot c k v).spill = y.spill := rfl
@[simp] theorem Sys.setTslot_portTs (y : Sys) (c k : Nat) (v : TSlot) : (y.setTslot c k v).portTs = y.portTs := rfl
@[simp] theorem Sys.setRing_now (y : Sys) (g : Nat) (v : Ring) : (y.setRing g v).now = y.now := rfl
@[simp] theorem Sys.setRing_held (y : Sys) (g : Nat) (v : Ring) : (y.setRing g v).held = y.held := rfl
@[simp] theorem Sys.setRing_firmwareOk (y : Sys) (g : Nat) (v : Ring) : (y.setRing g v).firmwareOk = y.firmwareOk := rfl
@[simp] theorem Sys.setRing_cxsel (y : Sys) (g : Nat) (v : Ring) : (y.setRing g v).cxsel = y.cxsel := rfl
@[simp] theorem Sys.setRing_cxStatus (y : Sys) (g : Nat) (v : Ring) : (y.setRing g v).cxStatus = y.cxStatus := rfl
@[simp] theorem Sys.setRing_cxSeq (y : Sys) (g : Nat) (v : Ring) : (y.setRing g v).cxSeq = y.cxSeq := rfl
@[simp] theorem Sys.setRing_ctsel (y : Sys) (g : Nat) (v : Ring) : (y.setRing g v).ctsel = y.ctsel := rfl
@[simp] theorem Sys.setRing_lattol (y : Sys) (g : Nat) (v : Ring) : (y.setRing g v).lattol = y.lattol := rfl
@[simp] theorem Sys.setRing_pstate (y : Sys) (g : Nat) (v : Ring) : (y.setRing g v).pstate = y.pstate := rfl
@[simp] theorem Sys.setRing_powerLimit (y : Sys) (g : Nat) (v : Ring) : (y.setRing g v).powerLimit = y.powerLimit := rfl
@[simp] theorem Sys.setRing_thermal (y : Sys) (g : Nat) (v : Ring) : (y.setRing g v).thermal = y.thermal := rfl
@[simp] theorem Sys.setRing_lnk (y : Sys) (g : Nat) (v : Ring) : (y.setRing g v).lnk = y.lnk := rfl
@[simp] theorem Sys.setRing_msOwner (y : Sys) (g : Nat) (v : Ring) : (y.setRing g v).msOwner = y.msOwner := rfl
@[simp] theorem Sys.setRing_msBusy (y : Sys) (g : Nat) (v : Ring) : (y.setRing g v).msBusy = y.msBusy := rfl
@[simp] theorem Sys.setRing_irqs (y : Sys) (g : Nat) (v : Ring) : (y.setRing g v).irqs = y.irqs := rfl
@[simp] theorem Sys.setRing_fwStatus (y : Sys) (g : Nat) (v : Ring) : (y.setRing g v).fwStatus = y.fwStatus := rfl
@[simp] theorem Sys.setRing_mons (y : Sys) (g : Nat) (v : Ring) : (y.setRing g v).mons = y.mons := rfl
@[simp] theorem Sys.setRing_tickets (y : Sys) (g : Nat) (v : Ring) : (y.setRing g v).tickets = y.tickets := rfl
@[simp] theorem Sys.setRing_nextTicket (y : Sys) (g : Nat) (v : Ring) : (y.setRing g v).nextTicket = y.nextTicket := rfl
@[simp] theorem Sys.setRing_faultq (y : Sys) (g : Nat) (v : Ring) : (y.setRing g v).faultq = y.faultq := rfl
@[simp] theorem Sys.setRing_shoots (y : Sys) (g : Nat) (v : Ring) : (y.setRing g v).shoots = y.shoots := rfl
@[simp] theorem Sys.setRing_relats (y : Sys) (g : Nat) (v : Ring) : (y.setRing g v).relats = y.relats := rfl
@[simp] theorem Sys.setRing_loads (y : Sys) (g : Nat) (v : Ring) : (y.setRing g v).loads = y.loads := rfl
@[simp] theorem Sys.setRing_seals (y : Sys) (g : Nat) (v : Ring) : (y.setRing g v).seals = y.seals := rfl
@[simp] theorem Sys.setRing_reports (y : Sys) (g : Nat) (v : Ring) : (y.setRing g v).reports = y.reports := rfl
@[simp] theorem Sys.setRing_hostReads (y : Sys) (g : Nat) (v : Ring) : (y.setRing g v).hostReads = y.hostReads := rfl
@[simp] theorem Sys.setRing_mgmtStatus (y : Sys) (g : Nat) (v : Ring) : (y.setRing g v).mgmtStatus = y.mgmtStatus := rfl
@[simp] theorem Sys.setRing_freeIx (y : Sys) (g : Nat) (v : Ring) : (y.setRing g v).freeIx = y.freeIx := rfl
@[simp] theorem Sys.setRing_fetches (y : Sys) (g : Nat) (v : Ring) : (y.setRing g v).fetches = y.fetches := rfl
@[simp] theorem Sys.setRing_ctxs (y : Sys) (g : Nat) (v : Ring) : (y.setRing g v).ctxs = y.ctxs := rfl
@[simp] theorem Sys.setRing_thrs (y : Sys) (g : Nat) (v : Ring) : (y.setRing g v).thrs = y.thrs := rfl
@[simp] theorem Sys.setRing_clus (y : Sys) (g : Nat) (v : Ring) : (y.setRing g v).clus = y.clus := rfl
@[simp] theorem Sys.setRing_regions (y : Sys) (g : Nat) (v : Ring) : (y.setRing g v).regions = y.regions := rfl
@[simp] theorem Sys.setRing_parks (y : Sys) (g : Nat) (v : Ring) : (y.setRing g v).parks = y.parks := rfl
@[simp] theorem Sys.setRing_frames (y : Sys) (g : Nat) (v : Ring) : (y.setRing g v).frames = y.frames := rfl
@[simp] theorem Sys.setRing_ctab (y : Sys) (g : Nat) (v : Ring) : (y.setRing g v).ctab = y.ctab := rfl
@[simp] theorem Sys.setRing_bars (y : Sys) (g : Nat) (v : Ring) : (y.setRing g v).bars = y.bars := rfl
@[simp] theorem Sys.setRing_lcount (y : Sys) (g : Nat) (v : Ring) : (y.setRing g v).lcount = y.lcount := rfl
@[simp] theorem Sys.setRing_banks (y : Sys) (g : Nat) (v : Ring) : (y.setRing g v).banks = y.banks := rfl
@[simp] theorem Sys.setRing_scratch (y : Sys) (g : Nat) (v : Ring) : (y.setRing g v).scratch = y.scratch := rfl
@[simp] theorem Sys.setRing_xfers (y : Sys) (g : Nat) (v : Ring) : (y.setRing g v).xfers = y.xfers := rfl
@[simp] theorem Sys.setRing_paccs (y : Sys) (g : Nat) (v : Ring) : (y.setRing g v).paccs = y.paccs := rfl
@[simp] theorem Sys.setRing_lanes (y : Sys) (g : Nat) (v : Ring) : (y.setRing g v).lanes = y.lanes := rfl
@[simp] theorem Sys.setRing_pins (y : Sys) (g : Nat) (v : Ring) : (y.setRing g v).pins = y.pins := rfl
@[simp] theorem Sys.setRing_tiles (y : Sys) (g : Nat) (v : Ring) : (y.setRing g v).tiles = y.tiles := rfl
@[simp] theorem Sys.setRing_ments (y : Sys) (g : Nat) (v : Ring) : (y.setRing g v).ments = y.ments := rfl
@[simp] theorem Sys.setRing_tslots (y : Sys) (g : Nat) (v : Ring) : (y.setRing g v).tslots = y.tslots := rfl
@[simp] theorem Sys.setRing_links (y : Sys) (g : Nat) (v : Ring) : (y.setRing g v).links = y.links := rfl
@[simp] theorem Sys.setRing_routers (y : Sys) (g : Nat) (v : Ring) : (y.setRing g v).routers = y.routers := rfl
@[simp] theorem Sys.setRing_lines (y : Sys) (g : Nat) (v : Ring) : (y.setRing g v).lines = y.lines := rfl
@[simp] theorem Sys.setRing_descs (y : Sys) (g : Nat) (v : Ring) : (y.setRing g v).descs = y.descs := rfl
@[simp] theorem Sys.setRing_spill (y : Sys) (g : Nat) (v : Ring) : (y.setRing g v).spill = y.spill := rfl
@[simp] theorem Sys.setRing_portTs (y : Sys) (g : Nat) (v : Ring) : (y.setRing g v).portTs = y.portTs := rfl
@[simp] theorem Sys.setLink_now (y : Sys) (g l : Nat) (v : Link) : (y.setLink g l v).now = y.now := rfl
@[simp] theorem Sys.setLink_held (y : Sys) (g l : Nat) (v : Link) : (y.setLink g l v).held = y.held := rfl
@[simp] theorem Sys.setLink_firmwareOk (y : Sys) (g l : Nat) (v : Link) : (y.setLink g l v).firmwareOk = y.firmwareOk := rfl
@[simp] theorem Sys.setLink_cxsel (y : Sys) (g l : Nat) (v : Link) : (y.setLink g l v).cxsel = y.cxsel := rfl
@[simp] theorem Sys.setLink_cxStatus (y : Sys) (g l : Nat) (v : Link) : (y.setLink g l v).cxStatus = y.cxStatus := rfl
@[simp] theorem Sys.setLink_cxSeq (y : Sys) (g l : Nat) (v : Link) : (y.setLink g l v).cxSeq = y.cxSeq := rfl
@[simp] theorem Sys.setLink_ctsel (y : Sys) (g l : Nat) (v : Link) : (y.setLink g l v).ctsel = y.ctsel := rfl
@[simp] theorem Sys.setLink_lattol (y : Sys) (g l : Nat) (v : Link) : (y.setLink g l v).lattol = y.lattol := rfl
@[simp] theorem Sys.setLink_pstate (y : Sys) (g l : Nat) (v : Link) : (y.setLink g l v).pstate = y.pstate := rfl
@[simp] theorem Sys.setLink_powerLimit (y : Sys) (g l : Nat) (v : Link) : (y.setLink g l v).powerLimit = y.powerLimit := rfl
@[simp] theorem Sys.setLink_thermal (y : Sys) (g l : Nat) (v : Link) : (y.setLink g l v).thermal = y.thermal := rfl
@[simp] theorem Sys.setLink_lnk (y : Sys) (g l : Nat) (v : Link) : (y.setLink g l v).lnk = y.lnk := rfl
@[simp] theorem Sys.setLink_msOwner (y : Sys) (g l : Nat) (v : Link) : (y.setLink g l v).msOwner = y.msOwner := rfl
@[simp] theorem Sys.setLink_msBusy (y : Sys) (g l : Nat) (v : Link) : (y.setLink g l v).msBusy = y.msBusy := rfl
@[simp] theorem Sys.setLink_irqs (y : Sys) (g l : Nat) (v : Link) : (y.setLink g l v).irqs = y.irqs := rfl
@[simp] theorem Sys.setLink_fwStatus (y : Sys) (g l : Nat) (v : Link) : (y.setLink g l v).fwStatus = y.fwStatus := rfl
@[simp] theorem Sys.setLink_mons (y : Sys) (g l : Nat) (v : Link) : (y.setLink g l v).mons = y.mons := rfl
@[simp] theorem Sys.setLink_tickets (y : Sys) (g l : Nat) (v : Link) : (y.setLink g l v).tickets = y.tickets := rfl
@[simp] theorem Sys.setLink_nextTicket (y : Sys) (g l : Nat) (v : Link) : (y.setLink g l v).nextTicket = y.nextTicket := rfl
@[simp] theorem Sys.setLink_faultq (y : Sys) (g l : Nat) (v : Link) : (y.setLink g l v).faultq = y.faultq := rfl
@[simp] theorem Sys.setLink_shoots (y : Sys) (g l : Nat) (v : Link) : (y.setLink g l v).shoots = y.shoots := rfl
@[simp] theorem Sys.setLink_relats (y : Sys) (g l : Nat) (v : Link) : (y.setLink g l v).relats = y.relats := rfl
@[simp] theorem Sys.setLink_loads (y : Sys) (g l : Nat) (v : Link) : (y.setLink g l v).loads = y.loads := rfl
@[simp] theorem Sys.setLink_seals (y : Sys) (g l : Nat) (v : Link) : (y.setLink g l v).seals = y.seals := rfl
@[simp] theorem Sys.setLink_reports (y : Sys) (g l : Nat) (v : Link) : (y.setLink g l v).reports = y.reports := rfl
@[simp] theorem Sys.setLink_hostReads (y : Sys) (g l : Nat) (v : Link) : (y.setLink g l v).hostReads = y.hostReads := rfl
@[simp] theorem Sys.setLink_mgmtStatus (y : Sys) (g l : Nat) (v : Link) : (y.setLink g l v).mgmtStatus = y.mgmtStatus := rfl
@[simp] theorem Sys.setLink_freeIx (y : Sys) (g l : Nat) (v : Link) : (y.setLink g l v).freeIx = y.freeIx := rfl
@[simp] theorem Sys.setLink_fetches (y : Sys) (g l : Nat) (v : Link) : (y.setLink g l v).fetches = y.fetches := rfl
@[simp] theorem Sys.setLink_ctxs (y : Sys) (g l : Nat) (v : Link) : (y.setLink g l v).ctxs = y.ctxs := rfl
@[simp] theorem Sys.setLink_thrs (y : Sys) (g l : Nat) (v : Link) : (y.setLink g l v).thrs = y.thrs := rfl
@[simp] theorem Sys.setLink_clus (y : Sys) (g l : Nat) (v : Link) : (y.setLink g l v).clus = y.clus := rfl
@[simp] theorem Sys.setLink_regions (y : Sys) (g l : Nat) (v : Link) : (y.setLink g l v).regions = y.regions := rfl
@[simp] theorem Sys.setLink_parks (y : Sys) (g l : Nat) (v : Link) : (y.setLink g l v).parks = y.parks := rfl
@[simp] theorem Sys.setLink_frames (y : Sys) (g l : Nat) (v : Link) : (y.setLink g l v).frames = y.frames := rfl
@[simp] theorem Sys.setLink_ctab (y : Sys) (g l : Nat) (v : Link) : (y.setLink g l v).ctab = y.ctab := rfl
@[simp] theorem Sys.setLink_bars (y : Sys) (g l : Nat) (v : Link) : (y.setLink g l v).bars = y.bars := rfl
@[simp] theorem Sys.setLink_lcount (y : Sys) (g l : Nat) (v : Link) : (y.setLink g l v).lcount = y.lcount := rfl
@[simp] theorem Sys.setLink_banks (y : Sys) (g l : Nat) (v : Link) : (y.setLink g l v).banks = y.banks := rfl
@[simp] theorem Sys.setLink_scratch (y : Sys) (g l : Nat) (v : Link) : (y.setLink g l v).scratch = y.scratch := rfl
@[simp] theorem Sys.setLink_xfers (y : Sys) (g l : Nat) (v : Link) : (y.setLink g l v).xfers = y.xfers := rfl
@[simp] theorem Sys.setLink_paccs (y : Sys) (g l : Nat) (v : Link) : (y.setLink g l v).paccs = y.paccs := rfl
@[simp] theorem Sys.setLink_lanes (y : Sys) (g l : Nat) (v : Link) : (y.setLink g l v).lanes = y.lanes := rfl
@[simp] theorem Sys.setLink_pins (y : Sys) (g l : Nat) (v : Link) : (y.setLink g l v).pins = y.pins := rfl
@[simp] theorem Sys.setLink_tiles (y : Sys) (g l : Nat) (v : Link) : (y.setLink g l v).tiles = y.tiles := rfl
@[simp] theorem Sys.setLink_ments (y : Sys) (g l : Nat) (v : Link) : (y.setLink g l v).ments = y.ments := rfl
@[simp] theorem Sys.setLink_tslots (y : Sys) (g l : Nat) (v : Link) : (y.setLink g l v).tslots = y.tslots := rfl
@[simp] theorem Sys.setLink_rings (y : Sys) (g l : Nat) (v : Link) : (y.setLink g l v).rings = y.rings := rfl
@[simp] theorem Sys.setLink_routers (y : Sys) (g l : Nat) (v : Link) : (y.setLink g l v).routers = y.routers := rfl
@[simp] theorem Sys.setLink_lines (y : Sys) (g l : Nat) (v : Link) : (y.setLink g l v).lines = y.lines := rfl
@[simp] theorem Sys.setLink_descs (y : Sys) (g l : Nat) (v : Link) : (y.setLink g l v).descs = y.descs := rfl
@[simp] theorem Sys.setLink_spill (y : Sys) (g l : Nat) (v : Link) : (y.setLink g l v).spill = y.spill := rfl
@[simp] theorem Sys.setLink_portTs (y : Sys) (g l : Nat) (v : Link) : (y.setLink g l v).portTs = y.portTs := rfl
@[simp] theorem Sys.setLine_now (y : Sys) (l : Nat) (v : Line) : (y.setLine l v).now = y.now := rfl
@[simp] theorem Sys.setLine_held (y : Sys) (l : Nat) (v : Line) : (y.setLine l v).held = y.held := rfl
@[simp] theorem Sys.setLine_firmwareOk (y : Sys) (l : Nat) (v : Line) : (y.setLine l v).firmwareOk = y.firmwareOk := rfl
@[simp] theorem Sys.setLine_cxsel (y : Sys) (l : Nat) (v : Line) : (y.setLine l v).cxsel = y.cxsel := rfl
@[simp] theorem Sys.setLine_cxStatus (y : Sys) (l : Nat) (v : Line) : (y.setLine l v).cxStatus = y.cxStatus := rfl
@[simp] theorem Sys.setLine_cxSeq (y : Sys) (l : Nat) (v : Line) : (y.setLine l v).cxSeq = y.cxSeq := rfl
@[simp] theorem Sys.setLine_ctsel (y : Sys) (l : Nat) (v : Line) : (y.setLine l v).ctsel = y.ctsel := rfl
@[simp] theorem Sys.setLine_lattol (y : Sys) (l : Nat) (v : Line) : (y.setLine l v).lattol = y.lattol := rfl
@[simp] theorem Sys.setLine_pstate (y : Sys) (l : Nat) (v : Line) : (y.setLine l v).pstate = y.pstate := rfl
@[simp] theorem Sys.setLine_powerLimit (y : Sys) (l : Nat) (v : Line) : (y.setLine l v).powerLimit = y.powerLimit := rfl
@[simp] theorem Sys.setLine_thermal (y : Sys) (l : Nat) (v : Line) : (y.setLine l v).thermal = y.thermal := rfl
@[simp] theorem Sys.setLine_lnk (y : Sys) (l : Nat) (v : Line) : (y.setLine l v).lnk = y.lnk := rfl
@[simp] theorem Sys.setLine_msOwner (y : Sys) (l : Nat) (v : Line) : (y.setLine l v).msOwner = y.msOwner := rfl
@[simp] theorem Sys.setLine_msBusy (y : Sys) (l : Nat) (v : Line) : (y.setLine l v).msBusy = y.msBusy := rfl
@[simp] theorem Sys.setLine_irqs (y : Sys) (l : Nat) (v : Line) : (y.setLine l v).irqs = y.irqs := rfl
@[simp] theorem Sys.setLine_fwStatus (y : Sys) (l : Nat) (v : Line) : (y.setLine l v).fwStatus = y.fwStatus := rfl
@[simp] theorem Sys.setLine_mons (y : Sys) (l : Nat) (v : Line) : (y.setLine l v).mons = y.mons := rfl
@[simp] theorem Sys.setLine_tickets (y : Sys) (l : Nat) (v : Line) : (y.setLine l v).tickets = y.tickets := rfl
@[simp] theorem Sys.setLine_nextTicket (y : Sys) (l : Nat) (v : Line) : (y.setLine l v).nextTicket = y.nextTicket := rfl
@[simp] theorem Sys.setLine_faultq (y : Sys) (l : Nat) (v : Line) : (y.setLine l v).faultq = y.faultq := rfl
@[simp] theorem Sys.setLine_shoots (y : Sys) (l : Nat) (v : Line) : (y.setLine l v).shoots = y.shoots := rfl
@[simp] theorem Sys.setLine_relats (y : Sys) (l : Nat) (v : Line) : (y.setLine l v).relats = y.relats := rfl
@[simp] theorem Sys.setLine_loads (y : Sys) (l : Nat) (v : Line) : (y.setLine l v).loads = y.loads := rfl
@[simp] theorem Sys.setLine_seals (y : Sys) (l : Nat) (v : Line) : (y.setLine l v).seals = y.seals := rfl
@[simp] theorem Sys.setLine_reports (y : Sys) (l : Nat) (v : Line) : (y.setLine l v).reports = y.reports := rfl
@[simp] theorem Sys.setLine_hostReads (y : Sys) (l : Nat) (v : Line) : (y.setLine l v).hostReads = y.hostReads := rfl
@[simp] theorem Sys.setLine_mgmtStatus (y : Sys) (l : Nat) (v : Line) : (y.setLine l v).mgmtStatus = y.mgmtStatus := rfl
@[simp] theorem Sys.setLine_freeIx (y : Sys) (l : Nat) (v : Line) : (y.setLine l v).freeIx = y.freeIx := rfl
@[simp] theorem Sys.setLine_fetches (y : Sys) (l : Nat) (v : Line) : (y.setLine l v).fetches = y.fetches := rfl
@[simp] theorem Sys.setLine_ctxs (y : Sys) (l : Nat) (v : Line) : (y.setLine l v).ctxs = y.ctxs := rfl
@[simp] theorem Sys.setLine_thrs (y : Sys) (l : Nat) (v : Line) : (y.setLine l v).thrs = y.thrs := rfl
@[simp] theorem Sys.setLine_clus (y : Sys) (l : Nat) (v : Line) : (y.setLine l v).clus = y.clus := rfl
@[simp] theorem Sys.setLine_regions (y : Sys) (l : Nat) (v : Line) : (y.setLine l v).regions = y.regions := rfl
@[simp] theorem Sys.setLine_parks (y : Sys) (l : Nat) (v : Line) : (y.setLine l v).parks = y.parks := rfl
@[simp] theorem Sys.setLine_frames (y : Sys) (l : Nat) (v : Line) : (y.setLine l v).frames = y.frames := rfl
@[simp] theorem Sys.setLine_ctab (y : Sys) (l : Nat) (v : Line) : (y.setLine l v).ctab = y.ctab := rfl
@[simp] theorem Sys.setLine_bars (y : Sys) (l : Nat) (v : Line) : (y.setLine l v).bars = y.bars := rfl
@[simp] theorem Sys.setLine_lcount (y : Sys) (l : Nat) (v : Line) : (y.setLine l v).lcount = y.lcount := rfl
@[simp] theorem Sys.setLine_banks (y : Sys) (l : Nat) (v : Line) : (y.setLine l v).banks = y.banks := rfl
@[simp] theorem Sys.setLine_scratch (y : Sys) (l : Nat) (v : Line) : (y.setLine l v).scratch = y.scratch := rfl
@[simp] theorem Sys.setLine_xfers (y : Sys) (l : Nat) (v : Line) : (y.setLine l v).xfers = y.xfers := rfl
@[simp] theorem Sys.setLine_paccs (y : Sys) (l : Nat) (v : Line) : (y.setLine l v).paccs = y.paccs := rfl
@[simp] theorem Sys.setLine_lanes (y : Sys) (l : Nat) (v : Line) : (y.setLine l v).lanes = y.lanes := rfl
@[simp] theorem Sys.setLine_pins (y : Sys) (l : Nat) (v : Line) : (y.setLine l v).pins = y.pins := rfl
@[simp] theorem Sys.setLine_tiles (y : Sys) (l : Nat) (v : Line) : (y.setLine l v).tiles = y.tiles := rfl
@[simp] theorem Sys.setLine_ments (y : Sys) (l : Nat) (v : Line) : (y.setLine l v).ments = y.ments := rfl
@[simp] theorem Sys.setLine_tslots (y : Sys) (l : Nat) (v : Line) : (y.setLine l v).tslots = y.tslots := rfl
@[simp] theorem Sys.setLine_rings (y : Sys) (l : Nat) (v : Line) : (y.setLine l v).rings = y.rings := rfl
@[simp] theorem Sys.setLine_links (y : Sys) (l : Nat) (v : Line) : (y.setLine l v).links = y.links := rfl
@[simp] theorem Sys.setLine_routers (y : Sys) (l : Nat) (v : Line) : (y.setLine l v).routers = y.routers := rfl
@[simp] theorem Sys.setLine_descs (y : Sys) (l : Nat) (v : Line) : (y.setLine l v).descs = y.descs := rfl
@[simp] theorem Sys.setLine_spill (y : Sys) (l : Nat) (v : Line) : (y.setLine l v).spill = y.spill := rfl
@[simp] theorem Sys.setLine_portTs (y : Sys) (l : Nat) (v : Line) : (y.setLine l v).portTs = y.portTs := rfl
@[simp] theorem Sys.setPortT_now (y : Sys) (c r : Nat) (v : PortT) : (y.setPortT c r v).now = y.now := rfl
@[simp] theorem Sys.setPortT_held (y : Sys) (c r : Nat) (v : PortT) : (y.setPortT c r v).held = y.held := rfl
@[simp] theorem Sys.setPortT_firmwareOk (y : Sys) (c r : Nat) (v : PortT) : (y.setPortT c r v).firmwareOk = y.firmwareOk := rfl
@[simp] theorem Sys.setPortT_cxsel (y : Sys) (c r : Nat) (v : PortT) : (y.setPortT c r v).cxsel = y.cxsel := rfl
@[simp] theorem Sys.setPortT_cxStatus (y : Sys) (c r : Nat) (v : PortT) : (y.setPortT c r v).cxStatus = y.cxStatus := rfl
@[simp] theorem Sys.setPortT_cxSeq (y : Sys) (c r : Nat) (v : PortT) : (y.setPortT c r v).cxSeq = y.cxSeq := rfl
@[simp] theorem Sys.setPortT_ctsel (y : Sys) (c r : Nat) (v : PortT) : (y.setPortT c r v).ctsel = y.ctsel := rfl
@[simp] theorem Sys.setPortT_lattol (y : Sys) (c r : Nat) (v : PortT) : (y.setPortT c r v).lattol = y.lattol := rfl
@[simp] theorem Sys.setPortT_pstate (y : Sys) (c r : Nat) (v : PortT) : (y.setPortT c r v).pstate = y.pstate := rfl
@[simp] theorem Sys.setPortT_powerLimit (y : Sys) (c r : Nat) (v : PortT) : (y.setPortT c r v).powerLimit = y.powerLimit := rfl
@[simp] theorem Sys.setPortT_thermal (y : Sys) (c r : Nat) (v : PortT) : (y.setPortT c r v).thermal = y.thermal := rfl
@[simp] theorem Sys.setPortT_lnk (y : Sys) (c r : Nat) (v : PortT) : (y.setPortT c r v).lnk = y.lnk := rfl
@[simp] theorem Sys.setPortT_msOwner (y : Sys) (c r : Nat) (v : PortT) : (y.setPortT c r v).msOwner = y.msOwner := rfl
@[simp] theorem Sys.setPortT_msBusy (y : Sys) (c r : Nat) (v : PortT) : (y.setPortT c r v).msBusy = y.msBusy := rfl
@[simp] theorem Sys.setPortT_irqs (y : Sys) (c r : Nat) (v : PortT) : (y.setPortT c r v).irqs = y.irqs := rfl
@[simp] theorem Sys.setPortT_fwStatus (y : Sys) (c r : Nat) (v : PortT) : (y.setPortT c r v).fwStatus = y.fwStatus := rfl
@[simp] theorem Sys.setPortT_mons (y : Sys) (c r : Nat) (v : PortT) : (y.setPortT c r v).mons = y.mons := rfl
@[simp] theorem Sys.setPortT_tickets (y : Sys) (c r : Nat) (v : PortT) : (y.setPortT c r v).tickets = y.tickets := rfl
@[simp] theorem Sys.setPortT_nextTicket (y : Sys) (c r : Nat) (v : PortT) : (y.setPortT c r v).nextTicket = y.nextTicket := rfl
@[simp] theorem Sys.setPortT_faultq (y : Sys) (c r : Nat) (v : PortT) : (y.setPortT c r v).faultq = y.faultq := rfl
@[simp] theorem Sys.setPortT_shoots (y : Sys) (c r : Nat) (v : PortT) : (y.setPortT c r v).shoots = y.shoots := rfl
@[simp] theorem Sys.setPortT_relats (y : Sys) (c r : Nat) (v : PortT) : (y.setPortT c r v).relats = y.relats := rfl
@[simp] theorem Sys.setPortT_loads (y : Sys) (c r : Nat) (v : PortT) : (y.setPortT c r v).loads = y.loads := rfl
@[simp] theorem Sys.setPortT_seals (y : Sys) (c r : Nat) (v : PortT) : (y.setPortT c r v).seals = y.seals := rfl
@[simp] theorem Sys.setPortT_reports (y : Sys) (c r : Nat) (v : PortT) : (y.setPortT c r v).reports = y.reports := rfl
@[simp] theorem Sys.setPortT_hostReads (y : Sys) (c r : Nat) (v : PortT) : (y.setPortT c r v).hostReads = y.hostReads := rfl
@[simp] theorem Sys.setPortT_mgmtStatus (y : Sys) (c r : Nat) (v : PortT) : (y.setPortT c r v).mgmtStatus = y.mgmtStatus := rfl
@[simp] theorem Sys.setPortT_freeIx (y : Sys) (c r : Nat) (v : PortT) : (y.setPortT c r v).freeIx = y.freeIx := rfl
@[simp] theorem Sys.setPortT_fetches (y : Sys) (c r : Nat) (v : PortT) : (y.setPortT c r v).fetches = y.fetches := rfl
@[simp] theorem Sys.setPortT_ctxs (y : Sys) (c r : Nat) (v : PortT) : (y.setPortT c r v).ctxs = y.ctxs := rfl
@[simp] theorem Sys.setPortT_thrs (y : Sys) (c r : Nat) (v : PortT) : (y.setPortT c r v).thrs = y.thrs := rfl
@[simp] theorem Sys.setPortT_clus (y : Sys) (c r : Nat) (v : PortT) : (y.setPortT c r v).clus = y.clus := rfl
@[simp] theorem Sys.setPortT_regions (y : Sys) (c r : Nat) (v : PortT) : (y.setPortT c r v).regions = y.regions := rfl
@[simp] theorem Sys.setPortT_parks (y : Sys) (c r : Nat) (v : PortT) : (y.setPortT c r v).parks = y.parks := rfl
@[simp] theorem Sys.setPortT_frames (y : Sys) (c r : Nat) (v : PortT) : (y.setPortT c r v).frames = y.frames := rfl
@[simp] theorem Sys.setPortT_ctab (y : Sys) (c r : Nat) (v : PortT) : (y.setPortT c r v).ctab = y.ctab := rfl
@[simp] theorem Sys.setPortT_bars (y : Sys) (c r : Nat) (v : PortT) : (y.setPortT c r v).bars = y.bars := rfl
@[simp] theorem Sys.setPortT_lcount (y : Sys) (c r : Nat) (v : PortT) : (y.setPortT c r v).lcount = y.lcount := rfl
@[simp] theorem Sys.setPortT_banks (y : Sys) (c r : Nat) (v : PortT) : (y.setPortT c r v).banks = y.banks := rfl
@[simp] theorem Sys.setPortT_scratch (y : Sys) (c r : Nat) (v : PortT) : (y.setPortT c r v).scratch = y.scratch := rfl
@[simp] theorem Sys.setPortT_xfers (y : Sys) (c r : Nat) (v : PortT) : (y.setPortT c r v).xfers = y.xfers := rfl
@[simp] theorem Sys.setPortT_paccs (y : Sys) (c r : Nat) (v : PortT) : (y.setPortT c r v).paccs = y.paccs := rfl
@[simp] theorem Sys.setPortT_lanes (y : Sys) (c r : Nat) (v : PortT) : (y.setPortT c r v).lanes = y.lanes := rfl
@[simp] theorem Sys.setPortT_pins (y : Sys) (c r : Nat) (v : PortT) : (y.setPortT c r v).pins = y.pins := rfl
@[simp] theorem Sys.setPortT_tiles (y : Sys) (c r : Nat) (v : PortT) : (y.setPortT c r v).tiles = y.tiles := rfl
@[simp] theorem Sys.setPortT_ments (y : Sys) (c r : Nat) (v : PortT) : (y.setPortT c r v).ments = y.ments := rfl
@[simp] theorem Sys.setPortT_tslots (y : Sys) (c r : Nat) (v : PortT) : (y.setPortT c r v).tslots = y.tslots := rfl
@[simp] theorem Sys.setPortT_rings (y : Sys) (c r : Nat) (v : PortT) : (y.setPortT c r v).rings = y.rings := rfl
@[simp] theorem Sys.setPortT_links (y : Sys) (c r : Nat) (v : PortT) : (y.setPortT c r v).links = y.links := rfl
@[simp] theorem Sys.setPortT_routers (y : Sys) (c r : Nat) (v : PortT) : (y.setPortT c r v).routers = y.routers := rfl
@[simp] theorem Sys.setPortT_lines (y : Sys) (c r : Nat) (v : PortT) : (y.setPortT c r v).lines = y.lines := rfl
@[simp] theorem Sys.setPortT_descs (y : Sys) (c r : Nat) (v : PortT) : (y.setPortT c r v).descs = y.descs := rfl
@[simp] theorem Sys.setPortT_spill (y : Sys) (c r : Nat) (v : PortT) : (y.setPortT c r v).spill = y.spill := rfl
@[simp] theorem Sys.setMon_now (y : Sys) (u : Nat) (v : Mon) : (y.setMon u v).now = y.now := rfl
@[simp] theorem Sys.setMon_held (y : Sys) (u : Nat) (v : Mon) : (y.setMon u v).held = y.held := rfl
@[simp] theorem Sys.setMon_firmwareOk (y : Sys) (u : Nat) (v : Mon) : (y.setMon u v).firmwareOk = y.firmwareOk := rfl
@[simp] theorem Sys.setMon_cxsel (y : Sys) (u : Nat) (v : Mon) : (y.setMon u v).cxsel = y.cxsel := rfl
@[simp] theorem Sys.setMon_cxStatus (y : Sys) (u : Nat) (v : Mon) : (y.setMon u v).cxStatus = y.cxStatus := rfl
@[simp] theorem Sys.setMon_cxSeq (y : Sys) (u : Nat) (v : Mon) : (y.setMon u v).cxSeq = y.cxSeq := rfl
@[simp] theorem Sys.setMon_ctsel (y : Sys) (u : Nat) (v : Mon) : (y.setMon u v).ctsel = y.ctsel := rfl
@[simp] theorem Sys.setMon_lattol (y : Sys) (u : Nat) (v : Mon) : (y.setMon u v).lattol = y.lattol := rfl
@[simp] theorem Sys.setMon_pstate (y : Sys) (u : Nat) (v : Mon) : (y.setMon u v).pstate = y.pstate := rfl
@[simp] theorem Sys.setMon_powerLimit (y : Sys) (u : Nat) (v : Mon) : (y.setMon u v).powerLimit = y.powerLimit := rfl
@[simp] theorem Sys.setMon_thermal (y : Sys) (u : Nat) (v : Mon) : (y.setMon u v).thermal = y.thermal := rfl
@[simp] theorem Sys.setMon_lnk (y : Sys) (u : Nat) (v : Mon) : (y.setMon u v).lnk = y.lnk := rfl
@[simp] theorem Sys.setMon_msOwner (y : Sys) (u : Nat) (v : Mon) : (y.setMon u v).msOwner = y.msOwner := rfl
@[simp] theorem Sys.setMon_msBusy (y : Sys) (u : Nat) (v : Mon) : (y.setMon u v).msBusy = y.msBusy := rfl
@[simp] theorem Sys.setMon_irqs (y : Sys) (u : Nat) (v : Mon) : (y.setMon u v).irqs = y.irqs := rfl
@[simp] theorem Sys.setMon_fwStatus (y : Sys) (u : Nat) (v : Mon) : (y.setMon u v).fwStatus = y.fwStatus := rfl
@[simp] theorem Sys.setMon_tickets (y : Sys) (u : Nat) (v : Mon) : (y.setMon u v).tickets = y.tickets := rfl
@[simp] theorem Sys.setMon_nextTicket (y : Sys) (u : Nat) (v : Mon) : (y.setMon u v).nextTicket = y.nextTicket := rfl
@[simp] theorem Sys.setMon_faultq (y : Sys) (u : Nat) (v : Mon) : (y.setMon u v).faultq = y.faultq := rfl
@[simp] theorem Sys.setMon_shoots (y : Sys) (u : Nat) (v : Mon) : (y.setMon u v).shoots = y.shoots := rfl
@[simp] theorem Sys.setMon_relats (y : Sys) (u : Nat) (v : Mon) : (y.setMon u v).relats = y.relats := rfl
@[simp] theorem Sys.setMon_loads (y : Sys) (u : Nat) (v : Mon) : (y.setMon u v).loads = y.loads := rfl
@[simp] theorem Sys.setMon_seals (y : Sys) (u : Nat) (v : Mon) : (y.setMon u v).seals = y.seals := rfl
@[simp] theorem Sys.setMon_reports (y : Sys) (u : Nat) (v : Mon) : (y.setMon u v).reports = y.reports := rfl
@[simp] theorem Sys.setMon_hostReads (y : Sys) (u : Nat) (v : Mon) : (y.setMon u v).hostReads = y.hostReads := rfl
@[simp] theorem Sys.setMon_mgmtStatus (y : Sys) (u : Nat) (v : Mon) : (y.setMon u v).mgmtStatus = y.mgmtStatus := rfl
@[simp] theorem Sys.setMon_freeIx (y : Sys) (u : Nat) (v : Mon) : (y.setMon u v).freeIx = y.freeIx := rfl
@[simp] theorem Sys.setMon_fetches (y : Sys) (u : Nat) (v : Mon) : (y.setMon u v).fetches = y.fetches := rfl
@[simp] theorem Sys.setMon_ctxs (y : Sys) (u : Nat) (v : Mon) : (y.setMon u v).ctxs = y.ctxs := rfl
@[simp] theorem Sys.setMon_thrs (y : Sys) (u : Nat) (v : Mon) : (y.setMon u v).thrs = y.thrs := rfl
@[simp] theorem Sys.setMon_clus (y : Sys) (u : Nat) (v : Mon) : (y.setMon u v).clus = y.clus := rfl
@[simp] theorem Sys.setMon_regions (y : Sys) (u : Nat) (v : Mon) : (y.setMon u v).regions = y.regions := rfl
@[simp] theorem Sys.setMon_parks (y : Sys) (u : Nat) (v : Mon) : (y.setMon u v).parks = y.parks := rfl
@[simp] theorem Sys.setMon_frames (y : Sys) (u : Nat) (v : Mon) : (y.setMon u v).frames = y.frames := rfl
@[simp] theorem Sys.setMon_ctab (y : Sys) (u : Nat) (v : Mon) : (y.setMon u v).ctab = y.ctab := rfl
@[simp] theorem Sys.setMon_bars (y : Sys) (u : Nat) (v : Mon) : (y.setMon u v).bars = y.bars := rfl
@[simp] theorem Sys.setMon_lcount (y : Sys) (u : Nat) (v : Mon) : (y.setMon u v).lcount = y.lcount := rfl
@[simp] theorem Sys.setMon_banks (y : Sys) (u : Nat) (v : Mon) : (y.setMon u v).banks = y.banks := rfl
@[simp] theorem Sys.setMon_scratch (y : Sys) (u : Nat) (v : Mon) : (y.setMon u v).scratch = y.scratch := rfl
@[simp] theorem Sys.setMon_xfers (y : Sys) (u : Nat) (v : Mon) : (y.setMon u v).xfers = y.xfers := rfl
@[simp] theorem Sys.setMon_paccs (y : Sys) (u : Nat) (v : Mon) : (y.setMon u v).paccs = y.paccs := rfl
@[simp] theorem Sys.setMon_lanes (y : Sys) (u : Nat) (v : Mon) : (y.setMon u v).lanes = y.lanes := rfl
@[simp] theorem Sys.setMon_pins (y : Sys) (u : Nat) (v : Mon) : (y.setMon u v).pins = y.pins := rfl
@[simp] theorem Sys.setMon_tiles (y : Sys) (u : Nat) (v : Mon) : (y.setMon u v).tiles = y.tiles := rfl
@[simp] theorem Sys.setMon_ments (y : Sys) (u : Nat) (v : Mon) : (y.setMon u v).ments = y.ments := rfl
@[simp] theorem Sys.setMon_tslots (y : Sys) (u : Nat) (v : Mon) : (y.setMon u v).tslots = y.tslots := rfl
@[simp] theorem Sys.setMon_rings (y : Sys) (u : Nat) (v : Mon) : (y.setMon u v).rings = y.rings := rfl
@[simp] theorem Sys.setMon_links (y : Sys) (u : Nat) (v : Mon) : (y.setMon u v).links = y.links := rfl
@[simp] theorem Sys.setMon_routers (y : Sys) (u : Nat) (v : Mon) : (y.setMon u v).routers = y.routers := rfl
@[simp] theorem Sys.setMon_lines (y : Sys) (u : Nat) (v : Mon) : (y.setMon u v).lines = y.lines := rfl
@[simp] theorem Sys.setMon_descs (y : Sys) (u : Nat) (v : Mon) : (y.setMon u v).descs = y.descs := rfl
@[simp] theorem Sys.setMon_spill (y : Sys) (u : Nat) (v : Mon) : (y.setMon u v).spill = y.spill := rfl
@[simp] theorem Sys.setMon_portTs (y : Sys) (u : Nat) (v : Mon) : (y.setMon u v).portTs = y.portTs := rfl
@[simp] theorem Sys.setLc_now (y : Sys) (c g v : Nat) : (y.setLc c g v).now = y.now := rfl
@[simp] theorem Sys.setLc_held (y : Sys) (c g v : Nat) : (y.setLc c g v).held = y.held := rfl
@[simp] theorem Sys.setLc_firmwareOk (y : Sys) (c g v : Nat) : (y.setLc c g v).firmwareOk = y.firmwareOk := rfl
@[simp] theorem Sys.setLc_cxsel (y : Sys) (c g v : Nat) : (y.setLc c g v).cxsel = y.cxsel := rfl
@[simp] theorem Sys.setLc_cxStatus (y : Sys) (c g v : Nat) : (y.setLc c g v).cxStatus = y.cxStatus := rfl
@[simp] theorem Sys.setLc_cxSeq (y : Sys) (c g v : Nat) : (y.setLc c g v).cxSeq = y.cxSeq := rfl
@[simp] theorem Sys.setLc_ctsel (y : Sys) (c g v : Nat) : (y.setLc c g v).ctsel = y.ctsel := rfl
@[simp] theorem Sys.setLc_lattol (y : Sys) (c g v : Nat) : (y.setLc c g v).lattol = y.lattol := rfl
@[simp] theorem Sys.setLc_pstate (y : Sys) (c g v : Nat) : (y.setLc c g v).pstate = y.pstate := rfl
@[simp] theorem Sys.setLc_powerLimit (y : Sys) (c g v : Nat) : (y.setLc c g v).powerLimit = y.powerLimit := rfl
@[simp] theorem Sys.setLc_thermal (y : Sys) (c g v : Nat) : (y.setLc c g v).thermal = y.thermal := rfl
@[simp] theorem Sys.setLc_lnk (y : Sys) (c g v : Nat) : (y.setLc c g v).lnk = y.lnk := rfl
@[simp] theorem Sys.setLc_msOwner (y : Sys) (c g v : Nat) : (y.setLc c g v).msOwner = y.msOwner := rfl
@[simp] theorem Sys.setLc_msBusy (y : Sys) (c g v : Nat) : (y.setLc c g v).msBusy = y.msBusy := rfl
@[simp] theorem Sys.setLc_irqs (y : Sys) (c g v : Nat) : (y.setLc c g v).irqs = y.irqs := rfl
@[simp] theorem Sys.setLc_fwStatus (y : Sys) (c g v : Nat) : (y.setLc c g v).fwStatus = y.fwStatus := rfl
@[simp] theorem Sys.setLc_mons (y : Sys) (c g v : Nat) : (y.setLc c g v).mons = y.mons := rfl
@[simp] theorem Sys.setLc_tickets (y : Sys) (c g v : Nat) : (y.setLc c g v).tickets = y.tickets := rfl
@[simp] theorem Sys.setLc_nextTicket (y : Sys) (c g v : Nat) : (y.setLc c g v).nextTicket = y.nextTicket := rfl
@[simp] theorem Sys.setLc_faultq (y : Sys) (c g v : Nat) : (y.setLc c g v).faultq = y.faultq := rfl
@[simp] theorem Sys.setLc_shoots (y : Sys) (c g v : Nat) : (y.setLc c g v).shoots = y.shoots := rfl
@[simp] theorem Sys.setLc_relats (y : Sys) (c g v : Nat) : (y.setLc c g v).relats = y.relats := rfl
@[simp] theorem Sys.setLc_loads (y : Sys) (c g v : Nat) : (y.setLc c g v).loads = y.loads := rfl
@[simp] theorem Sys.setLc_seals (y : Sys) (c g v : Nat) : (y.setLc c g v).seals = y.seals := rfl
@[simp] theorem Sys.setLc_reports (y : Sys) (c g v : Nat) : (y.setLc c g v).reports = y.reports := rfl
@[simp] theorem Sys.setLc_hostReads (y : Sys) (c g v : Nat) : (y.setLc c g v).hostReads = y.hostReads := rfl
@[simp] theorem Sys.setLc_mgmtStatus (y : Sys) (c g v : Nat) : (y.setLc c g v).mgmtStatus = y.mgmtStatus := rfl
@[simp] theorem Sys.setLc_freeIx (y : Sys) (c g v : Nat) : (y.setLc c g v).freeIx = y.freeIx := rfl
@[simp] theorem Sys.setLc_fetches (y : Sys) (c g v : Nat) : (y.setLc c g v).fetches = y.fetches := rfl
@[simp] theorem Sys.setLc_ctxs (y : Sys) (c g v : Nat) : (y.setLc c g v).ctxs = y.ctxs := rfl
@[simp] theorem Sys.setLc_thrs (y : Sys) (c g v : Nat) : (y.setLc c g v).thrs = y.thrs := rfl
@[simp] theorem Sys.setLc_clus (y : Sys) (c g v : Nat) : (y.setLc c g v).clus = y.clus := rfl
@[simp] theorem Sys.setLc_regions (y : Sys) (c g v : Nat) : (y.setLc c g v).regions = y.regions := rfl
@[simp] theorem Sys.setLc_parks (y : Sys) (c g v : Nat) : (y.setLc c g v).parks = y.parks := rfl
@[simp] theorem Sys.setLc_frames (y : Sys) (c g v : Nat) : (y.setLc c g v).frames = y.frames := rfl
@[simp] theorem Sys.setLc_ctab (y : Sys) (c g v : Nat) : (y.setLc c g v).ctab = y.ctab := rfl
@[simp] theorem Sys.setLc_bars (y : Sys) (c g v : Nat) : (y.setLc c g v).bars = y.bars := rfl
@[simp] theorem Sys.setLc_banks (y : Sys) (c g v : Nat) : (y.setLc c g v).banks = y.banks := rfl
@[simp] theorem Sys.setLc_scratch (y : Sys) (c g v : Nat) : (y.setLc c g v).scratch = y.scratch := rfl
@[simp] theorem Sys.setLc_xfers (y : Sys) (c g v : Nat) : (y.setLc c g v).xfers = y.xfers := rfl
@[simp] theorem Sys.setLc_paccs (y : Sys) (c g v : Nat) : (y.setLc c g v).paccs = y.paccs := rfl
@[simp] theorem Sys.setLc_lanes (y : Sys) (c g v : Nat) : (y.setLc c g v).lanes = y.lanes := rfl
@[simp] theorem Sys.setLc_pins (y : Sys) (c g v : Nat) : (y.setLc c g v).pins = y.pins := rfl
@[simp] theorem Sys.setLc_tiles (y : Sys) (c g v : Nat) : (y.setLc c g v).tiles = y.tiles := rfl
@[simp] theorem Sys.setLc_ments (y : Sys) (c g v : Nat) : (y.setLc c g v).ments = y.ments := rfl
@[simp] theorem Sys.setLc_tslots (y : Sys) (c g v : Nat) : (y.setLc c g v).tslots = y.tslots := rfl
@[simp] theorem Sys.setLc_rings (y : Sys) (c g v : Nat) : (y.setLc c g v).rings = y.rings := rfl
@[simp] theorem Sys.setLc_links (y : Sys) (c g v : Nat) : (y.setLc c g v).links = y.links := rfl
@[simp] theorem Sys.setLc_routers (y : Sys) (c g v : Nat) : (y.setLc c g v).routers = y.routers := rfl
@[simp] theorem Sys.setLc_lines (y : Sys) (c g v : Nat) : (y.setLc c g v).lines = y.lines := rfl
@[simp] theorem Sys.setLc_descs (y : Sys) (c g v : Nat) : (y.setLc c g v).descs = y.descs := rfl
@[simp] theorem Sys.setLc_spill (y : Sys) (c g v : Nat) : (y.setLc c g v).spill = y.spill := rfl
@[simp] theorem Sys.setLc_portTs (y : Sys) (c g v : Nat) : (y.setLc c g v).portTs = y.portTs := rfl
@[simp] theorem Sys.setScr_now (y : Sys) (c off : Nat) (v : Byte) : (y.setScr c off v).now = y.now := rfl
@[simp] theorem Sys.setScr_held (y : Sys) (c off : Nat) (v : Byte) : (y.setScr c off v).held = y.held := rfl
@[simp] theorem Sys.setScr_firmwareOk (y : Sys) (c off : Nat) (v : Byte) : (y.setScr c off v).firmwareOk = y.firmwareOk := rfl
@[simp] theorem Sys.setScr_cxsel (y : Sys) (c off : Nat) (v : Byte) : (y.setScr c off v).cxsel = y.cxsel := rfl
@[simp] theorem Sys.setScr_cxStatus (y : Sys) (c off : Nat) (v : Byte) : (y.setScr c off v).cxStatus = y.cxStatus := rfl
@[simp] theorem Sys.setScr_cxSeq (y : Sys) (c off : Nat) (v : Byte) : (y.setScr c off v).cxSeq = y.cxSeq := rfl
@[simp] theorem Sys.setScr_ctsel (y : Sys) (c off : Nat) (v : Byte) : (y.setScr c off v).ctsel = y.ctsel := rfl
@[simp] theorem Sys.setScr_lattol (y : Sys) (c off : Nat) (v : Byte) : (y.setScr c off v).lattol = y.lattol := rfl
@[simp] theorem Sys.setScr_pstate (y : Sys) (c off : Nat) (v : Byte) : (y.setScr c off v).pstate = y.pstate := rfl
@[simp] theorem Sys.setScr_powerLimit (y : Sys) (c off : Nat) (v : Byte) : (y.setScr c off v).powerLimit = y.powerLimit := rfl
@[simp] theorem Sys.setScr_thermal (y : Sys) (c off : Nat) (v : Byte) : (y.setScr c off v).thermal = y.thermal := rfl
@[simp] theorem Sys.setScr_lnk (y : Sys) (c off : Nat) (v : Byte) : (y.setScr c off v).lnk = y.lnk := rfl
@[simp] theorem Sys.setScr_msOwner (y : Sys) (c off : Nat) (v : Byte) : (y.setScr c off v).msOwner = y.msOwner := rfl
@[simp] theorem Sys.setScr_msBusy (y : Sys) (c off : Nat) (v : Byte) : (y.setScr c off v).msBusy = y.msBusy := rfl
@[simp] theorem Sys.setScr_irqs (y : Sys) (c off : Nat) (v : Byte) : (y.setScr c off v).irqs = y.irqs := rfl
@[simp] theorem Sys.setScr_fwStatus (y : Sys) (c off : Nat) (v : Byte) : (y.setScr c off v).fwStatus = y.fwStatus := rfl
@[simp] theorem Sys.setScr_mons (y : Sys) (c off : Nat) (v : Byte) : (y.setScr c off v).mons = y.mons := rfl
@[simp] theorem Sys.setScr_tickets (y : Sys) (c off : Nat) (v : Byte) : (y.setScr c off v).tickets = y.tickets := rfl
@[simp] theorem Sys.setScr_nextTicket (y : Sys) (c off : Nat) (v : Byte) : (y.setScr c off v).nextTicket = y.nextTicket := rfl
@[simp] theorem Sys.setScr_faultq (y : Sys) (c off : Nat) (v : Byte) : (y.setScr c off v).faultq = y.faultq := rfl
@[simp] theorem Sys.setScr_shoots (y : Sys) (c off : Nat) (v : Byte) : (y.setScr c off v).shoots = y.shoots := rfl
@[simp] theorem Sys.setScr_relats (y : Sys) (c off : Nat) (v : Byte) : (y.setScr c off v).relats = y.relats := rfl
@[simp] theorem Sys.setScr_loads (y : Sys) (c off : Nat) (v : Byte) : (y.setScr c off v).loads = y.loads := rfl
@[simp] theorem Sys.setScr_seals (y : Sys) (c off : Nat) (v : Byte) : (y.setScr c off v).seals = y.seals := rfl
@[simp] theorem Sys.setScr_reports (y : Sys) (c off : Nat) (v : Byte) : (y.setScr c off v).reports = y.reports := rfl
@[simp] theorem Sys.setScr_hostReads (y : Sys) (c off : Nat) (v : Byte) : (y.setScr c off v).hostReads = y.hostReads := rfl
@[simp] theorem Sys.setScr_mgmtStatus (y : Sys) (c off : Nat) (v : Byte) : (y.setScr c off v).mgmtStatus = y.mgmtStatus := rfl
@[simp] theorem Sys.setScr_freeIx (y : Sys) (c off : Nat) (v : Byte) : (y.setScr c off v).freeIx = y.freeIx := rfl
@[simp] theorem Sys.setScr_fetches (y : Sys) (c off : Nat) (v : Byte) : (y.setScr c off v).fetches = y.fetches := rfl
@[simp] theorem Sys.setScr_ctxs (y : Sys) (c off : Nat) (v : Byte) : (y.setScr c off v).ctxs = y.ctxs := rfl
@[simp] theorem Sys.setScr_thrs (y : Sys) (c off : Nat) (v : Byte) : (y.setScr c off v).thrs = y.thrs := rfl
@[simp] theorem Sys.setScr_clus (y : Sys) (c off : Nat) (v : Byte) : (y.setScr c off v).clus = y.clus := rfl
@[simp] theorem Sys.setScr_regions (y : Sys) (c off : Nat) (v : Byte) : (y.setScr c off v).regions = y.regions := rfl
@[simp] theorem Sys.setScr_parks (y : Sys) (c off : Nat) (v : Byte) : (y.setScr c off v).parks = y.parks := rfl
@[simp] theorem Sys.setScr_frames (y : Sys) (c off : Nat) (v : Byte) : (y.setScr c off v).frames = y.frames := rfl
@[simp] theorem Sys.setScr_ctab (y : Sys) (c off : Nat) (v : Byte) : (y.setScr c off v).ctab = y.ctab := rfl
@[simp] theorem Sys.setScr_bars (y : Sys) (c off : Nat) (v : Byte) : (y.setScr c off v).bars = y.bars := rfl
@[simp] theorem Sys.setScr_lcount (y : Sys) (c off : Nat) (v : Byte) : (y.setScr c off v).lcount = y.lcount := rfl
@[simp] theorem Sys.setScr_banks (y : Sys) (c off : Nat) (v : Byte) : (y.setScr c off v).banks = y.banks := rfl
@[simp] theorem Sys.setScr_xfers (y : Sys) (c off : Nat) (v : Byte) : (y.setScr c off v).xfers = y.xfers := rfl
@[simp] theorem Sys.setScr_paccs (y : Sys) (c off : Nat) (v : Byte) : (y.setScr c off v).paccs = y.paccs := rfl
@[simp] theorem Sys.setScr_lanes (y : Sys) (c off : Nat) (v : Byte) : (y.setScr c off v).lanes = y.lanes := rfl
@[simp] theorem Sys.setScr_pins (y : Sys) (c off : Nat) (v : Byte) : (y.setScr c off v).pins = y.pins := rfl
@[simp] theorem Sys.setScr_tiles (y : Sys) (c off : Nat) (v : Byte) : (y.setScr c off v).tiles = y.tiles := rfl
@[simp] theorem Sys.setScr_ments (y : Sys) (c off : Nat) (v : Byte) : (y.setScr c off v).ments = y.ments := rfl
@[simp] theorem Sys.setScr_tslots (y : Sys) (c off : Nat) (v : Byte) : (y.setScr c off v).tslots = y.tslots := rfl
@[simp] theorem Sys.setScr_rings (y : Sys) (c off : Nat) (v : Byte) : (y.setScr c off v).rings = y.rings := rfl
@[simp] theorem Sys.setScr_links (y : Sys) (c off : Nat) (v : Byte) : (y.setScr c off v).links = y.links := rfl
@[simp] theorem Sys.setScr_routers (y : Sys) (c off : Nat) (v : Byte) : (y.setScr c off v).routers = y.routers := rfl
@[simp] theorem Sys.setScr_lines (y : Sys) (c off : Nat) (v : Byte) : (y.setScr c off v).lines = y.lines := rfl
@[simp] theorem Sys.setScr_descs (y : Sys) (c off : Nat) (v : Byte) : (y.setScr c off v).descs = y.descs := rfl
@[simp] theorem Sys.setScr_spill (y : Sys) (c off : Nat) (v : Byte) : (y.setScr c off v).spill = y.spill := rfl
@[simp] theorem Sys.setScr_portTs (y : Sys) (c off : Nat) (v : Byte) : (y.setScr c off v).portTs = y.portTs := rfl

end Sys2Proof.Machine
end

