-- ==== Sys2Proof/Laws/Ops.lean ====
section
/-!
SUPPORT. What each shared operation can do: the ways a firing ends, and that aborting, trapping, retiring, saving and entering a block
leave memory alone.
-/
namespace Sys2Proof.Machine

/-- A fold of an update that leaves memory alone leaves memory alone. -/
theorem foldl_mem {α : Type} (h : State → α → State) (hm : ∀ s a, (h s a).mem = s.mem) (l : List α) (s : State) :
    (l.foldl h s).mem = s.mem := by
  induction l generalizing s with
  | nil => rfl
  | cons a l ih => rw [List.foldl_cons, ih, hm]

/-- A fold of an update that leaves carried registers alone leaves carried registers alone. -/
theorem foldl_greg {α : Type} (h : State → α → State) (hm : ∀ s a, (h s a).greg = s.greg) (l : List α) (s : State) :
    (l.foldl h s).greg = s.greg := by
  induction l generalizing s with
  | nil => rfl
  | cons a l ih => rw [List.foldl_cons, ih, hm]

/-! ### Aborting and saving (R97, R92) -/

@[simp] theorem abortInst_mem (s : State) (c k : Nat) : (abortInst s c k).mem = s.mem := by unfold abortInst; split <;> rfl
@[simp] theorem abortInst_greg (s : State) (c k : Nat) : (abortInst s c k).greg = s.greg := by unfold abortInst; split <;> rfl

theorem abortInst_none {s : State} {c k : Nat} (h : s.fly.inst c k = none) : abortInst s c k = s := by simp [abortInst, h]

@[simp] theorem maskRegs_mem (s : State) (c k : Nat) : (maskRegs s c k).mem = s.mem := rfl

@[simp] theorem saveThread_mem (s : State) (c k : Nat) : (saveThread s c k).mem = s.mem := by
  unfold saveThread; dsimp only; rw [State.mapSys_mem]; split <;> rfl

/-! ### Retiring and faulting (R94, R80) -/

@[simp] theorem signal_mem (s : State) (c : Nat) (t : Ctrl) : (signal s c t).mem = s.mem := by unfold signal; dsimp only; split <;> rfl
@[simp] theorem signal_greg (s : State) (c : Nat) (t : Ctrl) : (signal s c t).greg = s.greg := by unfold signal; dsimp only; split <;> rfl

@[simp] theorem completionSend_mem (y : Sys) (s : State) (c x n : Nat) : (completionSend y s c x n).mem = s.mem := by
  unfold completionSend
  split
  · exact signal_mem _ _ _
  · rfl

@[simp] theorem leaveGroups_mem (s : State) (c k : Nat) : (leaveGroups s c k).mem = s.mem := by
  unfold leaveGroups; dsimp only

@[simp] theorem retireThread_mem (s : State) (c k : Nat) : (retireThread s c k).mem = s.mem := by
  unfold retireThread
  dsimp only
  split
  · simp
  · refine (completionSend_mem _ _ _ _ _).trans ?_
    split
    · refine (signal_mem _ _ _).trans ?_; simp
    · simp

@[simp] theorem endThread_mem (s : State) (c k : Nat) : (endThread s c k).mem = s.mem := by
  unfold endThread
  dsimp only
  split
  · simp
  · rfl

@[simp] theorem interrupt_mem (s : State) (x n c k : Nat) : (interrupt s x n c k).mem = s.mem := rfl

@[simp] theorem haltXfers_mem (s : State) (x : Nat) : (haltXfers s x).mem = s.mem := by
  unfold haltXfers; dsimp only; rw [foldl_mem _ fun s a => by simp]; rfl

@[simp] theorem contextFault_mem (s : State) (x n c k : Nat) : (contextFault s x n c k).mem = s.mem := by
  have hi : ∀ (p : Prop) [Decidable p],
      (if p then interrupt (s.mapSys fun y => y.wsync x) x n c k else s.mapSys fun y => y.wsync x).mem = s.mem := by
    intro p _; split <;> rfl
  unfold contextFault
  dsimp only
  split
  · split
    · simpa using hi _
    · simpa using hi _
  · split
    · rw [foldl_mem _ fun s a => by split <;> simp]
      simpa using hi _
    · simpa using hi _

/-! ### Traps (R345, R346, R395) -/

@[simp] theorem takeTrap_mem (s : State) (c k : Nat) (r : TrapRec) (blk : Nat) (d : Bool) : (takeTrap s c k r blk d).mem = s.mem := rfl

/-- Raising a trap changes what is in flight and nothing else (R345). -/
theorem raiseTrap_fly (s : State) (c k n : Nat) (r : TrapRec) : ∃ f, raiseTrap s c k n r = { s with fly := f } := by
  unfold raiseTrap
  split
  · exact ⟨s.fly, rfl⟩
  · dsimp only
    split
    · exact ⟨_, rfl⟩
    · split
      · exact ⟨_, rfl⟩
      · exact ⟨s.fly, rfl⟩

@[simp] theorem raiseTrap_mem (s : State) (c k n : Nat) (r : TrapRec) : (raiseTrap s c k n r).mem = s.mem := by
  obtain ⟨f, h⟩ := raiseTrap_fly s c k n r; rw [h]

@[simp] theorem raiseTrap_greg (s : State) (c k n : Nat) (r : TrapRec) : (raiseTrap s c k n r).greg = s.greg := by
  obtain ⟨f, h⟩ := raiseTrap_fly s c k n r; rw [h]

@[simp] theorem raiseTrap_sys (s : State) (c k n : Nat) (r : TrapRec) : (raiseTrap s c k n r).sys = s.sys := by
  obtain ⟨f, h⟩ := raiseTrap_fly s c k n r; rw [h]

@[simp] theorem deliverTrap_mem (s : State) (c k : Nat) (i : Inst) (r : TrapRec) : (deliverTrap s c k i r).mem = s.mem := by
  unfold deliverTrap; dsimp only; split <;> simp

/-- A thread takes a trap with its carried registers as they are. -/
@[simp] theorem takeTrap_greg (s : State) (c k : Nat) (r : TrapRec) (blk : Nat) (d : Bool) : (takeTrap s c k r blk d).greg = s.greg := rfl

@[simp] theorem deferTrap_mem (s : State) (c k : Nat) (n : Option Nat) (r : TrapRec) : (deferTrap s c k n r).mem = s.mem := rfl

/-! ### Entering a block (R92) -/

@[simp] theorem enterBlock_mem (s : State) (c k r b : Nat) : (enterBlock s c k r b).mem = s.mem := by
  unfold enterBlock; dsimp only; split <;> simp

@[simp] theorem waitBlock_mem (s : State) (c x b w : Nat) : (waitBlock s c x b w).mem = s.mem := rfl

@[simp] theorem enterNext_mem (s : State) (c k : Nat) : (enterNext s c k).mem = s.mem := by
  unfold enterNext
  dsimp only
  split
  · simp
  split
  · simp
  split
  · simp
  split
  · simp
  split
  · simp
  split
  · simp
  split <;> simp

@[simp] theorem proceed_mem (s : State) (c k : Nat) : (proceed s c k).mem = s.mem := by
  unfold proceed
  dsimp only
  split
  · simp
  · split <;> simp

@[simp] theorem releaseWaiters_mem (s : State) (c : Nat) : (releaseWaiters s c).mem = s.mem := by
  unfold releaseWaiters
  exact foldl_mem _ (fun s n => by simp) _ _

/-! ### How a firing ends -/

/-- Everything the end of a firing can do: what is in flight changes, or a trap is raised (R345). -/
theorem finish_cases {s t : State} {r : FireRes} (h : finish s r = .next t) :
    (∃ f, r = .ok f ∧ t = { s with fly := f }) ∨
    (r = .wait ∧ t = { s with fly := waitFiring s.sys.now s.fly.cur s.fly }) ∨
    (∃ q, r = .trap q ∧ t = raiseTrap s s.fly.cur.clu s.fly.cur.frame s.fly.cur.idx q) := by
  cases r with
  | ok f => exact .inl ⟨f, rfl, by simpa [finish] using h.symm⟩
  | wait => exact .inr (.inl ⟨rfl, by simpa [finish] using h.symm⟩)
  | trap q => exact .inr (.inr ⟨q, rfl, by simpa [finish] using h.symm⟩)

@[simp] theorem finish_ok (s : State) (f : Fly) : finish s (.ok f) = .next { s with fly := f } := rfl
@[simp] theorem finish_wait (s : State) : finish s .wait = .next { s with fly := waitFiring s.sys.now s.fly.cur s.fly } := rfl
@[simp] theorem finish_trap (s : State) (q : TrapRec) :
    finish s (.trap q) = .next (raiseTrap s s.fly.cur.clu s.fly.cur.frame s.fly.cur.idx q) := rfl

/-- A firing always completes: it stops nothing. -/
theorem finish_next (s : State) (r : FireRes) : ∃ t, finish s r = .next t := by cases r <;> exact ⟨_, rfl⟩

/-- A firing changes what is in flight and nothing else: what it raises is delivered, and what it sends commits, in steps of their own (R95, R345). -/
theorem finish_fly {s t : State} {r : FireRes} (h : finish s r = .next t) : ∃ f, t = { s with fly := f } := by
  rcases finish_cases h with ⟨f, -, rfl⟩ | ⟨-, rfl⟩ | ⟨q, -, rfl⟩
  · exact ⟨f, rfl⟩
  · exact ⟨_, rfl⟩
  · exact raiseTrap_fly s _ _ _ q

/-- A firing writes no memory (R95, R96). -/
theorem finish_mem {s t : State} {r : FireRes} (h : finish s r = .next t) : t.mem = s.mem := by
  rcases finish_cases h with ⟨f, -, rfl⟩ | ⟨-, rfl⟩ | ⟨q, -, rfl⟩ <;> simp

/-! ### What a firing yields -/

/-- A token sent changes the agenda and nothing else that is in flight. -/
theorem sendTok_fly (c : Firing) (n : Nat) (t : Token) (g : Target) (f : Fly) :
    sendTok c n t g f = { f with agenda := (sendTok c n t g f).agenda } := by
  cases g <;> rfl

theorem sendAll_fly (c : Firing) (n : Nat) (gs : List Target) (ts : List Token) (f : Fly) :
    sendAll c n gs ts f = { f with agenda := (sendAll c n gs ts f).agenda } := by
  have one : ∀ (gs : List Target) (t : Token) (f : Fly), gs.foldl (fun f g => sendTok c n t g f) f
      = { f with agenda := (gs.foldl (fun f g => sendTok c n t g f) f).agenda } := by
    intro gs t
    induction gs with
    | nil => intro f; rfl
    | cons g gs ih => intro f; rw [List.foldl_cons, ih, sendTok_fly]
  unfold sendAll
  induction ts generalizing f with
  | nil => rfl
  | cons t ts ih => rw [List.foldl_cons, ih, one]

@[simp] theorem sendAll_nil (c : Firing) (n : Nat) (gs : List Target) (f : Fly) : sendAll c n gs [] f = f := rfl

/-! ### Operands -/

/-- Without predication every element fires (R28). -/
theorem firedMask_always {c : Firing} {h : Head} (hp : h.pred = .always) : firedMask c h = .ok (List.replicate c.n true) := by
  simp [firedMask, hp]

/-- An operand of the instruction's own wide format is taken as it is (R31). -/
theorem operand_own {c : Firing} {h : Head} {t : Token} (m : Bool) (hf : t.fmt = h.ty) (hn : h.ty.narrow = false) :
    operand c h m (some t) = .ok t.elems := by
  simp [operand, convert, hf, hn]

/-- A format that neither matches nor converts raises FORMAT (R31, R33). -/
theorem operand_format {c : Firing} {h : Head} {t : Token} (m : Bool) (hc : convert m h.ty h.ac t.fmt = none) :
    operand c h m (some t) = .error (c.format t h.ty) := by
  simp [operand, hc]

end Sys2Proof.Machine
end

