-- ==== Sys2Proof/Laws/Lines.lean ====
section
/-! SUPPORT. What opening lines at their home slices, and reading a trap's vector entry, can do: the system state changes, and nothing else but
the free delays that are drawn. -/

namespace Sys2Proof.Machine

/-- A line opened changes the system state alone (R16, R18, R174, R382). -/
theorem openLine_ok {s u : State} {q : Ask} (h : openLine s q = .ok u) : ∃ y, u = { s with sys := y } := by
  unfold openLine at h
  split at h
  · cases h; exact ⟨_, rfl⟩
  · dsimp only at h
    split at h <;> cases h
    exact ⟨_, rfl⟩

/-- So do several, one after the other. -/
theorem openAll_ok {l : List Ask} {s u : State} (h : openAll l s = .ok u) : ∃ y, u = { s with sys := y } := by
  induction l generalizing s with
  | nil => cases h; exact ⟨_, rfl⟩
  | cons p t ih =>
    rw [openAll] at h
    split at h
    · rename_i v hv
      obtain ⟨y, rfl⟩ := openLine_ok hv
      obtain ⟨z, rfl⟩ := ih h
      exact ⟨z, rfl⟩
    · exact absurd h (by rename_i hn; exact fun h => hn _ h)

/-- Lines that can all perform now change the system state alone. -/
theorem openLines_ok {l : List Ask} {s u : State} (h : openLines l s = .ok u) : ∃ y, u = { s with sys := y } := by
  unfold openLines at h
  dsimp only at h
  repeat' split at h
  all_goals first
    | exact openAll_ok h
    | cases h

/-- A line that its home slice holds under the tag opens with no fetch. -/
theorem openLine_held {s : State} {q : Ask} (h : (s.sys.line q.line).held = some q.key) :
    openLine s q = .ok (s.mapSys fun y => (recallLine y q.line).stamp q.line q.w) := by
  simp [openLine, h]

/-- A vector entry that has been read is none, or the entry of the table; memory and the carried registers are as they were (R346). -/
theorem readVector_done {s u : State} {e : Ev} {t : Thr} {cause : Nat} {a : Option Nat} (h : readVector s e t cause = .done u a) :
    u.mem = s.mem ∧ u.greg = s.greg ∧ (a = none ∨ a = vectorEntry s t.ctx t.colour t.ident cause) := by
  unfold readVector at h
  dsimp only at h
  repeat' split at h
  all_goals first
    | (cases h; exact ⟨rfl, rfl, .inl rfl⟩)
    | cases h
  all_goals
    rename_i hv _ _ ho
    obtain ⟨y, rfl⟩ := openLines_ok ho
    exact ⟨rfl, rfl, .inr hv.symm⟩

end Sys2Proof.Machine
end

