-- ==== Sys2Proof/Laws/Memory.lean ====
section
/-!
SUPPORT. Tables and memory: an entry read after it is written, other entries left alone, and the canonical form of memory kept by
every write.
-/
namespace Sys2Proof.Machine

/-! ### Tables -/

/-- Keys strictly rising from `lo`. -/
def tabRising {α : Type} : Nat → Tab α → Bool
  | _, [] => true
  | lo, (k, _) :: t => lo ≤ k && tabRising (k + 1) t

theorem tabRising_le {α : Type} {lo lo' : Nat} (t : Tab α) (h : lo' ≤ lo) (w : tabRising lo t = true) : tabRising lo' t = true := by
  cases t with
  | nil => rfl
  | cons e t => simp_all [tabRising]; omega

theorem tabFind_below {α : Type} {lo k : Nat} (t : Tab α) (w : tabRising lo t = true) (h : k < lo) : tabFind t k = none := by
  induction t generalizing lo with
  | nil => rfl
  | cons e t ih =>
    simp only [tabRising, Bool.and_eq_true, decide_eq_true_eq] at w
    have hne : k ≠ e.1 := by omega
    simpa [tabFind, hne] using ih w.2 (by omega)

@[simp] theorem tabFind_put_same {α : Type} (t : Tab α) (k : Nat) (v : α) : tabFind (tabPut t k v) k = some v := by
  induction t with
  | nil => simp [tabPut, tabFind]
  | cons e t ih =>
    by_cases h : k < e.1
    · simp [tabPut, tabFind, h]
    · by_cases h' : k = e.1
      · simp [tabPut, tabFind, h']
      · simp [tabPut, tabFind, h, h', ih]

theorem tabFind_put_other {α : Type} (t : Tab α) (k n : Nat) (v : α) (h : n ≠ k) : tabFind (tabPut t k v) n = tabFind t n := by
  induction t with
  | nil => simp [tabPut, tabFind, h]
  | cons e t ih =>
    by_cases h1 : k < e.1
    · simp [tabPut, tabFind, h1, h]
    · by_cases h2 : k = e.1
      · simp [tabPut, tabFind, h2, h2 ▸ h]
      · by_cases h3 : n = e.1
        · simp [tabPut, tabFind, h1, h2, h3]
        · simp [tabPut, tabFind, h1, h2, h3, ih]

theorem tabFind_del_other {α : Type} (t : Tab α) (k n : Nat) (h : n ≠ k) : tabFind (tabDel t k) n = tabFind t n := by
  induction t with
  | nil => rfl
  | cons e t ih =>
    by_cases h1 : k = e.1
    · simp [tabDel, tabFind, h1, h1 ▸ h]
    · by_cases h2 : n = e.1
      · simp [tabDel, tabFind, h1, h2]
      · simp [tabDel, tabFind, h1, h2, ih]

theorem tabFind_del_same {α : Type} {lo : Nat} (t : Tab α) (k : Nat) (w : tabRising lo t = true) : tabFind (tabDel t k) k = none := by
  induction t generalizing lo with
  | nil => rfl
  | cons e t ih =>
    simp only [tabRising, Bool.and_eq_true] at w
    by_cases h : k = e.1
    · simpa [tabDel, h] using tabFind_below t w.2 (by omega)
    · simpa [tabDel, tabFind, h] using ih w.2

/-- An entry of another key reads as before, whatever is written. -/
theorem tabGet_set_other {α : Type} [DecidableEq α] (d : α) (t : Tab α) (k n : Nat) (v : α) (h : n ≠ k) :
    tabGet d (tabSet d t k v) n = tabGet d t n := by
  unfold tabGet tabSet
  split
  · rw [tabFind_del_other t k n h]
  · rw [tabFind_put_other t k n v h]

/-- An entry that is written reads as it was written. -/
theorem tabGet_set_same {α : Type} [DecidableEq α] {lo : Nat} (d : α) (t : Tab α) (k : Nat) (v : α) (w : tabRising lo t = true) :
    tabGet d (tabSet d t k v) k = v := by
  unfold tabGet tabSet
  split
  · next h => rw [tabFind_del_same t k w, h]; rfl
  · rw [tabFind_put_same]; rfl

theorem tabRising_put {α : Type} {lo : Nat} (t : Tab α) (k : Nat) (v : α) (w : tabRising lo t = true) (h : lo ≤ k) :
    tabRising lo (tabPut t k v) = true := by
  induction t generalizing lo with
  | nil => simp [tabPut, tabRising, h]
  | cons e t ih =>
    simp only [tabRising, Bool.and_eq_true, decide_eq_true_eq] at w
    by_cases h1 : k < e.1
    · simp [tabPut, tabRising, h1, h, w.2]
    · by_cases h2 : k = e.1
      · subst h2; simp [tabPut, tabRising, h, w.2]
      · simp [tabPut, tabRising, h1, h2, w.1, ih w.2 (by omega)]

theorem tabRising_del {α : Type} {lo : Nat} (t : Tab α) (k : Nat) (w : tabRising lo t = true) : tabRising lo (tabDel t k) = true := by
  induction t generalizing lo with
  | nil => rfl
  | cons e t ih =>
    simp only [tabRising, Bool.and_eq_true, decide_eq_true_eq] at w
    by_cases h2 : k = e.1
    · simpa [tabDel, h2] using tabRising_le t (by omega) w.2
    · simp [tabDel, tabRising, h2, w.1, ih w.2]

theorem tabRising_set {α : Type} [DecidableEq α] {lo : Nat} (d : α) (t : Tab α) (k : Nat) (v : α) (w : tabRising lo t = true)
    (h : lo ≤ k) : tabRising lo (tabSet d t k v) = true := by
  unfold tabSet
  split
  · exact tabRising_del t k w
  · exact tabRising_put t k v w h

/-! ### Memory -/

theorem risingFrom_iff (lo : Nat) (m : Memory) :
    risingFrom lo m = true ↔ tabRising lo m = true ∧ ∀ e ∈ m, e.2 ≠ unwritten := by
  induction m generalizing lo with
  | nil => simp [risingFrom, tabRising]
  | cons e m ih =>
    simp only [risingFrom, tabRising, Bool.and_eq_true, decide_eq_true_eq, bne_iff_ne, ih, List.mem_cons, forall_eq_or_imp]
    tauto

theorem Memory.wf_rising {m : Memory} (h : Memory.wf m = true) : tabRising 0 m = true := ((risingFrom_iff 0 m).1 h).1

theorem mem_tabPut {α : Type} {e : Nat × α} (t : Tab α) (k : Nat) (v : α) (h : e ∈ tabPut t k v) : e = (k, v) ∨ e ∈ t := by
  induction t with
  | nil => simpa [tabPut] using h
  | cons a t ih =>
    rw [tabPut] at h
    split at h
    · simpa using h
    · split at h
      · simp only [List.mem_cons] at h ⊢; tauto
      · simp only [List.mem_cons] at h ⊢
        rcases h with h | h
        · tauto
        · have := ih h; tauto

theorem mem_tabDel {α : Type} {e : Nat × α} (t : Tab α) (k : Nat) (h : e ∈ tabDel t k) : e ∈ t := by
  induction t with
  | nil => exact h
  | cons a t ih =>
    rw [tabDel] at h
    split at h
    · simp [h]
    · simp only [List.mem_cons] at h ⊢
      rcases h with h | h
      · exact .inl h
      · exact .inr (ih h)

/-- Writing a byte keeps the canonical form. -/
theorem writeByte_wf {m : Memory} (a : Nat) (v : Byte) (h : Memory.wf m = true) : Memory.wf (writeByte m a v) = true := by
  unfold Memory.wf at *
  rw [risingFrom_iff] at *
  refine ⟨tabRising_set _ _ _ _ h.1 (Nat.zero_le _), fun e he => ?_⟩
  unfold writeByte tabSet at he
  split at he
  · exact h.2 e (mem_tabDel _ _ he)
  · rcases mem_tabPut _ _ _ he with he | he
    · subst he; assumption
    · exact h.2 e he

theorem writeLE_wf {m : Memory} (a n v : Nat) (h : Memory.wf m = true) : Memory.wf (writeLE m a n v) = true := by
  induction n generalizing m a v with
  | zero => exact h
  | succ n ih => exact ih _ _ (writeByte_wf _ _ h)

theorem writeWord_wf {m : Memory} (a : Nat) (v : Word) (h : Memory.wf m = true) : Memory.wf (writeWord m a v) = true := writeLE_wf _ _ _ h

theorem writeBytes_wf {m : Memory} (a : Nat) (bs : List Byte) (h : Memory.wf m = true) : Memory.wf (writeBytes m a bs) = true := by
  induction bs generalizing m a with
  | nil => exact h
  | cons b bs ih => exact ih _ (writeByte_wf _ _ h)

/-- A byte that is written reads as it was written. -/
theorem readByte_writeByte_same {m : Memory} (a : Nat) (v : Byte) (h : Memory.wf m = true) : readByte (writeByte m a v) a = v :=
  tabGet_set_same _ _ _ _ (Memory.wf_rising h)

/-- Writing a byte leaves every other byte alone. -/
theorem readByte_writeByte_other (m : Memory) (a b : Nat) (v : Byte) (h : b ≠ a) : readByte (writeByte m a v) b = readByte m b :=
  tabGet_set_other _ _ _ _ _ h

/-- Writing `n` bytes leaves the bytes outside them alone. -/
theorem readByte_writeLE_other (m : Memory) (a n v b : Nat) (h : b < a ∨ a + n ≤ b) : readByte (writeLE m a n v) b = readByte m b := by
  induction n generalizing m a v with
  | zero => rfl
  | succ n ih => rw [writeLE, ih _ _ _ (by omega), readByte_writeByte_other _ _ _ _ (by omega)]

theorem readByte_writeBytes_other (m : Memory) (a b : Nat) (bs : List Byte) (h : b < a ∨ a + bs.length ≤ b) :
    readByte (writeBytes m a bs) b = readByte m b := by
  induction bs generalizing m a with
  | nil => rfl
  | cons x bs ih => rw [writeBytes, ih _ _ (by simp at h; omega), readByte_writeByte_other _ _ _ _ (by simp at h; omega)]

/-- Byte `i` of a number that is written. -/
theorem readByte_writeLE_same {m : Memory} (a n v i : Nat) (h : Memory.wf m = true) (hi : i < n) :
    readByte (writeLE m a n v) (a + i) = BitVec.ofNat 8 (v / 256 ^ i) := by
  induction n generalizing m a v i with
  | zero => omega
  | succ n ih =>
    rw [writeLE]
    cases i with
    | zero =>
      rw [readByte_writeLE_other _ _ _ _ _ (by omega)]
      simpa using readByte_writeByte_same a (BitVec.ofNat 8 v) h
    | succ i =>
      have := ih (a + 1) (v / 256) i (writeByte_wf a (BitVec.ofNat 8 v) h) (by omega)
      rw [show a + (i + 1) = a + 1 + i by omega, this, Nat.div_div_eq_div_mul, pow_succ, mul_comm]

/-- Filtering memory keeps the canonical form. -/
theorem filter_wf {m : Memory} (p : Host.Cell → Bool) (h : Memory.wf m = true) : Memory.wf (m.filter p) = true := by
  unfold Memory.wf at *
  rw [risingFrom_iff] at *
  refine ⟨?_, fun e he => h.2 e (List.mem_of_mem_filter he)⟩
  have key : ∀ (lo : Nat) (m : Memory), tabRising lo m = true → tabRising lo (m.filter p) = true := by
    intro lo m
    induction m generalizing lo with
    | nil => exact id
    | cons e m ih =>
      intro w
      simp only [tabRising, Bool.and_eq_true, decide_eq_true_eq] at w
      rw [List.filter_cons]
      split
      · simp [tabRising, w.1, ih _ w.2]
      · exact tabRising_le _ (by omega) (ih _ w.2)
  exact key 0 m h.1

theorem reset_mem_wf : Memory.wf State.reset.mem = true := rfl

end Sys2Proof.Machine
end

