-- ==== Sys2Proof/Laws/Tokens.lean ====
section
/-!
SUPPORT. Tokens depend on their elements only through the bits of their format (R24): results that agree in those bits send the same tokens.
-/
namespace Sys2Proof

theorem Fmt.width_le (f : Fmt) : f.width ≤ 64 := by cases f <;> decide

/-- The element bits of a scalar's data. -/
theorem scalarData_mod (f : Fmt) (x : Word) : (scalarData f x).toNat % 2 ^ f.width = x.toNat % 2 ^ f.width := by
  have low (n : Nat) (h : n ≤ 64) : (BitVec.ofNat 64 (x.toNat % 2 ^ n)).toNat % 2 ^ n = x.toNat % 2 ^ n := by
    rw [BitVec.toNat_ofNat, Nat.mod_mod_of_dvd _ (Nat.pow_dvd_pow 2 h), Nat.mod_mod]
  cases f
  case i32 =>
    simp only [scalarData, Fmt.width]
    have e : ((x.extractLsb' 0 32).signExtend 64).setWidth 32 = x.setWidth 32 := by
      ext i hi
      have h64 : i < 64 := by omega
      simp [BitVec.getElem_setWidth, BitVec.getElem_signExtend, hi, h64]
    have := congrArg BitVec.toNat e
    simpa using this
  all_goals exact low _ (by decide)

@[simp] theorem scalarData_idem (f : Fmt) (x : Word) : scalarData f (scalarData f x) = scalarData f x := by
  have h := scalarData_mod f x
  cases f
  case i32 =>
    simp only [scalarData, Fmt.width] at h ⊢
    congr 1
    apply BitVec.eq_of_toNat_eq
    simpa using h
  all_goals (simp only [scalarData] at h ⊢; rw [h])

theorem packElems_map (f : Fmt) (xs : List Word) : packElems f.width (xs.map (scalarData f)) = packElems f.width xs := by
  induction xs with
  | nil => rfl
  | cons x xs ih => simp only [List.map_cons, packElems, scalarData_mod, ih]

theorem vecTok_map (a b i : Nat) (f : Fmt) (xs : List Word) : vecTok a b i f (xs.map (scalarData f)) = vecTok a b i f xs := by
  simp [vecTok, packElems_map]

theorem scalarTok_map (a b i : Nat) (f : Fmt) (x : Word) : scalarTok a b i f (scalarData f x) = scalarTok a b i f x := by
  simp [scalarTok]

theorem chunks_map (g : Word → Word) (w n : Nat) (xs : List Word) : chunks w (xs.map g) n = (chunks w xs n).map (List.map g) := by
  induction n generalizing xs with
  | zero => rfl
  | succ n ih =>
    simp only [chunks, List.isEmpty_map]
    split
    · rfl
    · rw [List.map_cons, ← List.map_take, ← List.map_drop, ih]

theorem runToks_map (a b i : Nat) (f : Fmt) (xs : List Word) : runToks a b i f (xs.map (scalarData f)) = runToks a b i f xs := by
  simp only [runToks, ← List.map_take, chunks_map, List.length_map, List.zipIdx_map, List.map_map]
  apply List.map_congr_left
  rintro ⟨l, n⟩ -
  simp [vecTok_map]

theorem groupRuns_map {α β : Type} (g : α → β) (b : Nat) (xs : List (Option α)) :
    groupRuns b (xs.map (Option.map g)) = (groupRuns b xs).map fun r => (r.1, r.2.map g) := by
  induction xs generalizing b with
  | nil => rfl
  | cons x xs ih =>
    cases x with
    | none => simp [groupRuns, ih]
    | some x =>
      simp only [List.map_cons, Option.map_some, groupRuns, ih]
      cases h : groupRuns (b + 1) xs with
      | nil => rfl
      | cons r t =>
        simp only [List.map_cons]
        split <;> rfl

namespace Machine

/-- Results may be replaced by their data in the format. -/
theorem resultToks_map (c : Firing) (f : Fmt) (xs : List (Option Word)) :
    resultToks c f (xs.map (Option.map (scalarData f))) = resultToks c f xs := by
  unfold resultToks
  split
  · rw [groupRuns_map, List.flatMap_map]
    simp [runToks_map]
  · cases xs with
    | nil => rfl
    | cons x xs => cases x <;> simp [scalarTok_map]

/-- Results that agree in the bits of the format send the same tokens. -/
theorem resultToks_congr (c : Firing) (f : Fmt) {xs ys : List (Option Word)}
    (h : xs.map (Option.map (scalarData f)) = ys.map (Option.map (scalarData f))) : resultToks c f xs = resultToks c f ys := by
  rw [← resultToks_map c f xs, h, resultToks_map]

theorem masked_map (g : Word → Word) (m : List Bool) (xs : List Word) : (masked m xs).map (Option.map g) = masked m (xs.map g) := by
  induction m generalizing xs with
  | nil => cases xs <;> rfl
  | cons b m ih =>
    cases xs with
    | nil => rfl
    | cons x xs => cases b <;> simp [masked, ih]

/-- Element functions that agree in the bits of the format send the same tokens. -/
theorem resultToks_masked (c : Firing) (f : Fmt) (m : List Bool) {xs ys : List Word} (h : xs.map (scalarData f) = ys.map (scalarData f)) :
    resultToks c f (masked m xs) = resultToks c f (masked m ys) :=
  resultToks_congr c f (by rw [masked_map, masked_map, h])

end Machine
end Sys2Proof
end

