-- ==== Sys2Proof/Laws/Results.lean ====
section
/-!
SUPPORT. The element-wise operations and the scalar firing, each said once: where its operands are accepted it sends its results, and nothing
else happens.
-/
namespace Sys2Proof

/-! ### Elements -/

theorem Token.elems_cons (t : Token) : t.elems = t.elem 0 :: (List.range t.len).map fun e => t.elem (e + 1) := by
  simp [Token.elems, Token.n, List.range_succ_eq_map, List.map_map, Function.comp_def]

theorem Token.headD_elems (t : Token) : t.elems.headD 0 = t.elem 0 := by rw [Token.elems_cons]; rfl

theorem Token.elem_prd {t : Token} (h : t.fmt = .prd) (e : Nat) : (t.elem e).getLsbD 0 = t.data.getLsbD e := by
  simp [Token.elem, h, Fmt.width, BitVec.getLsbD, Nat.testBit, Nat.shiftRight_eq_div_pow]

theorem map_zipIdx_fst {α β : Type} (f : α → β) (l : List α) : (l.zipIdx.map fun (p : α × Nat) => f p.1) = l.map f := by
  have := List.map_map (g := f) (f := Prod.fst) (l := l.zipIdx)
  rw [show (fun p : α × Nat => f p.1) = f ∘ Prod.fst from rfl, ← this]; simp

namespace Machine

/-! ### Element-wise instructions (R223) -/

theorem mapUnary_ok {s : State} {h : Head} {mv : Bool} {xs : List Word} {m : List Bool} (out : Fmt) (lat : Nat) (tg : List Target)
    (g : Nat → Word → Word) (hx : operand s.fly.cur h mv s.fly.cur.left = .ok xs) (hm : firedMask s.fly.cur h = .ok m) :
    mapUnary s h mv out lat tg g = .ok (sendAll s.fly.cur (s.sys.now + lat + s.fly.cur.extra) tg
      (resultToks s.fly.cur out (masked m (xs.zipIdx.map fun (x, e) => g e x))) s.fly) := by
  simp only [mapUnary, hx, hm]

theorem mapBinary_ok {s : State} {h : Head} {mv : Bool} {xs ys : List Word} {m : List Bool} (out : Fmt) (lat : Nat) (tg : List Target)
    (g : Nat → Word → Word → Word) (hx : operand s.fly.cur h mv s.fly.cur.left = .ok xs)
    (hy : operand s.fly.cur h mv s.fly.cur.right = .ok ys) (hm : firedMask s.fly.cur h = .ok m) :
    mapBinary s h mv out lat tg g = .ok (sendAll s.fly.cur (s.sys.now + lat + s.fly.cur.extra) tg
      (resultToks s.fly.cur out (masked m ((xs.zip ys).zipIdx.map fun (p, e) => g e p.1 p.2))) s.fly) := by
  simp only [mapBinary, hx, hy, hm]

theorem mapUnary_format {s : State} {h : Head} {mv : Bool} {r : TrapRec} (out : Fmt) (lat : Nat) (tg : List Target) (g : Nat → Word → Word)
    (hx : operand s.fly.cur h mv s.fly.cur.left = .error r) : mapUnary s h mv out lat tg g = .trap r := by simp only [mapUnary, hx]

theorem mapBinary_format {s : State} {h : Head} {mv : Bool} {r : TrapRec} (out : Fmt) (lat : Nat) (tg : List Target)
    (g : Nat → Word → Word → Word) (hx : operand s.fly.cur h mv s.fly.cur.left = .error r) : mapBinary s h mv out lat tg g = .trap r := by
  simp only [mapBinary, hx]

/-! ### Scalar firings (R223) -/

theorem Firing.one_le_n (c : Firing) : 1 ≤ c.n := by
  have : ∀ (l : List Nat) a, a ≤ l.foldl max a := by
    intro l
    induction l with
    | nil => simp
    | cons x l ih => intro a; exact le_trans (le_max_left _ _) (ih _)
  exact this _ 1

theorem scalarFire_always {s : State} {h : Head} (hv : ∀ t ∈ s.fly.cur.toks, t.vec = false) (hp : h.pred = .always) (k : FireRes) :
    scalarFire s h k = k := by
  have hf : s.fly.cur.toks.find? (·.vec) = none := List.find?_eq_none.2 fun t ht => by simp [hv t ht]
  obtain ⟨n, hn⟩ : ∃ n, s.fly.cur.n = n + 1 := ⟨_, (Nat.sub_add_cancel s.fly.cur.one_le_n).symm⟩
  simp [scalarFire, hf, firedMask_always hp, hn, List.replicate_succ]

end Machine
end Sys2Proof
end

