-- ==== Sys2Proof/Tests/Slice0.lean ====
section
/-!
SUPPORT. Tests: words of the manual decode, ill-formed words are refused, small results worked out from the manual, and for every
obligation with hypotheses a state that meets them.
-/
namespace Sys2Proof.Tests
open Sys2Proof Sys2Proof.Machine Sys2Proof.Claims

-- One theorem after another: the package is checked as one text, and every thread of a check costs memory.
set_option Elab.async false

/-! ### Words of the manual -/

/-- A word decodes to `i`. -/
def reads (w : Word) (i : Instr) : Bool := match decode w with | .ok j => i == j | _ => false

/-- A head without modifiers. -/
def hd (ty : Fmt) : Head := { ac := false, mod := 0, pred := .always, ty := ty }

/-- A G word without targets. -/
def g (ty : Fmt) (imm : BitVec 27 := 0) (t0 : Target := .none) (t1 : Target := .none) : GWord := { h := hd ty, t0 := t0, t1 := t1, imm := imm }

/-- An M word. -/
def m (ty : Fmt) (lsid : BitVec 5 := 0) (off : BitVec 24 := 0) (t0 : Target := .none) : MWord :=
  { h := hd ty, t0 := t0, lsid := lsid, scope := .blk, order := .none, runlo := 0, scr := false, off := off }

/-- An XW word. -/
def xw (acc : BitVec 8) (mode : BitVec 3) (count : BitVec 13 := 0) (t0 : Target := .none) : XWWord :=
  { h := hd .x64, t0 := t0, t1 := .none, acc := acc, mode := mode, xf := false, jf := false, count := count }

/-- An XR word. -/
def xr (p : BitVec 24) (t0 : Target := .none) (slot : BitVec 4 := 0) (fam : Bool := false) (elem : BitVec 3 := 0) (ty : Fmt := .x64) : XRWord :=
  { h := hd ty, t0 := t0, lsid := 0, fam := fam, slot := slot, elem := elem, p := p }

/-- A C word. -/
def cw (off : BitVec 42 := 0) (retire : Bool := false) : CWord := { h := hd .x64, exitno := 0, retire := retire, off := off }


theorem test_words_dataflow : [
    (0x0001AFCCF8000000, .mov (g .f32 0x0 (.op .left 126) (.reg 31))),
    (0x0101AFCCF8080587, .fan (g .f32 0x80587 (.op .left 126) (.reg 31))),
    (0x02002FCCF8000009, .getg (g .x64 0x9 (.op .left 126) (.reg 31))),
    (0x03002FCCF8000189, .putg (g .x64 0x189 (.op .left 126) (.reg 31))),
    (0x04002FD000000001, .ldi { h := { ac := false, mod := 0, pred := .always, ty := .x64 }, t0 := (.op .left 126), imm := 0x1000000001 }),
    (0x05012FC000123456, .ldih { h := { ac := false, mod := 0, pred := .always, ty := .f64 }, t0 := (.op .left 126), imm := 0x123456 }),
    (0x0600000000000011, .null (g .x64 0x11 .none .none)),
    (0x0701AFCCF8000003, .sel (g .f32 0x3 (.op .left 126) (.reg 31))),
    (0x0801AFCCF8000000, .steer (g .f32 0x0 (.op .left 126) (.reg 31))),
    (0x0901AFCCF8000000, .merge (g .f32 0x0 (.op .left 126) (.reg 31))),
    (0x0A0053FFFFFFFFFD, .exit { h := { ac := false, mod := 0, pred := .always, ty := .x64 }, exitno := 5, retire := false, off := 0x3fffffffffd }),
    (0x0B00500000000000, .exiti { h := { ac := false, mod := 0, pred := .always, ty := .x64 }, exitno := 5, retire := false, off := 0x0 }),
    (0x0C0053FFFFFFFFFD, .call { h := { ac := false, mod := 0, pred := .always, ty := .x64 }, exitno := 5, retire := false, off := 0x3fffffffffd }),
    (0x0D00000000000000, .ret (g .x64 0x0 .none .none)),
    (0x0E00000000000000, .halt (g .x64 0x0 .none .none)),
    (0x0F002FCCF800000A, .rdid (g .x64 0xa (.op .left 126) (.reg 31)))].all (fun p : Word × Instr => reads p.1 p.2 && encode p.2 == some p.1) = true := by decide

theorem test_words_integer : [
    (0x1000AFCCF8000000, .add (g .i32 0x0 (.op .left 126) (.reg 31))),
    (0x1100AFCCF8000000, .sub (g .i32 0x0 (.op .left 126) (.reg 31))),
    (0x1200AFCCFFFFFFFE, .addi (g .i32 0x7fffffe (.op .left 126) (.reg 31))),
    (0x1300AFCCF8000000, .mul (g .i32 0x0 (.op .left 126) (.reg 31))),
    (0x1400AFCCF8000000, .mulh (g .i32 0x0 (.op .left 126) (.reg 31))),
    (0x1500AFCCF8000000, .mulhn (g .i32 0x0 (.op .left 126) (.reg 31))),
    (0x1600AFCCF8000000, .div (g .i32 0x0 (.op .left 126) (.reg 31))),
    (0x1700AFCCF8000000, .divn (g .i32 0x0 (.op .left 126) (.reg 31))),
    (0x1800AFCCF8000000, .rem (g .i32 0x0 (.op .left 126) (.reg 31))),
    (0x1900AFCCF8000000, .remn (g .i32 0x0 (.op .left 126) (.reg 31))),
    (0x1A00AFCCF8000000, .adds (g .i32 0x0 (.op .left 126) (.reg 31))),
    (0x1B00AFCCF8000000, .subs (g .i32 0x0 (.op .left 126) (.reg 31))),
    (0x1C00AFCCF8000000, .min (g .i32 0x0 (.op .left 126) (.reg 31))),
    (0x1D00AFCCF8000000, .max (g .i32 0x0 (.op .left 126) (.reg 31))),
    (0x1E00AFCCF8000000, .minn (g .i32 0x0 (.op .left 126) (.reg 31))),
    (0x1F00AFCCF8000000, .maxn (g .i32 0x0 (.op .left 126) (.reg 31)))].all (fun p : Word × Instr => reads p.1 p.2 && encode p.2 == some p.1) = true := by decide

theorem test_words_logic : [
    (0x2000AFCCF8000000, .and (g .i32 0x0 (.op .left 126) (.reg 31))),
    (0x2100AFCCF8000000, .or (g .i32 0x0 (.op .left 126) (.reg 31))),
    (0x2200AFCCF8000000, .xor (g .i32 0x0 (.op .left 126) (.reg 31))),
    (0x2300AFCCF8000000, .andn (g .i32 0x0 (.op .left 126) (.reg 31))),
    (0x2400AFCCFFFFFFFE, .andi (g .i32 0x7fffffe (.op .left 126) (.reg 31))),
    (0x2500AFCCFFFFFFFE, .ori (g .i32 0x7fffffe (.op .left 126) (.reg 31))),
    (0x2600AFCCFFFFFFFE, .xori (g .i32 0x7fffffe (.op .left 126) (.reg 31))),
    (0x2700AFCCF8000000, .shl (g .i32 0x0 (.op .left 126) (.reg 31))),
    (0x2800AFCCF8000000, .shr (g .i32 0x0 (.op .left 126) (.reg 31))),
    (0x2900AFCCF8000000, .sha (g .i32 0x0 (.op .left 126) (.reg 31))),
    (0x2A00AFCCF8000000, .rol (g .i32 0x0 (.op .left 126) (.reg 31))),
    (0x2B002FCCF800003F, .shli (g .x64 0x3f (.op .left 126) (.reg 31))),
    (0x2C002FCCF800003F, .shri (g .x64 0x3f (.op .left 126) (.reg 31))),
    (0x2D002FCCF800003F, .shai (g .x64 0x3f (.op .left 126) (.reg 31))),
    (0x2E00AFCCF8000000, .clz (g .i32 0x0 (.op .left 126) (.reg 31))),
    (0x2F00AFCCF8000000, .popc (g .i32 0x0 (.op .left 126) (.reg 31)))].all (fun p : Word × Instr => reads p.1 p.2 && encode p.2 == some p.1) = true := by decide

theorem test_words_compare : [
    (0x3000AFCCF8000000, .teq (g .i32 0x0 (.op .left 126) (.reg 31))),
    (0x3100AFCCF8000000, .tne (g .i32 0x0 (.op .left 126) (.reg 31))),
    (0x3200AFCCF8000000, .tlt (g .i32 0x0 (.op .left 126) (.reg 31))),
    (0x3300AFCCF8000000, .tle (g .i32 0x0 (.op .left 126) (.reg 31))),
    (0x3400AFCCF8000000, .tltn (g .i32 0x0 (.op .left 126) (.reg 31))),
    (0x3500AFCCF8000000, .tlen (g .i32 0x0 (.op .left 126) (.reg 31))),
    (0x3600AFCCFFFFFFFE, .teqi (g .i32 0x7fffffe (.op .left 126) (.reg 31))),
    (0x3700AFCCFFFFFFFE, .tlti (g .i32 0x7fffffe (.op .left 126) (.reg 31))),
    (0x3800AFCCFFFFFFFE, .tlei (g .i32 0x7fffffe (.op .left 126) (.reg 31))),
    (0x3903AFCCF8000000, .pand (g .prd 0x0 (.op .left 126) (.reg 31))),
    (0x3A03AFCCF8000000, .por (g .prd 0x0 (.op .left 126) (.reg 31))),
    (0x3B03AFCCF8000000, .pxor (g .prd 0x0 (.op .left 126) (.reg 31))),
    (0x3C03AFCCF8000000, .pnot (g .prd 0x0 (.op .left 126) (.reg 31))),
    (0x3D00AFCCF8000000, .abs (g .i32 0x0 (.op .left 126) (.reg 31))),
    (0x3E00AFCCF8000000, .neg (g .i32 0x0 (.op .left 126) (.reg 31)))].all (fun p : Word × Instr => reads p.1 p.2 && encode p.2 == some p.1) = true := by decide

theorem test_words_float : [
    (0x40612FCCF8000000, .fadd { h := { ac := false, mod := 6, pred := .always, ty := .f64 }, t0 := (.op .left 126), t1 := (.reg 31), imm := 0x0 }),
    (0x41612FCCF8000000, .fsub { h := { ac := false, mod := 6, pred := .always, ty := .f64 }, t0 := (.op .left 126), t1 := (.reg 31), imm := 0x0 }),
    (0x42612FCCF8000000, .fmul { h := { ac := false, mod := 6, pred := .always, ty := .f64 }, t0 := (.op .left 126), t1 := (.reg 31), imm := 0x0 }),
    (0x4321AFCCF8000000, .ffma { h := { ac := false, mod := 2, pred := .always, ty := .f32 }, t0 := (.op .left 126), t1 := (.reg 31), imm := 0x0 }),
    (0x4421AFCCF8000000, .ffms { h := { ac := false, mod := 2, pred := .always, ty := .f32 }, t0 := (.op .left 126), t1 := (.reg 31), imm := 0x0 }),
    (0x45612FCCF8000000, .fdiv { h := { ac := false, mod := 6, pred := .always, ty := .f64 }, t0 := (.op .left 126), t1 := (.reg 31), imm := 0x0 }),
    (0x46612FCCF8000000, .fsqrt { h := { ac := false, mod := 6, pred := .always, ty := .f64 }, t0 := (.op .left 126), t1 := (.reg 31), imm := 0x0 }),
    (0x47612FCCF8000000, .frsq { h := { ac := false, mod := 6, pred := .always, ty := .f64 }, t0 := (.op .left 126), t1 := (.reg 31), imm := 0x0 }),
    (0x4811AFCCF8000000, .fmin { h := { ac := false, mod := 1, pred := .always, ty := .f32 }, t0 := (.op .left 126), t1 := (.reg 31), imm := 0x0 }),
    (0x4911AFCCF8000000, .fmax { h := { ac := false, mod := 1, pred := .always, ty := .f32 }, t0 := (.op .left 126), t1 := (.reg 31), imm := 0x0 }),
    (0x4A01AFCCF8000000, .fabs (g .f32 0x0 (.op .left 126) (.reg 31))),
    (0x4B01AFCCF8000000, .fneg (g .f32 0x0 (.op .left 126) (.reg 31))),
    (0x4C01AFCCF8000000, .fcps (g .f32 0x0 (.op .left 126) (.reg 31))),
    (0x4D01AFCCF8000000, .feq (g .f32 0x0 (.op .left 126) (.reg 31))),
    (0x4E01AFCCF8000000, .flt (g .f32 0x0 (.op .left 126) (.reg 31))),
    (0x4F01AFCCF8000000, .fle (g .f32 0x0 (.op .left 126) (.reg 31)))].all (fun p : Word × Instr => reads p.1 p.2 && encode p.2 == some p.1) = true := by decide

theorem test_words_convert : [
    (0x5801AFCCF8000000, .funo (g .f32 0x0 (.op .left 126) (.reg 31))),
    (0x59012FCCF8000021, .fcls (g .f64 0x21 (.op .left 126) (.reg 31))),
    (0x5A41AFCCF8000000, .ex2 { h := { ac := false, mod := 4, pred := .always, ty := .f32 }, t0 := (.op .left 126), t1 := (.reg 31), imm := 0x0 }),
    (0x5B41AFCCF8000000, .lg2 { h := { ac := false, mod := 4, pred := .always, ty := .f32 }, t0 := (.op .left 126), t1 := (.reg 31), imm := 0x0 }),
    (0x5C612FCCF8000000, .frnd { h := { ac := false, mod := 6, pred := .always, ty := .f64 }, t0 := (.op .left 126), t1 := (.reg 31), imm := 0x0 }),
    (0x5D412FCCFFFFFFFF, .fscl { h := { ac := false, mod := 4, pred := .always, ty := .f64 }, t0 := (.op .left 126), t1 := (.reg 31), imm := 0x7ffffff }),
    (0x50212FCCF8000021, .cvtif { h := { ac := false, mod := 2, pred := .always, ty := .f64 }, t0 := (.op .left 126), t1 := (.reg 31), imm := 0x21 }),
    (0x5121AFCCF800000E, .cvtfi { h := { ac := false, mod := 2, pred := .always, ty := .f32 }, t0 := (.op .left 126), t1 := (.reg 31), imm := 0xe }),
    (0x5221AFCCF8000004, .cvtff { h := { ac := false, mod := 2, pred := .always, ty := .f32 }, t0 := (.op .left 126), t1 := (.reg 31), imm := 0x4 }),
    (0x5302AFCCF8000000, .tdec (g .t8 0x0 (.op .left 126) (.reg 31))),
    (0x5401AFCCF8000001, .tenc (g .f32 0x1 (.op .left 126) (.reg 31))),
    (0x5511AFCCF8000000, .bfq { h := { ac := false, mod := 1, pred := .always, ty := .f32 }, t0 := (.op .left 126), t1 := (.reg 31), imm := 0x0 }),
    (0x5601AFCCF8000000, .bfs (g .f32 0x0 (.op .left 126) (.reg 31)))].all (fun p : Word × Instr => reads p.1 p.2 && encode p.2 == some p.1) = true := by decide

theorem test_words_runs : [
    (0x6000AFCCF8000067, .vgen (g .i32 0x67 (.op .left 126) (.reg 31))),
    (0x6101AFCCF8000008, .vspl (g .f32 0x8 (.op .left 126) (.reg 31))),
    (0x6201AFCCF8000005, .vlan (g .f32 0x5 (.op .left 126) (.reg 31))),
    (0x6301AFCCF8000005, .vins (g .f32 0x5 (.op .left 126) (.reg 31))),
    (0x6401AFCCF8000005, .vsld (g .f32 0x5 (.op .left 126) (.reg 31))),
    (0x6501AFCCF8000002, .vcat (g .f32 0x2 (.op .left 126) (.reg 31))),
    (0x6601AFCCF8000000, .vperm (g .f32 0x0 (.op .left 126) (.reg 31))),
    (0x6701AFCCF8000000, .vcmpr (g .f32 0x0 (.op .left 126) (.reg 31))),
    (0x6801AFCCF8000122, .vsel (g .f32 0x122 (.op .left 126) (.reg 31))),
    (0x6921AFCCF8000000, .vsum { h := { ac := false, mod := 2, pred := .always, ty := .f32 }, t0 := (.op .left 126), t1 := (.reg 31), imm := 0x0 }),
    (0x6A11AFCCF8000000, .vmax { h := { ac := false, mod := 1, pred := .always, ty := .f32 }, t0 := (.op .left 126), t1 := (.reg 31), imm := 0x0 }),
    (0x6B11AFCCF8000000, .vmin { h := { ac := false, mod := 1, pred := .always, ty := .f32 }, t0 := (.op .left 126), t1 := (.reg 31), imm := 0x0 }),
    (0x6C21AFCCF8000000, .vdot { h := { ac := false, mod := 2, pred := .always, ty := .f32 }, t0 := (.op .left 126), t1 := (.reg 31), imm := 0x0 }),
    (0x6D112FCCF8000002, .vscan { h := { ac := false, mod := 1, pred := .always, ty := .f64 }, t0 := (.op .left 126), t1 := (.reg 31), imm := 0x2 }),
    (0x6E01AFCCF8000000, .sel24 (g .f32 0x0 (.op .left 126) (.reg 31)))].all (fun p : Word × Instr => reads p.1 p.2 && encode p.2 == some p.1) = true := by decide

theorem test_words_reduce : [
    (0x7021AFCCF8000000, .rstat { h := { ac := false, mod := 2, pred := .always, ty := .f32 }, t0 := (.op .left 126), t1 := (.reg 31), imm := 0x0 }),
    (0x7101AFCCF8000001, .rscl (g .f32 0x1 (.op .left 126) (.reg 31))),
    (0x7800AFCCF8000000, .brev (g .i32 0x0 (.op .left 126) (.reg 31))),
    (0x79002FCCF80013C8, .bfx (g .x64 0x13c8 (.op .left 126) (.reg 31))),
    (0x7A002FCCF80003C8, .bfi (g .x64 0x3c8 (.op .left 126) (.reg 31))),
    (0x7C412FCCF8000020, .zcvt { h := { ac := false, mod := 4, pred := .always, ty := .f64 }, t0 := (.op .left 126), t1 := (.reg 31), acc := 0, mode := 0, xf := false, jf := false, count := 32 })].all (fun p : Word × Instr => reads p.1 p.2 && encode p.2 == some p.1) = true := by decide

theorem test_words_wide : [
    (0x80002FCCFDFD0000, .guard { h := { ac := false, mod := 0, pred := .always, ty := .x64 }, t0 := (.op .left 126), t1 := (.reg 31), acc := 191, mode := 5, xf := false, jf := false, count := 0 }),
    (0x8100AFCCF8020000, .packs { h := { ac := false, mod := 0, pred := .always, ty := .i32 }, t0 := (.op .left 126), t1 := (.reg 31), acc := 0, mode := 2, xf := false, jf := false, count := 0 }),
    (0x8200AFCCF8020000, .packl { h := { ac := false, mod := 0, pred := .always, ty := .i32 }, t0 := (.op .left 126), t1 := (.reg 31), acc := 0, mode := 2, xf := false, jf := false, count := 0 }),
    (0x83002FCCF8880000, .wmul { h := { ac := false, mod := 0, pred := .always, ty := .x64 }, t0 := (.op .left 126), t1 := (.reg 31), acc := 17, mode := 0, xf := false, jf := false, count := 0 }),
    (0x84002FCCF8880000, .wconv { h := { ac := false, mod := 0, pred := .always, ty := .x64 }, t0 := (.op .left 126), t1 := (.reg 31), acc := 17, mode := 0, xf := false, jf := false, count := 0 }),
    (0x85212FCCF8880000, .wmulf { h := { ac := false, mod := 2, pred := .always, ty := .f64 }, t0 := (.op .left 126), t1 := (.reg 31), acc := 17, mode := 0, xf := false, jf := false, count := 0 }),
    (0x86412FCCF888C000, .wmulz { h := { ac := false, mod := 4, pred := .always, ty := .f64 }, t0 := (.op .left 126), t1 := (.reg 31), acc := 17, mode := 0, xf := true, jf := true, count := 0 }),
    (0x87002FCCF8880000, .xtr { h := { ac := false, mod := 0, pred := .always, ty := .x64 }, t0 := (.op .left 126), t1 := (.reg 31), acc := 17, mode := 0, xf := false, jf := false, count := 0 }),
    (0x88202FCCF8880000, .xtrf { h := { ac := false, mod := 2, pred := .always, ty := .x64 }, t0 := (.op .left 126), t1 := (.reg 31), acc := 17, mode := 0, xf := false, jf := false, count := 0 }),
    (0x89002FCCF8880000, .pclr { h := { ac := false, mod := 0, pred := .always, ty := .x64 }, t0 := (.op .left 126), t1 := (.reg 31), acc := 17, mode := 0, xf := false, jf := false, count := 0 }),
    (0x89102FCCF8880000, .pclrFree { h := { ac := false, mod := 1, pred := .always, ty := .x64 }, t0 := (.op .left 126), t1 := (.reg 31), acc := 17, mode := 0, xf := false, jf := false, count := 0 }),
    (0x8A002FCCF8880000, .pstat { h := { ac := false, mod := 0, pred := .always, ty := .x64 }, t0 := (.op .left 126), t1 := (.reg 31), acc := 17, mode := 0, xf := false, jf := false, count := 0 }),
    (0x8B002FCCF8001000, .zalloc { h := { ac := false, mod := 0, pred := .always, ty := .x64 }, t0 := (.op .left 126), t1 := (.reg 31), acc := 0, mode := 0, xf := false, jf := false, count := 4096 }),
    (0x8C00000000001000, .zfree { h := { ac := false, mod := 0, pred := .always, ty := .x64 }, t0 := .none, t1 := .none, acc := 0, mode := 0, xf := false, jf := false, count := 4096 }),
    (0x8D00000000001000, .zclr { h := { ac := false, mod := 0, pred := .always, ty := .x64 }, t0 := .none, t1 := .none, acc := 0, mode := 0, xf := false, jf := false, count := 4096 }),
    (0x8E002FCCF8000010, .zrd { h := { ac := false, mod := 0, pred := .always, ty := .x64 }, t0 := (.op .left 126), t1 := (.reg 31), acc := 0, mode := 0, xf := false, jf := false, count := 16 }),
    (0x8F00000000000010, .zwr { h := { ac := false, mod := 0, pred := .always, ty := .x64 }, t0 := .none, t1 := .none, acc := 0, mode := 0, xf := false, jf := false, count := 16 })].all (fun p : Word × Instr => reads p.1 p.2 && encode p.2 == some p.1) = true := by decide

theorem test_words_ring : [
    (0x9000001FFCABCD00, .tstage { h := { ac := false, mod := 0, pred := .always, ty := .x64 }, t0 := .none, lsid := 31, fam := true, slot := 15, elem := 4, p := 0xabcd00 }),
    (0x91000000000000FF, .tmatch { h := { ac := false, mod := 0, pred := .always, ty := .x64 }, t0 := .none, lsid := 0, fam := false, slot := 0, elem := 0, p := 0xff }),
    (0x920000000000FE02, .tmclr { h := { ac := false, mod := 0, pred := .always, ty := .x64 }, t0 := .none, lsid := 0, fam := false, slot := 0, elem := 0, p := 0xfe02 }),
    (0x9300000078FFA000, .tgo { h := { ac := false, mod := 0, pred := .always, ty := .x64 }, t0 := .none, lsid := 0, fam := false, slot := 15, elem := 0, p := 0xffa000 }),
    (0x9402AFC080000020, .tld { h := { ac := false, mod := 0, pred := .always, ty := .t8 }, t0 := (.op .left 126), lsid := 0, fam := true, slot := 0, elem := 0, p := 0x20 }),
    (0x9500000000000000, .tdone { h := { ac := false, mod := 0, pred := .always, ty := .x64 }, t0 := .none, lsid := 0, fam := false, slot := 0, elem := 0, p := 0x0 }),
    (0x96002FC000000000, .trstat { h := { ac := false, mod := 0, pred := .always, ty := .x64 }, t0 := (.op .left 126), lsid := 0, fam := false, slot := 0, elem := 0, p := 0x0 }),
    (0x9700000000000000, .trecall { h := { ac := false, mod := 0, pred := .always, ty := .x64 }, t0 := .none, lsid := 0, fam := false, slot := 0, elem := 0, p := 0x0 }),
    (0x9800000000C04000, .tpass { h := { ac := false, mod := 0, pred := .always, ty := .x64 }, t0 := .none, lsid := 0, fam := false, slot := 0, elem := 0, p := 0xc04000 })].all (fun p : Word × Instr => reads p.1 p.2 && encode p.2 == some p.1) = true := by decide

theorem test_words_stitched : [
    (0xA0000000000000C4, .snew (g .x64 0xc4 .none .none)),
    (0xA100001D90800001, .splice { h := { ac := false, mod := 0, pred := .always, ty := .x64 }, t0 := .none, lsid := 29, scope := .dev, order := .rel, runlo := 0, scr := false, off := 0x800001 }),
    (0xA2002FDD00800001, .spin { h := { ac := false, mod := 0, pred := .always, ty := .x64 }, t0 := (.op .left 126), lsid := 29, scope := .blk, order := .none, runlo := 0, scr := false, off := 0x800001 }),
    (0xA300001D00000000, .sunpin { h := { ac := false, mod := 0, pred := .always, ty := .x64 }, t0 := .none, lsid := 29, scope := .blk, order := .none, runlo := 0, scr := false, off := 0x0 }),
    (0xA4002FCCF8000000, .sidx (g .x64 0x0 (.op .left 126) (.reg 31))),
    (0xA5002FCCF8000000, .slen (g .x64 0x0 (.op .left 126) (.reg 31))),
    (0xA6002FCCF8000000, .snext (g .x64 0x0 (.op .left 126) (.reg 31))),
    (0xA700000000000000, .sfree (g .x64 0x0 .none .none)),
    (0xA801800000000000, .msend (g .f32 0x0 .none .none)),
    (0xA9002FCCF8000000, .mrecv (g .x64 0x0 (.op .left 126) (.reg 31))),
    (0xAA102FCCF8000000, .mpoll { h := { ac := false, mod := 1, pred := .always, ty := .x64 }, t0 := (.op .left 126), t1 := (.reg 31), imm := 0x0 })].all (fun p : Word × Instr => reads p.1 p.2 && encode p.2 == some p.1) = true := by decide

theorem test_words_memory : [
    (0xB001AFDD68800001, .ld { h := { ac := false, mod := 0, pred := .always, ty := .f32 }, t0 := (.op .left 126), lsid := 29, scope := .ctx, order := .acq, runlo := 0, scr := false, off := 0x800001 }),
    (0xB101801D90800001, .st { h := { ac := false, mod := 0, pred := .always, ty := .f32 }, t0 := .none, lsid := 29, scope := .dev, order := .rel, runlo := 0, scr := false, off := 0x800001 }),
    (0xB271AFDD6C800001, .ldv { h := { ac := false, mod := 7, pred := .always, ty := .f32 }, t0 := (.op .left 126), lsid := 29, scope := .ctx, order := .acq, runlo := 2, scr := false, off := 0x800001 }),
    (0xB301801D90800001, .stv { h := { ac := false, mod := 0, pred := .always, ty := .f32 }, t0 := .none, lsid := 29, scope := .dev, order := .rel, runlo := 0, scr := false, off := 0x800001 }),
    (0xB401AFDD68800001, .ldg { h := { ac := false, mod := 0, pred := .always, ty := .f32 }, t0 := (.op .left 126), lsid := 29, scope := .ctx, order := .acq, runlo := 0, scr := false, off := 0x800001 }),
    (0xB501801D90800001, .stsc { h := { ac := false, mod := 0, pred := .always, ty := .f32 }, t0 := .none, lsid := 29, scope := .dev, order := .rel, runlo := 0, scr := false, off := 0x800001 }),
    (0xB600001D00800001, .pref { h := { ac := false, mod := 0, pred := .always, ty := .x64 }, t0 := .none, lsid := 29, scope := .blk, order := .none, runlo := 0, scr := false, off := 0x800001 }),
    (0xB7802FCCFFFFFFF3, .lea { h := { ac := true, mod := 0, pred := .always, ty := .x64 }, t0 := (.op .left 126), t1 := (.reg 31), imm := 0x7fffff3 })].all (fun p : Word × Instr => reads p.1 p.2 && encode p.2 == some p.1) = true := by decide

theorem test_words_atomic : [
    (0xC0002FDD68800001, .lde { h := { ac := false, mod := 0, pred := .always, ty := .x64 }, t0 := (.op .left 126), lsid := 29, scope := .ctx, order := .acq, runlo := 0, scr := false, off := 0x800001 }),
    (0xC100001D90800001, .stf { h := { ac := false, mod := 0, pred := .always, ty := .x64 }, t0 := .none, lsid := 29, scope := .dev, order := .rel, runlo := 0, scr := false, off := 0x800001 }),
    (0xC200001D00800001, .clrf { h := { ac := false, mod := 0, pred := .always, ty := .x64 }, t0 := .none, lsid := 29, scope := .blk, order := .none, runlo := 0, scr := false, off := 0x800001 }),
    (0xC400AFDD68800001, .aadd { h := { ac := false, mod := 0, pred := .always, ty := .i32 }, t0 := (.op .left 126), lsid := 29, scope := .ctx, order := .acq, runlo := 0, scr := false, off := 0x800001 }),
    (0xC500AFDD00800001, .amin { h := { ac := false, mod := 0, pred := .always, ty := .i32 }, t0 := (.op .left 126), lsid := 29, scope := .blk, order := .none, runlo := 0, scr := false, off := 0x800001 }),
    (0xC600AFDD00800001, .amax { h := { ac := false, mod := 0, pred := .always, ty := .i32 }, t0 := (.op .left 126), lsid := 29, scope := .blk, order := .none, runlo := 0, scr := false, off := 0x800001 }),
    (0xC700AFDD00800001, .aminn { h := { ac := false, mod := 0, pred := .always, ty := .i32 }, t0 := (.op .left 126), lsid := 29, scope := .blk, order := .none, runlo := 0, scr := false, off := 0x800001 }),
    (0xC800AFDD00800001, .amaxn { h := { ac := false, mod := 0, pred := .always, ty := .i32 }, t0 := (.op .left 126), lsid := 29, scope := .blk, order := .none, runlo := 0, scr := false, off := 0x800001 }),
    (0xC900AFDD00800001, .aand { h := { ac := false, mod := 0, pred := .always, ty := .i32 }, t0 := (.op .left 126), lsid := 29, scope := .blk, order := .none, runlo := 0, scr := false, off := 0x800001 }),
    (0xCA00AFDD00800001, .aor { h := { ac := false, mod := 0, pred := .always, ty := .i32 }, t0 := (.op .left 126), lsid := 29, scope := .blk, order := .none, runlo := 0, scr := false, off := 0x800001 }),
    (0xCB00AFDD00800001, .axor { h := { ac := false, mod := 0, pred := .always, ty := .i32 }, t0 := (.op .left 126), lsid := 29, scope := .blk, order := .none, runlo := 0, scr := false, off := 0x800001 }),
    (0xCC00AFDD00800001, .aswp { h := { ac := false, mod := 0, pred := .always, ty := .i32 }, t0 := (.op .left 126), lsid := 29, scope := .blk, order := .none, runlo := 0, scr := false, off := 0x800001 }),
    (0xCD00AFDD68800001, .acas { h := { ac := false, mod := 0, pred := .always, ty := .i32 }, t0 := (.op .left 126), lsid := 29, scope := .ctx, order := .acq, runlo := 0, scr := false, off := 0x800001 }),
    (0xCE01AFDD90800001, .afadd { h := { ac := false, mod := 0, pred := .always, ty := .f32 }, t0 := (.op .left 126), lsid := 29, scope := .dev, order := .rel, runlo := 0, scr := false, off := 0x800001 })].all (fun p : Word × Instr => reads p.1 p.2 && encode p.2 == some p.1) = true := by decide

theorem test_words_copy_bank : [
    (0xD0002FDD90000000, .fence { h := { ac := false, mod := 0, pred := .always, ty := .x64 }, t0 := (.op .left 126), lsid := 29, scope := .dev, order := .rel, runlo := 0, scr := false, off := 0x0 }),
    (0xD1002FDD88000000, .fencea { h := { ac := false, mod := 0, pred := .always, ty := .x64 }, t0 := (.op .left 126), lsid := 29, scope := .dev, order := .acq, runlo := 0, scr := false, off := 0x0 }),
    (0xD4002FDDB8800001, .copy { h := { ac := false, mod := 0, pred := .always, ty := .x64 }, t0 := (.op .left 126), lsid := 29, scope := .sys, order := .ar, runlo := 0, scr := false, off := 0x800001 }),
    (0xD5002FDD00800001, .copyt { h := { ac := false, mod := 0, pred := .always, ty := .x64 }, t0 := (.op .left 126), lsid := 29, scope := .blk, order := .none, runlo := 0, scr := false, off := 0x800001 }),
    (0xD6002FCCF8000000, .waitt (g .x64 0x0 (.op .left 126) (.reg 31))),
    (0xD7002FCCF8000000, .cpst (g .x64 0x0 (.op .left 126) (.reg 31))),
    (0xD800000000000059, .bankm (g .x64 0x59 .none .none)),
    (0xD901800000000009, .fpush (g .f32 0x9 .none .none)),
    (0xDA01AFCCF8000009, .fpop (g .f32 0x9 (.op .left 126) (.reg 31)))].all (fun p : Word × Instr => reads p.1 p.2 && encode p.2 == some p.1) = true := by decide

theorem test_words_barrier_group : [
    (0xE0100000000400FF, .bariCnt { h := { ac := false, mod := 1, pred := .always, ty := .x64 }, t0 := .none, t1 := .none, imm := 0x400ff }),
    (0xE02000000003FFFF, .bariGrp { h := { ac := false, mod := 2, pred := .always, ty := .x64 }, t0 := .none, t1 := .none, imm := 0x3ffff }),
    (0xE0300000000000FF, .bariFree { h := { ac := false, mod := 3, pred := .always, ty := .x64 }, t0 := .none, t1 := .none, imm := 0xff }),
    (0xE1002FCCF80000FF, .bara (g .x64 0xff (.op .left 126) (.reg 31))),
    (0xE2002FCCF80000FF, .barw (g .x64 0xff (.op .left 126) (.reg 31))),
    (0xE3000000000000FF, .baraw (g .x64 0xff .none .none)),
    (0xE4000000000003FF, .join (g .x64 0x3ff .none .none)),
    (0xE5000000000003FF, .leave (g .x64 0x3ff .none .none)),
    (0xE6002FCCF80003FF, .grpq (g .x64 0x3ff (.op .left 126) (.reg 31))),
    (0xE741AFCCF8001000, .comb { h := { ac := false, mod := 4, pred := .always, ty := .f32 }, t0 := (.op .left 126), t1 := (.reg 31), imm := 0x1000 })].all (fun p : Word × Instr => reads p.1 p.2 && encode p.2 == some p.1) = true := by decide

theorem test_words_system : [
    (0xF0002FCCF8000024, .mfs (g .x64 0x24 (.op .left 126) (.reg 31))),
    (0xF100000000000024, .mts (g .x64 0x24 .none .none)),
    (0xF20000000000FFFF, .trap (g .x64 0xffff .none .none)),
    (0xF300000000000000, .tret (g .x64 0x0 .none .none)),
    (0xF40000000000FFF0, .launch (g .x64 0xfff0 .none .none)),
    (0xF50000000000FFF1, .qsusp (g .x64 0xfff1 .none .none)),
    (0xF60000000000FFF1, .qresQ (g .x64 0xfff1 .none .none)),
    (0xF61000000000FFF1, .qresCol { h := { ac := false, mod := 1, pred := .always, ty := .x64 }, t0 := .none, t1 := .none, imm := 0xfff1 }),
    (0xF620000000000001, .qresCtx { h := { ac := false, mod := 2, pred := .always, ty := .x64 }, t0 := .none, t1 := .none, imm := 0x1 }),
    (0xF71000000000FFF1, .drainCol { h := { ac := false, mod := 1, pred := .always, ty := .x64 }, t0 := .none, t1 := .none, imm := 0xfff1 }),
    (0xF720000000000001, .drainCtx { h := { ac := false, mod := 2, pred := .always, ty := .x64 }, t0 := .none, t1 := .none, imm := 0x1 }),
    (0xF800000000000000, .cfgld (g .x64 0x0 .none .none)),
    (0xF810000000000000, .cfgldRt { h := { ac := false, mod := 1, pred := .always, ty := .x64 }, t0 := .none, t1 := .none, imm := 0x0 }),
    (0xF900000000000000, .relat (g .x64 0x0 .none .none)),
    (0xFA0000000000003F, .monArm (g .x64 0x3f .none .none)),
    (0xFA002FC00000127F, .monRead (g .x64 0x127f (.op .left 126) .none)),
    (0xFA000000000000BF, .monClear (g .x64 0xbf .none .none)),
    (0xFA000000000000FF, .monStop (g .x64 0xff .none .none)),
    (0xFB002FCCF8000000, .spawn (g .x64 0x0 (.op .left 126) (.reg 31))),
    (0xFC01800000000ABC, .emit (g .f32 0xabc .none .none)),
    (0xFF00000000000000, .nop (g .x64 0x0 .none .none))].all (fun p : Word × Instr => reads p.1 p.2 && encode p.2 == some p.1) = true := by decide


/-! ### Blocks and ill-formed words -/

/-- The blocks `gcd_step` (R372) and `poly` (chapter 15) as the manual lists them. -/
def gcdStep : List Word :=
  [0xB730800400000000, 0x00000001000003E6, 0x0200A04818000001, 0x0200C04820000002, 0x1800B04828000000, 0x1600A16878000000, 0x0000C06C08000000,
   0x3600A10000000000, 0x0200A0E000000004, 0x3300C10000000000, 0x3A03E2D8B8000000, 0x0200A18000000005, 0x0200C16C28000008, 0x1300C18000000000,
   0x1100B10000000000, 0x0200A20000000009, 0x0200C1EC48000006, 0x1300C20000000000, 0x1100B0C000000000, 0x0200A24000000007, 0x1200A26000000001,
   0x0100B0F038085400, 0x020022A000000003, 0xB100800000000000, 0x0A0C000000000000, 0x0A08100000000004]

def poly : List Word :=
  [0xB710400400000000, 0x0000000100000000, 0x0200202000000001, 0x0100205010040C00, 0x1300406000000000, 0x1000208000000000, 0x120040C000000003,
   0x020020C000000002, 0xB100000000000000, 0x0A00080000000000]

theorem test_blocks_valid : blockCheck 0x10000 gcdStep [] = none ∧ blockCheck 0x10000 poly [] = none := by decide +kernel

/-- The mistakes that chapter 15 lists for `poly`: reason 0x07 at index 6, 0x05 at index 2, 0x03 at index 0 (R214: reason [15:8], index [22:16]). -/
theorem test_poly_mistakes :
    (blockCheck 0 (poly.set 1 0) []).map (fun w => (w.extractLsb' 8 8, w.extractLsb' 16 7)) = some (7, 6) ∧
    (blockCheck 0 (poly.set 4 0x1300407018000000) []).map (fun w => (w.extractLsb' 8 8, w.extractLsb' 16 7)) = some (5, 2) ∧
    (blockCheck 0 (poly.set 2 0x0200203810000001) []).map (fun w => (w.extractLsb' 8 8, w.extractLsb' 16 7)) = some (3, 0) := by decide +kernel

/-- An ill-formed term for each check of the well-formedness of words. -/
theorem test_ill_formed : ([
    .add (g .f32), .add { g .x64 with h := { hd .x64 with mod := 1 } }, .add (g .x64 1), .add (g .x64 0 (.reg 0)), .add (g .x64 0 (.op .left 127)),
    .nop (g .x64 0 (.op .left 1)), .fadd { g .f32 with h := { hd .f32 with mod := 1 } }, .fmin { g .f32 with h := { hd .f32 with mod := 2 } },
    .shli (g .x64 64), .shli (g .i32 32), .bfx (g .i32 (31 * 64 + 1)), .bfi (g .x64 (63 * 64 + 1)), .bfi (g .x64 4096),
    .fan (g .x64 0x1A0 (.op .left 1)), .fan (g .x64 0x80), .putg (g .x64 9), .putg (g .x64 0x180), .null (g .x64 0 .none (.reg 1)),
    .null (g .x64 0 (.op .left 1)), .steer { g .x64 with h := { hd .x64 with pred := .onTrue } }, .sel (g .b16), .sel (g .x64 4), .rdid (g .x64 11),
    .ldi { h := hd .i32, t0 := .none, imm := 0x100000000 }, .ldih { h := hd .x64, t0 := .none, imm := 0x8000000 }, .ldih { h := hd .i32, t0 := .none, imm := 0 },
    .exit { cw 1 with retire := true }, .exit { cw with exitno := 7 }, .exiti (cw 1), .exit { cw with h := hd .i32 },
    .vspl (g .x64 17), .vspl (g .x64 0), .vlan (g .x64 32), .vsld (g .x64 33), .vcat (g .i32 3), .vsel (g .x64 1), .vscan (g .x64 3), .cvtff (g .f32 5),
    .ld { m .x64 with scope := .dev }, .ld { m .x64 with order := .rel, scope := .dev }, .ld { m .x64 with scr := true, order := .acq, scope := .dev },
    .ld { m .x64 with runlo := 1 }, .ld (m .prd), .ldv { m .x64 with h := { hd .x64 with mod := 4 } }, .st { m .x64 with order := .acq, scope := .clu },
    .lde (m .i32), .clrf (m .f64), .aadd (m .f32), .aadd { m .x64 with scope := .dev }, .fence (m .x64), .fencea { m .x64 with order := .acq, scope := .ctx },
    .fence { m .x64 0 8 with order := .acq, scope := .dev }, .copy { m .x64 with scr := true }, .sunpin (m .x64 0 8),
    .guard (xw 192 0), .guard (xw 0 6), .zrd (xw 0 0 0), .zalloc (xw 0 0 4097), .wmulz { xw 0 0 with h := { hd .f64 with mod := 1 } }, .wmul (xw 0 1),
    .tstage (xr 0 .none 0 false 5), .tstage (xr 0x20), .tmatch (xr 0x100), .tmclr (xr 0x0002), .tgo (xr 0), .tgo (xr 0xC000), .tld (xr 33 .none 0 false 0 .i32),
    .tld (xr 1), .tdone (xr 1), .tpass (xr 0x1000), .tpass (xr 0xD000), .snew (g .x64 256), .mpoll { g .x64 with h := { hd .x64 with mod := 2 } },
    .bankm (g .x64 0x30), .bankm (g .x64 0x80), .fpush (g .x64 16), .bariCnt (g .x64), .join (g .x64 1024), .comb (g .f32 3), .comb (g .x64 0x1004),
    .mfs (g .x64 0x7), .trap (g .x64 0x10000), .launch (g .x64 1), .qresCtx { g .x64 16 with h := { hd .x64 with mod := 2 } }, .monRead (g .x64 (19 * 256 + 64)),
    .monArm (g .x64 64), .reset] : List Instr).all (fun i => !i.wf) = true := by decide

/-- Opcodes that R212 leaves unassigned decode to nothing. -/
theorem test_unassigned_opcodes : [0x3F, 0x57, 0x5E, 0x5F, 0x6F, 0x72, 0x7B, 0x7D, 0x99, 0x9F, 0xAB, 0xB8, 0xC3, 0xCF, 0xD2, 0xDB, 0xE8, 0xFD, 0xFE].all
    (fun o => match decode (BitVec.ofNat 64 (o * 2 ^ 56)) with | .ok _ => false | .error _ => true) = true := by decide


/-! ### Results -/

/-- The block entry that the tests fire in: thread 5 of cluster 8 (ring 1, context 1), colour 3. -/
def inst : Inst := { (default : Inst) with ser := 7, blk := 0x10000, n := 1, ctx := 1, ident := 9, colour := 3 }

def thr : Thr := { Thr.reset with st := .active, ctx := 1, ident := 9, colour := 3, serial := 1 }

def ctx1 : Ctx := { Ctx.reset with st := .running, rings := 2 }

/-- The device with that thread live, in cycle 100. -/
def base : State :=
  { State.reset with
    greg := [(8 * 1024 + 5, [(1, 11), (2, 22)])]
    sys := { Sys.reset with now := 100, ctxs := [(0, { Ctx.zero with rings := 0xFFFD }), (1, ctx1)], thrs := [(8 * 1024 + 5, thr)] }
    fly := { Fly.reset with nextSer := 50, insts := [(8 * 1024 + 5, inst)] } }

/-- `base` with a firing of that thread in the latch. -/
def fire (l : Option Token := none) (r : Option Token := none) (p : Option Token := none) : State :=
  { base with fly := { base.fly with cur := { Firing.none with clu := 8, idx := 2, colour := 3, frame := 5, ser := 7, left := l, right := r, pred := p } } }

/-- A scalar token and a run of that thread, index 0. -/
def sc (f : Fmt) (v : Word) : Option Token := some (scalarTok 3 5 0 f v)
def run (f : Fmt) (xs : List Word) : Option Token := some (vecTok 3 5 0 f xs)

/-- The low 64 data bits of the tokens that an outcome puts on the agenda, with the cycle of each. -/
def sends : Host.Outcome State Fault Refusal → List (Nat × Word)
  | .next t => t.fly.agenda.map fun w => (w.due, match w.act with | .ev _ e => e.tok.data.setWidth 64 | .fire _ => 0xDEAD)
  | _ => [(0, 0xBAD)]

/-- The values alone. -/
def vals (o : Host.Outcome State Fault Refusal) : List Word := (sends o).map Prod.snd

/-- What a scalar or run operation to one target yields. -/
def on (i : GWord → Instr) (f : Fmt) (l : Option Token) (r : Option Token := none) (imm : BitVec 27 := 0) : List Word :=
  vals (exec (i (g f imm (.op .left 3))) (fire l r))

/-- The trap that an outcome has raised in the thread, `%tcause` and `%tinfo`. -/
def trapOf : Host.Outcome State Fault Refusal → Option (Word × Word)
  | .next t => (t.fly.inst 8 5).bind fun i => i.trap.map fun q =>
    let u := trapRegs (deliverTrap t 8 5 i q.2) 8 5
    ((u.sys.thr 8 5).tcause, (u.sys.thr 8 5).tinfo)
  | _ => none


/-- The effects that an outcome records for the commit. -/
def effs : Host.Outcome State Fault Refusal → List Eff
  | .next t => ((t.fly.inst 8 5).map fun i => i.effs.map (·.e)).getD []
  | _ => []

/-- What an outcome sends to the port: the operation, released at commit or not, where, and the bytes to write. -/
structure Seen where
  op : AccOp
  released : Bool
  segs : List (Nat × Nat × Nat)
  bytes : List Byte
deriving DecidableEq, Repr

def accs : Host.Outcome State Fault Refusal → List Seen
  | .next t => t.fly.accs.map fun a => ⟨a.2.op, a.2.released, a.2.segs, a.2.wr.map (·.val)⟩
  | _ => []

/-! Integers: the examples of chapter 16, and the edges of R240 and R241. -/

theorem test_add : sends (exec (.add (g .i32 0 (.op .left 3))) (fire (sc .i32 0x7FFFFFFF) (sc .i32 1))) = [(102, 0xFFFFFFFF80000000)] := by decide
theorem test_sub : on .sub .i32 (sc .i32 0) (sc .i32 1) = [0xFFFFFFFFFFFFFFFF] := by decide
theorem test_addi : on .addi .x64 (sc .x64 0) none 0x7FFFFFF = [0xFFFFFFFFFFFFFFFF] := by decide
theorem test_mul : on .mul .i32 (sc .i32 0x10001) (sc .i32 0x10000) = [0x10000] := by decide
theorem test_mulh : on .mulh .i32 (sc .i32 0x80000000) (sc .i32 0x80000000) = [0x40000000] := by decide
theorem test_mulhn : on .mulhn .i32 (sc .i32 0xFFFFFFFF) (sc .i32 2) = [1] ∧ on .mulh .i32 (sc .i32 0xFFFFFFFF) (sc .i32 2) = [0xFFFFFFFFFFFFFFFF] := by decide
theorem test_div : on .div .i32 (sc .i32 0xFFFFFFF9) (sc .i32 2) = [0xFFFFFFFFFFFFFFFD] ∧ on .div .i32 (sc .i32 0x80000000) (sc .i32 0xFFFFFFFF) = [0xFFFFFFFF80000000] ∧
    on .div .i32 (sc .i32 5) (sc .i32 0) = [0xFFFFFFFFFFFFFFFF] := by decide
theorem test_rem : on .rem .i32 (sc .i32 0xFFFFFFF9) (sc .i32 2) = [0xFFFFFFFFFFFFFFFF] ∧ on .rem .i32 (sc .i32 7) (sc .i32 0xFFFFFFFE) = [1] ∧
    on .rem .i32 (sc .i32 0x80000000) (sc .i32 0xFFFFFFFF) = [0] ∧ on .rem .i32 (sc .i32 5) (sc .i32 0) = [5] := by decide
theorem test_divn : on .divn .i32 (sc .i32 0xFFFFFFF9) (sc .i32 2) = [0x7FFFFFFC] ∧ on .divn .x64 (sc .x64 5) (sc .x64 0) = [0xFFFFFFFFFFFFFFFF] := by decide
theorem test_remn : on .remn .i32 (sc .i32 0xFFFFFFF9) (sc .i32 10) = [9] ∧ on .remn .x64 (sc .x64 5) (sc .x64 0) = [5] := by decide
theorem test_adds : on .adds .i32 (sc .i32 0x7FFFFFFF) (sc .i32 1) = [0x7FFFFFFF] := by decide
theorem test_subs : on .subs .x64 (sc .x64 0x8000000000000000) (sc .x64 1) = [0x8000000000000000] := by decide
theorem test_min_max : on .min .i32 (sc .i32 0xFFFFFFFF) (sc .i32 1) = [0xFFFFFFFFFFFFFFFF] ∧ on .max .i32 (sc .i32 0xFFFFFFFF) (sc .i32 1) = [1] ∧
    on .minn .i32 (sc .i32 0xFFFFFFFF) (sc .i32 1) = [1] ∧ on .maxn .i32 (sc .i32 0xFFFFFFFF) (sc .i32 1) = [0xFFFFFFFFFFFFFFFF] := by decide
theorem test_abs_neg : on .abs .i32 (sc .i32 0x80000000) = [0xFFFFFFFF80000000] ∧ on .neg .i32 (sc .i32 5) = [0xFFFFFFFFFFFFFFFB] := by decide
theorem test_logic : on .and .x64 (sc .x64 12) (sc .x64 10) = [8] ∧ on .or .x64 (sc .x64 12) (sc .x64 10) = [14] ∧
    on .xor .x64 (sc .x64 12) (sc .x64 10) = [6] ∧ on .andn .x64 (sc .x64 12) (sc .x64 10) = [4] := by decide
theorem test_logic_imm : on .andi .x64 (sc .x64 0x12345678) none 0xFFFF = [0x5678] ∧ on .ori .x64 (sc .x64 1) none 0x7FFFFFE = [0xFFFFFFFFFFFFFFFF] ∧
    on .xori .i32 (sc .i32 1) none 3 = [2] := by decide
theorem test_shifts : on .shl .i32 (sc .i32 3) (sc .i32 33) = [6] ∧ on .shr .i32 (sc .i32 0xFFFFFFF0) (sc .i32 2) = [0x3FFFFFFC] ∧
    on .sha .i32 (sc .i32 0xFFFFFFF0) (sc .i32 2) = [0xFFFFFFFFFFFFFFFC] ∧ on .rol .x64 (sc .x64 0xF000000000000001) (sc .x64 68) = [0x1F] := by decide
theorem test_shifts_imm : on .shli .i32 (sc .i32 1) none 31 = [0xFFFFFFFF80000000] ∧ on .shri .x64 (sc .x64 0x8000000000000000) none 63 = [1] ∧
    on .shai .x64 (sc .x64 0x8000000000000000) none 63 = [0xFFFFFFFFFFFFFFFF] := by decide
theorem test_counts : on .clz .i32 (sc .i32 0) = [32] ∧ on .clz .x64 (sc .x64 1) = [63] ∧ on .popc .i32 (sc .i32 0xFFFFFFFF) = [32] ∧
    on .brev .i32 (sc .i32 1) = [0xFFFFFFFF80000000] := by decide +kernel
theorem test_bfx : on .bfx .x64 (sc .x64 0xF80) none (4096 + 7 * 64 + 4) = [0xFFFFFFFFFFFFFFF8] ∧ on .bfx .x64 (sc .x64 0xF80) none (7 * 64 + 4) = [248] := by decide
theorem test_bfi : on .bfi .i32 (sc .i32 0x12345678) (sc .i32 0xFFFFFFFA) (3 * 64 + 8) = [0x12345A78] := by decide +kernel
theorem test_compares : on .tlt .i32 (sc .i32 0xFFFFFFFF) (sc .i32 1) = [1] ∧ on .tltn .i32 (sc .i32 0xFFFFFFFF) (sc .i32 1) = [0] ∧
    on .tle .x64 (sc .x64 1) (sc .x64 1) = [1] ∧ on .tlen .x64 (sc .x64 2) (sc .x64 1) = [0] ∧ on .teq .x64 (sc .x64 1) (sc .x64 1) = [1] ∧
    on .tne .x64 (sc .x64 1) (sc .x64 1) = [0] := by decide
theorem test_compares_imm : on .teqi .i32 (sc .i32 0xFFFFFFFF) none 0x7FFFFFF = [1] ∧ on .tlti .x64 (sc .x64 0) none 0x7FFFFFF = [0] ∧
    on .tlei .x64 (sc .x64 0xFFFFFFFFFFFFFFFF) none 0x7FFFFFF = [1] := by decide
theorem test_predicates : on .pand .prd (sc .prd 1) (sc .prd 0) = [0] ∧ on .por .prd (sc .prd 1) (sc .prd 0) = [1] ∧ on .pxor .prd (sc .prd 1) (sc .prd 1) = [0] ∧
    on .pnot .prd (sc .prd 1) = [0] := by decide
theorem test_lea : on .lea .x64 (sc .x64 0xFFFFFFFFFFFF8) (sc .x64 2) (16 * 16 + 3) = [0x18] := by decide

/-! Moves, carried registers, exits. -/

theorem test_mov_fan : on .mov .f32 (sc .f32 0x7F800001) = [0x7F800001] ∧ on .merge .f32 (sc .f32 0x7F800001) = [0x7F800001] ∧
    vals (exec (.fan (g .x64 (0x203 * 1024 + 0x104) (.op .left 3))) (fire (sc .x64 9))) = [9, 9, 9] := by decide
theorem test_getg : on .getg .x64 none none 2 = [22] ∧ on .getg .x64 none none 0 = [0] := by decide
theorem test_putg : sends (exec (.putg (g .x64 (0x180 + 2) (.op .left 3))) (fire (sc .x64 5))) = [(102, 22), (102, 5)] := by decide
theorem test_ldi : vals (exec (.ldi { h := hd .x64, t0 := .op .left 3, imm := 0x1FFFFFFFFF }) (fire)) = [0xFFFFFFFFFFFFFFFF] := by decide
theorem test_ldih : vals (exec (.ldih { h := hd .f64, t0 := .op .left 3, imm := 0x1FF8000 }) (fire (sc .x64 0))) = [0x3FF0000000000000] := by decide
theorem test_sel : on .sel .f32 (sc .f32 0xC0600000) (sc .f32 0) 1 = [0] ∧ on .sel .f32 (sc .f32 0x80000000) (sc .f32 5) 2 = [0x80000000] ∧
    on .sel .f32 (sc .f32 0x80000000) (sc .f32 5) 0 = [5] ∧ on .sel .f32 (sc .f32 0x7FC00000) (sc .f32 5) 3 = [5] := by decide
theorem test_steer : sends (exec (.steer (g .x64 0 (.op .left 3) (.op .left 5))) (fire (sc .x64 9) none (sc .prd 0))) = [(104, 9)] := by decide
theorem test_predicated : sends (exec (.add { g .x64 0 (.op .left 3) with h := { hd .x64 with pred := .onFalse } }) (fire (sc .x64 9) (sc .x64 1) (sc .prd 1))) = [] := by decide
theorem test_format : trapOf (exec (.add (g .x64)) (fire (sc .i32 9) (sc .x64 1))) = some (0x26, 1 + 0 * 8 + 2 * 64) := by decide +kernel
theorem test_rdid : on .rdid .x64 none none 3 = [8] ∧ on .rdid .x64 none none 4 = [1] ∧ on .rdid .x64 none none 1 = [5] ∧ on .rdid .x64 none none 0 = [3] := by decide
theorem test_ret_empty : trapOf (exec (.ret (g .x64)) (fire)) = some (1, 4) := by decide
theorem test_tdone_outside : trapOf (exec (.tdone (xr 0)) (fire)) = some (1, 0x35) := by decide
theorem test_spawn : on .spawn .x64 (sc .x64 0x20000) (sc .x64 4) = [0] ∧
    effs (exec (.spawn (g .x64)) (fire (sc .x64 0x20000) (sc .x64 4))) = [.spawn 0 0x20000 4 0] := by decide +kernel
theorem test_emit_unheld : trapOf (exec (.emit (g .x64 7)) (fire (sc .x64 1))) = some (1, 6) := by decide

/-! Floating point: IEEE 754 values worked out by hand, and the examples of chapters 3 and 17. -/

theorem test_fadd : on .fadd .f32 (sc .f32 0x3F800000) (sc .f32 0x40000000) = [0x40400000] ∧ on .fsub .f64 (sc .f64 0x3FF0000000000000) (sc .f64 0x3FF0000000000000) = [0] := by decide +kernel
theorem test_fmul : on .fmul .f32 (sc .f32 0x7F7FFFFF) (sc .f32 0x40000000) = [0x7F800000] ∧ on .fmul .f32 (sc .f32 0x7F800000) (sc .f32 0) = [0x7FC00000] := by decide +kernel
theorem test_ffma : on .ffma .f32 (sc .f32 0x40000000) (sc .x64 0x3F80000040400000) = [0x40E00000] ∧ on .ffms .f32 (sc .f32 0x40000000) (sc .x64 0x3F80000040400000) = [0x40A00000] := by decide
theorem test_fdiv : on .fdiv .f32 (sc .f32 0x3F800000) (sc .f32 0x40400000) = [0x3EAAAAAB] ∧ on .fdiv .f32 (sc .f32 0x3F800000) (sc .f32 0x80000000) = [0xFF800000] := by decide +kernel
theorem test_fsqrt : on .fsqrt .f32 (sc .f32 0x40800000) = [0x40000000] ∧ on .frsq .f32 (sc .f32 0x40800000) = [0x3F000000] ∧ on .fsqrt .f32 (sc .f32 0xBF800000) = [0x7FC00000] := by decide +kernel
theorem test_frnd : on .frnd .f32 (sc .f32 0x40200000) = [0x40000000] ∧ on .fscl .f32 (sc .f32 0x3F800000) none 3 = [0x41000000] := by decide
theorem test_fmin : on .fmin .f32 (sc .f32 0x80000000) (sc .f32 0) = [0x80000000] ∧ on .fmax .f32 (sc .f32 0x7FC00001) (sc .f32 1) = [0x7FC00000] := by decide
theorem test_fsigns : on .fabs .f32 (sc .f32 0xBF800000) = [0x3F800000] ∧ on .fneg .f64 (sc .f64 0) = [0x8000000000000000] ∧ on .fcps .f32 (sc .f32 0x3F800000) (sc .f32 0x80000000) = [0xBF800000] := by decide
theorem test_fcompare : on .feq .f32 (sc .f32 0) (sc .f32 0x80000000) = [1] ∧ on .flt .f32 (sc .f32 0xBF800000) (sc .f32 0x3F800000) = [1] ∧
    on .fle .f32 (sc .f32 0x7FC00000) (sc .f32 0x7FC00000) = [0] ∧ on .funo .f32 (sc .f32 0x7FC00000) (sc .f32 0) = [1] := by decide
theorem test_fcls : on .fcls .f32 (sc .f32 0x7FC00000) none 0x100 = [1] ∧ on .fcls .f32 (sc .f32 0x80000001) none 0x66 = [1] ∧ on .fcls .f32 (sc .f32 0x80000000) none 0x66 = [0] := by decide
theorem test_cvtif : on .cvtif .f32 (sc .i32 0xFFFFFFFF) = [0xBF800000] ∧ on .cvtif .f64 (sc .x64 0xFFFFFFFFFFFFFFFF) none 2 = [0x43F0000000000000] := by decide +kernel
theorem test_cvtfi : on .cvtfi .f32 (sc .f32 0x3FA66666) none (8 * 4) = [333] ∧ on .cvtfi .f32 (sc .f32 0x7F800000) = [0x7FFFFFFF] := by decide
theorem test_cvtff : on .cvtff .f64 (sc .f64 0x3FF8000000000000) none 4 = [0x3FC0] := by decide
theorem test_tenc : on .tenc .f32 (sc .f32 0x453B8000) = [0x7F] ∧ on .tenc .f32 (sc .f32 0x3A83126F) = [2] ∧ on .tenc .f32 (sc .f32 0x358637BD) = [1] := by decide
theorem test_tdec : on .tdec .t8 (sc .t8 0x7E) = [0x44800000] ∧ on .tdec .t8 (sc .t8 0x80) = [0x7FC00000] := by decide
theorem test_ex2_exact : on .ex2 .f32 (sc .f32 0x40400000) = [0x41000000] ∧ on .lg2 .f32 (sc .f32 0x41000000) = [0x40400000] := by decide +kernel


/-! Runs: the examples of chapters 3 and 17, and small runs by hand. -/

theorem test_bfs_bfq : on .bfs .f32 (run .f32 [0x40400000, 0xBF340000, 0x3E980000, 0x3FF20000]) = [0x80] ∧
    on .bfq .f32 (run .f32 [0x40400000, 0xBF340000, 0x3E980000, 0x3FF20000]) (sc .i32 0x80) = [0xFFFFFFE900000060] := by decide +kernel
theorem test_vgen : on .vgen .i32 none none (3 * 32 + 1) = [11] := by decide +kernel
theorem test_vspl : on .vspl .i32 (sc .i32 7) none 3 = [0x0000000700000007] := by decide +kernel
theorem test_vlan : on .vlan .i32 (run .i32 [7, 8]) none 1 = [8] ∧ trapOf (exec (.vlan (g .i32 2)) (fire (run .i32 [7, 8]))) = some (1, 0x80) := by decide +kernel
theorem test_vins : on .vins .i32 (run .i32 [7, 8]) (sc .i32 9) 1 = [0x0000000900000007] := by decide +kernel
theorem test_vsld : on .vsld .i32 (run .i32 [7, 8]) (run .i32 [9, 10]) 1 = [0x0000000900000008] := by decide +kernel
theorem test_vcat : on .vcat .i32 (run .i32 [7]) (run .i32 [9]) 0 = [0x0000000900000007] ∧ on .vcat .i32 (run .x64 [0x900000007]) none 2 = [9] := by decide +kernel
theorem test_vperm : on .vperm .i32 (run .i32 [7, 8]) (run .i32 [1, 5]) = [8] := by decide +kernel
theorem test_vcmpr : vals (exec (.vcmpr (g .i32 0 (.op .left 3) (.op .left 3))) (fire (run .i32 [7, 8]) (run .prd [0, 1]))) = [8, 1] := by decide +kernel
theorem test_vsel : on .vsel .i32 (run .i32 [7, 8]) (run .i32 [9, 10]) (1 * 32 + 1) = [0x0000000A00000007] := by decide +kernel
theorem test_vsum : on .vsum .i32 (run .i32 [7, 8]) = [15] ∧ on .vsum .f32 (run .f32 [0x4B800000, 0x3F800000, 0xCB800000]) = [0x3F800000] := by decide +kernel
theorem test_vmax_vmin : on .vmax .i32 (run .i32 [7, 0xFFFFFFFF]) = [7] ∧ on .vmin .i32 (run .i32 [7, 0xFFFFFFFF]) = [0xFFFFFFFFFFFFFFFF] := by decide +kernel
theorem test_vdot : on .vdot .i32 (run .i32 [7, 8]) (run .i32 [2, 3]) = [38] := by decide +kernel
theorem test_vscan : on .vscan .i32 (run .i32 [7, 8]) none 0 = [0x0000000F00000007] := by decide +kernel
theorem test_sel24 : (sends (exec (.sel24 (g .f32 0 (.op .left 3) (.op .left 3)))
      (fire (some (vecTok 3 5 8 .f32 [0x3F000000, 0xC0400000, 0x7FC00001, 0x80000000]))))).map Prod.snd = [0x7FC00001C0400000, 9] := by decide +kernel
theorem test_rscl : on .rscl .f32 (run .f32 [0xFF800000]) (sc .x64 0) 0 = [0] ∧ on .rscl .f32 (sc .f32 0x40000000) (sc .x64 0x4040000000000000) 1 = [0x40C00000] ∧
    on .rscl .f32 (sc .f32 0x40C00000) (sc .x64 0x4040000000000000) 2 = [0x40000000] := by decide +kernel

/-! The multiplier bank: the extraction example of chapter 3. -/

/-- Accumulator 5 of the cluster holds `v` and lanes 0 to 15 are the colour's. -/
def wide (v : PAcc) (l r : Option Token := none) : State :=
  { fire l r with sys := { base.sys with paccs := [(8 * 192 + 5, v)], lanes := (List.range 16).map fun k => (8 * 4096 + k, { alloc := true, colour := 3, val := 5 }) } }

def pacc (mode : BitVec 3) (value : BitVec 1088) (count : BitVec 34) : PAcc := { bound := true, colour := 3, mode := mode, value := value, count := count }

/-- The open copy of accumulator 5 after an outcome. -/
def openOf : Host.Outcome State Fault Refusal → Option PAcc
  | .next t => (t.fly.inst 8 5).bind fun i => tabFind i.opens 5
  | _ => none

theorem test_guard : openOf (exec (.guard (xw 5 1)) (wide PAcc.reset)) = some (pacc 1 0 0) := by decide +kernel
theorem test_packs : vals (exec (.packs { xw 0 1 0 (.op .left 3) with h := hd .i32 }) (fire (run .i32 [3, 0xFFFFFFFE]))) = [0xFFFFFFFE00000003] ∧
    trapOf (exec (.packs { xw 0 1 with h := hd .i32 }) (fire (run .i32 [3, 2, 1]))) = some (1, 0x92) := by decide +kernel
theorem test_packl : vals (exec (.packl { xw 0 1 0 (.op .left 3) with h := hd .i32 })
    (fire (run .i32 ([5, 0xFFFFFFFC] ++ List.replicate 14 0 ++ [7, 6] ++ List.replicate 14 0)))) = [0x0000000500000007] := by decide +kernel
theorem test_wmul : openOf (exec (.wmul (xw 5 0)) (wide (pacc 1 0 0) (sc .x64 0xFFFFFFFE00000003) (run .x64 [0x0000000500000007, 0xFFFFFFFC00000006, 0xFFFFFFFFFFFFFFFF]))) =
    some (pacc 1 ((0xFFFFFFFE00000003 : BitVec 64).signExtend 1088 * 0xFFFFFFFFFFFFFFFFFFFFFFFC000000060000000500000007) 1) := by decide +kernel
theorem test_xtr : effs (exec (.xtr (xw 5 0)) (wide (pacc 1 0x00000007FFFFFFE8000000080000000100000015 1) (sc .x64 0))) =
    [.lane 0 (.add 1), .lane 1 (.add (-24))] ++ (List.range 14).map (fun j => .lane (j + 2) (.add 0)) := by decide +kernel
theorem test_pclr : openOf (exec (.pclr (xw 5 0)) (wide (pacc 1 9 1))) = some (pacc 1 0 0) ∧ openOf (exec (.pclrFree (xw 5 0)) (wide (pacc 1 9 1))) = some PAcc.reset ∧
    trapOf (exec (.pclr (xw 5 0)) (wide PAcc.reset)) = some (9, 0x9A + 5 * 256) := by decide +kernel
theorem test_pstat : vals (exec (.pstat (xw 5 0 0 (.op .left 3))) (wide (pacc 1 9 2))) = [0x0039000000000002] := by decide +kernel
theorem test_wmul_budget : trapOf (exec (.wmul (xw 5 0)) (wide (pacc 1 0 (BitVec.ofNat 34 (budget 1))) (sc .x64 1) (run .x64 [1]))) =
    some (9, BitVec.ofNat 64 (0x98 + 5 * 256 + 65536 * (budget 1))) := by decide +kernel
theorem test_wmulf : openOf (exec (.wmulf { xw 5 0 with h := hd .f64 }) (wide (pacc 4 0x3FF0000000000000 0) (sc .f64 0x4000000000000000) (run .f64 [0x4008000000000000]))) =
    some (pacc 4 0x401C000000000000 1) := by decide +kernel
theorem test_zalloc : vals (exec (.zalloc (xw 0 0 4 (.op .left 3))) (wide PAcc.reset)) = [16] := by decide +kernel
theorem test_zrd : vals (exec (.zrd (xw 0 0 2 (.op .left 3))) (wide PAcc.reset (sc .x64 3))) = [5] := by decide +kernel
theorem test_zwr : effs (exec (.zwr (xw 0 0 2)) (wide PAcc.reset (sc .x64 3) (run .x64 [8, 9]))) = [.lane 3 (.put 8), .lane 4 (.put 9)] := by decide +kernel
theorem test_zcvt : effs (exec (.zcvt { xw 0 0 1 with h := hd .f64 }) (wide PAcc.reset (sc .x64 3) (sc .i32 1))) = [.lane 3 (.put 0x4024000000000000)] := by decide +kernel
theorem test_zrd_free : trapOf (exec (.zrd (xw 0 0 2)) (wide PAcc.reset (sc .x64 15))) = some (1, 0x91) := by decide +kernel

/-! Memory instructions at fire. -/

theorem test_ld : accs (exec (.ld (m .i32 0 0xFFFFFC)) (fire (sc .x64 0x1000))) = [⟨.ld, false, [(0xFFC, 4, 0)], []⟩] := by decide
theorem test_st : accs (exec (.st (m .i32)) (fire (sc .x64 0x1000) (sc .i32 0x80000001))) = [⟨.st, true, [(0x1000, 4, 0)], [1, 0, 0, 0x80]⟩] := by decide
theorem test_st_narrow : accs (exec (.st (m .i32)) (fire (sc .x64 (0x1000 + 2 * 2 ^ 52)) (sc .i32 0x80000001))) = [⟨.st, true, [(0x1000, 1, 2)], [0x80]⟩] := by decide +kernel
theorem test_ldv : accs (exec (.ldv { m .x64 with runlo := 1 }) (fire (sc .x64 0x1000))) = [⟨.ld, false, [(0x1000, 16, 0)], []⟩] := by decide
theorem test_stv : accs (exec (.stv (m .i32)) (fire (sc .x64 0x1000) (run .i32 [1, 2]))) = [⟨.st, true, [(0x1000, 8, 0)], [1, 0, 0, 0, 2, 0, 0, 0]⟩] := by decide +kernel
theorem test_ldg : accs (exec (.ldg (m .i32)) (fire (run .x64 [0x1000, 0x2000]))) = [⟨.ld, false, [(0x1000, 4, 0), (0x2000, 4, 0)], []⟩] := by decide +kernel
theorem test_stsc : accs (exec (.stsc (m .t8)) (fire (run .x64 [0x1000, 0x2000]) (run .t8 [7, 8]))) = [⟨.st, true, [(0x1000, 1, 0), (0x2000, 1, 0)], [7, 8]⟩] := by decide +kernel
theorem test_lde_misaligned : trapOf (exec (.lde (m .x64)) (fire (sc .x64 0x1004))) = some (2, 0xB2) := by decide
theorem test_clrf : accs (exec (.clrf (m .x64)) (fire (sc .x64 0x1008))) = [⟨.clrf, true, [(0x1008, 8, 0)], []⟩] := by decide
theorem test_aadd : accs (exec (.aadd (m .i32)) (fire (sc .x64 0x1004) (sc .i32 1))) = [⟨.atom .add, false, [(0x1004, 4, 0)], []⟩] ∧
    trapOf (exec (.aadd (m .x64)) (fire (sc .x64 0x1004) (sc .x64 1))) = some (2, 0xB1) := by decide
theorem test_atomic_values : atomNew .min .i32 4 0xFFFFFFFF 1 = 0xFFFFFFFF ∧ atomNew .minn .i32 4 0xFFFFFFFF 1 = 1 ∧ atomNew .add .i32 4 0xFFFFFFFF 2 % 2 ^ 32 = 1 := by decide
theorem test_ld_reserved : trapOf (exec (.ld (m .x64)) (fire (sc .x64 (1 * 2 ^ 52)))) = some (1, 0xB0) := by decide
theorem test_copy_misaligned : trapOf (exec (.copy (m .x64)) (fire (sc .x64 0x1020))) = some (2, 0xB3) := by decide
theorem test_fence : accs (exec (.fence { m .x64 with order := .ar, scope := .dev }) (fire)) = [⟨.fence, false, [], []⟩] := by decide

/-! Barriers, groups, messages, banks, system. -/

def bars (v : Bar) (l : Option Token := none) : State := { fire l with sys := { base.sys with bars := [(8 * 256 + 4, v)] } }

theorem test_bara : sends (exec (.bara (g .x64 4 (.op .left 3))) (bars { Bar.reset with mode := .count, colour := 3, seq := 9, expect := 2 })) = [(102, 9)] := by decide
theorem test_bara_free : trapOf (exec (.bara (g .x64 4)) (fire)) = some (13, 0x23) := by decide
theorem test_bari_count : trapOf (exec (.bariCnt (g .x64 (1025 * 256 + 4))) (fire)) = some (13, 0x22) ∧
    effs (exec (.bariCnt (g .x64 (1024 * 256 + 4))) (fire)) = [.bariCnt 4 1024] := by decide
theorem test_barw : vals (exec (.barw (g .x64 4 (.op .left 3))) (bars { Bar.reset with mode := .count, colour := 3, seq := 9 } (sc .x64 8))) = [8] := by decide
theorem test_bar_owner : (trapOf (exec (.bara (g .x64 4)) (bars { Bar.reset with mode := .count, colour := 2 }))).map (·.1) = some 0x28 := by decide +kernel
theorem test_leave : trapOf (exec (.leave (g .x64 9)) (fire)) = some (13, 0x12) ∧ effs (exec (.join (g .x64 9)) (fire)) = [.join 9] := by decide
theorem test_msend : trapOf (exec (.msend (g .x64)) (fire (sc .x64 (2 ^ 17)) (sc .x64 1))) = some (1, 0xA0) ∧
    trapOf (exec (.msend (g .x64)) (fire (sc .x64 (0 * 1024 + 5)) (sc .x64 1))) = some (1, 0xA1) := by decide
theorem test_fpop_scratch : trapOf (exec (.fpop (g .x64 3)) (fire)) = some (1, 0x61) := by decide
theorem test_mfs : vals (exec (.mfs (g .x64 0 (.op .left 3))) (fire)) = [100] ∧ vals (exec (.mfs (g .x64 6 (.op .left 3))) (fire)) = [1] := by decide
theorem test_mfs_priv : trapOf (exec (.mfs (g .x64 0x040)) (fire)) = some (15, 0x040) := by decide
theorem test_mts : effs (exec (.mts (g .x64 0x021)) (fire (sc .x64 77))) = [.mts 0x021 77] := by decide
theorem test_trap : effs (exec (.trap (g .x64 0xFFFF)) (fire)) = [.trap 0xFFFF] ∧ trapOf (exec (.tret (g .x64)) (fire)) = some (1, 0xB6) := by decide
theorem test_qres_priv : trapOf (exec (.qresCtx (g .x64 1)) (fire)) = some (15, 0xFFF) := by decide
theorem test_launch_unheld : trapOf (exec (.launch (g .x64 16)) (fire none)) = some (1, 0xB5) := by decide
theorem test_nop : exec (.nop (g .x64)) (fire (sc .x64 1)) = .next (fire (sc .x64 1)) := by rfl
theorem test_tld_type : trapOf (exec (.tld (xr 1 .none 0 false 0 .f64)) (fire (sc .x64 0))) = some (1, 0x35) := by decide


/-! ### Witnesses

For every obligation with hypotheses, concrete states and operands that meet them, clause by clause. -/

/-- What an element-wise statement asks of a firing: both operands accepted, and its elements' predicates read. -/
def pair (s : State) (h : Head) (mover : Bool) (xs ys : List Word) (m : List Bool) : Prop :=
  operand s.fly.cur h mover s.fly.cur.left = .ok xs ∧ operand s.fly.cur h mover s.fly.cur.right = .ok ys ∧ firedMask s.fly.cur h = .ok m

/-- The same as a computation. -/
def okIs {α : Type} [DecidableEq α] (e : Except TrapRec α) (x : α) : Bool := match e with | .ok y => y == x | .error _ => false

theorem of_okIs {α : Type} [DecidableEq α] {e : Except TrapRec α} {x : α} (h : okIs e x = true) : e = .ok x := by
  cases e <;> simp_all [okIs]

theorem pair_of {s : State} {h : Head} {mover : Bool} {xs ys : List Word} {m : List Bool}
    (w : (okIs (operand s.fly.cur h mover s.fly.cur.left) xs && okIs (operand s.fly.cur h mover s.fly.cur.right) ys && okIs (firedMask s.fly.cur h) m) = true) :
    pair s h mover xs ys m := by
  simp only [Bool.and_eq_true] at w
  exact ⟨of_okIs w.1.1, of_okIs w.1.2, of_okIs w.2⟩

/-- A head with a predicate, and a head with `.ac`. -/
def hp (ty : Fmt) (p : Pred) : Head := { hd ty with pred := p }
def ha (ty : Fmt) : Head := { hd ty with ac := true }

theorem witness_IntegerArithmeticResults :
    pair (fire (sc .i32 7) (sc .i32 2)) (hd .i32) false [7] [2] [true] ∧
    pair (fire (run .x64 [7, 8]) (run .x64 [2, 0])) (hd .x64) false [7, 8] [2, 0] [true, true] ∧
    pair (fire (sc .i32 0x80000000) (sc .x64 2) (sc .prd 0)) (ha .x64) false [0xFFFFFFFF80000000] [2] [true] ∧
    pair (fire (run .x64 [7, 8]) (run .x64 [2, 0]) (run .prd [1, 0])) (hp .x64 .onTrue) false [7, 8] [2, 0] [true, false] :=
  ⟨pair_of (by decide +kernel), pair_of (by decide +kernel), pair_of (by decide +kernel), pair_of (by decide +kernel)⟩

/-- Shift amounts and fields at the ends of their ranges. -/
theorem witness_LogicShiftAndFieldResults :
    pair (fire (sc .i32 7) (sc .i32 33)) (hd .i32) false [7] [33] [true] ∧
    (g .x64 63).shiftOk = true ∧ (g .i32 31).shiftOk = true ∧ (g .x64 0).shiftOk = true ∧
    (g .x64 (4096 + 63 * 64)).fieldOk true = true ∧ (g .x64 63).fieldOk true = true ∧ (g .i32 (31 * 64)).fieldOk false = true ∧
    (g .i32 31).fieldOk false = true ∧ (g .i32 (1 * 64 + 31)).fieldOk false = false :=
  ⟨pair_of (by decide +kernel), by decide, by decide, by decide, by decide, by decide, by decide, by decide, by decide⟩

theorem witness_CompareAndLeaResults :
    pair (fire (sc .i32 7) (sc .i32 33)) (hd .i32) false [7] [33] [true] ∧
    pair (fire (sc .prd 1) (sc .prd 0)) (hd .prd) false [1] [0] [true] ∧
    pair (fire (sc .x64 8) (sc .x64 2)) (hd .x64) false [8] [2] [true] ∧ (fire (sc .x64 8) (sc .x64 2)).fly.cur.right.isSome ∧
    pair (fire (sc .x64 8)) (hd .x64) false [8] [] [true] ∧ (fire (sc .x64 8)).fly.cur.right = none :=
  ⟨pair_of (by decide +kernel), pair_of (by decide +kernel), pair_of (by decide +kernel), rfl, pair_of (by decide +kernel), rfl⟩

/-- A vector token at one of the positions. -/
theorem witness_OperandRules :
    accepts .f64 true .f32 = true ∧ accepts .f64 false .f32 = false ∧ accepts .x64 true .f32 = false ∧ accepts .prd false .prd = true ∧
    (hp .x64 .onTrue).pred ≠ .always ∧ (fire none none (sc .prd 1)).fly.cur.pred = sc .prd 1 ∧
    (fire none none (sc .x64 1)).fly.cur.pred = sc .x64 1 ∧
    (let s := fire (sc .x64 7) (sc .x64 2) (sc .prd 1)
     pair s (hp .x64 .onFalse) false [7] [2] [false] ∧ s.fly.cur.pred = sc .prd 1 ∧ ∀ e ≤ (scalarTok 3 5 0 .prd 1).len,
       (scalarTok 3 5 0 .prd 1).data.getLsbD e = ((hp .x64 .onFalse).pred == .onFalse)) ∧
    ∃ t ∈ (fire (run .x64 [7])).fly.cur.toks, t.vec = true :=
  ⟨rfl, rfl, rfl, rfl, by decide, rfl, rfl, ⟨pair_of (by decide +kernel), rfl, by decide +kernel⟩, _, List.mem_singleton_self _, rfl⟩

/-- A scalar firing, unpredicated and under each predicate value. -/
theorem witness_scalarFires :
    scalarFires (fire) (hd .x64) true ∧ scalarFires (fire none none (sc .prd 1)) (hp .x64 .onTrue) true ∧
    scalarFires (fire none none (sc .prd 1)) (hp .x64 .onFalse) false ∧ scalarFires (fire (sc .x64 7)) (hd .x64) true :=
  ⟨⟨fun _ h => (by cases h), .inl ⟨rfl, rfl⟩⟩,
   ⟨fun t h => (by simp [Firing.toks, fire, sc] at h; rw [h]; rfl), .inr ⟨_, rfl, rfl, by decide, by decide⟩⟩,
   ⟨fun t h => (by simp [Firing.toks, fire, sc] at h; rw [h]; rfl), .inr ⟨_, rfl, rfl, by decide, by decide⟩⟩,
   ⟨fun t h => (by simp [Firing.toks, fire, sc] at h; rw [h]; rfl), .inl ⟨rfl, rfl⟩⟩⟩

theorem witness_MoveAndRegisterResults :
    pair (fire (sc .f32 7) (sc .f32 2)) (hd .f32) true [7] [2] [true] ∧
    (fire (sc .x64 7)).fly.cur.left = sc .x64 7 ∧ firedMask (fire (sc .x64 7)).fly.cur (hd .f64) = .ok [true] ∧
    (let s := fire (run .x64 [7, 8]) none (run .prd [1, 0])
     operand s.fly.cur (hd .x64) true s.fly.cur.left = .ok [7, 8] ∧ s.fly.cur.pred = run .prd [1, 0]) ∧
    scalarFires (fire) (g .x64 31).h true ∧ (g .x64 10).imm.toNat ≤ 10 ∧ (fire).fly.cur.left = none ∧
    firedMask (fire (run .x64 [7, 8])).fly.cur (hd .x64) = .ok [true, true] :=
  ⟨pair_of (by decide +kernel), rfl, of_okIs (by decide +kernel), ⟨of_okIs (by decide +kernel), rfl⟩, witness_scalarFires.1, by decide, rfl, of_okIs (by decide +kernel)⟩

/-- A return stack at its limit and at one below it. -/
def stacked (n : Nat) (l : Option Token := none) : State :=
  { fire l with sys := { base.sys with thrs := [(8 * 1024 + 5, { thr with stack := List.replicate n 0x40 })] } }

def taskState (l : Option Token := none) : State := { fire l with sys := { base.sys with thrs := [(8 * 1024 + 5, { thr with task := some 0 })] } }

/-- A device with an exit port 7 of colour `c` in the context. -/
def ported (c : Nat) (l : Option Token) : State :=
  { fire l with sys := { base.sys with ctxs := [(1, { ctx1 with ports := [(7, { ident := 9, colour := c, size := 4, base := 0, tail := 0, head := 0, claimed := 0 })] })] } }

/-- Cluster 8 with every frame that SPAWN may take in use. -/
def crowded (l : Option Token) : State :=
  { fire l with sys := { base.sys with thrs := (List.range 1020).map fun k => (8 * 1024 + k, thr) } }

theorem tabFind_listed {α : Type} (v : α) (b k : Nat) : ∀ l : List Nat, k ∈ l → tabFind (l.map fun j => (b + j, v)) (b + k) = some v
  | [], h => by cases h
  | j :: l, h => by
    simp only [List.map_cons, tabFind]
    split
    · rfl
    · rename_i n
      exact tabFind_listed v b k l ((List.mem_cons.mp h).resolve_left fun e => n (by rw [e]))

theorem crowded_full (l : Option Token) (k : Nat) (h : k < 1020) : (crowded l).frameFree 8 k = false := by
  have e : (crowded l).sys.thr 8 k = thr := by
    simp only [Sys.thr, tabGet, crowded, tabFind_listed thr (8 * 1024) k _ (List.mem_range.mpr h), Option.getD_some]
  rw [State.frameFree, e]
  rfl

theorem witness_ExitSpawnAndEmitResults :
    (g .x64 31).imm.toNat = 31 ∧ scalarFires (fire) (hd .x64) true ∧
    (∃ t, (fire (sc .x64 0x40)).fly.cur.left = some t ∧ t.fmt = .x64) ∧
    (stacked 7).thread.stack.length < 8 ∧ 8 ≤ (stacked 8).thread.stack.length ∧ (stacked 1).thread.stack = 0x40 :: [] ∧ (stacked 0).thread.stack = [] ∧
    (taskState).thread.task.isSome ∧ (fire).thread.task = none ∧
    (fire (sc .x64 0x40) (sc .x64 1)).fly.inst 8 5 = some inst ∧ (fire (sc .x64 0x40)).frameFree 8 0 = true ∧
    (∀ k < 1020, (crowded (sc .x64 1)).frameFree 8 k = false) ∧
    tabFind ((ported 3 (sc .x64 1)).sys.ctx 1).ports 7 = some { ident := 9, colour := 3, size := 4, base := 0, tail := 0, head := 0, claimed := 0 } ∧
    tabFind ((fire (sc .x64 1)).sys.ctx 1).ports 7 = none ∧
    (tabFind ((ported 2 (sc .x64 1)).sys.ctx 1).ports 7).map (·.colour) = some 2 :=
  ⟨rfl, witness_scalarFires.1, ⟨_, rfl, rfl⟩, by decide, by decide, rfl, rfl, rfl, rfl, rfl, by decide, crowded_full _, rfl, rfl, rfl⟩

theorem witness_FloatArithmeticResults :
    pair (fire (sc .f32 0x3F800000) (sc .f32 0)) (hd .f32) false [0x3F800000] [0] [true] ∧ Fmt.f32.isFlt = true ∧ Fmt.t8.isF32 = true ∧
    (fire (sc .f32 0x3F800000)).fly.cur.right = none ∧
    (let s := fire (sc .f32 0x3F800000) (sc .i32 3)
     s.fly.cur.right = sc .i32 3 ∧ operand s.fly.cur (hd .f32) false s.fly.cur.left = .ok [0x3F800000] ∧ firedMask s.fly.cur (hd .f32) = .ok [true]) ∧
    (let s := fire (sc .f32 0x3F800000) (sc .x64 3)
     s.fly.cur.right = sc .x64 3 ∧ operand s.fly.cur (hd .f32) false s.fly.cur.left = .ok [0x3F800000] ∧ firedMask s.fly.cur (hd .f32) = .ok [true]) :=
  ⟨pair_of (by decide +kernel), rfl, rfl, rfl, ⟨rfl, of_okIs (by decide +kernel), of_okIs (by decide +kernel)⟩, rfl, of_okIs (by decide +kernel), of_okIs (by decide +kernel)⟩

theorem witness_FloatComparisons :
    pair (fire (sc .f64 0x7FF0000000000001) (sc .f64 0)) (hd .f64) false [0x7FF0000000000001] [0] [true] ∧ Fmt.f64.isFlt = true ∧
    (0xFFFFFFFF : Nat) < 2 ^ fp32.width ∧ encNan fp32 0x7F800000 = false ∧ encNan fp32 0x80000000 = false ∧ encNan fp32 0x7F800001 = true :=
  ⟨pair_of (by decide +kernel), rfl, by decide, by decide, by decide, by decide⟩

theorem witness_FormatsRoundTrip : fpB16 ∈ [fp64, fp32, fpB16] ∧ (0xFFFF : Nat) < 2 ^ fpB16.width ∧ (255 : Nat) < 256 ∧ (63 : Nat) < 64 :=
  ⟨by simp, by decide, by decide, by decide⟩

theorem witness_ConversionResults :
    (fire (sc .i32 5)).fly.cur.left = sc .i32 5 ∧ firedMask (fire (sc .i32 5)).fly.cur (hd .f32) = .ok [true] ∧
    (fire (sc .x64 5)).fly.cur.left = sc .x64 5 ∧
    pair (fire (sc .f32 0x3F800000)) (hd .f32) false [0x3F800000] [] [true] ∧ (4 : BitVec 27) = (4 : BitVec 27) ∧
    (let s := fire (run .f32 [0x3F800000, 0]) (sc .i32 0xFF)
     operand s.fly.cur (hd .f32) false s.fly.cur.left = .ok [0x3F800000, 0] ∧ firedMask s.fly.cur (hd .f32) = .ok [true, true] ∧
     kept [true, true] [0x3F800000, 0] ≠ [] ∧ ∃ t, s.fly.cur.right = some t ∧ t.vec = false ∧ t.fmt = .i32) :=
  ⟨rfl, of_okIs (by decide +kernel), rfl, pair_of (by decide +kernel), rfl, of_okIs (by decide +kernel), of_okIs (by decide +kernel), by decide, _, rfl, rfl, rfl⟩


theorem witness_RunBehaviour :
    (g .i32 (3 * 32 + 1)).h.ty = .i32 ∧ scalarFires (fire) (hd .i32) true ∧
    (let s := fire (sc .i32 7); s.fly.cur.left.isSome ∧ operand s.fly.cur (hd .i32) true s.fly.cur.left = .ok [7]) ∧
    (let s := fire (sc .i32 7) none (run .prd [1, 0])
     (∃ t, s.fly.cur.left = some t ∧ t.vec = false) ∧ operand s.fly.cur (hp .i32 .onTrue) true s.fly.cur.left = .ok [7] ∧
     firedMask s.fly.cur (hp .i32 .onTrue) = .ok [true, false]) ∧
    pair (fire (run .i32 [7, 8]) (run .i32 [9, 10])) (hd .i32) true [7, 8] [9, 10] [true, true] ∧
    (g .i32 1).imm.toNat < (fire (run .i32 [7, 8])).fly.cur.n ∧ (fire (run .i32 [7, 8])).fly.cur.n ≤ (g .i32 2).imm.toNat ∧ true ∈ [true, true] ∧
    (g .i32 2).imm.toNat ≤ (fire (run .i32 [7, 8])).fly.cur.n ∧ (fire (run .i32 [7, 8])).fly.cur.n < (g .i32 3).imm.toNat ∧
    pair (fire (run .i32 [7, 8]) (sc .i32 9)) (hd .i32) true [7, 8] [9] [true, true] ∧
    (∃ t, (fire (run .i32 [7, 8]) (run .i32 [0, 1])).fly.cur.right = some t ∧ t.fmt = .i32) ∧
    (∃ t, (fire (run .i32 [7, 8]) (run .prd [0, 1])).fly.cur.right = some t ∧ t.fmt = .prd) ∧
    pair (fire (run .i32 [7]) (run .i32 [9])) (hd .i32) true [7] [9] [true] ∧
    (∃ t, (fire (run .x64 [7])).fly.cur.left = some t ∧ t.fmt = .x64) :=
  ⟨rfl, witness_scalarFires.1, ⟨rfl, of_okIs (by decide +kernel)⟩, ⟨⟨_, rfl, rfl⟩, of_okIs (by decide +kernel), of_okIs (by decide +kernel)⟩,
   pair_of (by decide +kernel), by decide +kernel, by decide +kernel, by decide, by decide +kernel,
   by decide +kernel, pair_of (by decide +kernel), ⟨_, rfl, rfl⟩, ⟨_, rfl, rfl⟩, pair_of (by decide +kernel), _, rfl, rfl⟩

theorem witness_ReductionResults :
    pair (fire (run .f32 [7, 8]) (run .f32 [9, 10])) (hd .f32) false [7, 8] [9, 10] [true, true] ∧ kept [true, true] [(7 : Word), 8] ≠ [] ∧
    kept [true, true] ([(7 : Word), 8].zip [(9 : Word), 10]) ≠ [] ∧
    (let s := fire (run .f32 [7, 8]) (sc .x64 9) (run .prd [0, 0])
     operand s.fly.cur (hp .f32 .onTrue) false s.fly.cur.left = .ok [7, 8] ∧ firedMask s.fly.cur (hp .f32 .onTrue) = .ok [false, false] ∧
     kept [false, false] [(7 : Word), 8] = [] ∧ ∃ t, s.fly.cur.right = some t ∧ t.vec = false ∧ t.fmt = .x64) ∧
    (fire (sc .f32 7)).fly.cur.vec = false ∧
    (let s := fire (run .f32 [7, 8, 9, 10])
     operand s.fly.cur (hd .f32) true s.fly.cur.left = .ok [7, 8, 9, 10] ∧ s.fly.cur.vec = true ∧ s.fly.cur.index % 4 = 0 ∧ s.fly.cur.n % 4 = 0 ∧
     firedMask s.fly.cur (hd .f32) = .ok (List.replicate s.fly.cur.n true)) :=
  ⟨pair_of (by decide +kernel), by decide, by decide, ⟨of_okIs (by decide +kernel), of_okIs (by decide +kernel), rfl, _, rfl, rfl, rfl⟩, by decide +kernel,
   of_okIs (by decide +kernel), by decide +kernel, rfl, by decide +kernel, of_okIs (by decide +kernel)⟩

/-- Unpredicated, a firing fires. -/
theorem fires (l r : Option Token) (h : Head) : wholeFires (fire l r) h true := .inl ⟨rfl, rfl⟩

theorem witness_OperandRules_off :
    wholeFires (fire (sc .x64 7) (sc .x64 2) (sc .prd 1)) (hp .x64 .onFalse) false ∧ plainOperands (fire (sc .x64 7) (sc .x64 2) (sc .prd 1)) (hp .x64 .onFalse) ∧
    (fire (sc .x64 7) none (sc .prd 1)).fly.cur.right = none :=
  ⟨.inr ⟨_, rfl, rfl, rfl, by decide⟩, fun t h => by rcases h with h | h <;> (cases h; exact ⟨rfl, rfl⟩), rfl⟩

theorem witness_ExitSpawnAndEmitResults_runs :
    (scalarFires (fire (sc .x64 7) (sc .x64 2) (sc .prd 1)) (hp .x64 .onFalse) false ∧ pair (fire (sc .x64 7) (sc .x64 2) (sc .prd 1)) (hp .x64 .onFalse) false [7] [2] [false]) ∧
    (let s := ported 3 (run .x64 [4, 5])
     okIs (operand s.fly.cur (hd .x64) true s.fly.cur.left) [4, 5] = true ∧ okIs (firedMask s.fly.cur (hd .x64)) [true, true] = true ∧ s.fly.inst 8 5 = some inst ∧ s.fly.cur.vec = true ∧
     s.fly.cur.n * Fmt.x64.width ≤ 384 ∧ (tabFind (s.sys.ctx 1).ports 7).map (·.colour) = some 3) ∧
    true ∉ [false] ∧ 384 < (fire (run .x64 [1, 2, 3, 4, 5, 6, 7])).fly.cur.n * Fmt.x64.width ∧ (∀ n, (g .x64).t0 ≠ .reg n) :=
  ⟨⟨⟨fun t h => (by
      simp only [fire, Firing.toks, sc, Option.toList, List.mem_cons, List.cons_append, List.nil_append, List.not_mem_nil, or_false] at h
      rcases h with rfl | rfl | rfl <;> rfl),
     .inr ⟨_, rfl, rfl, by decide, by decide⟩⟩, pair_of (by decide +kernel)⟩,
   ⟨by decide +kernel, by decide +kernel, rfl, rfl, by decide, by decide⟩, by decide, by decide, fun n h => by cases h⟩

/-- Another live instance of the cluster holds accumulator 5. -/
def contested : State :=
  { wide PAcc.reset with fly := { (wide PAcc.reset).fly with insts := [(8 * 1024 + 5, inst), (8 * 1024 + 6, { inst with ser := 8, opens := [(5, PAcc.reset)] })] } }

theorem witness_AccumulatorBehaviour :
    wholeFires contested (hd .x64) true ∧ ¬ mayOpen contested 5 ∧ mayOpen (wide PAcc.reset) 5 ∧
    (openCopy (wide PAcc.reset) 5).bound = false ∧ (openCopy (wide (pacc 1 0 0)) 5).bound = true ∧ (openCopy (wide (pacc 1 0 0)) 5).colour = 3 ∧ (0 : Nat) < 64 :=
  ⟨.inl ⟨rfl, rfl⟩, fun h => absurd h.1 (by decide), by unfold mayOpen; decide, by decide, by decide, by decide, by decide⟩

theorem witness_MultiplyResults :
    pair (wide (pacc 1 0 0) (run .i32 [3, 2]) (run .i32 [1])) (hd .i32) false [3, 2] [1] [true, true] ∧
    [3, 2].length ≤ (modeKS 1).1 ∧ (modeKS 1).1 < [3, 2, 1].length ∧ ((1 : BitVec 3) ≠ 0 ∨ [3, 2].length ≤ 16) ∧
    (let s := wide (pacc 1 0 0) (sc .x64 3) (run .x64 [1])
     pair s (hd .x64) false [3] [1] [true] ∧ (∃ t, s.fly.cur.left = some t ∧ t.vec = false) ∧ mayOpen s 5 ∧ (openCopy s 5).bound = true ∧
     (openCopy s 5).colour = 3 ∧ (openCopy s 5).mode.toNat ≤ 2 ∧ (openCopy s 5).count.toNat ≠ budget (openCopy s 5).mode) ∧
    (let s := wide (pacc 2 0 (BitVec.ofNat 34 (budget 2))); (openCopy s 5).mode.toNat ≤ 2 ∧ (openCopy s 5).count.toNat = budget (openCopy s 5).mode) ∧
    (openCopy (wide (pacc 3 0 0)) 5).mode = 3 ∧ (openCopy (wide (pacc 3 0 0)) 5).count.toNat ≠ budget 3 ∧
    (openCopy (wide (pacc 4 0 0)) 5).mode = 4 ∧ (openCopy (wide (pacc 5 0 0)) 5).mode = 5 :=
  ⟨pair_of (by decide +kernel), by decide, by decide, by decide,
   ⟨pair_of (by decide +kernel), ⟨_, rfl, rfl⟩, by unfold mayOpen; decide, by decide, by decide, by decide, by decide⟩, by decide +kernel, by decide, by decide, by decide, by decide⟩

/-- Every lane of the cluster is in use. -/
def fullLanes : State := { fire with sys := { base.sys with lanes := (List.range 4096).map fun k => (8 * 4096 + k, { alloc := true, colour := 3, val := 5 }) } }

theorem fullLanes_used (l : Nat) (h : l < 4096) : laneFree fullLanes l = false := by
  have e : fullLanes.sys.lane 8 l = { alloc := true, colour := 3, val := 5 } := by
    simp only [Sys.lane, tabGet, fullLanes, tabFind_listed _ (8 * 4096) l _ (List.mem_range.mpr h), Option.getD_some]
  simp only [laneFree]
  rw [show fullLanes.fly.cur.clu = 8 from rfl, e]
  rfl

theorem witness_LaneAndZallocResults :
    (∃ t, (wide (pacc 1 0 0) (sc .x64 0)).fly.cur.left = some t ∧ t.vec = false ∧ t.fmt = .x64) ∧
    (let s := wide (pacc 1 0 0) (sc .x64 0)
     wholeFires s (hd .x64) true ∧ (∀ l < 16, (s.sys.lane 8 l).alloc = true ∧ (s.sys.lane 8 l).colour = 3) ∧ mayOpen s 5 ∧ (openCopy s 5).bound = true ∧
     (openCopy s 5).colour = 3 ∧ (openCopy s 5).mode.toNat ≤ 3) ∧
    ((openCopy (wide (pacc 4 0 0) (sc .x64 0)) 5).mode = 4) ∧
    (let s := wide PAcc.reset (sc .x64 3) (run .x64 [8, 9]); operand s.fly.cur (hd .x64) false s.fly.cur.right = .ok [8, 9]) ∧
    (∃ u, (wide PAcc.reset (sc .x64 3) (sc .i32 1)).fly.cur.right = some u ∧ u.vec = false ∧ u.fmt = .i32) ∧
    (4096 : Nat) ≤ 4096 ∧ (4096 : Nat) < 4095 + 2 ∧
    (let s := wide PAcc.reset (sc .x64 15); 15 + 2 ≤ 4096 ∧ laneMine s 16 = false ∧ (s.sys.lane 8 16).alloc = false) ∧
    (let s := wide PAcc.reset; s.fly.inst 8 5 = some inst ∧ 0 < (xw 0 0 4).count.toNat ∧ (∀ b' < 16, laneFree s b' = false) ∧ ∀ l, 16 ≤ l → l < 20 → laneFree s l = true) ∧
    (∀ b : Nat, ¬ (b + (xw 0 0 1).count.toNat ≤ 4096 ∧ ∀ l, b ≤ l → l < b + (xw 0 0 1).count.toNat → laneFree fullLanes l = true)) :=
  ⟨⟨_, rfl, rfl, rfl⟩, ⟨.inl ⟨rfl, rfl⟩, by decide +kernel, by unfold mayOpen; decide, by decide, by decide, by decide⟩, by decide, of_okIs (by decide +kernel), ⟨_, rfl, rfl, rfl⟩,
   by decide, by decide, ⟨by decide, by decide, by decide +kernel⟩,
   ⟨rfl, by decide, by decide +kernel, fun l h1 h2 => (by
     have : l = 16 ∨ l = 17 ∨ l = 18 ∨ l = 19 := by omega
     rcases this with rfl | rfl | rfl | rfl <;> decide +kernel)⟩,
   by intro b h
      have e : (xw 0 0 1).count.toNat = 1 := rfl
      rw [e] at h
      have := h.2 b (Nat.le_refl b) (by omega)
      rw [fullLanes_used b (by omega)] at this
      cases this⟩

/-- An address operand of the memory statements. -/
theorem addressed_of (r : Option Token) (h : Head) (off : BitVec 24) (v : Word) (hv : v.toNat / 2 ^ 55 = 0) (he : v = (scalarTok 3 5 0 .x64 v).elem 0) :
    addressed (fire (sc .x64 v) r) h off (v.toNat / 2 ^ 52 % 8) ((((v.toNat % 2 ^ 52 : Nat) + off.toInt) % 2 ^ 52).toNat) := by
  exact ⟨_, v, rfl, rfl, .inl ⟨rfl, he⟩, hv, rfl, rfl⟩

theorem witness_LoadAndStoreAccesses :
    wholeFires (fire (sc .x64 0x1000) (run .i32 [1, 2])) (hd .i32) true ∧
    (let s := fire (sc .x64 (0x1000 + 5 * 2 ^ 52))
     wholeFires s (hd .i32) true ∧ addressed s (hd .i32) 0xFFFFFF 5 0xFFF ∧ lsidOpen s 0 1 ∧ s.fly.cur.right = none) ∧
    (let s := fire (sc .x64 (0x1000 + 6 * 2 ^ 52))
     wholeFires s (hd .i32) true ∧ addressed s (hd .i32) 0 6 0x1000 ∧ s.fly.cur.right = none) ∧
    (let s := fire (run .x64 [0x1000, 0x2000]) (run .i32 [1, 2]) (run .prd [0, 0])
     firedMask s.fly.cur (hp .i32 .onTrue) = .ok [false, false] ∧ operand s.fly.cur (hp .i32 .onTrue) true s.fly.cur.right = .ok [1, 2]) ∧
    addressed (fire (sc .x64 (0x1000 + 5 * 2 ^ 52)) (sc .i32 1)) (hd .i32) 0xFFFFFF 5 0xFFF ∧ addressed (fire (sc .x64 0)) (hd .x64) 0xFFFFFF 0 (2 ^ 52 - 1) ∧
    addressed (fire (sc .x64 (0x1000 + 6 * 2 ^ 52)) (sc .i32 1)) (hd .i32) 0 6 0x1000 ∧
    lsidOpen (fire) 0 1 ∧ ¬ lsidOpen { fire with fly := { (fire).fly with insts := [(8 * 1024 + 5, { inst with answers := [(0, 0, 0)] })] } } 0 1 ∧
    (let s := fire (sc .x64 0x1000) (run .i32 [1, 2]); operand s.fly.cur (hd .i32) true s.fly.cur.right = .ok [1, 2]) ∧
    (let s := fire (run .x64 [0x1000, 0x2000]) (run .i32 [1, 2])
     (∃ t, s.fly.cur.left = some t ∧ t.fmt = .x64 ∧ s.fly.cur.n = t.len + 1 ∧ okIs (addrsOf s.fly.cur true 0 t.elems) [(0x1000, 0), (0x2000, 0)] = true) ∧
     operand s.fly.cur (hd .i32) true s.fly.cur.right = .ok [1, 2] ∧ s.fly.cur.pred = none) ∧
    (let s := fire (run .x64 [0x1000, 0x2000])
     s.fly.cur.right = none ∧ ∃ t, s.fly.cur.left = some t ∧ okIs (addrsOf s.fly.cur false 0 t.elems) [(0x1000, 0), (0x2000, 0)] = true) :=
  ⟨fires _ _ _, ⟨fires _ _ _, addressed_of _ _ _ _ (by decide) (by decide +kernel), by unfold lsidOpen; decide, rfl⟩,
   ⟨fires _ _ _, addressed_of _ _ _ _ (by decide) (by decide +kernel), rfl⟩, ⟨of_okIs (by decide +kernel), of_okIs (by decide +kernel)⟩,
   addressed_of _ _ _ _ (by decide) (by decide +kernel), addressed_of _ _ _ _ (by decide) (by decide +kernel), addressed_of _ _ _ _ (by decide) (by decide +kernel), by unfold lsidOpen; decide, by unfold lsidOpen; decide,
   of_okIs (by decide +kernel), ⟨⟨_, rfl, rfl, by decide +kernel, by decide +kernel⟩, of_okIs (by decide +kernel), rfl⟩, rfl, _, rfl, by decide +kernel⟩

theorem witness_WordAndAtomicAccesses :
    addressed (fire (sc .x64 0x1008) (sc .x64 1)) (hd .x64) 0 0 0x1008 ∧ 0x1008 % 8 = 0 ∧ addressed (fire (sc .x64 0x1004) (sc .x64 1)) (hd .x64) 0 0 0x1004 ∧
    (let s := fire (sc .x64 0x1008) (sc .x64 1); wholeFires s (hd .x64) true ∧ operand s.fly.cur (hd .x64) true s.fly.cur.right = .ok [1] ∧ ∃ t, s.fly.cur.right = some t ∧ t.vec = false) ∧
    (let s := fire (sc .x64 0x1010) (run .x64 [1, 2]); operand s.fly.cur (hd .x64) true s.fly.cur.right = .ok [1, 2] ∧ ∃ t, s.fly.cur.right = some t ∧ t.vec = true ∧ t.len = 1) ∧
    (let s := fire (sc .x64 0x1010) (run .x64 [1, 2, 3, 4]); ∃ t, s.fly.cur.right = some t ∧ t.vec = true ∧ t.len = 3) ∧
    (let s := fire (sc .x64 0x1010) (run .x64 [1, 2, 3]); ∃ t, s.fly.cur.right = some t ∧ t.vec = true ∧ t.len ≠ 1 ∧ t.len ≠ 3) ∧
    (0xFFFFFFFF : Nat) < 2 ^ (8 * 4) ∧ (2 ^ 64 - 1 : Nat) < 2 ^ (8 * 8) :=
  ⟨addressed_of _ _ _ _ (by decide) (by decide +kernel), by decide, addressed_of _ _ _ _ (by decide) (by decide +kernel), ⟨fires _ _ _, of_okIs (by decide +kernel), _, rfl, rfl⟩,
   ⟨of_okIs (by decide +kernel), _, rfl, rfl, by decide +kernel⟩, ⟨_, rfl, rfl, by decide +kernel⟩, ⟨_, rfl, rfl, by decide +kernel, by decide +kernel⟩, by decide, by decide⟩

theorem witness_FenceAndCopyAccesses :
    (∃ t, (fire (sc .f32 1)).fly.cur.left = some t ∧ t.fmt ≠ .x64 ∧ (t.fmt = .i32 → (m .x64).h.ac = false)) ∧
    wholeFires (fire) (hd .x64) true ∧ lsidOpen (fire) 31 1 ∧ addressed (fire (sc .x64 0x1040)) (hd .x64) 0 0 0x1040 ∧ 0x1040 % 64 = 0 ∧
    addressed (fire (sc .x64 0x1040)) (hd .x64) 8 0 0x1048 ∧ 0x1048 % 64 ≠ 0 ∧ (fire (sc .x64 0x1040)).fly.inst 8 5 = some inst :=
  ⟨⟨_, rfl, by decide, fun h => by cases h⟩, fires _ _ _, by unfold lsidOpen; decide, addressed_of _ _ _ _ (by decide) (by decide +kernel), by decide, addressed_of _ _ _ _ (by decide) (by decide +kernel), by decide, rfl⟩


/-- The firing of `fire` on a changed device. -/
def dev (f : Sys → Sys) (l : Option Token := none) (r : Option Token := none) : State := { fire l r with sys := f base.sys }

/-- The instance with effects already recorded. -/
def did (es : List Eff) (l : Option Token := none) : State :=
  { fire l with fly := { (fire l).fly with insts := [(8 * 1024 + 5, { inst with effs := es.map fun e => { idx := 0, index := 0, e := e } })] } }

/-- The same firing in context 0. -/
def kernelThread (y : Sys) : Sys := { y with thrs := [(8 * 1024 + 5, { thr with ctx := 0 })] }

/-- Memory in which the common table of context 1, and of context 0, maps every page at 64 GiB and above, readable, writable, synchronised. -/
def mapped : Memory :=
  [(0x2000001, 0x80), (0x200000A, 0xFF), (0x200000B, 0xFF), (0x200000C, 0xFF), (0x200000D, 0xFF), (0x200000E, 0x0F), (0x2000014, 0x10), (0x2000018, 0xE8), (0x2000019, 0x01)]

def aTile : Tile := { Tile.reset with st := .staged, ctx := 1, colour := 3, elem := 0 }

def aPass : Pass :=
  { (default : Pass) with st := .running, ctx := 1, ident := 9, slot := 0, bar := 4, clu := 8, frm := 5, colour := 3, laplim := 16, tasks := [4, 4, 4, 4, 4, 4, 4, 4], armed := true }

/-- Entry word: slot 0, the Iolite stop 0 and the Kunzite stop 0, which meet at stop 0 of the ring (R134). -/
def entryWord : Word := 0x40

theorem left_of (s : State) (l r : Option Token) (v : Word) (hs : s.fly.cur = (fire l r).fly.cur) (hl : l = sc .x64 v)
    (he : v = (scalarTok 3 5 0 .x64 v).elem 0) : leftWord s v := ⟨scalarTok 3 5 0 .x64 v, by rw [hs, hl]; rfl, rfl, rfl, he⟩

theorem right_of (s : State) (l r : Option Token) (v : Word) (hs : s.fly.cur = (fire l r).fly.cur) (hr : r = sc .x64 v)
    (he : v = (scalarTok 3 5 0 .x64 v).elem 0) : rightWord s v := ⟨scalarTok 3 5 0 .x64 v, by rw [hs, hr]; rfl, rfl, rfl, he⟩

theorem witness_RingResults :
    (let s := fire none (run .x64 [entryWord, 5])
     wholeFires s (hd .x64) true ∧ (∃ t, s.fly.cur.right = some t ∧ t.fmt = .x64 ∧ t.elems = [entryWord, 5]) ∧
     (0 + 0) % 8 = 2 * (8 % 8) % 8 ∧ tripleTaken s.sys 8 7 (0, 0, 0) = false ∧ (s.sys.ment 8 7).busy = false) ∧
    tripleTaken (dev fun y => { y with ments := [(8 * 256 + 1, { MEnt.reset with st := .loaded })] }).sys 8 7 (0, 0, 0) = true ∧
    ((dev fun y => { y with ments := [(8 * 256 + 7, { MEnt.reset with st := .armed, slot := 1 })] }).sys.ment 8 7).busy = true ∧
    (∀ e, 0 ≤ e → e ≤ 2 → ((fire).sys.ment 8 e).busy = false) ∧
    ringFree (dev fun y => { y with rings := [(1, { Ring.reset with pass := some aPass })] }) 1 = false ∧ ringFree (fire) 1 = true ∧
    (let s := dev fun y => { y with tiles := [(8 * 32, aTile)], bars := [(8 * 256 + 4, { Bar.reset with mode := .count, colour := 3, expect := 1 })] }
     ringFree s 1 = true ∧ slotTiles s.sys 1 0 = [aTile] ∧ tileBytes aTile.elem ≤ 256 ∧ (s.sys.bar 8 4).mode = .count ∧ (s.sys.bar 8 4).colour = 3 ∧
     decodeScope ((xr 0x046000).p.extractLsb' 13 3) = some .ctx) ∧
    (∀ p, ((fire).sys.ring 1).pass = some p → p.colour = 3 ∧ p.ctx = 1) ∧
    ((dev fun y => { y with rings := [(1, { Ring.reset with pass := some { aPass with colour := 2 } })] }).sys.ring 1).pass = some { aPass with colour := 2 } ∧
    (1 : Nat) ≤ (xr 0x80C000).p.toNat / 2 ^ 12 % 8 ∧ (xr 0x80C000).p.toNat / 2 ^ 15 % 256 = 1 ∧
    (let s := taskState (sc .x64 255)
     s.thread.task = some 0 ∧ (∃ u, s.fly.cur.left = some u ∧ u.vec = false ∧ u.fmt = .x64) ∧ tileType 0 = .i32 ∧ 255 + 1 ≤ tileCount 0 ∧ tileCount 0 < 255 + 2) ∧
    (let s := fire (sc .x64 0x1040)
     leftWord s 0x1040 ∧ s.fly.inst 8 5 = some inst ∧ (s.sys.tile 8 0 0).st = .empty ∧ (∀ e ∈ s.fly.pending, e.1 / 1024 = 8 → 0 ∉ e.2.tiles) ∧ lsidOpen s 0 1) :=
  ⟨⟨fires _ _ _, ⟨_, rfl, rfl, by decide +kernel⟩, by decide, by decide +kernel, by decide⟩, by decide +kernel, by decide,
   fun e _ h => (by have : e = 0 ∨ e = 1 ∨ e = 2 := by omega
                    rcases this with rfl | rfl | rfl <;> decide),
   by decide, by decide, ⟨by decide, by decide +kernel, by decide, by decide, by decide, by decide⟩, fun p h => (by cases h), rfl, by decide, by decide,
   ⟨rfl, ⟨_, rfl, rfl, rfl⟩, by decide, by decide, by decide⟩, left_of _ _ none _ rfl rfl (by decide +kernel), rfl, by decide, by decide, by unfold lsidOpen; decide⟩

def aPin : Pin := { Pin.reset with held := true, used := true, gen := 2, ctx := 1, colour := 3, desc := 0x41, esize := 3, npieces := 1, length := 4, pieces := [(0, 0x1000, 0, 4)] }

def pinned (r : Option Token := none) (v : Word := 7 * 256 + 2) : State := dev (fun y => { y with pins := [(8 * 256 + 7, aPin)] }) (sc .x64 v) r

theorem witness_StitchedResults :
    (let s := fire (sc .x64 0x1040) (sc .x64 0x1080)
     leftWord s 0x1040 ∧ rightWord s 0x1080 ∧ wholeFires s (hd .x64) true ∧ lsidOpen s 0 1 ∧ (0x1040 + 0) % 64 = 0 ∧ (0x1040 + 8) % 64 ≠ 0) ∧
    (fire (sc .x64 0x1040)).fly.cur.right = none ∧
    (rightWord (fire (sc .x64 0x1040) (sc .x64 0x400000)) 0x400000 ∧ 0x400000 % 2 ^ 22 = 0 ∧ (g .x64 (12 * 16 + 12)).imm.toNat % 16 ≤ 12 ∧ 12 ≤ (12 : Nat)) ∧
    (let s := pinned
     leftWord s (7 * 256 + 2) ∧ (s.sys.pin 8 7).held = true ∧ (s.sys.pin 8 7).gen = 2 ∧ (s.sys.pin 8 7).colour = 3 ∧ (s.sys.pin 8 7).ctx = 1 ∧ s.fly.cur.right = none) ∧
    (let s := pinned (sc .x64 3)
     rightWord s 3 ∧ 3 < (s.sys.pin 8 7).length ∧ (s.sys.pin 8 7).pieces = [(0, 0x1000, 0, 4)] ∧ 3 < 0 + 4) ∧
    (rightWord (pinned (sc .x64 4)) 4 ∧ ((pinned).sys.pin 8 7).length ≤ 4) ∧ (rightWord (pinned (sc .x64 1)) 1 ∧ ((pinned).sys.pin 8 7).npieces ≤ 1) ∧
    (rightWord (pinned (sc .x64 0)) 0 ∧ 0 < ((pinned).sys.pin 8 7).npieces) ∧ (leftWord (pinned none (7 * 256 + 3)) (7 * 256 + 3) ∧ ((pinned).sys.pin 8 7).gen ≠ 3) :=
  ⟨⟨left_of _ _ _ _ rfl rfl (by decide +kernel), right_of _ _ _ _ rfl rfl (by decide +kernel), fires _ _ _, by unfold lsidOpen; decide, by decide, by decide⟩, rfl,
   ⟨right_of _ _ _ _ rfl rfl (by decide +kernel), by decide, by decide, by decide⟩,
   ⟨left_of _ _ none _ rfl rfl (by decide +kernel), by decide, by decide, by decide, by decide, rfl⟩,
   ⟨right_of _ (sc .x64 (7 * 256 + 2)) _ _ rfl rfl (by decide +kernel), by decide, by decide, by decide⟩,
   ⟨right_of _ (sc .x64 (7 * 256 + 2)) _ _ rfl rfl (by decide +kernel), by decide⟩, ⟨right_of _ (sc .x64 (7 * 256 + 2)) _ _ rfl rfl (by decide +kernel), by decide⟩,
   ⟨right_of _ (sc .x64 (7 * 256 + 2)) _ _ rfl rfl (by decide +kernel), by decide⟩, left_of _ _ none _ rfl rfl (by decide +kernel), by decide⟩

def aMsg : Msg := { id := 1, sclu := 9, sfrm := 4, fmt := .x64, len := 0, vec := false, data := 7, opened := true }

theorem witness_MessageResults :
    (let s := fire (sc .x64 (8 * 1024 + 5)) (sc .x64 7)
     leftWord s (8 * 1024 + 5) ∧ (∃ t, s.fly.cur.right = some t ∧ t.vec = false) ∧ operand s.fly.cur (hd .x64) true s.fly.cur.right = .ok [7] ∧
     s.sys.ctxOf 8 = s.thread.ctx ∧ s.sys.ctxOf 0 ≠ s.thread.ctx) ∧
    ((2 ^ 17 : Word).toNat / 2 ^ 17 ≠ 0) ∧ unreserved (fire) = [] ∧
    unreserved (dev fun y => { y with thrs := [(8 * 1024 + 5, { thr with mbox := [aMsg] })] }) = aMsg :: [] ∧
    (g .x64).h.mod.getLsbD 0 = false ∧ ({ g .x64 with h := { hd .x64 with mod := 1 } } : GWord).h.mod.getLsbD 0 = true :=
  ⟨⟨left_of _ _ _ _ rfl rfl (by decide +kernel), ⟨_, rfl, rfl⟩, of_okIs (by decide +kernel), by decide, by decide⟩, by decide, by decide, by decide +kernel, by decide, by decide⟩

/-- A queued transfer of the thread's colour in slot 1, generation 5, and its token, with promise 200. -/
def aXfer : Xfer := { Xfer.reset with st := .queued, gen := 5, ctx := 1, colour := 3, acc := 40, seq := 1, len := 64, sscr := true, dscr := true, src := 0, dst := 64, pcur := 300 }
def xferTok : Word := BitVec.ofNat 64 (5 * 2 ^ 53 + 1 * 2 ^ 48 + 200)
def moving (v : Xfer) (l : Option Token := none) : State := dev (fun y => { y with xfers := [(8 * 32 + 1, v)] }) l

theorem witness_TransferResults :
    (let s := moving aXfer (sc .x64 xferTok)
     wholeFires s (hd .x64) true ∧ leftWord s xferTok ∧ s.fly.cur.right = none ∧ (s.sys.xfer 8 (xferTok.toNat / 2 ^ 48 % 32)).gen.toNat = xferTok.toNat / 2 ^ 53 ∧
     s.sys.xfer 8 1 ≠ Xfer.reset ∧ (s.sys.xfer 8 1).colour = 3 ∧ (s.sys.xfer 8 1).ctx = s.thread.ctx) ∧
    (let s := moving { aXfer with st := .free, colour := 2 } (sc .x64 xferTok)
     leftWord s xferTok ∧ (s.sys.xfer 8 (xferTok.toNat / 2 ^ 48 % 32)).gen.toNat = xferTok.toNat / 2 ^ 53 ∧ s.sys.xfer 8 1 ≠ Xfer.reset ∧ (s.sys.xfer 8 1).colour ≠ 3) ∧
    ((moving { aXfer with gen := 6 } (sc .x64 xferTok)).sys.xfer 8 1).gen.toNat ≠ xferTok.toNat / 2 ^ 53 :=
  ⟨⟨fires _ _ _, left_of _ _ none _ rfl rfl (by decide +kernel), rfl, by decide, by decide, by decide, by decide⟩,
   ⟨left_of _ _ none _ rfl rfl (by decide +kernel), by decide, by decide, by decide⟩, by decide⟩

def aBank (m : BankMode) (es : List FEnt) : Bank := { Bank.reset with mode := m, bound := true, colour := 3, fifo := es }
def anEnt : FEnt := { id := 1, fmt := .x64, len := 0, vec := false, data := 9 }
def banked (v : Bank) (l : Option Token := none) (r : Option Token := none) : State := dev (fun y => { y with banks := [(8 * 16 + 2, v)] }) l r

theorem witness_BankResults :
    (let s := banked Bank.reset (sc .x64 0x20000) (sc .x64 65535)
     wholeFires s (hd .x64) true ∧ leftWord s 0x20000 ∧ rightWord s 65535 ∧ (s.sys.bank 8 2).foreign 3 = false ∧ (s.sys.bank 8 2).mode ≠ .pending ∧ (0x20000 : Word).toNat % 2 ^ 52 % 65536 = 0 ∧
     0 < (65535 : Word).toNat ∧ (65535 : Word).toNat ≤ 65535) ∧
    ((g .x64 2).imm.toNat / 16 % 4 = 0 ∧ (g .x64 0x22).imm.toNat / 16 % 4 = 2 ∧ (g .x64 0x52).imm.toNat / 16 % 4 = 1 ∧ (g .x64 0x52).imm.getLsbD 6 = true) ∧
    (let s := banked (aBank .fifo []) (sc .x64 9)
     (s.sys.bank 8 2).mode = .fifo ∧ (s.sys.bank 8 2).foreign 3 = false ∧ fifoLeft s.fly 8 2 (s.sys.bank 8 2) = [] ∧ fifoWaits s 8 2 = false ∧
     operand s.fly.cur (hd .x64) true s.fly.cur.left = .ok [9] ∧ ∃ t, s.fly.cur.left = some t ∧ t.vec = false) ∧
    (let s := banked (aBank .fifo [anEnt]); fifoLeft s.fly 8 2 (s.sys.bank 8 2) = anEnt :: [] ∧ anEnt.fmt = .x64 ∧ ∀ w ∈ s.fly.agenda, ∀ f, w.act ≠ .fire f) ∧
    ((banked (aBank .scratch [])).sys.bank 8 2).mode ≠ .fifo ∧ ((banked { aBank .fifo [] with colour := 2 }).sys.bank 8 2).foreign 3 = true :=
  ⟨⟨fires _ _ _, left_of _ _ _ _ rfl rfl (by decide +kernel), right_of _ _ _ _ rfl rfl (by decide +kernel), by decide, by decide, by decide, by decide, by decide⟩,
   by decide, ⟨by decide, by decide, by decide, by decide +kernel, of_okIs (by decide +kernel), _, rfl, rfl⟩,
   ⟨by decide +kernel, rfl, fun w h => (by cases h)⟩, by decide, by decide⟩

def aBar : Bar := { Bar.reset with mode := .count, colour := 3, seq := 9, expect := 2 }
def gBar : Bar := { Bar.reset with mode := .group, colour := 3, seq := 9, expect := 2, group := 4, members := [5], begun := true }
/-- The thread is a member of group 4, which is LIVE. -/
def grouped (v : Bar) : State :=
  dev fun y => { y with bars := [(8 * 256 + 4, v)], thrs := [(8 * 1024 + 5, { thr with gmem := 0x8004 })],
                        ctxs := [(1, { ctx1 with groups := [(4, { epoch := 1, live := true, colour := 3, total := 1 })] })] }

theorem witness_BarrierInstructions :
    (let s := fire; wholeFires s (hd .x64) true ∧ s.fly.cur.left = none ∧ (s.sys.bar 8 4).mode = .free) ∧
    (0 < (g .x64 (1024 * 256 + 4)).imm.toNat / 256 % 2048 ∧ (g .x64 (1024 * 256 + 4)).imm.toNat / 256 % 2048 ≤ 1024 ∧ (g .x64 4).imm.toNat / 256 % 2048 = 0 ∧
     1024 < (g .x64 (1025 * 256 + 4)).imm.toNat / 256 % 2048) ∧
    ((((grouped gBar).sys.ctx 1).group 4).live = true ∧ (((grouped gBar).sys.ctx 1).group 4).colour = 3 ∧ (((fire).sys.ctx 1).group 4).live = false) ∧
    ((bars aBar).sys.bar 8 4 = aBar ∧ aBar.mode ≠ .free ∧ aBar.colour = 3 ∧ aBar.arrived = 0 ∧ aBar.early = 0 ∧ aBar.pass = false ∧ aBar.owed = 0 ∧ barWaited (bars aBar) 8 4 = false) ∧
    ((bars { aBar with arrived := 1 }).sys.bar 8 4).arrived ≠ 0 ∧
    ((did [.arrive 9 false]).inst.effs.any fun e => match e.e with | .arrive .. => true | _ => false) = true ∧ ((fire).inst.effs.any fun e => match e.e with | .arrive .. => true | _ => false) = false ∧
    (gmemHas (grouped gBar).thread.gmem gBar.group = true ∧ 5 ∉ gBar.nxt ∧ (5 ∈ gBar.members ∧ 5 ∉ gBar.cur)) ∧
    (¬ (5 ∈ gBar.members ∧ 5 ∉ { gBar with cur := [5] }.cur)) ∧ gmemHas (fire).thread.gmem 4 = false ∧
    (leftWord (bars aBar (sc .x64 9)) 9 ∧ aBar.seq.toNat = (9 : Word).toNat % 65536 ∧ aBar.seq.toNat ≠ (8 : Word).toNat % 65536 ∧ aBar.done ≠ some (bars aBar).sys.now ∧
     (let v := { aBar with done := some (bars aBar).sys.now }; (bars v).sys.bar 8 4 = v ∧ v.seq.toNat = ((8 : Word).toNat + 1) % 65536)) :=
  ⟨⟨fires _ _ _, rfl, by decide⟩, by decide, by decide, by decide +kernel, by decide, by decide, by decide, by decide, by decide, by decide,
   left_of _ _ none _ rfl rfl (by decide +kernel), by decide, by decide, by decide, by decide +kernel, by decide⟩

theorem witness_GroupAndCombResults :
    (let s := fire; wholeFires s (hd .x64) true ∧ s.fly.cur.left = none ∧ joined s.inst = false ∧ gmemHas s.thread.gmem 4 = false ∧ (gmemGroups s.thread.gmem).length ≠ 4) ∧
    (gmemGroups 0x8003800280018000).length = 4 ∧ gmemHas 0x8003800280018000 4 = false ∧ gmemHas (grouped gBar).thread.gmem 4 = true ∧ joined (did [.join 4]).inst = true ∧
    ((((fire).sys.ctx 1).group 4).live = false ∨ (((fire).sys.ctx 1).group 4).colour = 3) ∧
    (let s : State := { fire (sc .x64 5) with fly := { (fire (sc .x64 5)).fly with insts := [(8 * 1024 + 5, { inst with n := 3, combs := [{ idx := 2, v := 6, k := 1 }] })] } }
     (∃ t, s.fly.cur.left = some t ∧ t.fmt = .x64 ∧ t.vec = false ∧ t.len = 0) ∧ s.fly.cur.right = none ∧ s.fly.cur.pred = none ∧
     (s.fly.inst 8 5).bind (fun i => i.combs.find? (fun p => p.idx == s.fly.cur.idx)) = some { idx := 2, v := 6, k := 1 } ∧
     1 + 1 ≠ (if (g .x64).imm.toNat / 4 % 2048 = 0 then 3 else 0) ∧ 1 + 1 = (g .x64 (2 * 4)).imm.toNat / 4 % 2048) ∧
    (inst.combs.find? (fun p => p.idx == 2) = none ∧ 1 = (g .x64 (1 * 4)).imm.toNat / 4 % 2048 ∧ 1 ≠ (g .x64 (2 * 4)).imm.toNat / 4 % 2048 ∧ combRoom (fire (sc .x64 5)) = true ∧
     combRoom { fire (sc .x64 5) with sys := { (fire (sc .x64 5)).sys with ctab := [(8 * 64, { w0 := BitVec.ofNat 64 (3 * 2 ^ 52 + 2 ^ 4), w1 := 0 })] } } = false) ∧
    (let c := (fire (run .x64 [1, 2, 3])).fly.cur; ∃ xs m, operand c (hd .x64) false c.left = .ok xs ∧ firedMask c (hd .x64) = .ok m) :=
  ⟨⟨fires _ _ _, rfl, by decide, by decide, by decide⟩, by decide, by decide, by decide, by decide, by decide, ⟨⟨_, rfl, rfl, rfl, rfl⟩, rfl, rfl, by decide, by decide, by decide⟩, ⟨rfl, by decide, by decide, by decide +kernel, by decide +kernel⟩, _, _, rfl, rfl⟩

def monned (v : Mon) (l : Option Token := none) : State := dev (fun y => { y with mons := [(40, v)] }) l

theorem witness_SystemRegisterAndMonitorResults :
    (let s := fire; wholeFires s (hd .x64) true ∧ regViews 0x013 = some (true, true) ∧ ¬ kernelMode s ∧ s.fly.cur.left = none) ∧
    kernelMode (dev kernelThread) ∧ regViews 0x040 = some (true, false) ∧ (leftWord (fire (sc .x64 9)) 9 ∧ (fire (sc .x64 9)).fly.cur.right = none) ∧
    (let s := monned Mon.reset (sc .x64 4); 32 ≤ 40 ∧ (s.sys.mon 40).armed = false ∧ leftWord s 4 ∧ (4 : Word).toNat / 256 % 2 ^ 43 = 0 ∧ (4 : Word).toNat % 256 ≤ 4 ∧ (4 : Word).getLsbD 51 = false) ∧
    (let s := monned { Mon.reset with armed := true, owner := 3, ctx := 1 }; (s.sys.mon 40).owner = 3 ∧ (s.sys.mon 40).ctx = s.thread.ctx) ∧
    4 < (5 : Word).toNat % 256 ∧ (31 : Nat) < 32 ∧ (let s := monned Mon.reset (sc .x64 4); ¬ kernelMode s ∧ leftWord s 4) ∧
    (let s := monned { Mon.reset with armed := true, owner := 2, ctx := 1 }; (s.sys.mon 40).armed = true ∧ (s.sys.mon 40).owner ≠ 3) :=
  ⟨⟨fires _ _ _, rfl, by unfold kernelMode; decide, rfl⟩, by unfold kernelMode; decide, rfl, ⟨left_of _ _ none _ rfl rfl (by decide +kernel), rfl⟩,
   ⟨by decide, by decide, left_of _ _ none _ rfl rfl (by decide +kernel), by decide, by decide, by decide⟩, by decide, by decide, by decide,
   ⟨by unfold kernelMode; decide, left_of _ _ none _ rfl rfl (by decide +kernel)⟩, by decide⟩

def aQueue : Queue :=
  { ident := 9, colour := 3, clu := 8, depth := 4, buf := [], st := .opened, lasterr := 0, errs := 0, retired := 0, resv := 0, live := 0, next := 0, waiting := false }
def queued (v : Queue) (l : Option Token := none) : State :=
  dev (fun y => { y with ctxs := [(0, { Ctx.zero with rings := 0xFFFD }), (1, { ctx1 with queues := [(7, v)] })] }) l

theorem witness_TrapAndPrivilegedResults :
    (let s := fire; wholeFires s (hd .x64) true ∧ trapFired s.inst = false ∧ s.fly.cur.left = none ∧ s.thread.handler = false) ∧
    (dev fun y => { y with thrs := [(8 * 1024 + 5, { thr with handler := true })] }).thread.handler = true ∧ leftWord (fire (sc .x64 9)) 9 ∧ trapFired (did [.tret]).inst = true ∧
    (let s := queued aQueue (run .x64 [1, 2, 3, 4, 5, 6, 7, 8])
     tabFind (s.sys.ctx 1).queues 7 = some aQueue ∧ aQueue.colour = 3 ∧ operand s.fly.cur (hd .x64) false s.fly.cur.left = .ok [1, 2, 3, 4, 5, 6, 7, 8] ∧ (g .x64 0x70).imm.toNat / 16 % 4096 = 7) ∧
    tabFind ((fire).sys.ctx 1).queues 7 = none ∧
    (let s := dev (fun y => { kernelThread y with ctab := [(0, { w0 := BitVec.ofNat 64 (3 * 2 ^ 52 + 1), w1 := 0 })] }) (sc .x64 0x1040)
     kernelMode s ∧ leftWord s 0x1040 ∧ tabFind (s.sys.ctx 2).queues 7 = none) ∧
    (¬ kernelMode (fire) ∧ (2 : Nat) ≠ (fire).thread.ctx) ∧ (¬ kernelMode (fire (sc .x64 0x1040)) ∧ leftWord (fire (sc .x64 0x1040)) 0x1040) ∧
    (let s := { dev kernelThread (sc .x64 0x1040) with mem := mapped }
     ∃ t, xlateNow s.sys s.mem 0 3 9 {} (0x1040 / 65536) = .ok t ∧ t.sync = true) :=
  ⟨⟨fires _ _ _, by decide, rfl, rfl⟩, rfl, left_of _ _ none _ rfl rfl (by decide +kernel), by decide,
   ⟨by decide, rfl, of_okIs (by decide +kernel), by decide⟩, by decide, ⟨by unfold kernelMode; decide, left_of _ _ none _ rfl rfl (by decide +kernel), by decide⟩,
   ⟨by unfold kernelMode; decide, by decide⟩, ⟨by unfold kernelMode; decide, left_of _ _ none _ rfl rfl (by decide +kernel)⟩, ⟨0, 0x1000000000, 0, true, true, 0⟩, by decide +kernel, rfl⟩

theorem witness_holdsColour : holdsColour (dev fun y => { y with ctab := [(8 * 64, { w0 := BitVec.ofNat 64 (3 * 2 ^ 52 + 2 ^ 4), w1 := 0 })] }).sys 1 3 = true := by decide +kernel

/-- A field comes from the left operand, whose other bits are ignored, or from the instruction without one. -/
theorem witness_fieldFrom :
    fieldFrom (fire (sc .x64 0xC04)) .x64 0 0 10 4 ∧ fieldFrom (fire) .x64 (4 * 256) 8 10 4 ∧ fieldFrom (fire (sc .x64 1024)) .x64 0 8 11 1024 ∧
    fieldFrom (fire) .i32 0x80C000 0 24 0x80C000 :=
  ⟨.inr ⟨0xC04, left_of _ _ none _ rfl rfl (by decide +kernel), rfl, by decide⟩, .inl ⟨rfl, by decide⟩,
   .inr ⟨1024, left_of _ _ none _ rfl rfl (by decide +kernel), rfl, by decide⟩, .inl ⟨rfl, by decide⟩⟩

theorem witness_RingForms :
    (∃ t, (fire (sc .x64 7) (sc .x64 9)).fly.cur.right = some t ∧ t.fmt = .x64 ∧ t.elems.length ≠ 2) ∧
    (0 ≤ 7 ∧ 7 ≤ (xr 0x0700).p.toNat / 256 % 256 ∧ ((dev fun y => { y with ments := [(8 * 256 + 7, { MEnt.reset with st := .armed, slot := 1 })] }).sys.ment 8 7).busy = true) ∧
    (let s := dev fun y => { y with tiles := [(8 * 32, { aTile with colour := 2 })] }
     ringFree s 1 = true ∧ ¬ ∀ t ∈ slotTiles s.sys 1 0, t.colour = 3 ∧ t.ctx = 1) ∧
    (let s := dev fun y => { y with bars := [(8 * 256 + 4, { Bar.reset with mode := .group, colour := 3 })] }
     slotTiles s.sys 1 0 = [] ∧ (s.sys.bar 8 4).colour = 3 ∧ (s.sys.bar 8 4).mode ≠ .count) ∧
    (let s := dev fun y => { y with tiles := [(8 * 32, { aTile with elem := 7 })], clus := [] }
     slotTiles s.sys 1 0 = [{ aTile with elem := 7 }] ∧ ((s.sys.bar 8 4).mode = .free) ∧ ¬ tileBytes 7 ≤ 256) ∧
    (let s := dev fun y => { y with rings := [(1, { Ring.reset with pass := some { aPass with ctx := 2 } })] }
     ∃ p, (s.sys.ring 1).pass = some p ∧ p.colour = 3 ∧ p.ctx ≠ 1) ∧
    (0x800000 : Nat) / 2 ^ 15 % 256 = 0 ∧ 0x808000 / 2 ^ 12 % 8 = 0 ∧ 4 < 0x80D000 / 2 ^ 12 % 8 :=
  ⟨⟨_, rfl, rfl, by decide +kernel⟩, ⟨by decide, by decide, by decide⟩, by decide +kernel, by decide +kernel, by decide +kernel, ⟨_, rfl, rfl, by decide⟩, by decide⟩

theorem witness_StitchedForms :
    (let p := (pinned (sc .x64 3)).sys.pin 8 7
     (∀ u ∈ p.pieces, u.2.2.1 ≤ 3 → 3 < u.2.2.1 + u.2.2.2 → u = (0, 0x1000, 0, 4)) ∧ ∀ u ∈ p.pieces, u.1 = 0 → u = (0, 0x1000, 0, 4)) ∧
    (let s := dev (fun y => { y with pins := [(8 * 256 + 7, { aPin with pieces := [(2, 0x2000, 3, 1)], npieces := 3 })] }) (sc .x64 (7 * 256 + 2)) (sc .x64 1)
     leftWord s (7 * 256 + 2) ∧ rightWord s 1 ∧ 1 < (s.sys.pin 8 7).length ∧ (∀ u ∈ (s.sys.pin 8 7).pieces, ¬ (u.2.2.1 ≤ 1 ∧ 1 < u.2.2.1 + u.2.2.2)) ∧
     1 < (s.sys.pin 8 7).npieces ∧ ∀ u ∈ (s.sys.pin 8 7).pieces, u.1 ≠ 1) ∧
    (let p := { aPin with colour := 2 }; p.held = true ∧ p.gen = 2 ∧ p.colour ≠ 3) :=
  ⟨by decide, ⟨left_of _ _ (sc .x64 1) _ rfl rfl (by decide +kernel), right_of _ (sc .x64 (7 * 256 + 2)) _ _ rfl rfl (by decide +kernel), by decide, by decide, by decide, by decide⟩, by decide⟩

theorem witness_VectorData :
    (let s := fire (sc .x64 (8 * 1024 + 5)) (run .x64 [7, 8])
     leftWord s (8 * 1024 + 5) ∧ (∃ t, s.fly.cur.right = some t ∧ t.vec = true) ∧ operand s.fly.cur (hd .x64) true s.fly.cur.right = .ok [7, 8]) ∧
    (let s := banked (aBank .fifo []) (run .x64 [7, 8]); (∃ t, s.fly.cur.left = some t ∧ t.vec = true) ∧ operand s.fly.cur (hd .x64) true s.fly.cur.left = .ok [7, 8]) :=
  ⟨⟨left_of _ _ (run .x64 [7, 8]) _ rfl rfl (by decide +kernel), ⟨_, rfl, rfl⟩, of_okIs (by decide +kernel)⟩, ⟨_, rfl, rfl⟩, of_okIs (by decide +kernel)⟩

theorem witness_BankForms :
    ((g .x64 0x12).imm.toNat / 16 % 4 = 1 ∧ (g .x64 0x12).imm.getLsbD 6 = false) ∧
    (let s := banked Bank.reset (sc .x64 0x20001) (sc .x64 0); leftWord s 0x20001 ∧ rightWord s 0 ∧ (0x20001 : Word).toNat % 2 ^ 52 % 65536 ≠ 0) ∧
    (rightWord (fire (sc .x64 0) (sc .x64 65536)) 65536 ∧ 65535 < (65536 : Word).toNat) ∧
    (let s := banked { Bank.reset with mode := .pending, bound := true, colour := 3 }; s.fly.cur.left = none ∧ s.fly.cur.right = none ∧ (s.sys.bank 8 2).foreign 3 = false ∧ (s.sys.bank 8 2).mode = .pending) ∧
    fifoLeft (banked (aBank .fifo [anEnt])).fly 8 2 (aBank .fifo [anEnt]) ≠ [] ∧ anEnt.fmt ≠ .f32 ∧
    (let s := banked (aBank .fifo [anEnt])
     let t : State := { s with fly := s.fly.sched 5 (.fire { s.fly.cur with since := s.fly.cur.since + 1 }) }
     ∀ w ∈ t.fly.agenda, ∀ f, w.act = .fire f → t.fly.cur.since ≤ f.since) ∧
    (let s := banked { aBank .fifo [] with colour := 2 } (sc .x64 9); (s.sys.bank 8 2).foreign 3 = true ∧ operand s.fly.cur (hd .x64) true s.fly.cur.left = .ok [9]) :=
  ⟨by decide, ⟨left_of _ _ (sc .x64 0) _ rfl rfl (by decide +kernel), right_of _ (sc .x64 0x20001) _ _ rfl rfl (by decide +kernel), by decide⟩,
   ⟨right_of _ (sc .x64 0) _ _ rfl rfl (by decide +kernel), by decide⟩, ⟨rfl, rfl, by decide, by decide⟩, by decide +kernel, by decide,
   fun w h f e => by
     simp only [Fly.sched] at h
     rcases List.mem_singleton.mp h with rfl
     cases e
     exact Nat.le_succ _, by decide, of_okIs (by decide +kernel)⟩

theorem witness_BarrierForms :
    (leftWord (bars aBar (sc .x64 9)) 9 ∧ ∀ t, (bars aBar (sc .x64 9)).fly.cur.left = some t → t.vec = false) ∧
    ((bars { aBar with colour := 2 }).sys.bar 8 4).colour ≠ 3 ∧ ({ aBar with owed := 1 } : Bar).owed ≠ 0 ∧
    (let s := dev fun y => { y with ctxs := [(1, { ctx1 with groups := [(4, { epoch := 1, live := true, colour := 2, total := 1 })] })] }
     ((s.sys.ctx 1).group 4).live = true ∧ ((s.sys.ctx 1).group 4).colour ≠ 3 ∧ (s.sys.bar 8 4).mode = .free) ∧
    (let s := grouped { gBar with nxt := [5] }; gmemHas s.thread.gmem 4 = true ∧ 5 ∈ (s.sys.bar 8 4).nxt ∧ (s.sys.bar 8 4).mode = .group ∧ ((s.sys.ctx 1).group 4).colour = 3) :=
  ⟨⟨left_of _ _ none _ rfl rfl (by decide +kernel), fun t h => (by cases h; rfl)⟩, by decide, by decide, by decide, by decide⟩


/-! Events. -/

/-- The keys of a table rise, as a computation. -/
def risesB {α : Type} (t : Tab α) : Bool := decide (t.Pairwise fun a b => a.1 < b.1)

def formB (s : State) : Bool :=
  let y := s.sys
  Memory.wf s.mem && risesB s.greg && s.greg.all (fun e => risesB e.2) && risesB y.mons && risesB y.tickets && risesB y.shoots && risesB y.relats && risesB y.loads &&
  risesB y.seals && risesB y.ctxs && risesB y.thrs && risesB y.clus && risesB y.regions && risesB y.parks && risesB y.frames && risesB y.ctab && risesB y.bars && risesB y.lcount &&
  risesB y.banks && risesB y.scratch && risesB y.xfers && risesB y.paccs && risesB y.lanes && risesB y.pins && risesB y.tiles && risesB y.ments && risesB y.tslots && risesB y.rings &&
  risesB y.links && risesB y.routers && risesB y.lines && risesB y.descs && risesB y.spill && risesB y.portTs && y.ctxs.all (fun x => risesB x.2.groups && risesB x.2.keys) && risesB s.fly.insts &&
  risesB s.fly.commits && risesB s.fly.accs && risesB s.fly.posts && risesB s.fly.sleeps

theorem form_of {s : State} (h : formB s = true) : formOk s := by
  simp only [formB, risesB, Bool.and_eq_true, decide_eq_true_eq, List.all_eq_true] at h
  simp only [formOk, tablesRise, rising]
  simp only [and_assoc] at h ⊢
  exact h

/-- A device with an event in the latch. -/
def evs (e : Ev) (f : Sys → Sys := id) (k : Fly → Fly := id) (mem : Memory := []) : State :=
  { base with mem := mem, sys := f base.sys, fly := { k base.fly with ev := e } }

/-- Its own copy of a context. -/
def inCtx (v : Ctx) (y : Sys) : Sys := { y with ctxs := [(0, { Ctx.zero with rings := 0xFFFD }), (1, v)] }

theorem witness_EncodeDecodeAgree : (Instr.add (g .x64 0 (.op .left 126) (.reg 31))).wf = true ∧
    decode 0x1000208000000000 = .ok (.add { h := hd .x64, t0 := .op .left 4, t1 := .none, imm := 0 }) := ⟨by decide, by rfl⟩

theorem witness_StepRunsTheDecoded :
    (let s : State := { base with fly := { base.fly with agenda := [{ due := 100, act := .ev .wake {} }] } }
     s.sys.held = false ∧ s.fly.agenda = { due := 100, act := .ev .wake {} } :: []) ∧
    (let f : Firing := { Firing.none with clu := 8, idx := 1, colour := 3, frame := 5, ser := 7 }
     let s : State := { base with sys := { base.sys with frames := [(8 * 64, { BFrame.reset with st := .resident, words := [0xB702400000000000, 0, 0x0200202000000001, 0x0A00080000000000] })] },
                                  fly := { base.fly with agenda := [{ due := 100, act := .fire f }] } }
     s.fly.inst 8 5 = some inst ∧ inst.ser = f.ser ∧ (s.sys.thr 8 5).halt = 0 ∧
     decode ((s.sys.frame 8 0 0).words.getD (f.idx + 2) 0) = .ok (.exit { h := hd .x64, exitno := 0, retire := true, off := 0 })) ∧
    base.fly.agenda = [] ∧ ({ base with sys := { base.sys with held := true } } : State).sys.held = true :=
  ⟨⟨rfl, rfl⟩, ⟨rfl, rfl, rfl, by rfl⟩, rfl, rfl⟩

theorem witness_StepKeepsForm : formOk base ∧ ∃ t, step base = .next t := ⟨form_of (by decide +kernel), _, rfl⟩

theorem witness_WordsChangeOnlyWhatIsInFlight : (Instr.nop (g .x64)).head.isSome = true ∧ exec (.nop (g .x64)) (fire (sc .x64 1)) = .next (fire (sc .x64 1)) :=
  ⟨rfl, test_nop⟩

theorem witness_TakingATrap :
    (base.fly.inst 8 5 = some inst ∧ inst.trap = none) ∧
    (let r := misuse 1 2 4
     let q := misuse 1 3 6
     ({ inst with trap := some (7, q) } : Inst).trap = some (7, q) ∧ (6 < 7 ∨ (6 = 7 ∧ r.index < q.index)) ∧ ((7 : Nat) < 7 ∨ (7 = 7 ∧ r.index < q.index)) ∧
     ((6 : Nat) < 7 ∨ (6 = 7 ∧ q.index ≤ r.index)) ∧ ((7 : Nat) < 7 ∨ (7 = 7 ∧ r.index ≤ r.index))) ∧
    (let i : Inst := { inst with trap := some (7, misuse 1 0x02 1023) }
     let s := evs { clu := 8, frm := 5, part := 4, id := 7 } id fun f => { f with insts := [(8 * 1024 + 5, i)] }
     s.fly.ev.part = 4 ∧ s.fly.inst 8 5 = some i ∧ i.ser = s.fly.ev.id ∧ (misuse 1 0x02 1023).cause < 32 ∧ (misuse 1 0x02 1023).index < 1024 ∧ (s.sys.thr 8 5).handler = false) ∧
    (let i : Inst := { inst with trap := some (7, misuse 1 0x02 1023) }
     let s := evs { clu := 8, frm := 5, part := 4, id := 7 } (fun y => { y with thrs := [(8 * 1024 + 5, { thr with handler := true })] }) fun f => { f with insts := [(8 * 1024 + 5, i)] }
     s.fly.inst 8 5 = some i ∧ (s.sys.thr 8 5).handler = true ∧ (s.sys.thr 8 5).ctx ≠ 0 ∧ (s.sys.ctx 1).st = .running) :=
  ⟨⟨rfl, rfl⟩, ⟨rfl, by decide, by decide, by decide, by decide⟩, ⟨rfl, rfl, rfl, by decide, by decide, by decide +kernel⟩, rfl, rfl, by decide +kernel, by decide +kernel⟩

theorem witness_StorageReadsBack : Memory.wf mapped = true ∧ formOk base ∧ (1023 : Nat) < 1024 ∧ (31 : Nat) ≠ 0 ∧ (9, 5) ≠ ((8, 5) : Nat × Nat) :=
  ⟨by decide, form_of (by decide +kernel), by decide, by decide, by decide⟩

/-- `%lnksts` in each of its states. -/
def linked (st : Nat) (e : Ev := {}) (f : Sys → Sys := id) : State := evs e fun y => f { y with lnk := BitVec.ofNat 64 (st * 16) }

theorem witness_LinkEvents :
    (∀ n < 6, ((linked n).sys.lnk.extractLsb' 4 3).toNat = n) ∧ (let s := linked 1 { id := 3, part := 6, p := true }; 1 ≤ s.fly.ev.id ∧ s.fly.ev.id ≤ 3 ∧ s.fly.ev.part ≤ 6 ∧ s.fly.ev.p = true) ∧
    (linked 4 { part := 1 }).fly.ev.part = 1 ∧ 2 ≤ (linked 4 { part := 2 }).fly.ev.part ∧
    (let s := linked 2 {} fun y => { y with pstate := 2, lattol := 8 }; 2 ≤ s.sys.power ∧ 8 ≤ (s.sys.lattol.extractLsb' 0 32).toNat) :=
  ⟨by decide, by decide, by decide, by decide, by decide⟩

theorem witness_PowerAndMonitorEvents :
    running base ∧ (let s := evs {} fun y => { y with thrs := [], lattol := 2000 }; ¬ running s ∧ 2 ≤ (s.sys.lattol.extractLsb' 0 32).toNat ∧ 8 ≤ (s.sys.lattol.extractLsb' 0 32).toNat) ∧
    2 ≤ (evs {} fun y => { y with pstate := 4 }).sys.power ∧ base.sys.power < 2 ∧
    (let s := evs { id := 0, ctx := 1, col := 3, word := 9 } fun y => { y with mons := [(40, { Mon.reset with armed := true, colour := 3, ctx := 1 })] }
     s.fly.ev.part ≠ 1 ∧ ∃ m, tabFind s.sys.mons 40 = some m ∧ m.armed = true ∧ m.event = s.fly.ev.id ∧ m.ctx = s.fly.ev.ctx ∧ m.colour = s.fly.ev.col) ∧
    (let s := evs { id := 40, part := 1 } fun y => { y with mons := [(40, { Mon.reset with armed := true, event := 1 })] }
     s.fly.ev.part = 1 ∧ (s.sys.mon s.fly.ev.id).armed = true ∧ (s.sys.mon s.fly.ev.id).event = 1) :=
  ⟨.inl ⟨_, List.mem_singleton_self _, .inl rfl⟩, ⟨by simp [running, evs, base, Sys.reset, Ctx.zero, Ctx.reset, ctx1, Fly.reset], by decide, by decide⟩, by decide, by decide,
   ⟨by decide, _, rfl, rfl, rfl, rfl, rfl⟩, rfl, rfl, rfl⟩

theorem witness_ManagementEvents :
    formOk (evs { ctx := 1, id := 7 }) ∧ ((evs { ctx := 1 } (inCtx { ctx1 with signKeys := [[1], [2], [3], [4]] })).sys.ctx 1).signKeys.length = 4 ∧
    (let s := evs { ctx := 1, bytes := List.replicate 1793 5 }; s.fly.ev.bytes.length = 1793 ∧ (s.sys.ctx 1).signKeys.length < 4 ∧ s.fly.ev.bytes ∉ (s.sys.ctx 1).signKeys) ∧
    base.sys.power < 2 ∧
    (let s := evs { id := 7, word := 0x00000007 }; s.sys.msOwner = s.fly.ev.word.extractLsb' 16 16) ∧ (let s := evs { word := 0x00090000 }; s.sys.msOwner ≠ s.fly.ev.word.extractLsb' 16 16) ∧
    (let s := evs { ctx := 1, id := 1280 } (inCtx { ctx1 with allow := [1280] }); s.fly.ev.part = 0 ∧ s.fly.ev.id ∈ (s.sys.ctx 1).allow ∧ s.fly.ev.id < 2048) ∧
    (evs { id := 1, part := 1 }).fly.ev.part = 1 ∧ (evs { id := 7, part := 3 }).fly.ev.part = 3 ∧ (let s := evs { ctx := 1, id := 1280 }; s.fly.ev.part = 0 ∧ s.fly.ev.id ∉ (s.sys.ctx 1).allow) ∧ base.sys.msOwner = 0 ∧
    (let s := evs { id := 7 } fun y => { y with msOwner := 8 }; s.sys.msOwner ≠ 0 ∧ s.sys.msOwner.toNat ≠ s.fly.ev.id) ∧
    (let s := evs { id := 8, bytes := 0x31 :: List.replicate 95 0 } fun y => inCtx { ctx1 with st := .allocated } { y with msOwner := 8 }
     s.sys.msOwner ≠ 0 ∧ s.sys.msOwner.toNat = s.fly.ev.id ∧ keyRecordOk s.fly.ev.bytes = true ∧ (s.sys.ctx ((BitVec.ofNat 64 (leNat (s.fly.ev.bytes.take 8))).extractLsb' 0 4).toNat).st = .allocated) ∧
    (let s := evs {} fun y => { y with pstate := 4 }; 2 ≤ s.sys.power ∧ ∀ w ∈ s.fly.agenda, ∀ a, w.act ≠ .ev .wake a) :=
  ⟨form_of (by decide +kernel), rfl, ⟨List.length_replicate .., by decide, fun h => (by cases h)⟩, by decide, rfl, by decide, by decide, rfl, rfl, by decide, rfl, by decide, by decide +kernel, by decide, fun w h => (by cases h)⟩


/-- A thread in frame 5 of cluster 8, and a drain of context 1. -/
def aDrain : Drain := { col := none, at_ := 90, marked := [8], halted := false }

theorem witness_ContextAndWatchdogEvents :
    formOk (evs { ctx := 2, word := 0x00010000 } ) ∧
    (let s := evs { ctx := 2, word := 0x00010000 }
     let mask := (s.fly.ev.word.extractLsb' 16 16).toNat
     (s.sys.ctx 2).st = .free ∧ mask ≠ 0 ∧ ∀ q < 16, mask.testBit q = true → s.sys.ctxOf (q * 8) = 0 ∧ ringIdle s.sys q = true) ∧
    ((evs { ctx := 1 }).sys.ctx 1).st ≠ .free ∧ ((evs { ctx := 1 } (inCtx { ctx1 with st := .allocated })).sys.ctx 1).st = .allocated ∧
    ((evs { ctx := 1 } (inCtx { ctx1 with st := .faulted, fcause := 3 })).sys.ctx 1).st = .faulted ∧
    ((evs { ctx := 1 } (inCtx { ctx1 with st := .destroying })).sys.ctx 1).st = .destroying ∧
    (let s := evs { ctx := 2 }; ¬ ((s.fly.ev.word.extractLsb' 16 16).toNat ≠ 0)) ∧
    (let s := evs { ctx := 1 } (inCtx { ctx1 with wlimit := 1, wcount := 1 }); (s.sys.ctx 1).wlimit ≠ 0 ∧ s.sys.counting 1 = true ∧ (s.sys.ctx 1).wlimit * 1024 ≤ s.sys.counted 1) ∧
    (evs { ctx := 1 } (inCtx { ctx1 with st := .faulted })).sys.ctx 1 = { ctx1 with st := .faulted } ∧
    (let s := evs { ctx := 1 } (inCtx { ctx1 with wlimit := 1 }); (s.sys.ctx 1).st ≠ .faulted ∧ (s.sys.ctx 1).wlimit ≠ 0 ∧ s.sys.counting 1 = true) ∧
    (let s := evs { ctx := 1 } (inCtx { ctx1 with wlimit := 2, wcount := 1 }); s.sys.counted 1 < (s.sys.ctx 1).wlimit * 1024) ∧
    (let s := evs { ctx := 1 } (inCtx { ctx1 with st := .faulted, fcause := 1 }); (s.sys.ctx 1).st = .faulted ∧ (s.sys.ctx 1).fcause = 1) :=
  ⟨form_of (by decide +kernel), ⟨rfl, by decide, by decide +kernel⟩, by decide, rfl, rfl, rfl, by decide, by decide +kernel, by decide, by decide +kernel,
   by decide +kernel, rfl, rfl⟩

theorem witness_DrainEvents :
    (let s := evs { ctx := 1, clu := 8, frm := 5, id := 90 } (inCtx { ctx1 with drains := [aDrain] })
     formOk s ∧ (s.sys.ctx 1).drains.find? (fun d => d.col == (if s.fly.ev.p then some s.fly.ev.col else none) && d.at_ == s.fly.ev.id) = some aDrain ∧
     inSet (s.sys.thr 8 5) 1 aDrain ∧ s.fly.inst 8 5 = some inst ∧ (s.sys.ctx 1).st = .running ∧ drainQuiet s 1 aDrain = false ∧ (s.sys.thr 8 5).halt = 0) ∧
    (let s := evs { ctx := 1, clu := 8, id := 90 } (fun y => inCtx { ctx1 with drains := [aDrain] } { y with thrs := [(8 * 1024 + 5, { thr with st := .waiting })] }) fun f => { f with insts := [] }
     formOk s ∧ (s.sys.thr 8 5).st = .waiting ∧ inSet (s.sys.thr 8 5) 1 aDrain) ∧
    (let s := evs { ctx := 1, id := 90 } (fun y => inCtx { ctx1 with drains := [aDrain] } { y with thrs := [] }) fun f => { f with insts := [] }
     formOk s ∧ (s.sys.ctx 1).st = .running ∧ drainQuiet s 1 aDrain = true) ∧
    (let s := evs { clu := 8, frm := 6 }; (s.sys.thr 8 6).st = .free) :=
  ⟨⟨form_of (by decide +kernel), by decide, ⟨by decide, by decide, rfl, .inl rfl⟩, rfl, rfl, by decide +kernel, rfl⟩,
   ⟨form_of (by decide +kernel), rfl, by decide, by decide, rfl, .inl rfl⟩, ⟨form_of (by decide +kernel), rfl, by decide +kernel⟩, rfl⟩

/-- A load of the thread, and a port's caches that map its page. -/
def aLoad : Access :=
  { (default : Access) with
    ser := 7, owner := 1, ctx := 1, ident := 9, clu := 8, frm := 5, colour := 3, idx := 2, lsid := some 0, op := .ld, fmt := .x64, n := 1, t0 := .op .left 3, t1 := .none,
    ord := .none, scope := .blk, segs := [(0x1000, 8, 0)], st := .buffered }

def aRange : Range := { vbase := 0, vlast := 0xFFFFFFFFF, paged := false, common := true, pbase := 0x1000000000, attr := 0x1E8 }
def pRange : Range := { aRange with paged := true, pbase := 0x2000 }
def aPort (r : Range) (ls : List (Nat × Nat × Nat × Word)) : PortT := { ranges := [(1, 4096, r)], leaves := ls, nextIssue := 0 }
def portal (a : Access) (p : PortT) (e : Ev := {}) (mem : Memory := []) : State := evs { e with id := 40 } (fun y => { y with portTs := [(8 * 16, p)] }) (fun f => { f with accs := [(40, a)] }) mem

/-- The same, with the line of the read held under the table key. -/
def at_ (e : Ev) : State :=
  let s := portal aLoad (aPort pRange []) e
  { s with sys := { s.sys with lines := [(0x80, { Line.reset with held := some (tableTag 1) })] } }

theorem witness_TranslationEvents :
    (let s := portal { aLoad with op := .st, released := true } (aPort aRange [])
     formOk s ∧ plainAt s 40 { aLoad with op := .st, released := true } ∧ (byPort s { aLoad with op := .st, released := true }).2 = none ∧ s.fly.ev.part ≠ 1) ∧
    (let s := evs { id := 40 } id fun f => { f with accs := [(39, { aLoad with op := .fence, ord := .acq }), (40, { aLoad with lsid := some 1 })] }
     s.fly.acc 40 = some { aLoad with lsid := some 1 } ∧ mayIssue s.sys s.fly 40 { aLoad with lsid := some 1 } = false) ∧
    (let s := portal aLoad PortT.reset; plainAt s 40 aLoad ∧ inTurn s 40 aLoad ∧ (byPort s aLoad).2 = some (0x1000, .miss false)) ∧
    (byPort (portal aLoad (aPort pRange [])) aLoad).2 = some (0x1000, .miss true) ∧
    (byPort (portal aLoad (aPort pRange [(1, 4096, 0, 0)])) aLoad).2 = some (0x1000, .absent 0) ∧
    (byPort (portal aLoad (aPort pRange [(1, 4096, 0, 0x8)])) aLoad).2 = some (0x1000, .prot 0x51) ∧ (portal aLoad PortT.reset).fly.inst 8 5 = some inst ∧ inst.ser = aLoad.ser ∧
    (let s := portal aLoad PortT.reset { part := 2, col := 2 }; s.fly.ev.part = 2 ∧ 2 ≤ s.fly.ev.col) ∧ (portal aLoad PortT.reset { part := 3 }).fly.ev.part = 3 ∧
    (let s := at_ { part := 1, ent := some 0x2000 }; s.fly.acc 40 = some aLoad ∧ aLoad.st = .buffered ∧ lineReady s (0x2000 / 64) ((s.sys.line (0x2000 / 64)).readTag 1)) ∧
    (portal aLoad PortT.reset { part := 5, bytes := [] }).fly.ev.bytes.length < 33 ∧ 33 ≤ (portal aLoad PortT.reset { part := 5, bytes := List.replicate 33 0 }).fly.ev.bytes.length ∧
    (let w : Word := BitVec.ofNat 64 (leNat [1, 0x40]); w.getLsbD 0 = true ∧ w.extractLsb' 52 12 = 0 ∧ w.extractLsb' 1 11 = 0) ∧
    (let s := portal aLoad (aPort pRange []) { part := 9, bytes := [0xE8] }; s.fly.ev.part = 9 ∧ (s.sys.portT 8 0).hits 1 3 0 = pRange :: []) :=
  ⟨⟨form_of (by decide +kernel), ⟨by decide, rfl, rfl, by decide +kernel, by decide, by decide, by decide, by decide, by decide, by decide⟩, by decide +kernel, by decide⟩, by decide +kernel,
   ⟨⟨by decide, rfl, rfl, by decide +kernel, by decide, by decide, by decide, by decide, by decide, by decide⟩, .inr (.inr (by decide +kernel)), by decide +kernel⟩,
   by decide +kernel, by decide +kernel, by decide +kernel, rfl, rfl, ⟨rfl, by decide⟩, rfl, ⟨by decide, rfl, by decide, by decide +kernel, by decide +kernel⟩, by decide, by decide,
   by decide, rfl, by decide +kernel⟩

def aTicket : Ticket := { ctx := 1, colour := 3, clu := 8, reg := 0, page := 0, since := 10 }

theorem witness_TicketEvents :
    (let s := evs { id := 4 } (fun y => { y with tickets := [(4, aTicket)] })
     formOk s ∧ tabFind s.sys.tickets 4 = some aTicket ∧ (∀ v ∈ s.sys.parks, v.2.on = false ∧ v.2.pending = []) ∧
     (∀ j < 32, (s.sys.xfer 8 j).st ≠ .withheld) ∧ ∀ h ∈ s.sys.thrs, h.2.ticket ≠ some 4) ∧
    (let s := evs { id := 4, part := 40, col := 10 } (fun y => { y with tickets := [(4, aTicket)] }) fun f => { f with accs := [(40, aLoad)] }
     s.fly.acc s.fly.ev.part = some aLoad ∧ aLoad.st ≠ .withheld 4) ∧
    (let s := evs { id := 4, part := 40, col := 10 } (fun y => { y with tickets := [(4, aTicket)] }) fun f => { f with accs := [(40, { aLoad with st := .withheld 4 })] }
     s.fly.acc s.fly.ev.part = some { aLoad with st := .withheld 4 } ∧ s.sys.now < s.fly.ev.col + max 1024 (s.sys.ctx 1).ftlim.toNat) ∧
    (let s := evs { id := 4, part := 40, col := 10 } (fun y => { y with now := 100000, tickets := [(4, aTicket)] }) fun f => { f with accs := [(40, { aLoad with st := .withheld 4 })] }
     s.fly.ev.col + max 1024 (s.sys.ctx 1).ftlim.toNat ≤ s.sys.now ∧ s.fly.acc 40 = some { aLoad with st := .withheld 4 } ∧ aLoad.committed = false ∧ aLoad.frm < 1024 ∧ s.fly.inst 8 5 = some inst) ∧
    (let s := evs { id := 6 } (fun y => { y with shoots := [(6, { ctx := 1, first := 0, last := 3, waits := [40] })] }) fun f => { f with accs := [(40, { aLoad with st := .retired })] }
     tabFind s.sys.shoots 6 = some { ctx := 1, first := 0, last := 3, waits := [40] } ∧ ∀ n ∈ [40], ∀ a, s.fly.acc n = some a → a.st = .retired) ∧
    (let s := evs { id := 6 } (fun y => { y with shoots := [(6, { ctx := 1, first := 0, last := 3, waits := [40] })] }) fun f => { f with accs := [(40, aLoad)] }
     s.fly.acc 40 = some aLoad ∧ aLoad.st ≠ .retired) ∧
    (let s := evs { frm := 7 } fun y => { y with msOwner := 8 }; s.sys.msOwner ≠ 0 ∧ s.sys.msOwner.toNat ≠ s.fly.ev.frm ∧ s.sys.power < 2) :=
  ⟨⟨form_of (by decide +kernel), by decide, by decide, by decide +kernel, by decide⟩, ⟨by decide, by decide⟩, ⟨by decide, by decide +kernel⟩,
   ⟨by decide +kernel, by decide, rfl, by decide, rfl⟩,
   ⟨by decide, fun n h a ha => (by
      rw [List.mem_singleton.mp h] at ha
      have e : some a = some { aLoad with st := .retired } := ha.symm
      cases e; rfl)⟩, ⟨by decide, by decide⟩, by decide⟩

/-- A CFGLD record at 0x9000 that asks for context 1, with the image at 0xA000, and a RELAT there; the record's line is held under its key. -/
def aRecord (w1 : Nat) : Memory := [(0x9001, 0xA0), (0x9008, BitVec.ofNat 8 w1)]
def aKey : KeyTag := { ctx := 1, common := false, colour := 3, ksel := 0 }
def aCfg : Load := { clu := 8, frm := 5, owner := 1, ser := 7, rt := false, record := 0x9000, key := aKey }
def aRel : Relat := { clu := 8, frm := 5, owner := 1, ser := 7, record := 0x9000, key := aKey, told := true, slots := 2, waits := [] }
def recLine (y : Sys) : Sys := { y with lines := [(0x240, { Line.reset with held := some aKey })] }
def loading (q : Load) (mem : Memory) (v : Ctx := ctx1) (e : Ev := {}) : State := evs { e with id := 3 } (fun y => recLine (inCtx v { y with loads := [(3, q)] })) id mem
def relating (mem : Memory) (e : Ev := {}) : State := evs { e with id := 3 } (fun y => recLine { y with relats := [(3, aRel)] }) id mem
def aKernel : Kernel := { ident := 9, st := .ready, blocks := [], injects := [], live := [], safe := [], digest := 0 }
def rtCfg : Load := { aCfg with rt := true, words := [0xA000, 1, 0, 0, 0, 0, 0, 0] }

theorem witness_SystemRecordEvents :
    (let s := relating [(0x9000, 1)] { part := 1 }
     formOk s ∧ tabFind s.sys.relats 3 = some aRel ∧ lineReady s 0x240 aKey ∧ relatBad s.mem 0x9000 = true ∧ (s.sys.thr 8 5).st ≠ .free ∧ (s.sys.thr 8 5).serial = aRel.owner ∧
     (s.sys.thr 8 5).told ≠ some 7 ∧ ∀ r ∈ (s.sys.thr 8 5).deferred, r.ser ≠ some 7) ∧
    relatBad (relating [] { part := 1 }).mem 0x9000 = false ∧ (let s := relating [] {}; s.fly.ev.part = 0 ∧ ∀ n ∈ aRel.waits, ∀ a, s.fly.acc n = some a → a.st = .retired) ∧
    (let s := loading aCfg (aRecord 0x10)
     formOk s ∧ tabFind s.sys.loads 3 = some aCfg ∧ lineReady s 0x240 aKey ∧ loadRecordBad (((List.range 8).map fun n => readWord s.mem (0x9000 + 8 * n)).getD · 0) = true) ∧
    (let s := loading aCfg (aRecord 1); loadRecordBad (((List.range 8).map fun n => readWord s.mem (0x9000 + 8 * n)).getD · 0) = false) ∧
    (let q : Load := { aCfg with words := [0xA000, 1, 0, 0, 0, 0, 0, 0] }
     let s := loading q (aRecord 1) ctx1 { part := 1 }
     q.rt = false ∧ (∃ u, openLines [{ line := 0x240, key := aKey, w := true }] s = .ok u) ∧ imageBad s.mem 0xA000 = true) ∧
    (let s := loading rtCfg (aRecord 1) { ctx1 with st := .faulted } { part := 1 }; mayLoadKernel (s.sys.ctx 1).st = false) ∧
    (let s := loading rtCfg (aRecord 1) ctx1 { part := 1 }; mayLoadKernel (s.sys.ctx 1).st = true ∧ (s.sys.ctx 1).kernel 0 = none) ∧
    (let s := loading rtCfg (aRecord 1) { ctx1 with kernels := [{ aKernel with ident := 0 }] } { part := 1 }; (s.sys.ctx 1).kernel 0 ≠ none) :=
  ⟨⟨form_of (by decide +kernel), by decide, ⟨by decide, by decide +kernel, by decide +kernel⟩, by decide +kernel, by decide, rfl, by decide, fun r h => (by cases h)⟩,
   by decide +kernel, ⟨rfl, fun n h => (by cases h)⟩, ⟨form_of (by decide +kernel), by decide, ⟨by decide, by decide +kernel, by decide +kernel⟩, by decide +kernel⟩, by decide +kernel,
   ⟨rfl, ⟨_, rfl⟩, by decide +kernel⟩, by decide, ⟨by decide, by decide⟩, by decide⟩

theorem witness_RegisterWriteEvents :
    (let s := evs { id := 0x020, clu := 8, frm := 5 }; (s.sys.thr 8 5).st ≠ .free ∧ s.fly.ev.p = false) ∧ (let s := evs { id := 0x01A, word := 1, ctx := 1 }; s.fly.ev.word.getLsbD 0 = true ∧ (s.sys.ctx 1).st = .running) ∧
    (0x040 : Nat) ∉ [0x01A, 0x020, 0x021, 0x030, 0x032] ∧
    (let s := evs { id := 0x018, p := true } fun y => { y with cxsel := 1 }; (s.sys.ctx (s.sys.cxsel.extractLsb' 0 4).toNat).st = .running ∧ s.fly.ev.p = true) ∧
    (let s := evs { word := 0xF } fun y => { y with ctsel := 0x7, cxsel := 1 }; s.sys.ctxOf (ctselOf s.sys).1 ≠ 1) ∧
    (let s := evs { word := 0x10 } fun y => { y with ctsel := BitVec.ofNat 64 (8 * 128 + 0), cxsel := 1 }
     s.sys.ctxOf (ctselOf s.sys).1 = 1 ∧ (s.sys.ctx 1).st = .running ∧ (ctselOf s.sys).2.2 = false ∧ (s.sys.cent (ctselOf s.sys).1 (ctselOf s.sys).2.1).valid = false ∧
     ∃ w : Word, w.extractLsb' 6 58 = (0x10 : Word).extractLsb' 6 58 ∧ w.getLsbD 4 = (0x10 : Word).getLsbD 4 ∧ w.getLsbD 5 = false ∧ w.extractLsb' 0 4 = 0) ∧
    (ctselOf (evs {} fun y => { y with ctsel := BitVec.ofNat 64 (8 * 128 + 64) }).sys).2.2 = true ∧
    (let s := evs { id := 0x043, p := true } fun y => inCtx { ctx1 with st := .allocated } { y with cxsel := 1 }; (s.sys.ctx 1).st = .allocated ∧ s.fly.ev.p = true) ∧
    (let s := evs { id := 0x044, p := true } fun y => inCtx { ctx1 with st := .faulted } { y with cxsel := 1 }; (s.sys.ctx 1).st ≠ .running ∧ (s.sys.ctx 1).st ≠ .suspended ∧ (s.sys.ctx 1).st ≠ .allocated) ∧
    (let s := evs { id := 0x041, p := true, word := 1 } fun y => { y with cxStatus := 1 }; s.sys.cxStatus = 1) ∧
    (let s := evs { id := 0x041, p := true, word := 1 }; (s.fly.ev.word.extractLsb' 0 4).toNat ≠ 0 ∧ s.sys.cxStatus ≠ 1) :=
  ⟨by decide, by decide, by decide, by decide, by decide +kernel, ⟨by decide +kernel, by decide, by decide, by decide, 0x10, by decide, by decide, by decide, by decide⟩, by decide, by decide +kernel, by decide +kernel, rfl, by decide⟩


/-- A record that creates a thread at block 0x10000, and one that injects an X64 token to the left of its instruction 0 for frame 5. -/
def createRec : List Word := [0x10000, 1, 2, 3, 4, 5, 6, 7]
def injectRec : List Word := [BitVec.ofNat 64 (2 ^ 62 + 1 * 2 ^ 56 + 5 * 2 ^ 39), 0x10000, 9, 0, 0, 0, 0, 0]
def aBlk : Blk := { addr := 0x10000, bad := none }
def kernelOf : Kernel := { aKernel with blocks := [aBlk], injects := [(0x10000, 0, .left)] }
def open2 (y : Sys) : Sys := { y with lnk := 0x20 }
def queues (v : Queue) (e : Ev := {}) (ks : List Kernel := []) (f : Sys → Sys := id) : State :=
  evs { e with ctx := 1, id := 7, col := e.col + 2 ^ 25 + 7 * 2 ^ 12 } fun y => f (inCtx { ctx1 with queues := [(7, v)], kernels := ks } (open2 y))
def recBytes (r : List Word) : List Byte := r.flatMap fun w => (List.range 8).map fun i => w.extractLsb' (8 * i) 8
def aPost (a : PostAct) : Post := { ctx := 1, ident := 9, clu := 8, frm := 5, colour := 3, ser := 7, owner := 1, waits := [], ready := true, act := a }
def posted (a : PostAct) (e : Ev := {}) (f : Sys → Sys := id) (k : Fly → Fly := id) : State := evs { e with id := 41 } f fun y => { k y with posts := [(41, aPost a)] }

theorem witness_QueueWriteEvents :
    (let s := queues aQueue { bytes := recBytes createRec }
     portOpen s.sys ∧ s.fly.ev.col / 2 ^ 25 % 16 = 1 ∧ s.fly.ev.col / 2 ^ 12 % 2 ^ 13 = 7 ∧ s.fly.ev.col % 2 ^ 12 = 0 ∧ headKept s.sys 1 aQueue aQueue.buf ∧
     tabFind (s.sys.ctx 1).queues 7 = some aQueue ∧ s.fly.ev.bytes.length = 64 ∧ createRecord (leWords 8 s.fly.ev.bytes) ∧ aQueue.buf.length + aQueue.resv < aQueue.depth ∧
     ((s.sys.ctx 1).kernel aQueue.ident).any (·.st == .retiring) = false) ∧
    ((queues aQueue { col := 63 }).fly.ev.col % 2 ^ 12 = 63) ∧ 2 ≤ (((leWords 8 (recBytes [2 ^ 63])).headD 0).extractLsb' 62 2).toNat ∧
    ({ aQueue with buf := [createRec, createRec, createRec, createRec] } : Queue).depth ≤ [createRec, createRec, createRec, createRec].length ∧
    (((queues aQueue {} [{ aKernel with st := .retiring }]).sys.ctx 1).kernel aQueue.ident).any (·.st == .retiring) = true ∧ (queues aQueue { col := 64 }).fly.ev.col % 2 ^ 12 = 64 ∧
    ((linked 5).sys.lnk.extractLsb' 4 3).toNat ∈ [0, 1, 5] ∧
    (let s := evs { col := 2 ^ 25 + 4103 * 2 ^ 12 + 64 } fun y =>
       inCtx { ctx1 with ports := [(7, { ident := 9, colour := 3, size := 4, base := 0, tail := 6, head := 2, claimed := 0 })] } (open2 y)
     portOpen s.sys ∧ 4096 ≤ s.fly.ev.col / 2 ^ 12 % 2 ^ 13 ∧ s.fly.ev.col % 2 ^ 12 = 64 ∧
       (tabFind (s.sys.ctx (s.fly.ev.col / 2 ^ 25 % 16)).ports (s.fly.ev.col / 2 ^ 12 % 2 ^ 13 - 4096)).isSome = true) ∧
    (let p : Port := { ident := 9, colour := 3, size := 4, base := 0, tail := 6, head := 2, claimed := 0 }
     (p.tail - (2 : Word).setWidth 32).toNat ≤ p.size ∧ p.size < (p.tail - (1 : Word).setWidth 32).toNat) ∧
    (let s := posted (.launch 7 createRec) {} fun y => inCtx { ctx1 with queues := [(7, aQueue)] } y
     tabFind s.fly.posts 41 = some (aPost (.launch 7 createRec)) ∧ tabFind (s.sys.ctx 1).queues 7 = some aQueue ∧ (s.sys.pstate.extractLsb' 0 3).toNat < 2 ∧ createRecord createRec ∧
     ((s.sys.ctx 1).kernel aQueue.ident).any (·.st == .retiring) = false ∧ headKept s.sys 1 aQueue aQueue.buf) :=
  ⟨⟨by unfold portOpen; decide +kernel, by decide, by decide, by decide, fun h hh => (by cases hh), by decide, by decide +kernel,
    by unfold createRecord; decide +kernel, by decide, by decide⟩, by decide, by decide +kernel, by decide, by decide, by decide, by decide,
   ⟨by unfold portOpen; decide +kernel, by decide, by decide, by decide +kernel⟩, by decide, by decide, by decide +kernel, by decide +kernel, by unfold createRecord; decide, by decide +kernel, fun h hh => (by cases hh)⟩

/-- Block 0x10000 resident in frame 0 of region 0 of cluster 8: GETG, whose left position waits for an injected token, EXIT -> 0. -/
def aFrame : BFrame := { BFrame.reset with st := .resident, ctx := 1, ident := 9, blk := 0x10000, words := [0xB702400000000000, 0, 0x0A00080000000000], expect := [1] }
def resident (y : Sys) : Sys := { y with frames := [(8 * 64, aFrame)] }
def idle (y : Sys) : Sys := { y with thrs := [(8 * 1024 + 5, { thr with st := .waiting, next := 0x10000 })] }

theorem entering : mayEnter (evs { part := 1, clu := 8, frm := 5 } (fun y => inCtx { ctx1 with kernels := [kernelOf] } (resident (idle y))) id) 8 5 0 0 :=
  ⟨by decide +kernel, rfl, rfl, by decide, rfl, rfl, ⟨kernelOf, aBlk, by decide +kernel, by decide +kernel, rfl⟩, by decide +kernel, by decide +kernel⟩

theorem witness_RecordStartEvents :
    (let s := queues { aQueue with buf := [createRec] }
     formOk s ∧ tabFind (s.sys.ctx 1).queues 7 = some { aQueue with buf := [createRec] } ∧ (s.sys.clu 8).started ≠ s.sys.now + 1 ∧ (∀ w ∈ s.fly.agenda, ∀ e, w.act = .ev .recordStart e → e.part ≠ 0) ∧
     s.fly.ev.part = 0 ∧ headKept s.sys 1 aQueue [] ∧ s.frameFree 8 0 = true) ∧
    (queues { aQueue with buf := [injectRec] } { part := 2 } [kernelOf] resident).fly.ev.part = 2 ∧
    (let s := queues { aQueue with buf := [injectRec] } {} [kernelOf] resident
     recKind injectRec = 1 ∧ startCode s.sys 1 { aQueue with buf := [injectRec] } injectRec = none ∧ s.sys.residentAt 8 1 (recBlock injectRec) = some (0, 0) ∧
     injectLost s.sys 1 { aQueue with buf := [injectRec] } injectRec = false ∧ mayStart s 1 { aQueue with buf := [injectRec] } injectRec = true) ∧
    (let s := evs { part := 1, clu := 8, frm := 5 } (fun y => inCtx { ctx1 with kernels := [kernelOf] } (resident (idle y))) id; formOk s ∧ (s.sys.thr 8 5).st = .waiting ∧ mayEnter s 8 5 0 0) ∧
    (let s := posted (.spawn 9 0x10000 1 2 3); tabFind s.fly.posts 41 = some (aPost (.spawn 9 0x10000 1 2 3)) ∧ (s.sys.pstate.extractLsb' 0 3).toNat < 2) :=
  ⟨⟨form_of (by decide +kernel), by decide, by decide, fun w h => (by cases h), rfl, fun h hh => (by cases hh), by decide⟩, rfl,
   ⟨by decide, by decide +kernel, by decide +kernel, by decide +kernel, by decide +kernel⟩,
   ⟨form_of (by decide +kernel), rfl, entering⟩, by decide, by decide +kernel⟩

/-- The words of the block in memory, where `mapped` puts 0x10000. -/
def stored : Memory := mapped ++ [(0x1000010005, 0x40), (0x1000010006, 0x02), (0x1000010007, 0xB7), (0x1000010015, 0x08), (0x1000010017, 0x0A)]
def codeTag : KeyTag := { ctx := 1, common := true, colour := 0, ksel := 0 }
/-- The words of a block that its home slices give. -/
def fetchIs (s : State) (ws : List Word) : Bool := match fetchBlock s 1 9 0x10000 with | .ok r => r.1 == ws | .error _ => false
/-- The line of the block is held by its home slice under its key tag. -/
def heldCode (l : Nat) (t : KeyTag) (y : Sys) : Sys := { y with lines := [(l, { (default : Line) with held := some t })] }
/-- The common table maps every page through a page table whose words are zero. -/
def unmapped : Memory := mapped.map fun e => if e.1 = 0x2000001 then (e.1, 0xC0) else e
def loadingFrame (w : List (Nat × Access)) (m : Memory) : State :=
  evs { clu := 8 } (fun y => inCtx { ctx1 with kernels := [kernelOf] } (heldCode (0x1000010000 / 64) codeTag { y with frames := [(8 * 64, { aFrame with st := .loading, words := [], expect := [] })] })) (fun f => { f with accs := w }) m

theorem witness_SchedulerEvents :
    (let w : Wait := { blk := 0x10000, ctx := 1, who := [5], age := 0, at63 := 0 }
     let s := evs { clu := 8 } fun y => inCtx { ctx1 with kernels := [kernelOf] } { y with clus := [(8, { Clu.reset with table := [w] })] }
     formOk s ∧ (s.sys.clu 8).table = [w] ∧ (s.sys.clu 8).overflow = [] ∧ ((s.sys.ctx 1).kernelOf 0x10000).isSome = true ∧ s.sys.present 8 1 0x10000 = false ∧ (s.sys.clu 8).decided ≠ s.sys.now + 1 ∧
     (∀ o ∈ s.fly.agenda, ∀ a, o.act = .ev .reloadDecision a → a.clu ≠ 8) ∧ (s.sys.frame 8 0 0).st = .empty) ∧
    (let s := loadingFrame [] stored
     formOk s ∧ (s.sys.frame 8 0 0).st = .loading ∧ (∀ d < 128, (s.sys.clu d).table = [] ∧ (s.sys.clu d).overflow = []) ∧ (s.sys.ctx 1).kernel 9 = some kernelOf ∧ kernelOf.st = .ready ∧
     fetchVirt s.sys s.mem 1 9 0x10000 = some 0xB702400000000000 ∧ fetchWords s.sys s.mem 1 9 0x10000 3 = some [0xB702400000000000, 0, 0x0A00080000000000] ∧ oldStores s 8 0 0 = false ∧
     fetchIs s [0xB702400000000000, 0, 0x0A00080000000000] = true ∧
     blockCheck 0x10000 [0xB702400000000000, 0, 0x0A00080000000000] [] = none) ∧
    oldStores (loadingFrame [(40, { aLoad with op := .st, released := true, committed := true })] stored) 8 0 0 = true ∧
    (let s := loadingFrame [] unmapped; oldStores s 8 0 0 = false ∧ fetchStop s.sys s.mem 1 9 0x10000 = some (0x10000, .absent 1)) ∧
    (blockCheck 0x10000 [0xB702400000000000, 0, 0x7F00000000000000] []).isSome = true :=
  ⟨⟨form_of (by decide +kernel), rfl, rfl, by decide, by decide +kernel, by decide, fun w h => (by cases h), rfl⟩,
   ⟨form_of (by decide +kernel), rfl, fun _ _ => ⟨rfl, rfl⟩, by decide, rfl, by decide +kernel, by decide +kernel, by decide +kernel, by decide +kernel, by decide +kernel⟩,
   by decide +kernel, ⟨by decide +kernel, by decide +kernel⟩, by decide +kernel⟩

/-- An entry of the colour table for colour 3 with a reserve of 4, every class admitted; the live instance stands in the block. -/
def anEntry : CEnt := { w0 := BitVec.ofNat 64 (3 * 2 ^ 52 + 0xFFFF * 2 ^ 36 + 4 * 2 ^ 27 + 8 * 2 ^ 18 + 1 * 2 ^ 6 + 2 ^ 4), w1 := BitVec.ofNat 64 (1 * 2 ^ 52 + 1 * 2 ^ 16) }
def tokState (e : Ev) (ex : List Nat) (f : Sys → Sys := id) (k : Fly → Fly := id) : State :=
  evs { e with clu := 8 } (fun y => f { y with frames := [(8 * 64, { aFrame with expect := ex })], ctab := [(8 * 64, anEntry)] }) k
def aTok : Token := scalarTok 3 5 0 .x64 9
def toLeft : Dest := { clu := 8, reg := 0, frm := 0, idx := 0, pos := .left }
def aWaiting : Entry := { dest := toLeft, ent := none, tok := aTok, first := 10 }
def inRegion (v : Region) (y : Sys) : Sys := { y with regions := [(8 * 16, v)] }

def tokS : State := tokState { tok := aTok, dest := toLeft, ent := some 7 } [1]
theorem bit_tokS : (tokS.sys.cent 8 0).w0.getLsbD (36 + (tokS.sys.frame 8 0 0).cls) = true := by decide +kernel
theorem thr_tokS : (tokS.sys.thr 8 5).aborted = [] := by decide +kernel
theorem cent_tokS : tokS.sys.centOf 8 3 = some 0 := by decide +kernel
theorem ser_tokS : tokS.fly.inst tokS.fly.ev.clu tokS.fly.ev.tok.frame = some inst := by decide +kernel
theorem welcome_tokS : welcome tokS tokS.fly.ev inst :=
  ⟨ser_tokS, by decide +kernel, by decide +kernel, by decide +kernel, .inr (by decide +kernel), thr_tokS, ⟨0, cent_tokS, bit_tokS⟩, fun h _ => absurd h (by decide +kernel)⟩

def tokA : State := tokState { tok := aTok, dest := toLeft, ent := some 7 } [3]
theorem bit_tokA : (tokA.sys.cent 8 0).w0.getLsbD (36 + (tokA.sys.frame 8 0 0).cls) = true := by decide +kernel
theorem welcome_tokA : welcome tokA tokA.fly.ev inst :=
  ⟨by decide +kernel, by decide +kernel, by decide +kernel, by decide +kernel, .inr (by decide +kernel), by decide +kernel, ⟨0, by decide +kernel, bit_tokA⟩,
   fun h _ => absurd h (by decide +kernel)⟩

theorem witness_TokenEvents :
    formOk tokS ∧ welcome tokS tokS.fly.ev inst ∧ (tokS.sys.region 8 0).entries = [] ∧ (tokS.sys.region 8 0).holds = [] ∧ (tokS.sys.region 8 0).arrived = [] ∧
      (∀ w ∈ tokS.fly.agenda, ∀ a, w.act = .ev .tokenArrival a → a.part ≠ 10) ∧ (tokS.sys.frame 8 0 0).expect.getD 0 0 = posBit .left :=
  ⟨form_of (by decide +kernel), welcome_tokS, rfl, rfl, rfl, fun w h => (by cases h), by decide +kernel⟩

theorem witness_TokenEvents_arrival :
    (Pos.right ≠ Pos.left ∧ Pos.right ∈ positions ((tokState { tok := aTok, dest := toLeft } [3]).sys.frame 8 0 0 |>.expect.getD 0 0)) ∧
    (let s := tokState { tok := aTok, dest := toLeft, ent := some 7 } [3]
     formOk s ∧ welcome s s.fly.ev inst ∧ s.fly.ev.part = 0 ∧ (s.sys.region 8 0).entries = [] ∧ (s.sys.region 8 0).holds = [] ∧ (s.sys.region 8 0).arrived = [] ∧
       ∀ w ∈ s.fly.agenda, ∀ a, w.act = .ev .tokenArrival a → a.part ≠ 9) ∧
    (let s := tokState { part := 9 } [3] (inRegion { Region.reset with arrived := [aWaiting] })
     (s.sys.region 8 0).arrived = [aWaiting] ∧ (s.sys.region 8 0).partials = [] ∧ (s.sys.region 8 0).freeing = [] ∧ s.sys.parked 8 3 = false ∧ s.sys.centOf 8 3 = some 0 ∧ 0 < (s.sys.cent 8 0).reserve) ∧
    (let s := tokState { part := 8, frm := 5 } [1] id fun f => { f with insts := [(8 * 1024 + 5, { inst with reg := 0, combs := [{ idx := 2, v := 6, k := 1 }] })] }
     formOk s ∧ s.fly.ev.part = 8 ∧ (s.fly.inst 8 5).map (fun i => (i.reg, i.combs.length)) = some (0, 1)) :=
  ⟨by decide, ⟨form_of (by decide +kernel), welcome_tokA, rfl, rfl, rfl, rfl, fun w h => (by cases h)⟩, ⟨rfl, rfl, rfl, rfl, by decide +kernel, by decide⟩,
   form_of (by decide +kernel), rfl, by decide⟩

theorem witness_TokenEvents_write :
    (let s := tokState { part := 1, tok := aTok, ent := some 7, col := 2 } [1]; s.fly.inst 8 5 = some inst ∧ s.fly.ev.ent = some inst.ser ∧ (∀ w ∈ inst.writes, w.1 ≠ 2) ∧ inst.exit = none) ∧
    (∃ w ∈ ({ inst with writes := [(2, some 5)] } : Inst).writes, w.1 = 2) ∧ ({ inst with exit := some .retire } : Inst).exit.isSome = true ∧
    (tokState { part := 5, tok := aTok, ent := some 7 } [1] id fun f => { f with insts := [] }).fly.inst 8 5 = none :=
  ⟨⟨rfl, rfl, fun w h => (by cases h), rfl⟩, ⟨_, List.mem_singleton_self _, rfl⟩, rfl, rfl⟩

def parkedAt (p : Park) (e : Ev := {}) : State := tokState { e with col := 3 } [1] fun y => { y with parks := [(8 * 4096 + 3, p)] }

/-- A record sent to the park area, whose line its home slice holds. -/
def parkSt : State :=
  let s := parkedAt { Park.reset with on := true, wr := 1, recs := [(0, aWaiting)], pending := [(0, 0, aWaiting)], sent := [0] } { part := 1, frm := 3 }
  { s with mem := mapped, sys := heldCode (0x1000010000 / 64) codeTag s.sys }

theorem witness_StoreEvents :
    (let s := tokState {} [1] (inRegion { Region.reset with holds := [aWaiting] }) fun f => { f with insts := [] }
     formOk s ∧ (s.sys.region 8 0).holds = [aWaiting] ∧ (s.sys.region 8 0).entries = [] ∧ (s.sys.region 8 0).partials = [] ∧ (s.sys.region 8 0).freeing = [] ∧ s.fly.inst 8 5 = none ∧ s.sys.centOf 8 3 = some 0) ∧
    (let s : State := { (tokState {} [1] fun y => heldCode (0x1000010000 / 64) codeTag (inRegion { Region.reset with entries := [aWaiting] } { y with now := 5000, clus := [(8, { Clu.reset with mscfg := BitVec.ofNat 64 (493 * 2 ^ 16) })] })) with mem := mapped }
     formOk s ∧ s.fly.ev.part = 0 ∧ parkBuffered s.sys 8 0 = 0 ∧
     parkBars s (s.sys.ctxOf 8) 3 (s.sys.thr 8 5).ident (s.sys.cent 8 0).parkBase (64 * (1 + contOf aTok)) = none ∧ (s.sys.region 8 0).entries = [aWaiting] ∧ (∀ r < 16, r ≠ 0 → s.sys.region 8 r = Region.reset) ∧ s.sys.freeShared 8 0 < ((s.sys.clu 8).mscfg.extractLsb' 16 9).toNat ∧ s.sys.centOf 8 3 = some 0 ∧
     s.sys.park 8 3 = Park.reset ∧ 10 + (s.sys.cent 8 0).parkAge < s.sys.now ∧ (1 + contOf aTok) * 64 ≤ (s.sys.cent 8 0).parkSize ∧ contOf aTok ≤ 3) ∧
    (let p := { Park.reset with on := true, wr := 1, recs := [(0, aWaiting)], pending := [(0, 0, aWaiting)], sent := [0] }
     formOk parkSt ∧ parkSt.sys.park 8 3 = p ∧ p.pending.find? (·.1 == 0) = some (0, 0, aWaiting) ∧ p.injecting = false ∧ parkSt.sys.centOf 8 3 = some 0 ∧
     parkBars parkSt (parkSt.sys.ctxOf 8) 3 (parkSt.sys.thr 8 5).ident ((parkSt.sys.cent 8 0).parkBase + 64 * 0) (parkBytes aWaiting 0).length = none ∧
     linesReady parkSt (parkSt.sys.ctxOf 8) 3 ((parkSt.sys.cent 8 0).parkBase + 64 * 0) (parkBytes aWaiting 0).length true) ∧
    (let s := tokState {} [1]; s.sys.freeShared 8 0 ≥ ((s.sys.clu 8).mscfg.extractLsb' 16 9).toNat) ∧
    (let s := parkedAt { Park.reset with on := true, retryAt := some 90 }; (s.sys.park 8 3).recs = [] ∧ (s.sys.park 8 3).retryAt = some 90 ∧ 90 ≤ s.sys.now ∧ s.sys.power < 2 ∧ s.sys.stopped 8 (s.sys.ctxOf 8) 3 = false) ∧
    ((parkedAt { Park.reset with on := true, injecting := true }).sys.park 8 3).injecting = true ∧
    (let s := parkedAt { Park.reset with on := true, retryAt := some 90, recs := [(0, aWaiting)] }
     (s.sys.park 8 3).recs = (0, aWaiting) :: [] ∧ 0 < (s.sys.cent 8 0).retry ∧ readVirt s.sys s.mem (s.sys.ctxOf 8) 3 ((s.sys.cent 8 0).parkBase + 0 * 64) (64 * (1 + contOf aTok)) = none) ∧
    (let s := tokState {} [1] (inRegion { Region.reset with ctrl := [.marker 1 none] }); (s.sys.region 8 0).ctrl = .marker 1 none :: []) ∧
    (let s := tokState {} [1] (inRegion { Region.reset with ctrl := [.stopDone, .kernelDone 1 9] }); (s.sys.region 8 0).ctrl = .stopDone :: [.kernelDone 1 9]) ∧
    ((tokState {} [1] (inRegion { Region.reset with ctrl := [.kernelDone 1 9] })).sys.region 8 0).ctrl = .kernelDone 1 9 :: [] :=
  ⟨⟨form_of (by decide +kernel), rfl, rfl, rfl, rfl, rfl, by decide +kernel⟩, ⟨form_of (by decide +kernel), rfl, by decide +kernel, by decide +kernel, rfl, by decide +kernel, by decide +kernel, by decide +kernel, rfl, by decide, by decide, by decide⟩,
   ⟨form_of (by decide +kernel), by decide +kernel, by decide, rfl, by decide +kernel, by decide +kernel, by unfold linesReady lineReady; decide +kernel⟩,
   by decide +kernel, ⟨rfl, by decide, by decide, by decide, by decide +kernel⟩, rfl, ⟨rfl, by decide, by decide +kernel⟩, rfl, rfl, rfl⟩

def committing (i : Inst) (e : Ev) (f : Sys → Sys := id) : State := evs { e with clu := 8, frm := 5, id := 7 } f fun y => { y with insts := [], commits := [(8 * 1024 + 5, i)] }

/-- An instance with an accumulator, a lane, an MTS and a LAUNCH; one with an exit record alone, the line of whose port is held. -/
def wideInst : Inst :=
  { inst with exit := some (.goto 0x10000), writes := [(31, some 5)], opens := [(4, PAcc.reset)], lanes := [8],
              effs := [{ idx := 0, index := 0, e := .mts 0x010 3 }, { idx := 1, index := 0, e := .lane 8 (.put 6) }, { idx := 2, index := 0, e := .launch 7 createRec }] }
theorem lanes_wide : ∀ n ∈ wideInst.effs, ∀ l o, n.e = .lane l o → l < 4096 := by
  intro n h l o e
  simp only [wideInst, List.mem_cons, List.not_mem_nil, or_false] at h
  rcases h with rfl | rfl | rfl <;> cases e
  decide
def emitInst : Inst := { inst with exit := some (.goto 0x10000), effs := [{ idx := 0, index := 0, e := .emit 7 aTok }] }
def aPort7 : Port := { ident := 9, colour := 3, size := 4, base := 0x10000, tail := 4, head := 4, claimed := 1 }
def emitSt : State :=
  let s := committing emitInst { part := 2 } fun y => heldCode (0x1000010000 / 64) codeTag (inCtx { ctx1 with ports := [(7, aPort7)] } y)
  { s with mem := mapped }

theorem witness_CommitEvents :
    (let i := { inst with committing := true, exit := some .retire }
     let s := evs { clu := 8, frm := 5, id := 7 } id fun y => { y with insts := [(8 * 1024 + 5, i)] }
     formOk s ∧ s.fly.inst 8 5 = some i ∧ roomOk s s.fly.ev i = true ∧ i.msends.length ≤ i.sends) ∧
    (let i := { inst with committing := true, effs := [{ idx := 0, index := 0, e := .emit 7 aTok }] }
     let s := evs { clu := 8, frm := 5, id := 7 } (inCtx { ctx1 with ports := [(7, { ident := 9, colour := 3, size := 4, base := 0, tail := 4, head := 0, claimed := 0 })] }) fun y =>
       { y with insts := [(8 * 1024 + 5, i)] }
     roomOk s s.fly.ev i = false) ∧
    (let i := { inst with exit := some (.goto 0x10000) }
     let s := committing i { part := 2 }
     formOk s ∧ tabFind s.fly.commits (8 * 1024 + 5) = some i ∧ plainInst s i ∧ i.exit = some (.goto 0x10000)) ∧
    (let i := { inst with exit := some (.call 0x10000 0x20000), writes := [(31, some 5)] }
     let s := committing i { part := 3, word := 1 }
     (s.sys.thr 8 5).serial = s.fly.ev.word.toNat ∧ plainInst s i ∧ i.writes = [(31, some 5)] ∧ (i.writes.map Prod.fst).Nodup) ∧
    (plainInst (committing wideInst { part := 3, word := 1 }) wideInst ∧ (wideInst.opens.map Prod.fst).Nodup ∧ (∀ o ∈ wideInst.opens, o.1 < 192) ∧ lanesIn wideInst) ∧
    (formOk emitSt ∧ tabFind emitSt.fly.commits (8 * 1024 + 5) = some emitInst ∧ soleRecord emitSt emitInst 7 aTok ∧ emitInst.exit = some (.goto 0x10000) ∧
     (emitSt.sys.ctx 1).port 7 = some aPort7 ∧ aPort7.late = [] ∧ parkBars emitSt 1 3 9 ((aPort7.base + aPort7.tail.toNat % aPort7.size * 64) % vaMod) 64 = none ∧
     linesReady emitSt 1 3 ((aPort7.base + aPort7.tail.toNat % aPort7.size * 64) % vaMod) 64 true) ∧
    (let s := evs { part := 1, clu := 8, frm := 5, word := 1 } (fun y => inCtx { ctx1 with kernels := [kernelOf] } (resident { y with thrs := [(8 * 1024 + 5, { thr with next := 0x10000 })] })) fun y => { y with insts := [] }
     (s.sys.thr 8 5).serial = s.fly.ev.word.toNat ∧ (s.sys.thr 8 5).st = .active ∧ s.fly.inst 8 5 = none ∧ (s.sys.thr 8 5).held = false ∧ (s.sys.thr 8 5).baraw = none ∧ s.sys.residentAt 8 1 0x10000 = some (0, 0)) ∧
    bariCheck (evs { part := 5, clu := 8, id := 4, reg := 1024, col := 3 }) 8 0 3 (.bariCnt 4 1024) = none ∧
    (let s := evs { part := 6, clu := 8, id := 4, reg := 4, ctx := 1, col := 3 } (inCtx { ctx1 with groups := [(4, { epoch := 1, live := true, colour := 3, total := 1 })] })
     bariCheck s 8 1 3 (.bariGrp 4 4) = none ∧ s.sys.lc 8 4 = 0) ∧
    (let s := evs { part := 7, clu := 8, id := 4 } fun y => { y with bars := [(8 * 256 + 4, { Bar.reset with mode := .count, colour := 3 })] }; bariCheck s 8 0 3 (.bariFree 4) = none ∧ (s.sys.bar 8 4).mode ≠ .free ∧ (s.sys.bar 8 4).hit ≠ s.sys.now + 1) ∧
    (let s := evs { part := 7, clu := 8, frm := 5, id := 4, col := 3, word := 1 } fun y => { y with bars := [(8 * 256 + 4, { Bar.reset with mode := .count, colour := 3, hit := 101 })] }
     (s.sys.bar 8 4).mode ≠ .free ∧ (s.sys.bar 8 4).colour = s.fly.ev.col ∧ (s.sys.bar 8 4).hit = s.sys.now + 1 ∧ s.fly.ev.q = false ∧ (s.sys.thr 8 5).serial = s.fly.ev.word.toNat) ∧
    ((evs {} fun y => { y with lcount := [(8 * 1024 + 4, 2)] }).sys.lc 8 4 ≠ 0) :=
  ⟨⟨form_of (by decide +kernel), rfl, by decide +kernel, by decide⟩, by decide +kernel, ⟨form_of (by decide +kernel), rfl, ⟨fun n h => (by cases h), rfl, rfl, rfl⟩, rfl⟩,
   ⟨rfl, ⟨fun n h => (by cases h), rfl, rfl, rfl⟩, rfl, by decide⟩, ⟨⟨by decide, rfl, rfl, rfl⟩, by decide, by decide, by decide, lanes_wide⟩,
   ⟨form_of (by decide +kernel), by decide, ⟨⟨0, 0, rfl⟩, rfl, rfl, rfl, by decide⟩, rfl, by decide, rfl, by decide +kernel, by unfold linesReady lineReady; decide +kernel⟩,
   ⟨rfl, rfl, rfl, rfl, rfl, by decide +kernel⟩, by decide, ⟨by decide, by decide⟩, by decide +kernel, by decide +kernel, by decide⟩

/-- Thread 5 of cluster 8 with a trap to enter, its vector entry read through the port tile of region 0; `h` is that port's caches. -/
def handling (v : Nat) (h : PortT) (p : Nat := 0) (m : Memory := mapped) : State :=
  evs { clu := 8, frm := 5, part := p } (fun y => inCtx { ctx1 with cxvec := BitVec.ofNat 64 v, kernels := [kernelOf] } (heldCode (0x1000000008 / 64) codeTag (resident
    { y with portTs := [(8 * 16, h)], thrs := [(8 * 1024 + 5, { thr with pend := some (misuse 1 2 0, 0x10000) })] })))
    (fun f => { f with insts := [] }) m
/-- The range cache holds the ranges that cover page 0. -/
def rangeHit : PortT := { (default : PortT) with ranges := (rangesOf base.sys mapped 1 3 0).map fun r => (1, 4096, r) }
def handled : State := handling 1 rangeHit 0 (mapped ++ [(0x100000000A, 0x01)])
/-- The entry has come back. -/
def back : State := { handled with fly := { handled.fly with ev := { clu := 8, frm := 5, part := 6, p := true, col := 0x10000 } } }
/-- A paged range. -/
def pagedR (p : PortT) : PortT := { p with ranges := p.ranges.map fun e => (e.1, e.2.1, { e.2.2 with paged := true }) }

theorem witness_StallAndHandlerEvents :
    (let s := evs { clu := 8, frm := 5, id := 7 }; formOk s ∧ s.fly.inst 8 5 = some inst ∧ (∀ v ∈ s.fly.sleeps, v.2.f.ser ≠ 7) ∧ s.sys.now < inst.start + (s.sys.ctx 1).stall.toNat + inst.asleep) ∧
    (let s := evs { clu := 8, frm := 5, id := 7 } fun y => { y with now := 65536 }; inst.start + (s.sys.ctx 1).stall.toNat + inst.asleep ≤ s.sys.now) ∧
    (let s := handling 0 default
     (s.sys.thr 8 5).pend = some (misuse 1 2 0, 0x10000) ∧ s.fly.ev.part ≠ 4 ∧ s.fly.ev.part ≠ 5 ∧ s.fly.ev.part ≠ 6 ∧ (s.sys.thr 8 5).st = .active ∧ s.fly.inst 8 5 = none ∧
     s.sys.draining 8 (s.sys.thr 8 5) = false ∧ (s.sys.ctx 1).st = .running ∧ (s.sys.ctx 1).cxvec.getLsbD 0 = false) ∧
    (let s := handling 1 default
     formOk s ∧ (s.sys.ctx 1).cxvec.getLsbD 0 = true ∧ (s.sys.portT 8 0).hits 1 3 0 = [] ∧ (rangesOf s.sys s.mem 1 3 0).isEmpty = false ∧ s.fly.ev.part ≠ 1) ∧
    (let s := handling 1 (pagedR rangeHit)
     ((s.sys.portT 8 0).hits 1 3 0).map (·.paged) = [true] ∧ (rangesOf s.sys s.mem 1 3 0).isEmpty = false ∧ s.fly.ev.part ≠ 2 ∧ (s.sys.portT 8 0).leaves = []) ∧
    (formOk handled ∧ ((handled.sys.portT 8 0).hits 1 3 0).map (·.paged) = [false] ∧ (rangesOf handled.sys handled.mem 1 3 0).isEmpty = false ∧
     vectorEntry handled 1 3 9 1 = some 0x10000 ∧ linesReady handled 1 3 8 8 false) ∧
    vectorEntry (handling 1 rangeHit) 1 3 9 1 = none ∧ (handling 1 rangeHit 6).fly.ev.part = 6 ∧ (1 : Nat) ≠ 0 ∧
    (formOk back ∧ back.fly.ev.p = true ∧ (back.sys.thr 8 5).late = false ∧
     mayEnter { back with sys := back.sys.setThr 8 5 { back.sys.thr 8 5 with handler := true, pend := none, next := back.fly.ev.col } } 8 5 0 0) :=
  ⟨⟨form_of (by decide +kernel), rfl, fun v h => (by cases h), by decide +kernel⟩, by decide +kernel,
   ⟨by decide +kernel, by decide, by decide, by decide, by decide +kernel, rfl, by decide +kernel, by decide +kernel, by decide +kernel⟩,
   ⟨form_of (by decide +kernel), by decide +kernel, by decide +kernel, by decide +kernel, by decide⟩, ⟨by decide +kernel, by decide +kernel, by decide, by decide +kernel⟩,
   ⟨form_of (by decide +kernel), by decide +kernel, by decide +kernel, by decide +kernel, by unfold linesReady lineReady; decide +kernel⟩,
   by decide +kernel, rfl, by decide, form_of (by decide +kernel), rfl, by decide +kernel,
   by decide +kernel, by decide +kernel, by decide +kernel, by decide +kernel, by decide +kernel, by decide +kernel, ⟨kernelOf, aBlk, by decide +kernel, by decide +kernel, rfl⟩, by decide +kernel, by decide +kernel⟩

/-- An access of the thread on its way to the home slice of the line of 0x1000, and the line's key tag. -/
def atHome (op : AccOp) : Access := { aLoad with op := op, xl := [⟨0, 0x1000000000, 0, true, true, 0⟩], st := .issued }
def homeTag : KeyTag := { ctx := 1, common := true, colour := 0, ksel := 0 }
def homeLine : Line := { Line.reset with held := some homeTag }
def home (a : Access) (v : Line) (e : Ev := {}) (f : Sys → Sys := id) (m : Memory := []) : State :=
  evs { e with id := 40 } (fun y => f { y with lines := [(0x40000040, v)] }) (fun k => { k with accs := [(40, a)] }) m
def oneByte : WByte := { va := 0x1003, val := 7, mask := 0xF }
def aStore : Access := { atHome .st with wr := [oneByte], released := true, committed := true }

theorem partAt_home (a : Access) (v : Line) (h : a = atHome a.op ∨ a = { atHome .st with wr := a.wr, released := true, committed := true }) :
    partAt (home a v) a ⟨0, 0x1000000000, 0, true, true, 0⟩ 64 0x40000040 := by
  have hl : a.lines = [64] := by rcases h with h | h <;> rw [h] <;> rfl
  have hx : a.xlat (64 * 64) = some ⟨0, 0x1000000000, 0, true, true, 0⟩ := by rcases h with h | h <;> rw [h] <;> rfl
  refine ⟨rfl, ?_, hx, by decide, by decide, ?_⟩
  · rw [hl]; rfl
  · rcases h with h | h <;> rw [h] <;> rfl

theorem witness_AccessEvents :
    (formOk (home (atHome .ld) homeLine) ∧ partAt (home (atHome .ld) homeLine) (atHome .ld) ⟨0, 0x1000000000, 0, true, true, 0⟩ 64 0x40000040 ∧
      lineFree (home (atHome .ld) homeLine) (atHome .ld) ⟨0, 0x1000000000, 0, true, true, 0⟩ 0x40000040 ∧ tabFind (home (atHome .ld) homeLine).sys.descs 0x40000040 = none) ∧
    (let s := home aStore homeLine
     partAt s aStore ⟨0, 0x1000000000, 0, true, true, 0⟩ 64 0x40000040 ∧ lineFree s aStore ⟨0, 0x1000000000, 0, true, true, 0⟩ 0x40000040 ∧ oneByte ∈ aStore.wr ∧ oneByte.va / 64 = 64 ∧
     aStore.pa oneByte.va = some 0x1000001003 ∧ (aStore.wr.filter fun u => decide (u.va / 64 = 64) && decide (aStore.pa u.va = some 0x1000001003)) = [oneByte]) ∧
    (let a := { atHome (.atom .add) with n := 8 }; a.segs = [(0x1000, a.n, 0)]) ∧
    (let a := atHome .stf; let s := home a { homeLine with parked := [41] }
     a.word.getD 0 * 8 / 64 = 0x40000040 ∧ 41 ∈ (s.sys.line 0x40000040).parked ∧ (41 : Nat) ≠ s.fly.ev.id ∧ (atHome .lde).word = some (a.word.getD 0 * 8 / 8)) ∧
    (atHome .clrf).word.getD 0 * 8 / 64 = 0x40000040 ∧
    (let s := home (atHome .lde) { homeLine with fe := 1 }; (s.sys.line 0x40000040).fe &&& BitVec.ofNat 8 (2 ^ (((atHome .lde).word.getD 0 * 8) % 64 / 8)) ≠ 0) ∧
    (let s := home (atHome .lde) homeLine
     (s.sys.line 0x40000040).fe &&& BitVec.ofNat 8 (2 ^ (((atHome .lde).word.getD 0 * 8) % 64 / 8)) = 0 ∧ (atHome .lde).dead = false ∧ (s.sys.line 0x40000040).parked.length < 8) ∧
    (let s := home (atHome .lde) { homeLine with parked := List.range 8 } {} fun y => { y with spill := [((atHome .lde).slice 0, List.range 4096)] }
     8 ≤ (s.sys.line 0x40000040).parked.length ∧ 4096 ≤ (tabGet [] s.sys.spill ((atHome .lde).slice s.fly.ev.part)).length) ∧
    ((home (atHome .ld) { homeLine with last := some 100 }).sys.line 0x40000040).last = some (home (atHome .ld) homeLine).sys.now :=
  ⟨⟨form_of (by decide +kernel), partAt_home _ _ (.inl rfl), ⟨by decide +kernel, by decide +kernel⟩, rfl⟩,
   ⟨partAt_home _ _ (.inr rfl), ⟨by decide +kernel, by decide +kernel⟩, List.mem_singleton_self _, by decide, by decide +kernel, by decide +kernel⟩, rfl,
   ⟨by decide +kernel, by decide +kernel, by decide, by decide +kernel⟩, by decide +kernel, by decide +kernel, ⟨by decide +kernel, rfl, by decide +kernel⟩,
   ⟨by decide +kernel, by
     have h : (home (atHome .lde) { homeLine with parked := List.range 8 } {} fun y => { y with spill := [((atHome .lde).slice 0, List.range 4096)] }).fly.ev.part = 0 := rfl
     rw [h]
     show 4096 ≤ (tabGet [] [((atHome .lde).slice 0, List.range 4096)] ((atHome .lde).slice 0)).length
     simp [tabGet, tabFind]⟩, by decide +kernel⟩

/-- A scratch access of the thread, to bank 0. -/
def aScr (op : AccOp) : Access := { aLoad with op := op, scr := true, st := .issued, wr := [oneByte] }
def inScr (op : AccOp) (u : Option Nat := none) : State := evs { id := 40 } (fun y => { y with banks := [(8 * 16, { Bank.reset with used := u })] }) fun k => { k with accs := [(40, aScr op)] }

/- Whether a fetched line passes its error-correcting code is a free value of Config: a line whose key tag is another's shows the failing case,
and nothing else stands in the way of the other. -/
theorem witness_LineAndResponseEvents :
    (let s := home (atHome .ld) { homeLine with held := some { homeTag with colour := 7 } }
     formOk s ∧ partAt s (atHome .ld) ⟨0, 0x1000000000, 0, true, true, 0⟩ 64 0x40000040 ∧ (s.sys.line 0x40000040).held ≠ some ((atHome .ld).tagAt s.sys 0x40000040 ⟨0, 0x1000000000, 0, true, true, 0⟩) ∧
     (s.sys.line 0x40000040).last ≠ some s.sys.now ∧ (s.sys.line 0x40000040).held = some { homeTag with colour := 7 }) ∧
    (let s := home (atHome .ld) { Line.reset with ktag := some ⟨homeTag, some 0⟩ }
     (s.sys.line 0x40000040).held = none ∧ (s.sys.line 0x40000040).ktag = some (s.sys.storedAs ((atHome .ld).tagAt s.sys 0x40000040 ⟨0, 0x1000000000, 0, true, true, 0⟩))) ∧
    (let s := home (atHome .ld) { Line.reset with ktag := some ⟨{ homeTag with colour := 7 }, some 0⟩ }
     (s.sys.line 0x40000040).held = none ∧ (∃ h, (s.sys.line 0x40000040).ktag = some h ∧ h ≠ s.sys.storedAs ((atHome .ld).tagAt s.sys 0x40000040 ⟨0, 0x1000000000, 0, true, true, 0⟩)) ∧
     (atHome .ld).ctx ≠ 0 ∧ (s.sys.ctx 1).st = .running) ∧
    (let a := { atHome .lde with st := .parked }; let s := home a { homeLine with parked := [40] }; s.fly.accs = [(s.fly.ev.id, a)] ∧ a.st = .parked) ∧
    ((atHome .lde).st ≠ .parked ∧ (atHome .lde).dead = false) ∧
    (let a := { atHome .ld with st := .performed, tag := 9, n := 8 }
     let s := evs { id := 40 } id fun k => { k with accs := [(40, a)], insts := [] }
     formOk s ∧ s.fly.accs = [(s.fly.ev.id, a)] ∧ s.fly.posts = [] ∧ s.fly.inst a.clu a.frm = none ∧ s.fly.ev.part = 0 ∧ a.dead = false ∧ a.st = .performed ∧ a.lsid.isSome = true ∧ a.vec = false ∧
     a.y = 0 ∧ a.segs = [(0x1000, 8, 0)] ∧ a.t0 = .op .left 3 ∧ a.t1 = .none ∧ a.tag ≠ 0 ∧ (s.sys.thr a.clu a.frm).serial = a.owner) ∧
    (aStore.op = .st ∧ aStore.released = true) ∧
    (let s := inScr .ld (some 100); s.fly.acc 40 = some (aScr .ld) ∧ (aScr .ld).lines[s.fly.ev.part]? = some 64 ∧ (s.sys.bank (aScr .ld).clu (64 / 1024)).used = some s.sys.now) ∧
    (let s := inScr .st; s.fly.acc 40 = some (aScr .st) ∧ (s.sys.bank 8 0).used ≠ some s.sys.now ∧ (aScr .st).lines.length ≤ (aScr .st).done + 1 ∧
      oneByte ∈ (aScr .st).wr ∧ oneByte.va / 64 = 64 ∧ ((aScr .st).wr.filter fun u => u.va == oneByte.va) = [oneByte]) :=
  ⟨⟨form_of (by decide +kernel), partAt_home _ _ (.inl rfl), by decide +kernel, by decide +kernel, by decide +kernel⟩, ⟨by decide +kernel, by decide +kernel⟩,
   ⟨by decide +kernel, ⟨_, rfl, by decide +kernel⟩, by decide, rfl⟩, ⟨rfl, rfl⟩, ⟨by decide, rfl⟩,
   ⟨form_of (by decide +kernel), rfl, rfl, rfl, rfl, rfl, rfl, rfl, rfl, rfl, rfl, rfl, rfl, by decide, by decide +kernel⟩, ⟨rfl, rfl⟩, ⟨rfl, by decide +kernel, by decide +kernel⟩,
   ⟨rfl, by decide +kernel, by decide +kernel, List.mem_singleton_self _, by decide, by decide +kernel⟩⟩

/-- A live descriptor of colour 3 in the line of 0x1000, its area at 0x10000 and its splice record at 0x2000; LENGTH 100, slot 0 valid. -/
def aDesc : Desc := { ctx := 1, colour := 3, va := 0x1000, area := 0x10000, esize := 0, fllog := 4, seq := 0, vers := [{ seq := 0, slot := 0, pins := 0, retiring := false }], ins := [], exts := [] }
def aSplice : Access := { atHome .splice with b := 0x2000, x := 1, xl := [⟨0, 0x1000000000, 0, true, true, 0⟩, ⟨1, 0x1000010000, 0, true, true, 0⟩] }
def stitched (a : Access) (d : Option Desc) (m : Memory := []) (e : Ev := {}) (f : Sys → Sys := id) : State :=
  home a homeLine e (fun y => f { y with descs := (d.map fun v => (0x40000040, v)).toList }) m

/-- LENGTH 100, VALID 1; the record's REMOVE 10 at POSITION `n`, one piece of `k` elements. -/
def descMem (n k : Nat) : Memory :=
  [(0x1000001000, 100), (0x1000001010, 1), (0x1000002000, BitVec.ofNat 8 n), (0x1000002008, 10), (0x1000002041, 0x30)] ++ if k = 0 then [] else [(0x1000002048, BitVec.ofNat 8 k)]

theorem witness_StitchedEvents_splice :
    (let s := stitched aSplice (some aDesc) (descMem 95 1)
     formOk s ∧ atDesc s aSplice 0x40000040 ∧ tabFind s.sys.descs 0x40000040 = some aDesc ∧ aDesc.ctx = aSplice.ctx ∧ aDesc.colour = aSplice.colour ∧
     aSplice.pa ((fieldOf aSplice.b 0 52 + 24) % vaMod) = some 0x1000002018 ∧ aSplice.pa (fieldOf aSplice.b 0 52 % vaMod) = some 0x1000002000 ∧
     aSplice.pa ((fieldOf aSplice.b 0 52 + 8) % vaMod) = some 0x1000002008 ∧ (0x1000002018 : Nat) % 8 = 0 ∧ (0x1000002018 : Nat) / 64 ≠ 0x40000040 ∧
     ((readWord s.mem (0x40000040 * 64)).extractLsb' 0 32).toNat < ((readWord s.mem 0x1000002000).extractLsb' 0 32).toNat + ((readWord s.mem 0x1000002008).extractLsb' 0 32).toNat) ∧
    (let m := descMem 5 0; fieldOf (readWord m 0x1000002048) 0 32 = 0) ∧
    (let s := stitched aSplice (some aDesc) ([(0x6001, 0x80), (0x600A, 0xFF), (0x6014, 0x10)] ++ descMem 5 1)
     (match spliceOf s.sys s.mem 0x40000040 aDesc 5 10 [(0x3000, 1)] with | .version slot n _ _ => slot == 1 && n == 91 | _ => false) = true) :=
  ⟨⟨form_of (by decide +kernel), ⟨rfl, _, rfl, by decide +kernel, by decide, by decide +kernel, by decide +kernel⟩, by decide +kernel, rfl, rfl, by decide +kernel, by decide +kernel, by decide +kernel, by decide, by decide, by decide +kernel⟩,
   by decide +kernel, by decide +kernel⟩

theorem witness_StitchedEvents_others :
    (let s := stitched (atHome .sfree) (some aDesc) (descMem 0 0)
     atDesc s (atHome .sfree) 0x40000040 ∧ ((readWord s.mem (0x40000040 * 64 + 24)).extractLsb' 0 16).toNat = 0 ∧ aDesc.vers.length ≤ 1) ∧
    (1 < ({ aDesc with vers := aDesc.vers ++ aDesc.vers } : Desc).vers.length) ∧
    (let s := stitched (atHome .snew) none; atDesc s (atHome .snew) 0x40000040 ∧ tabFind s.sys.descs 0x40000040 = none) ∧
    (let s := stitched { aStore with wr := aStore.wr } (some { aDesc with colour := 2 })
     tabFind s.sys.descs 0x40000040 = some { aDesc with colour := 2 } ∧ oneByte ∈ aStore.wr ∧ oneByte.mask ≠ 0 ∧ aStore.colour ≠ ({ aDesc with colour := 2 } : Desc).colour) ∧
    (let x : Ext := { ins := 0, rem := 1, base := 0x9000, count := 4, freedBy := some 1 }
     let s := stitched (atHome .ld) (some { aDesc with exts := [x] })
     tabFind s.sys.descs 0x40000040 = some { aDesc with exts := [x] } ∧ x.freedBy.isSome = true ∧
     ((readWord s.mem (0x40000040 * 64 + 40)).extractLsb' 32 32 - (readWord s.mem (0x40000040 * 64 + 40)).extractLsb' 0 32).toNat < 2 ^ aDesc.fllog) ∧
    ({ ins := 0, rem := 1, base := 0x9000, count := 4, freedBy := none } : Ext).freedBy = none :=
  ⟨⟨⟨rfl, _, rfl, by decide +kernel, by decide, by decide +kernel, by decide +kernel⟩, by decide +kernel, by decide⟩, by decide,
   ⟨⟨rfl, _, rfl, by decide +kernel, by decide, by decide +kernel, by decide +kernel⟩, rfl⟩, ⟨by decide +kernel, List.mem_singleton_self _, by decide, by decide⟩,
   ⟨by decide +kernel, rfl, by decide +kernel⟩, rfl⟩

def bankAt (v : Bank) (e : Ev := {}) (f : Sys → Sys := id) : State := evs { e with clu := 8, id := 2 } fun y => f { y with banks := [(8 * 16 + 2, v)] }

theorem witness_BankBehaviour_events :
    (let s := bankAt { Bank.reset with mode := .pending, next := .fifo }
     formOk s ∧ (s.sys.bank 8 2).mode = .pending ∧ s.fly.ev.part ≠ 1 ∧ ¬ ((∃ k < 32, (s.sys.xfer 8 k).inBank 2 = true) ∨ ∃ a ∈ s.fly.accs, a.2.clu = 8 ∧ a.2.inBank 2 = true ∧ a.2.st = .issued)) ∧
    (let s := bankAt { Bank.reset with mode := .pending, next := .fifo } {} fun y => { y with xfers := [(8 * 32 + 1, { aXfer with st := .moving, src := 0x20000 })] }
     ∃ k < 32, (s.sys.xfer 8 k).inBank 2 = true) ∧
    (bankAt { Bank.reset with mode := .pending } { part := 1 }).fly.ev.part = 1 ∧ ((bankAt Bank.reset).sys.bank 8 2).mode ≠ .pending ∧
    (let s := bankAt { Bank.reset with mode := .cache, lines := [(64, 7, true)] } { ctx := 1 }
     s.sys.ctxOf 8 = s.fly.ev.ctx ∧ (s.sys.bank 8 2).mode = .cache ∧ (s.sys.bank 8 2).rdonly = false) :=
  ⟨⟨form_of (by decide +kernel), by decide, by decide, by
      rintro (⟨k, hk, h⟩ | ⟨a, ha, _⟩)
      · exact absurd h (by revert k; decide +kernel)
      · cases ha⟩,
   ⟨1, by decide, by decide +kernel⟩, rfl, by decide +kernel, by decide +kernel⟩

def xferAt (v : Xfer) (e : Ev := {}) (f : Sys → Sys := id) (k : Fly → Fly := id) (m : Memory := []) : State := evs { e with clu := 8 } (fun y => f { y with xfers := [(8 * 32 + 1, v)] }) k m
def aSleep : Sleep := { f := { Firing.none with clu := 8, idx := 2, colour := 3, frame := 5, ser := 7 }, t0 := .op .left 3, t1 := .none, start := 0, until_ := 0, slept := 0 }
def outward : Xfer := { aXfer with st := .moving, dscr := false, dst := 0x1000, pcur := 90 }

/-- The condition of a wake: no entry of the slots is moved or queued before `v`. -/
theorem served_alone (s : State) (v : Xfer) (q : Bool) (h : s.sys.xfers = [(8 * 32 + 1, v)]) (hm : ¬ (v.st = .moving ∧ v.ends = 0) ∨ q = false) : served s 8 v q := by
  have at_ : ∀ n < 32, n ≠ 1 → s.sys.xfer 8 n = Xfer.reset := fun n hn h1 => by
    have : ¬ (8 * 32 + 1 = 8 * 32 + n) := by omega
    unfold Sys.xfer
    rw [h]
    have h2 : ¬ (256 + n = 257) := by omega
    simp [tabGet, tabFind, h2]
  have at1 : s.sys.xfer 8 1 = v := by
    unfold Sys.xfer
    rw [h]
    simp [tabGet, tabFind]
  intro n hn
  by_cases h1 : n = 1
  · subst h1
    unfold moves
    rw [at1]
    refine ⟨fun hv => ?_, fun _ _ => Nat.le_refl _⟩
    rcases hm with hm | hm
    · exact absurd hv hm
    · exact ⟨hm, Nat.le_refl _⟩
  · unfold moves
    rw [at_ n hn h1]
    exact ⟨fun hv => absurd hv.1 (by decide), fun _ hq => absurd hq (by decide)⟩

theorem witness_TransferBehaviour_events :
    (let s := xferAt aXfer { id := 40, part := 1 }
     formOk s ∧ (s.sys.xfer 8 1) = aXfer ∧ aXfer.acc = s.fly.ev.id ∧ aXfer.st = .queued ∧ served s 8 aXfer true ∧ scratchCopy aXfer ∧ ¬ noTick s) ∧
    (let s := xferAt { aXfer with seq := 2 } { id := 40, part := 1 } fun y => { y with xfers := (8 * 32 + 0, aXfer) :: y.xfers }
     (s.sys.xfer 8 0).st = .queued ∧ (s.sys.xfer 8 0).seq < (s.sys.xfer 8 1).seq) ∧
    noTick (xferAt aXfer {} fun y => { y with now := 3, pstate := 1 }) ∧
    (let v := { aXfer with st := .moving }; let s := xferAt v { id := 1, col := 5, part := 1 }
     s.sys.xfer 8 1 = v ∧ v.gen.toNat = s.fly.ev.col ∧ s.fly.ev.part = 1 ∧ v.ends = 0 ∧ served s 8 v false ∧ scratchCopy v ∧ ¬ noTick s) ∧
    (let s := xferAt outward { id := 1, col := 5, part := 1 }
     s.sys.xfer 8 1 = outward ∧ served s 8 outward false ∧ outward.moved < outward.total ∧ (outward.stopAt s.sys s.mem (xferIdent s.fly outward) outward.moved).isSome = true) ∧
    (let v := { aXfer with st := .moving, seq := 2 }; let s := xferAt v { id := 1, col := 5, part := 1 } fun y => { y with xfers := (8 * 32 + 0, { aXfer with st := .moving }) :: y.xfers }
     moves s 8 0 ∧ (s.sys.xfer 8 0).seq < v.seq) ∧
    (let v := { aXfer with st := .moving, moved := 64, ends := 101 }; let s := xferAt v { id := 1, col := 5 }
     s.sys.xfer 8 1 = v ∧ s.fly.ev.part ≠ 1 ∧ v.ends ≠ 0 ∧ v.total ≤ v.moved ∧ v.stopAt s.sys s.mem (xferIdent s.fly v) v.moved = none) ∧
    (let v := { outward with ends := 101 }; let s := xferAt v { id := 1, col := 5 }
     s.sys.xfer 8 1 = v ∧ (match v.stopAt s.sys s.mem (xferIdent s.fly v) v.moved with | some (0x1000, r) => r != .uncorrectable | _ => false) = true) ∧
    (let s := xferAt aXfer { id := 9, word := xferTok } id fun k => { k with sleeps := [(9, aSleep)] }
     tabFind s.fly.sleeps 9 = some aSleep ∧ s.sys.now < cycleOf s.sys.now (wakeAt s.sys 8 false xferTok)) ∧
    (let s := xferAt { aXfer with gen := 6 } { id := 9, word := xferTok } (fun y => { y with now := 5000 }) fun k => { k with sleeps := [(9, aSleep)] }
     cycleOf s.sys.now (wakeAt s.sys 8 false xferTok) ≤ s.sys.now ∧ (s.sys.xfer 8 (xferTok.toNat / 2 ^ 48 % 32)).gen.toNat ≠ xferTok.toNat / 2 ^ 53 ∧ aSleep.t0 = .op .left 3 ∧
     ((s.fly.inst 8 5).any fun i => i.ser == aSleep.f.ser && i.copies.any fun p => p.2 == xferTok) = false) ∧
    (let s := xferAt aXfer { id := 9, word := xferTok } (fun y => { y with now := 5000 }) fun k => { k with sleeps := [(9, aSleep)], insts := [(8 * 1024 + 5, { inst with copies := [(41, xferTok)] })] }
     cycleOf s.sys.now (wakeAt s.sys 8 true xferTok) ≤ s.sys.now ∧ ((s.fly.inst 8 5).any fun i => i.ser == aSleep.f.ser && i.copies.any fun p => p.2 == xferTok) = true) ∧
    (let s := xferAt { aXfer with st := .withheld } { id := 9, word := xferTok } (fun y => { y with now := 5000 }) fun k => { k with sleeps := [(9, aSleep)], insts := [] }
     cycleOf s.sys.now (wakeAt s.sys 8 false xferTok) ≤ s.sys.now ∧ (s.sys.xfer 8 (xferTok.toNat / 2 ^ 48 % 32)).gen.toNat = xferTok.toNat / 2 ^ 53 ∧
     (s.sys.xfer 8 (xferTok.toNat / 2 ^ 48 % 32)).st = .withheld ∧ s.fly.inst 8 5 = none) :=
  ⟨⟨form_of (by decide +kernel), by decide +kernel, rfl, rfl, served_alone _ _ _ rfl (.inl (by decide)), by unfold scratchCopy; decide, by unfold noTick; decide +kernel⟩,
   ⟨by decide +kernel, by decide +kernel⟩, by unfold noTick; decide +kernel,
   ⟨by decide +kernel, by decide +kernel, rfl, rfl, served_alone _ _ _ rfl (.inr rfl), by unfold scratchCopy; decide, by unfold noTick; decide +kernel⟩,
   ⟨by decide +kernel, served_alone _ _ _ rfl (.inr rfl), by decide, by decide +kernel⟩,
   ⟨by unfold moves; decide +kernel, by decide +kernel⟩,
   ⟨by decide +kernel, by decide, by decide, by decide, by decide +kernel⟩,
   ⟨by decide +kernel, by decide +kernel⟩,
   ⟨rfl, by decide +kernel⟩, ⟨by decide +kernel, by decide +kernel, rfl, by decide +kernel⟩, ⟨by decide +kernel, by decide +kernel⟩, by decide +kernel, by decide +kernel,
   by decide +kernel, rfl⟩

/-- A ring's pass, its two tiles from stop 0, and its entry 0 at stop 0. -/
def anI : PTile := { fam := 0, origin := 0, colour := 3, elem := 0, tag := 0, remain := 2, data := 7 }
def aK : PTile := { anI with fam := 1 }
def aMEnt : MEnt := { MEnt.reset with st := .armed, task := 0x400 }
def livePass : Pass := { aPass with tiles := [anI, aK], entries := [(8, 0)], g := 100 }
def aRing (p : Option Pass) (e : Ev := {}) (f : Sys → Sys := id) : State :=
  evs { e with id := 1 } fun y => f { y with rings := [(1, { Ring.reset with pass := p })], ments := [(8 * 256, aMEnt)] }
def aFill : Access := { atHome .tstage with x := 2, y := 64 }
def filling (t : Tile) : State := evs { clu := 8, id := 40 } (fun y => { y with tiles := [((8 * 2 + 0) * 16 + 2, t)], lines := [(0x40000040, homeLine)] }) fun k => { k with accs := [(40, aFill)] }
def taskEv : Ev := { part := 1, clu := 8, ctx := 1, id := 9, col := 3, frm := 1020, word := 0x10000 }

theorem witness_PassEvents :
    (let s := filling { aTile with st := .filling, acc := 40 }
     formOk s ∧ s.fly.acc 40 = some aFill ∧ aFill.x = 2 ∧ (s.sys.ring (aFill.clu / 8)).pass = none ∧ (s.sys.tile 8 (aFill.x / 16) 2).st = .filling ∧
     (s.sys.tile 8 (aFill.x / 16) 2).acc = s.fly.ev.id ∧ (s.sys.tile 8 (aFill.x / 16) 2).doomed = false ∧ aFill.pa 0x1000 = some 0x1000001000 ∧ tileLines aFill = [{ line := 0x40000040, key := homeTag, w := false }] ∧ ∃ u, openLines (tileLines aFill) s = .ok u) ∧
    ((filling { aTile with st := .filling, acc := 40, doomed := true }).sys.tile 8 0 2).doomed = true ∧
    (let p := { aPass with st := .starting, g := 100, tiles := [anI] }; beatOf (aRing (some p)) .beat0 0 { p with st := .running }) ∧
    (beatOf (aRing (some aPass)) .beat 0 aPass ∧ aPass.entries = []) ∧
    (let s := aRing (some livePass)
     beatOf s .beat 0 livePass ∧ livePass.entries = [(8, 0)] ∧ s.sys.ment 8 0 = aMEnt ∧ pairThere livePass 8 0 aMEnt anI aK ∧ (s.sys.tslot 8 0).busy = false ∧ busyTasks s.sys 8 < livePass.tasks.getD (8 % 8) 4) ∧
    (let p := { livePass with tasks := [0] }; p.tasks.getD (8 % 8) 4 ≤ busyTasks (aRing (some p)).sys 8) ∧
    (let p := { aPass with st := .recalled }; let s := aRing (some p); (s.sys.ring 1).pass = some p ∧ (s.sys.thr p.clu p.frm).held = false) :=
  ⟨⟨form_of (by decide +kernel), rfl, rfl, by decide +kernel, by decide +kernel, by decide +kernel, by decide +kernel, by decide +kernel, by decide +kernel, _, rfl⟩, by decide +kernel,
   ⟨⟨rfl, by decide +kernel, .inl (by decide)⟩, .inr ⟨rfl, rfl, _, by decide +kernel, rfl, rfl, rfl, rfl, rfl⟩⟩,
   ⟨⟨⟨rfl, by decide +kernel, .inr rfl⟩, .inl ⟨rfl, by decide, rfl, by decide +kernel⟩⟩, rfl⟩,
   ⟨⟨⟨rfl, by decide +kernel, .inl (by decide)⟩, .inl ⟨rfl, by decide, rfl, by decide +kernel⟩⟩, rfl, by decide +kernel, ⟨rfl, rfl, rfl, rfl, rfl, by decide, by decide, by decide, by decide⟩, by decide +kernel, by decide +kernel⟩,
   by decide +kernel, ⟨by decide +kernel, by decide +kernel⟩⟩

theorem witness_PassEvents_task :
    (let s := evs taskEv fun y => inCtx { ctx1 with kernels := [kernelOf] } y
     formOk s ∧ s.fly.ev.part = 1 ∧ s.fly.ev.clu < 128 ∧ 1020 ≤ s.fly.ev.frm ∧ s.fly.ev.frm < 1024 ∧ (s.sys.ctx 1).st = .running ∧
     s.sys.draining 8 { newThread 1 9 3 0x10000 with task := some (1020 - 1020) } = false ∧ s.fly.ev.word ≠ 0 ∧ s.sys.residentAt 8 1 0x10000 = none ∧
     ∃ q b, (s.sys.ctx 1).kernel 9 = some q ∧ q.blocks.find? (fun b => b.addr == 0x10000) = some b ∧ b.bad = none) :=
  ⟨form_of (by decide +kernel), rfl, by decide, by decide, by decide, rfl, by decide +kernel, by decide, by decide +kernel, kernelOf, aBlk, by decide +kernel, by decide +kernel, rfl⟩

theorem witness_PassEndEvents :
    (let p := { aPass with tiles := [] }; let s := aRing (some p) { clu := 8 }
     formOk s ∧ (s.sys.ring (8 / 8)).pass = some p ∧ (s.sys.ring 1).tails = [] ∧ p.armed = true ∧ p.tiles = [] ∧ (8 : Nat) ∉ p.arrived ∧ (∀ n ∈ p.entries, n.1 = 8 → (s.sys.ment n.1 n.2).st = .done) ∧
     p.arrived.length < 7) ∧
    (let p := { aPass with arrived := [9, 10, 11, 12, 13, 14, 15] }; (8 : Nat) ∉ p.arrived ∧ p.arrived.length = 7 ∧ ((aRing (some p)).sys.thr p.clu p.frm).held = false) ∧
    (((aRing (some livePass)).sys.ring 1).pass = some livePass ∧ livePass.tiles ≠ []) ∧
    (let s := evs { clu := 8, frm := 5 } fun y => { y with rings := [(1, { Ring.reset with susp := [aPass] })] }
     (s.sys.ring 1).susp = [aPass] ∧ aPass.clu = s.fly.ev.clu ∧ aPass.frm = s.fly.ev.frm ∧ passDrained s.sys 1 aPass = false ∧ ringFree s 1 = true) ∧
    (passDrained (evs {} fun y => inCtx { ctx1 with st := .suspended } y).sys 1 aPass = true) ∧
    ringFree (aRing (some livePass)) 1 = false ∧ ((evs {}).sys.ring 1).susp = [] :=
  ⟨⟨form_of (by decide +kernel), by decide +kernel, by decide +kernel, rfl, rfl, by decide, fun n h => (by cases h), by decide⟩, ⟨by decide, rfl, by decide +kernel⟩,
   ⟨by decide +kernel, by decide⟩, ⟨by decide +kernel, rfl, rfl, by decide +kernel, by decide +kernel⟩, by decide +kernel, by decide +kernel, by decide +kernel⟩

/-- A packet of one flit for cluster 9, with a post; a link of the ring of cluster 8. -/
def aPkt (d : Nat) : Packet := { ctx := 1, ve := false, vc1 := false, src := 8, dst := d, flits := 1, left := 1, ctrl := none, post := some 41, inCh := none, since := 90 }
def linkAt (n : Nat) (l : Link) (e : Ev) : State := evs e fun y => { y with links := [(1 * 16 + n, l)] }
def routerAt (p : Packet) (e : Ev) : State := evs { e with id := 1 } fun y => { y with routers := [(1 * 2 + e.part, [p])] }

/- Whether a stream's flit opens is a free value of Config: its cases need no state beyond the packet's context. -/
theorem witness_NetworkEvents :
    (let s := linkAt 0 { Link.reset with queue := [aPkt 9] } { clu := 8 }
     formOk s ∧ s.fly.ev.part = 0 ∧ (s.sys.link 1 0).queue = [aPkt 9] ∧ (s.sys.link 1 0).sent ≠ s.sys.now + 1 ∧ tileCrosses s.sys 1 0 0 = false ∧ (aPkt 9).inCh = none ∧ 0 < (s.sys.link 1 0).vc0 ∧ (aPkt 9).left = 1) ∧
    ((linkAt 0 { Link.reset with queue := [aPkt 9], vc0 := 0 } { clu := 8 }).sys.link 1 0).vc0 = 0 ∧
    (let s := linkAt 0 { Link.reset with flight := [aPkt 9] } { clu := 9, part := 2 }; (s.sys.link 1 (((9 % 8) + 7) % 8 * 2 + 0)).flight = aPkt 9 :: [] ∧ (aPkt 9).dst = s.fly.ev.clu ∧ (aPkt 9).post = some 41) ∧
    (let p := { aPkt 9 with ve := true, ctrl := some (.marker 1 none), post := none }; let s := linkAt 0 { Link.reset with flight := [p] } { clu := 9, part := 2 }
     p.dst = s.fly.ev.clu ∧ p.ctrl = some (.marker 1 none) ∧ (s.sys.region 9 8).ctrl.length < 16) ∧
    (let s := linkAt 14 { Link.reset with flight := [aPkt 20] } { clu := 8, part := 2 }; (s.sys.link 1 ((8 % 8 + 7) % 8 * 2 + 0)).flight = aPkt 20 :: [] ∧ (aPkt 20).dst / 8 ≠ 1 ∧ (8 : Nat) % 8 = 0) ∧
    (linkAt 0 Link.reset { clu := 9, part := 4 }).fly.ev.part = 4 + 0 ∧
    (let s := routerAt (aPkt 20) { part := 0 }; tabGet [] s.sys.routers (s.fly.ev.id * 2 + s.fly.ev.part) = aPkt 20 :: []) ∧
    (let s := routerAt (aPkt 8) { part := 1 }
     tabGet [] s.sys.routers (s.fly.ev.id * 2 + s.fly.ev.part) = aPkt 8 :: [] ∧ (aPkt 8).ctx ≠ 0 ∧ ({ aPkt 8 with ctx := 0 } : Packet).ctx = 0 ∧ (s.sys.ctx 1).st = .running ∧ (aPkt 8).dst = s.fly.ev.id * 8 ∧ (aPkt 8).ctrl = none) :=
  ⟨⟨form_of (by decide +kernel), rfl, by decide +kernel, by decide +kernel, by decide +kernel, rfl, by decide +kernel, rfl⟩, by decide +kernel, ⟨by decide +kernel, rfl, rfl⟩, ⟨rfl, rfl, by decide +kernel⟩,
   ⟨by decide +kernel, by decide, rfl⟩, rfl, by decide +kernel, by decide +kernel, by decide, rfl, rfl, rfl, rfl⟩

def barAt (v : Bar) (e : Ev := {}) (f : Sys → Sys := id) : State := posted (.arrive 4 2 false) e fun y => f { y with bars := [(8 * 256 + 4, v)] }
def barEv (v : Bar) (e : Ev) (f : Sys → Sys := id) : State := evs { e with clu := 8, id := 4 } fun y => f { y with bars := [(8 * 256 + 4, v)] }

theorem witness_BarrierEvents :
    (let s := barAt aBar
     formOk s ∧ arrives s (aPost (.arrive 4 2 false)) 4 2 ∧ (s.sys.bar 8 4).mode = .count ∧ (s.sys.bar 8 4).colour = 3 ∧ (s.sys.bar 8 4).expect ≠ 0 ∧ (s.sys.bar 8 4).arrived < (s.sys.bar 8 4).expect) ∧
    (let s := barAt gBar; (s.sys.bar 8 4).mode = .group ∧ (5 : Nat) ∈ (s.sys.bar 8 4).members ∧ (5 : Nat) ∉ (s.sys.bar 8 4).cur ∧ (s.sys.bar 8 4).arrived + 1 ≠ (s.sys.bar 8 4).expect) ∧
    (let s := barAt { gBar with cur := [5] }; (5 : Nat) ∈ (s.sys.bar 8 4).cur ∧ (s.sys.bar 8 4).arrived ≠ (s.sys.bar 8 4).expect) ∧
    (let s := barAt Bar.reset; (s.sys.bar 8 4).mode = .free ∧ (s.sys.thr 8 5).serial = (aPost (.arrive 4 2 false)).owner ∧ (s.sys.thr 8 5).st ≠ .free) ∧
    (let s := barEv aBar { part := 1 }; (∀ h ∈ s.sys.thrs, h.2.st ≠ .waiting) ∧ (s.sys.bar 8 4).mode = .count ∧ (s.sys.bar 8 4).arrived ≠ (s.sys.bar 8 4).expect) ∧
    (let s := barEv { gBar with begun := false } { part := 1 } fun y => { y with lcount := [(8 * 1024 + 4, 2)] }
     (s.sys.bar 8 4).begun = false ∧ s.sys.lc 8 (s.sys.bar 8 4).group ≠ 0 ∧ (s.sys.bar 8 4).early ≠ s.sys.lc 8 (s.sys.bar 8 4).group) ∧
    (let s := barEv aBar { part := 2, col := 3 }; (s.sys.bar 8 4).mode = .count ∧ (s.sys.bar 8 4).colour = s.fly.ev.col ∧ (s.sys.bar 8 4).expect ≠ 0 ∧ (s.sys.bar 8 4).arrived + 1 < (s.sys.bar 8 4).expect) ∧
    ((barEv Bar.reset { part := 2 }).sys.bar 8 4).mode = .free :=
  ⟨⟨form_of (by decide +kernel), ⟨rfl, rfl, rfl⟩, by decide +kernel, by decide +kernel, by decide +kernel, by decide +kernel⟩, ⟨by decide +kernel, by decide +kernel, by decide +kernel, by decide +kernel⟩,
   ⟨by decide +kernel, by decide +kernel⟩, ⟨by decide +kernel, by decide +kernel, by decide +kernel⟩, ⟨by decide +kernel, by decide +kernel, by decide +kernel⟩,
   ⟨by decide +kernel, by decide +kernel, by decide +kernel⟩, ⟨by decide +kernel, by decide +kernel, by decide +kernel, by decide +kernel⟩, by decide +kernel⟩

theorem witness_BarrierEvents_phases :
    (let s := barAt { aBar with arrived := 1 }; endsWith s (s.sys.bar 8 4) 1) ∧ (let s := barAt aBar; ¬ endsWith s (s.sys.bar 8 4) 1) ∧
    (let s := barAt { gBar with expect := 1 }; endsWith s (s.sys.bar 8 4) 1 ∧ (s.sys.bar 8 4).mode = .group ∧ (5 : Nat) ∈ (s.sys.bar 8 4).members ∧ (5 : Nat) ∉ (s.sys.bar 8 4).cur) ∧
    (let s := barAt Bar.reset; untold s 8 5 7) ∧
    (let s := barEv { aBar with arrived := 2 } { part := 1 }; (∀ h ∈ s.sys.thrs, h.2.st ≠ .waiting) ∧ (s.sys.bar 8 4).mode = .count ∧ (s.sys.bar 8 4).expect ≠ 0 ∧ endsWith s (s.sys.bar 8 4) 0) ∧
    (let s := barEv { gBar with arrived := 2 } { part := 1 }; (∀ h ∈ s.sys.thrs, h.2.st ≠ .waiting) ∧ (s.sys.bar 8 4).mode = .group ∧ (s.sys.bar 8 4).expect ≠ 0 ∧ endsWith s (s.sys.bar 8 4) 0) ∧
    (let s := barEv { gBar with begun := false } { part := 3 } fun y => { y with lcount := [(8 * 1024 + 4, 2)] }
     s.fly.ev.part = 3 ∧ (∀ h ∈ s.sys.thrs, h.2.st ≠ .waiting) ∧ (s.sys.bar 8 4).mode = .group ∧ (s.sys.bar 8 4).begun = false ∧ s.sys.lc 8 (s.sys.bar 8 4).group ≠ 0) ∧
    (let s := barEv { aBar with arrived := 1 } { part := 2, col := 3 }; (s.sys.bar 8 4).arrived < (s.sys.bar 8 4).expect ∧ endsWith s (s.sys.bar 8 4) 1) :=
  ⟨by unfold endsWith; decide +kernel, by unfold endsWith; decide +kernel, by unfold endsWith; decide +kernel, by unfold untold; decide +kernel, by unfold endsWith; decide +kernel,
   by unfold endsWith; decide +kernel, by decide +kernel, by unfold endsWith; decide +kernel⟩

/-- The thread waits for the phase after 8 of barrier 4, whose SEQ is 9; its next block is resident. -/
def waitsFor (y : Sys) : Sys :=
  inCtx { ctx1 with kernels := [kernelOf] } (resident { y with thrs := [(8 * 1024 + 5, { thr with st := .waiting, next := 0x10000, baraw := some (4, some 8) })] })

theorem witness_BarrierEvents_waiter :
    let s := barEv aBar { part := 1 } waitsFor
    let h := { thr with st := .waiting, next := 0x10000, baraw := some (4, some 8) }
    s.sys.thrs = [(8 * 1024 + 5, h)] ∧ h.baraw = some (4, some 8) ∧ (s.sys.bar 8 4).mode = .count ∧ (s.sys.bar 8 4).arrived ≠ (s.sys.bar 8 4).expect ∧ (s.sys.bar 8 4).seq = 8 + 1 ∧ mayEnter s 8 5 0 0 :=
  ⟨rfl, rfl, by decide +kernel, by decide +kernel, by decide +kernel, ⟨by decide +kernel, by decide +kernel, by decide +kernel, by decide +kernel, by decide +kernel, by decide +kernel,
    ⟨kernelOf, aBlk, by decide +kernel, by decide +kernel, rfl⟩, by decide +kernel, by decide +kernel⟩⟩

def groupAt (v : Grp) (join : Bool) : State := posted (.group 4 2 join) {} fun y => inCtx { ctx1 with groups := [(4, v)] } { y with thrs := [(8 * 1024 + 5, { thr with gmem := 0x8004 })] }
def liveGrp (c n : Nat) : Grp := { epoch := 1, live := true, colour := c, total := n }
def mailbox (t : Thr) (e : Ev := {}) (p : Post := aPost (.message 8 6 aMsg)) : State :=
  evs { e with id := 41 } (fun y => { y with thrs := [(8 * 1024 + 5, thr), (8 * 1024 + 6, t)] }) fun k => { k with posts := [(41, p)] }

theorem witness_GroupAndMessageEvents :
    (let s := groupAt Grp.reset true
     formOk s ∧ tabFind s.fly.posts s.fly.ev.id = some (aPost (.group 4 2 true)) ∧ (∀ q ∈ s.fly.posts, q.2.clu = 8 → q.2.frm = 5 → q.2.owner = 1 → (∃ n j, q.2.act = .group 4 n j) → s.fly.ev.id ≤ q.1) ∧ (tabGet Grp.reset (s.sys.ctx 1).groups 4).live = false) ∧
    (let s := groupAt (liveGrp 3 1) true; (tabGet Grp.reset (s.sys.ctx 1).groups 4).live = true ∧ (tabGet Grp.reset (s.sys.ctx 1).groups 4).colour = 3) ∧
    1 < (tabGet Grp.reset ((groupAt (liveGrp 3 2) false).sys.ctx 1).groups 4).total ∧ (tabGet Grp.reset ((groupAt (liveGrp 3 1) false).sys.ctx 1).groups 4).total = 1 ∧
    (let s := groupAt (liveGrp 2 1) true
     (tabGet Grp.reset (s.sys.ctx 1).groups 4).colour ≠ 3 ∧ (s.sys.thr 8 5).serial = (aPost (.group 4 2 true)).owner ∧ untold s 8 5 7) :=
  ⟨⟨form_of (by decide +kernel), rfl, fun q hq _ _ _ _ => (by rcases List.mem_singleton.mp hq with rfl; exact Nat.le_refl _), by decide +kernel⟩, ⟨by decide +kernel, by decide +kernel⟩,
   by decide +kernel, by decide +kernel, ⟨by decide +kernel, by decide +kernel, by unfold untold; decide +kernel⟩⟩

theorem witness_GroupAndMessageEvents_heard :
    (let s := mailbox thr
     formOk s ∧ carries s (aPost (.message 8 6 aMsg)) 8 6 aMsg ∧ (s.sys.thr 8 6).st ≠ .free ∧ (s.sys.thr 8 6).st ≠ .reserved ∧ (s.sys.thr 8 6).colour = 3 ∧ (s.sys.thr 8 6).ctx = 1 ∧
     (s.sys.thr 8 6).st ≠ .saved ∧ (s.sys.thr 8 6).mbox.length < 4) :=
  ⟨form_of (by decide +kernel), ⟨rfl, rfl⟩, by decide +kernel, by decide +kernel, by decide +kernel, by decide +kernel, by decide +kernel, by decide +kernel⟩

theorem carries_ring : carries (mailbox thr {} (aPost (.message 9 6 aMsg))) (aPost (.message 9 6 aMsg)) 9 6 aMsg := ⟨rfl, rfl⟩

theorem witness_GroupAndMessageEvents_others :
    ((8 : Nat) = (aPost (.message 8 6 aMsg)).clu ∧ (9 : Nat) ≠ (aPost (.message 9 6 aMsg)).clu ∧ (9 : Nat) / 8 = (aPost (.message 9 6 aMsg)).clu / 8) ∧ (mailbox thr { part := 1 } (aPost (.message 9 6 aMsg))).fly.ev.part = 1 ∧
    (let s := mailbox { thr with st := .saved }; (s.sys.thr 8 6).st = .saved) ∧
    (let s := mailbox Thr.reset; (s.sys.thr 8 6).st = .free ∧ (s.sys.thr 8 5).serial = (aPost (.message 8 6 aMsg)).owner) :=
  ⟨⟨by decide +kernel, by decide +kernel, by decide +kernel⟩, rfl, by decide +kernel, by decide +kernel, by decide +kernel⟩

theorem commits_plain :
    let i := { inst with exit := some (.goto 0x10000) }; let s := committing i { part := 2 }
    tabFind s.fly.commits (s.fly.ev.clu * 1024 + s.fly.ev.frm) = some i ∧ ∀ n ∈ i.effs, ∀ p u, n.e ≠ .emit p u :=
  ⟨by decide +kernel, fun n h => (by cases h)⟩

theorem witness_MemoryWrittenOnlyHere :
    exec (.nop (g .x64)) (fire (sc .x64 1)) = .next (fire (sc .x64 1)) ∧ Instr.nop (g .x64) ∉ memoryWriters ∧
    (evs { part := 0 }).fly.ev.part ≠ 1 ∧ (committing inst { part := 2 }).fly.ev.part ≠ 9 ∧
    (let i := { inst with exit := some (.goto 0x10000) }; let s := committing i { part := 2 }
     tabFind s.fly.commits (s.fly.ev.clu * 1024 + s.fly.ev.frm) = some i ∧ ∀ n ∈ i.effs, ∀ p u, n.e ≠ .emit p u) :=
  ⟨test_nop, by decide, by decide, by decide +kernel, commits_plain⟩

theorem witness_ResetState : (1 : Nat) ≠ 0 ∧ (evs { p := true }).fly.ev.p = true ∧ (evs {}).fly.ev.p = false := ⟨by decide, rfl, rfl⟩

theorem witness_WordsAndBlocksRead : (63 : Nat) < 64 := by decide

end Sys2Proof.Tests
end

namespace Sys2Proof.Claims
open Machine

/-! ## The form of a state

The predicate `formOk` of O12 as structures with a field for each table, and the rule of each operation of the model: what an update of the machine,
of what is in flight or of the state keeps. The parts that follow prove that every function of the model keeps form. `grind` makes the case split
along the function's own branches there, and its brackets name the rules of the operations that the function is made of. -/

/-! ### Rising tables -/

theorem rising_iff_above {α : Type} (t : Tab α) (lo : Nat) : tabRising lo t = true ↔ rising t ∧ ∀ e ∈ t, lo ≤ e.1 := by
  induction t generalizing lo with
  | nil => simp [tabRising, rising]
  | cons e t ih =>
    simp only [tabRising, Bool.and_eq_true, decide_eq_true_eq, ih, rising, List.pairwise_cons, List.mem_cons, forall_eq_or_imp]
    constructor
    · rintro ⟨h1, h2, h3⟩
      exact ⟨⟨h3, h2⟩, h1, fun a ha => by have := h3 a ha; omega⟩
    · rintro ⟨⟨h1, h2⟩, h3, -⟩
      exact ⟨h3, h2, h1⟩

theorem rising_iff {α : Type} (t : Tab α) : rising t ↔ tabRising 0 t = true := by simp [rising_iff_above]

theorem rising_nil {α : Type} : rising ([] : Tab α) := List.Pairwise.nil

section
variable {α : Type} {t : Tab α}

theorem rising.put (h : rising t) (k : Nat) (v : α) : rising (tabPut t k v) :=
  (rising_iff _).2 (tabRising_put t k v ((rising_iff t).1 h) (Nat.zero_le k))

theorem rising.del (h : rising t) (k : Nat) : rising (tabDel t k) := (rising_iff _).2 (tabRising_del t k ((rising_iff t).1 h))

theorem rising.set [DecidableEq α] (h : rising t) (d : α) (k : Nat) (v : α) : rising (tabSet d t k v) :=
  (rising_iff _).2 (tabRising_set d t k v ((rising_iff t).1 h) (Nat.zero_le k))

theorem rising.filter (h : rising t) (p : Nat × α → Bool) : rising (t.filter p) := List.Pairwise.filter p h

theorem rising.map {β : Type} (h : rising t) {g : Nat × α → Nat × β} (hg : ∀ e, (g e).1 = e.1) : rising (t.map g) :=
  List.pairwise_map.2 (List.Pairwise.imp (fun {a b} hab => by simpa [hg] using hab) h)

theorem rising.filterMap {β : Type} (h : rising t) {g : Nat × α → Option (Nat × β)} (hg : ∀ e, ∀ b ∈ g e, b.1 = e.1) :
    rising (t.filterMap g) :=
  List.pairwise_filterMap.2 (List.Pairwise.imp (fun {a b} hab x hx y hy => by simpa [hg _ _ hx, hg _ _ hy] using hab) h)

end

end Sys2Proof.Claims
namespace Sys2Proof.Machine
open Claims

/-- The context's tables that `formOk` speaks of are in order. -/
structure Ctx.Form (v : Ctx) : Prop where
  groups : rising v.groups
  keys : rising v.keys

/-- The tables of the machine and of its contexts are in order. -/
structure Sys.Form (y : Sys) : Prop where
  mons : rising y.mons
  tickets : rising y.tickets
  shoots : rising y.shoots
  relats : rising y.relats
  loads : rising y.loads
  seals : rising y.seals
  ctxs : rising y.ctxs
  thrs : rising y.thrs
  clus : rising y.clus
  regions : rising y.regions
  parks : rising y.parks
  frames : rising y.frames
  ctab : rising y.ctab
  bars : rising y.bars
  lcount : rising y.lcount
  banks : rising y.banks
  scratch : rising y.scratch
  xfers : rising y.xfers
  paccs : rising y.paccs
  lanes : rising y.lanes
  pins : rising y.pins
  tiles : rising y.tiles
  ments : rising y.ments
  tslots : rising y.tslots
  rings : rising y.rings
  links : rising y.links
  routers : rising y.routers
  lines : rising y.lines
  descs : rising y.descs
  spill : rising y.spill
  portTs : rising y.portTs
  each : ∀ x ∈ y.ctxs, x.2.Form

theorem Sys.form_iff (y : Sys) : tablesRise y ↔ y.Form :=
  ⟨fun ⟨h1, h2, h3, h4, h5, h6, h7, h8, h9, h10, h11, h12, h13, h14, h15, h16, h17, h18, h19, h20, h21, h22, h23, h24, h25, h26,
      h27, h28, h29, h30, h31, h⟩ => ⟨h1, h2, h3, h4, h5, h6, h7, h8, h9, h10, h11, h12, h13, h14, h15, h16, h17, h18, h19, h20, h21, h22, h23,
      h24, h25, h26, h27, h28, h29, h30, h31, fun x hx => ⟨(h x hx).1, (h x hx).2⟩⟩,
    fun h => ⟨h.mons, h.tickets, h.shoots, h.relats, h.loads, h.seals, h.ctxs, h.thrs, h.clus, h.regions, h.parks, h.frames, h.ctab, h.bars,
      h.lcount, h.banks, h.scratch, h.xfers, h.paccs, h.lanes, h.pins, h.tiles, h.ments, h.tslots, h.rings, h.links, h.routers, h.lines,
      h.descs, h.spill, h.portTs, fun x hx => ⟨(h.each x hx).groups, (h.each x hx).keys⟩⟩⟩

/-- The tables of what is in flight are in order. -/
structure Fly.Form (f : Fly) : Prop where
  insts : rising f.insts
  commits : rising f.commits
  accs : rising f.accs
  posts : rising f.posts
  sleeps : rising f.sleeps

/-- Memory, the carried registers, the machine and what is in flight are in form: `formOk`, part by part. -/
structure State.Form (s : State) : Prop where
  mem : Memory.wf s.mem = true
  greg : rising s.greg
  regs : ∀ e ∈ s.greg, rising e.2
  sys : s.sys.Form
  fly : s.fly.Form

theorem State.form_iff (s : State) : formOk s ↔ s.Form := by
  unfold formOk
  rw [Sys.form_iff]
  exact ⟨fun ⟨hm, hg, hr, hy, hi, hc, ha, hp, hs⟩ => ⟨hm, hg, hr, hy, hi, hc, ha, hp, hs⟩,
    fun h => ⟨h.mem, h.greg, h.regs, h.sys, h.fly.insts, h.fly.commits, h.fly.accs, h.fly.posts, h.fly.sleeps⟩⟩

/-! ### The tables of a context -/

theorem Ctx.Form.reset : Ctx.reset.Form := ⟨rising_nil, rising_nil⟩

section
variable {v : Ctx} {st' : CtxSt} {rings' : BitVec 16} {fcause' drcol' wlimit' wcount' wrem' wsince' drawn' : Nat} {drcnt' : BitVec 8}
  {cxvec' rtbase' : Word} {ftlim' stall' : BitVec 32} {kernels' : List Kernel} {queues' : Tab Queue} {ports' : Tab Port} {audits' : Tab Audit}
  {allow' drained' : List Nat} {streamKey' : BitVec 256} {signKeys' : List (List Byte)} {drains' : List Drain}

theorem Ctx.Form.plain (h : v.Form) :
    ({ v with
        st := st', rings := rings', fcause := fcause', drcnt := drcnt', drcol := drcol', cxvec := cxvec', wlimit := wlimit', wcount := wcount',
        wrem := wrem', wsince := wsince', ftlim := ftlim', stall := stall', rtbase := rtbase', kernels := kernels', queues := queues',
        ports := ports', audits := audits', allow := allow', drawn := drawn', streamKey := streamKey', signKeys := signKeys', drains := drains',
        drained := drained' } : Ctx).Form := { h with }

theorem Ctx.Form.withGroups (h : v.Form) {t : Tab Grp} (ht : rising t) : ({ v with groups := t } : Ctx).Form := { h with groups := ht }

theorem Ctx.Form.withKeys (h : v.Form) {t : Tab Key} (ht : rising t) : ({ v with keys := t } : Ctx).Form := { h with keys := ht }

end

theorem mem_tabSet {α : Type} [DecidableEq α] {e : Nat × α} (d : α) (t : Tab α) (k : Nat) (v : α) (h : e ∈ tabSet d t k v) :
    e = (k, v) ∨ e ∈ t := by
  unfold tabSet at h
  split at h
  · exact .inr (mem_tabDel t k h)
  · exact mem_tabPut t k v h

theorem mem_of_tabFind {α : Type} {t : Tab α} {k : Nat} {v : α} (h : tabFind t k = some v) : (k, v) ∈ t := by
  induction t with
  | nil => cases h
  | cons e t ih =>
    rw [tabFind] at h
    split at h
    · next hk => cases h; subst hk; exact List.mem_cons_self
    · exact List.mem_cons_of_mem _ (ih h)

/-- What a table holds of every entry it lists, and of its default, it holds of what is read. -/
theorem tabGet_of_all {α : Type} {P : α → Prop} {d : α} {t : Tab α} (hd : P d) (h : ∀ e ∈ t, P e.2) (k : Nat) : P (tabGet d t k) := by
  unfold tabGet
  cases hf : tabFind t k with
  | none => exact hd
  | some v => exact h _ (mem_of_tabFind hf)

/-! ### The architectural state -/

section
variable {y : Sys}

theorem Sys.Form.ctx (h : y.Form) {x : Nat} : (y.ctx x).Form := tabGet_of_all Ctx.Form.reset h.each x

theorem Sys.Form.setCtx (h : y.Form) {x : Nat} {v : Ctx} (hv : v.Form) : (y.setCtx x v).Form :=
  { h with ctxs := h.ctxs.set _ _ _, each := fun e he => (mem_tabSet _ _ _ _ he).elim (fun e => e ▸ hv) (h.each e) }

theorem Sys.Form.modCtx (h : y.Form) {x : Nat} {g : Ctx → Ctx} (hg : ∀ v : Ctx, v.Form → (g v).Form) : (y.modCtx x g).Form :=
  h.setCtx (hg _ h.ctx)

theorem Sys.Form.setThr (h : y.Form) {c k : Nat} {v : Thr} : (y.setThr c k v).Form := { h with thrs := h.thrs.set _ _ _ }
theorem Sys.Form.modThr (h : y.Form) {c k : Nat} {g : Thr → Thr} : (y.modThr c k g).Form := h.setThr

theorem Sys.Form.setClu (h : y.Form) {c : Nat} {v : Clu} : (y.setClu c v).Form := { h with clus := h.clus.set _ _ _ }
theorem Sys.Form.modClu (h : y.Form) {c : Nat} {g : Clu → Clu} : (y.modClu c g).Form := h.setClu

theorem Sys.Form.setRegion (h : y.Form) {c r : Nat} {v : Region} : (y.setRegion c r v).Form := { h with regions := h.regions.set _ _ _ }
theorem Sys.Form.modRegion (h : y.Form) {c r : Nat} {g : Region → Region} : (y.modRegion c r g).Form := h.setRegion

theorem Sys.Form.setPark (h : y.Form) {c k : Nat} {v : Park} : (y.setPark c k v).Form := { h with parks := h.parks.set _ _ _ }
theorem Sys.Form.modPark (h : y.Form) {c k : Nat} {g : Park → Park} : (y.modPark c k g).Form := h.setPark

theorem Sys.Form.setFrame (h : y.Form) {c r n : Nat} {v : BFrame} : (y.setFrame c r n v).Form := { h with frames := h.frames.set _ _ _ }
theorem Sys.Form.modFrame (h : y.Form) {c r n : Nat} {g : BFrame → BFrame} : (y.modFrame c r n g).Form := h.setFrame

theorem Sys.Form.setCent (h : y.Form) {c n : Nat} {v : CEnt} : (y.setCent c n v).Form := { h with ctab := h.ctab.set _ _ _ }
theorem Sys.Form.modCent (h : y.Form) {c n : Nat} {g : CEnt → CEnt} : (y.modCent c n g).Form := h.setCent

theorem Sys.Form.setBar (h : y.Form) {c b : Nat} {v : Bar} : (y.setBar c b v).Form := { h with bars := h.bars.set _ _ _ }
theorem Sys.Form.modBar (h : y.Form) {c b : Nat} {g : Bar → Bar} : (y.modBar c b g).Form := h.setBar

theorem Sys.Form.setBank (h : y.Form) {c b : Nat} {v : Bank} : (y.setBank c b v).Form := { h with banks := h.banks.set _ _ _ }
theorem Sys.Form.modBank (h : y.Form) {c b : Nat} {g : Bank → Bank} : (y.modBank c b g).Form := h.setBank

theorem Sys.Form.setXfer (h : y.Form) {c k : Nat} {v : Xfer} : (y.setXfer c k v).Form := { h with xfers := h.xfers.set _ _ _ }
theorem Sys.Form.modXfer (h : y.Form) {c k : Nat} {g : Xfer → Xfer} : (y.modXfer c k g).Form := h.setXfer

theorem Sys.Form.setPacc (h : y.Form) {c p : Nat} {v : PAcc} : (y.setPacc c p v).Form := { h with paccs := h.paccs.set _ _ _ }
theorem Sys.Form.modPacc (h : y.Form) {c p : Nat} {g : PAcc → PAcc} : (y.modPacc c p g).Form := h.setPacc

theorem Sys.Form.setLane (h : y.Form) {c l : Nat} {v : Lane} : (y.setLane c l v).Form := { h with lanes := h.lanes.set _ _ _ }
theorem Sys.Form.modLane (h : y.Form) {c l : Nat} {g : Lane → Lane} : (y.modLane c l g).Form := h.setLane

theorem Sys.Form.setPin (h : y.Form) {c n : Nat} {v : Pin} : (y.setPin c n v).Form := { h with pins := h.pins.set _ _ _ }
theorem Sys.Form.modPin (h : y.Form) {c n : Nat} {g : Pin → Pin} : (y.modPin c n g).Form := h.setPin

theorem Sys.Form.setTile (h : y.Form) {c m q : Nat} {v : Tile} : (y.setTile c m q v).Form := { h with tiles := h.tiles.set _ _ _ }
theorem Sys.Form.modTile (h : y.Form) {c m q : Nat} {g : Tile → Tile} : (y.modTile c m q g).Form := h.setTile

theorem Sys.Form.setMent (h : y.Form) {c n : Nat} {v : MEnt} : (y.setMent c n v).Form := { h with ments := h.ments.set _ _ _ }
theorem Sys.Form.modMent (h : y.Form) {c n : Nat} {g : MEnt → MEnt} : (y.modMent c n g).Form := h.setMent

theorem Sys.Form.setTslot (h : y.Form) {c k : Nat} {v : TSlot} : (y.setTslot c k v).Form := { h with tslots := h.tslots.set _ _ _ }
theorem Sys.Form.modTslot (h : y.Form) {c k : Nat} {g : TSlot → TSlot} : (y.modTslot c k g).Form := h.setTslot

theorem Sys.Form.setRing (h : y.Form) {r : Nat} {v : Ring} : (y.setRing r v).Form := { h with rings := h.rings.set _ _ _ }
theorem Sys.Form.modRing (h : y.Form) {r : Nat} {g : Ring → Ring} : (y.modRing r g).Form := h.setRing

theorem Sys.Form.setLink (h : y.Form) {r l : Nat} {v : Link} : (y.setLink r l v).Form := { h with links := h.links.set _ _ _ }
theorem Sys.Form.modLink (h : y.Form) {r l : Nat} {g : Link → Link} : (y.modLink r l g).Form := h.setLink

theorem Sys.Form.setLine (h : y.Form) {l : Nat} {v : Line} : (y.setLine l v).Form := { h with lines := h.lines.set _ _ _ }
theorem Sys.Form.modLine (h : y.Form) {l : Nat} {g : Line → Line} : (y.modLine l g).Form := h.setLine

theorem Sys.Form.setPortT (h : y.Form) {c r : Nat} {v : PortT} : (y.setPortT c r v).Form := { h with portTs := h.portTs.set _ _ _ }
theorem Sys.Form.modPortT (h : y.Form) {c r : Nat} {g : PortT → PortT} : (y.modPortT c r g).Form := h.setPortT

theorem Sys.Form.setMon (h : y.Form) {u : Nat} {v : Mon} : (y.setMon u v).Form := { h with mons := h.mons.set _ _ _ }
theorem Sys.Form.modMon (h : y.Form) {u : Nat} {g : Mon → Mon} : (y.modMon u g).Form := h.setMon

theorem Sys.Form.setLc (h : y.Form) {c g v : Nat} : (y.setLc c g v).Form := { h with lcount := h.lcount.set _ _ _ }

theorem Sys.Form.setScr (h : y.Form) {c off : Nat} {v : Byte} : (y.setScr c off v).Form := { h with scratch := h.scratch.set _ _ _ }

theorem Sys.Form.withTickets (h : y.Form) {t : Tab Ticket} (ht : rising t) : ({ y with tickets := t } : Sys).Form := { h with tickets := ht }

theorem Sys.Form.withShoots (h : y.Form) {t : Tab Shoot} (ht : rising t) : ({ y with shoots := t } : Sys).Form := { h with shoots := ht }

theorem Sys.Form.withRelats (h : y.Form) {t : Tab Relat} (ht : rising t) : ({ y with relats := t } : Sys).Form := { h with relats := ht }

theorem Sys.Form.withLoads (h : y.Form) {t : Tab Load} (ht : rising t) : ({ y with loads := t } : Sys).Form := { h with loads := ht }

theorem Sys.Form.withSeals (h : y.Form) {t : Tab Nat} (ht : rising t) : ({ y with seals := t } : Sys).Form := { h with seals := ht }

theorem Sys.Form.withThrs (h : y.Form) {t : Tab Thr} (ht : rising t) : ({ y with thrs := t } : Sys).Form := { h with thrs := ht }

theorem Sys.Form.withParks (h : y.Form) {t : Tab Park} (ht : rising t) : ({ y with parks := t } : Sys).Form := { h with parks := ht }

theorem Sys.Form.withFrames (h : y.Form) {t : Tab BFrame} (ht : rising t) : ({ y with frames := t } : Sys).Form := { h with frames := ht }

theorem Sys.Form.withXfers (h : y.Form) {t : Tab Xfer} (ht : rising t) : ({ y with xfers := t } : Sys).Form := { h with xfers := ht }

theorem Sys.Form.withScratch (h : y.Form) {t : Tab Byte} (ht : rising t) : ({ y with scratch := t } : Sys).Form := { h with scratch := ht }

theorem Sys.Form.withLines (h : y.Form) {t : Tab Line} (ht : rising t) : ({ y with lines := t } : Sys).Form := { h with lines := ht }

theorem Sys.Form.withDescs (h : y.Form) {t : Tab Desc} (ht : rising t) : ({ y with descs := t } : Sys).Form := { h with descs := ht }

theorem Sys.Form.withPortTs (h : y.Form) {t : Tab PortT} (ht : rising t) : ({ y with portTs := t } : Sys).Form := { h with portTs := ht }

theorem Sys.Form.withMons (h : y.Form) {t : Tab Mon} (ht : rising t) : ({ y with mons := t } : Sys).Form := { h with mons := ht }

theorem Sys.Form.withRouters (h : y.Form) {t : Tab (List Packet)} (ht : rising t) : ({ y with routers := t } : Sys).Form :=
  { h with routers := ht }

theorem Sys.Form.withSpill (h : y.Form) {t : Tab (List Nat)} (ht : rising t) : ({ y with spill := t } : Sys).Form := { h with spill := ht }

end

section
variable {y : Sys} {now' cxStatus' nextTicket' mgmtStatus' freeIx' fetches' : Nat} {held' firmwareOk' powerLimit' thermal' : Bool}
  {cxsel' ctsel' lattol' pstate' lnk' : Word} {cxSeq' : BitVec 4} {msOwner' : BitVec 16} {msBusy' : List Nat}
  {irqs' : List (Nat × Nat × Nat × Word)} {fwStatus' : List Word} {faultq' : List (List Word)} {reports' : List (List Byte)}
  {hostReads' : List (Nat × Nat × Word)}

theorem Sys.Form.plain (h : y.Form) :
    ({ y with
        now := now', held := held', firmwareOk := firmwareOk', cxsel := cxsel', cxStatus := cxStatus', cxSeq := cxSeq', ctsel := ctsel',
        lattol := lattol', pstate := pstate', powerLimit := powerLimit', thermal := thermal', lnk := lnk', msOwner := msOwner', msBusy := msBusy',
        irqs := irqs', fwStatus := fwStatus', nextTicket := nextTicket', faultq := faultq', reports := reports', hostReads := hostReads',
        mgmtStatus := mgmtStatus', freeIx := freeIx', fetches := fetches' } : Sys).Form := { h with }

end

/-! ### What is in flight -/

section
variable {f : Fly}

theorem Fly.Form.setInst (h : f.Form) {c k : Nat} {v : Inst} : (f.setInst c k v).Form := { h with insts := h.insts.put _ _ }
theorem Fly.Form.delInst (h : f.Form) {c k : Nat} : (f.delInst c k).Form := { h with insts := h.insts.del _ }
theorem Fly.Form.setAcc (h : f.Form) {n : Nat} {v : Access} : (f.setAcc n v).Form := { h with accs := h.accs.put _ _ }
theorem Fly.Form.delAcc (h : f.Form) {n : Nat} : (f.delAcc n).Form := { h with accs := h.accs.del _ }
theorem Fly.Form.setPost (h : f.Form) {n : Nat} {v : Post} : (f.setPost n v).Form := { h with posts := h.posts.put _ _ }
theorem Fly.Form.delPost (h : f.Form) {n : Nat} : (f.delPost n).Form := { h with posts := h.posts.del _ }
theorem Fly.Form.sched (h : f.Form) {n : Nat} {a : Act} : (f.sched n a).Form := { h with }
theorem Fly.Form.event (h : f.Form) {n : Nat} {i : Instr} {e : Ev} : (f.event n i e).Form := { h with }
theorem Fly.Form.fresh (h : f.Form) : f.fresh.2.Form := { h with }
theorem Fly.Form.draw (h : f.Form) : f.draw.2.Form := by constructor <;> simp [h.insts, h.commits, h.accs, h.posts, h.sleeps]

theorem Fly.Form.freshened {w : Fly} {n : Nat} (h : f.Form) (e : f.fresh = (n, w)) : w.Form := by
  have hw := h.fresh
  rwa [e] at hw

theorem Fly.Form.drawn {w : Fly} {d : Nat} (h : f.Form) (e : f.draw = (d, w)) : w.Form := by
  have hw := h.draw
  rwa [e] at hw

theorem Fly.Form.modInst (h : f.Form) {c : Firing} {g : Inst → Inst} : (f.modInst c g).Form := by
  unfold Fly.modInst
  split
  · exact h.setInst
  · exact h

theorem Fly.Form.addEff (h : f.Form) {e : Eff} : (f.addEff e).Form := h.modInst

theorem Fly.Form.withCommits (h : f.Form) {t : Tab Inst} (ht : rising t) : ({ f with commits := t } : Fly).Form := { h with commits := ht }
theorem Fly.Form.withAccs (h : f.Form) {t : Tab Access} (ht : rising t) : ({ f with accs := t } : Fly).Form := { h with accs := ht }
theorem Fly.Form.withSleeps (h : f.Form) {t : Tab Sleep} (ht : rising t) : ({ f with sleeps := t } : Fly).Form := { h with sleeps := ht }

theorem Fly.Form.plain (h : f.Form) {a : Firing} {b : Ev} {c : List Work} {d : List Nat} {e : Nat} {g : List (Nat × Nat × Nat)} :
    ({ f with cur := a, ev := b, agenda := c, delays := d, nextSer := e, calm := g } : Fly).Form := { h with }

end

/-! ### The machine -/

section
variable {s : State}

theorem State.Form.mapSys (h : s.Form) {g : Sys → Sys} (hg : (g s.sys).Form) : (s.mapSys g).Form := { h with sys := hg }
theorem State.Form.mapFly (h : s.Form) {g : Fly → Fly} (hg : (g s.fly).Form) : (s.mapFly g).Form := { h with fly := hg }
theorem State.Form.sched (h : s.Form) {n : Nat} {i : Instr} {e : Ev} : (s.sched n i e).Form := { h with fly := h.fly.event }

theorem State.Form.parts (h : s.Form) {y : Sys} {f : Fly} (hy : y.Form) (hf : f.Form) : ({ s with sys := y, fly := f } : State).Form :=
  { h with sys := hy, fly := hf }

theorem State.Form.withMem (h : s.Form) {m : Memory} (hm : Memory.wf m = true) : ({ s with mem := m } : State).Form := { h with mem := hm }

theorem State.Form.setRegs (h : s.Form) {c k : Nat} {r : Regs} (hr : rising r) : (s.setRegs c k r).Form :=
  { h with greg := h.greg.set _ _ _, regs := fun e he => (mem_tabSet _ _ _ _ he).elim (fun e => e ▸ hr) (h.regs e) }

theorem State.Form.regsOf (h : s.Form) {n : Nat} : rising (tabGet [] s.greg n) := tabGet_of_all rising_nil h.regs n

theorem State.Form.setReg (h : s.Form) {c k n : Nat} {v : Word} : (s.setReg c k n v).Form := by
  unfold State.setReg
  split
  · exact h
  · exact h.setRegs (h.regsOf.set _ _ _)

end

theorem State.Form.ite {p : Prop} [Decidable p] {s u : State} (h : s.Form) (hu : u.Form) : (if p then s else u).Form := by
  split
  · exact h
  · exact hu

/-! ### The state after reset -/

theorem Sys.Form.atReset : Sys.reset.Form :=
  (Sys.form_iff _).1 (by simp [tablesRise, Sys.reset, rising, Ctx.zero, Ctx.reset])

theorem Fly.Form.atReset : Fly.reset.Form := ⟨rising_nil, rising_nil, rising_nil, rising_nil, rising_nil⟩

theorem State.Form.atReset : State.reset.Form where
  mem := reset_mem_wf
  greg := rising_nil
  regs := by simp [State.reset]
  sys := Sys.Form.atReset
  fly := Fly.Form.atReset

/-! ### Folds -/

/-- A fold keeps what each of its steps keeps. -/
theorem foldl_keeps {α β : Type} {P : β → Prop} {g : β → α → β} (hg : ∀ b a, P b → P (g b a)) (l : List α) {b : β} (hb : P b) :
    P (l.foldl g b) := by
  induction l generalizing b with
  | nil => exact hb
  | cons a l ih => exact ih (hg b a hb)

section
variable {α : Type} {l : List α}

theorem Sys.Form.foldl {y : Sys} (h : y.Form) {g : Sys → α → Sys} (hg : ∀ y a, y.Form → (g y a).Form) : (l.foldl g y).Form :=
  foldl_keeps hg l h

theorem Fly.Form.foldl {f : Fly} (h : f.Form) {g : Fly → α → Fly} (hg : ∀ f a, f.Form → (g f a).Form) : (l.foldl g f).Form :=
  foldl_keeps hg l h

theorem State.Form.foldl {s : State} (h : s.Form) {g : State → α → State} (hg : ∀ s a, s.Form → (g s a).Form) : (l.foldl g s).Form :=
  foldl_keeps hg l h

end

/-! ### Answers -/

/-- What a firing puts in flight has its tables in form. -/
def FireRes.Form : FireRes → Prop
  | .ok f => f.Form
  | .wait => True
  | .trap _ => True

theorem FireRes.Form.ok {f : Fly} (h : f.Form) : (FireRes.ok f).Form := h
theorem FireRes.Form.wait : FireRes.wait.Form := trivial
theorem FireRes.Form.trap {r : TrapRec} : (FireRes.trap r).Form := trivial

/-- An action answers a state in form, if it answers a state. -/
def Formed (o : Host.Outcome State Fault Refusal) : Prop := ∀ t, o = .next t → t.Form

theorem Formed.next {s : State} (h : s.Form) : Formed (.next s) := fun _ e => by cases e; exact h
theorem Formed.fault {r : Fault} : Formed (.fault r) := fun _ e => by cases e
theorem Formed.refused {r : Refusal} : Formed (.refused r) := fun _ e => by cases e

end Sys2Proof.Machine

namespace Sys2Proof.Machine
open Claims

/-! ## Memory and carried registers read back -/

/-! ### Words in memory -/

/-- A number read back is the number whose digits to the base 256 are the bytes read. -/
theorem readLE_eq {m : Memory} {a n v : Nat} (h : ∀ i < n, readByte m (a + i) = BitVec.ofNat 8 (v / 256 ^ i)) : readLE m a n = v % 256 ^ n := by
  induction n generalizing a v with
  | zero => simp [readLE, Nat.mod_one]
  | succ n ih =>
    have h0 : readByte m a = BitVec.ofNat 8 v := by simpa using h 0 (Nat.zero_lt_succ n)
    have hs : readLE m (a + 1) n = v / 256 % 256 ^ n := ih fun i hi => by
      have hb := h (i + 1) (by omega)
      rw [pow_succ, mul_comm, ← Nat.div_div_eq_div_mul] at hb
      rw [show a + 1 + i = a + (i + 1) by omega, hb]
    rw [readLE, h0, hs, BitVec.toNat_ofNat, Nat.pow_succ' (m := 256), Nat.mod_mul (x := v) (a := 256)]

theorem readByte_writeWord_same {m : Memory} {a : Nat} {v : Word} {i : Nat} (hm : Memory.wf m = true) (hi : i < 8) :
    readByte (writeWord m a v) (a + i) = v.extractLsb' (8 * i) 8 := by
  rw [writeWord, readByte_writeLE_same _ _ _ _ hm hi, BitVec.extractLsb', Nat.shiftRight_eq_div_pow, pow_mul]
  rfl

theorem readWord_writeWord {m : Memory} {a : Nat} {v : Word} (hm : Memory.wf m = true) : readWord (writeWord m a v) a = v := by
  have hv : v.toNat < 256 ^ 8 := by simpa using v.isLt
  rw [readWord, writeWord, readLE_eq fun i hi => readByte_writeLE_same a 8 v.toNat i hm hi, Nat.mod_eq_of_lt hv, BitVec.ofNat_toNat,
    BitVec.setWidth_eq]

/-! ### Carried registers -/

theorem State.reg_zero {s : State} {c k : Nat} : s.reg c k 0 = 0 := rfl

theorem State.setReg_zero {s : State} {c k : Nat} {v : Word} : s.setReg c k 0 v = s := rfl

/-- A register that is written: the entry of its thread is the thread's registers with that one set. -/
theorem State.setReg_greg {s : State} {c k n : Nat} {v : Word} (hn : n ≠ 0) :
    (s.setReg c k n v).greg = tabSet [] s.greg (tkey c k) (tabSet 0 (tabGet [] s.greg (tkey c k)) n v) := by
  rw [State.setReg, if_neg hn]

theorem State.Form.reg_setReg_same {s : State} (h : s.Form) {c k n : Nat} {v : Word} (hn : n ≠ 0) : (s.setReg c k n v).reg c k n = v := by
  rw [State.reg, if_neg hn, State.setReg_greg hn, tabGet_set_same _ _ _ _ ((rising_iff _).1 h.greg),
    tabGet_set_same _ _ _ _ ((rising_iff _).1 h.regsOf)]

theorem State.Form.reg_setReg_other {s : State} (h : s.Form) {c k n m : Nat} {v : Word} (hm : m ≠ n) :
    (s.setReg c k n v).reg c k m = s.reg c k m := by
  by_cases hn : n = 0
  · rw [hn, State.setReg_zero]
  · rw [State.reg, State.reg, State.setReg_greg hn, tabGet_set_same _ _ _ _ ((rising_iff _).1 h.greg), tabGet_set_other _ _ _ _ _ hm]

/-- The threads of the machine have keys of their own. -/
theorem tkey_ne {c k c' k' : Nat} (hk : k < 1024) (hk' : k' < 1024) (hne : (c', k') ≠ (c, k)) : tkey c' k' ≠ tkey c k := by
  unfold tkey
  rintro h
  exact hne (Prod.ext (by omega) (by omega))

theorem State.reg_setReg_thread {s : State} {c k c' k' n m : Nat} {v : Word} (hk : k < 1024) (hk' : k' < 1024) (hne : (c', k') ≠ (c, k)) :
    (s.setReg c k n v).reg c' k' m = s.reg c' k' m := by
  by_cases hn : n = 0
  · rw [hn, State.setReg_zero]
  · rw [State.reg, State.reg, State.setReg_greg hn, tabGet_set_other _ _ _ _ _ (tkey_ne hk hk' hne)]

/-- Settles O16: the laws of a byte written to memory and of an entry written to a table, at the eight bytes of a word and at the two tables that hold the
carried registers. -/
theorem storageReadsBack : Obligations.StorageReadsBack := by
  unfold Obligations.StorageReadsBack
  refine ⟨fun m a v hm => ⟨readWord_writeWord hm, fun i hi => readByte_writeWord_same hm hi,
    fun b hb => readByte_writeLE_other _ _ _ _ _ hb, writeWord_wf a v hm⟩, fun s c k n v hs hk => ?_⟩
  rw [State.form_iff] at hs ⊢
  exact ⟨State.reg_zero, State.setReg_zero, hs.reg_setReg_same, hs.setReg, fun _ hm => hs.reg_setReg_other hm,
    fun _ _ _ hk' hne => State.reg_setReg_thread hk hk' hne⟩

end Sys2Proof.Machine

namespace Sys2Proof.Machine
open Claims

/-! ## Reset -/

/-! ### Tables -/

@[simp] theorem tabGet_nil {α : Type} {d : α} {k : Nat} : tabGet d [] k = d := rfl

/-- Mapping a rising table entry by entry, some entries dropped, is mapping what each key reads. -/
theorem tabFind_filterMap {α β : Type} {t : Tab α} (ht : rising t) (g : α → Option β) (k : Nat) :
    tabFind (t.filterMap fun e => (g e.2).map fun v => (e.1, v)) k = (tabFind t k).bind g := by
  induction t with
  | nil => rfl
  | cons e t ih =>
    obtain ⟨hlt, ht⟩ := List.pairwise_cons.1 ht
    rw [List.filterMap_cons, tabFind]
    by_cases hk : k = e.1
    · have hnone : tabFind t k = none := by
        cases hf : tabFind t k with
        | none => rfl
        | some v => exact absurd (hlt _ (mem_of_tabFind hf)) (by simp [hk])
      cases hg : g e.2 with
      | none => simpa [hk, hg] using (ih ht).trans (by rw [hnone]; rfl)
      | some v => simp [hk, hg, tabFind]
    · cases hg : g e.2 <;> simp [hk, tabFind, ih ht]

/-! ### What reset leaves -/

theorem Sys.reset_ctx_zero : Sys.reset.ctx 0 = Ctx.zero := rfl

theorem Sys.reset_ctx {x : Nat} (hx : x ≠ 0) : Sys.reset.ctx x = Ctx.reset := by simp [Sys.ctx, Sys.reset, tabGet, tabFind, hx]

theorem Sys.reset_cent_valid {c e : Nat} : (Sys.reset.cent c e).valid = false := by
  simp [Sys.cent, Sys.reset, CEnt.reset, CEnt.valid]

theorem State.reset_reg {c k n : Nat} : State.reset.reg c k n = 0 := by
  unfold State.reg
  split <;> rfl

/-! ### The RESET event -/

/-- A line that nothing has stored and no home slice holds is not listed after a reset. -/
theorem resetLine_of_unowned {v : Line} (hh : v.held = none) (hk : v.ktag = none) : resetLine v = none := by
  simp [resetLine, Line.owner?, hh, hk]

/-- A line that had an owner stands stored under a key that is no more. -/
theorem resetLine_of_owned {v : Line} (h : v.held.isSome ∨ v.ktag.isSome) :
    ∃ k, resetLine v = some { Line.reset with ktag := some { tag := k, gen := none } } := by
  cases hh : v.held with
  | some k => exact ⟨k, by simp [resetLine, Line.owner?, hh]⟩
  | none =>
    cases hk : v.ktag with
    | some w => exact ⟨w.tag, by simp [resetLine, Line.owner?, hh, hk]⟩
    | none => simp [hh, hk] at h

/-- A line whose key is no more opens under no key tag. -/
theorem Sys.opens_keyless {y : Sys} {v : Line} {k j : KeyTag} (h : v.ktag = some { tag := j, gen := none }) : y.opens v k = false := by
  simp [Sys.opens, Sys.storedAs, h]

/-- The lines of memory after a reset. -/
def resetLines (t : Tab Line) : Tab Line := t.filterMap fun e => (resetLine e.2).map fun v => (e.1, v)

theorem resetLines_get {t : Tab Line} (ht : rising t) (l : Nat) :
    tabGet Line.reset (resetLines t) l = (resetLine (tabGet Line.reset t l)).getD Line.reset := by
  unfold tabGet resetLines
  rw [tabFind_filterMap ht resetLine l]
  cases tabFind t l <;> rfl

theorem resetLines_unowned {t : Tab Line} (ht : rising t) {l : Nat} (hh : (tabGet Line.reset t l).held = none)
    (hk : (tabGet Line.reset t l).ktag = none) : tabGet Line.reset (resetLines t) l = Line.reset := by
  rw [resetLines_get ht, resetLine_of_unowned hh hk]
  rfl

theorem resetLines_owned {t : Tab Line} (ht : rising t) {l : Nat}
    (h : (tabGet Line.reset t l).held.isSome ∨ (tabGet Line.reset t l).ktag.isSome) :
    ∃ k, (tabGet Line.reset (resetLines t) l).ktag = some { tag := k, gen := none } := by
  obtain ⟨k, hk⟩ := resetLine_of_owned h
  exact ⟨k, by rw [resetLines_get ht, hk]; rfl⟩

/-- Settles O13: the state after reset by evaluation, and the RESET event by what it makes of each line. -/
theorem resetState : Obligations.ResetState := by
  unfold Obligations.ResetState
  refine ⟨(State.form_iff _).2 State.Form.atReset, rfl, rfl, rfl, rfl, rfl, fun x hx => ?_, fun x => ?_,
    fun c k => ⟨rfl, rfl, fun n => State.reset_reg⟩, fun c => ⟨rfl, rfl, rfl, rfl⟩, fun c b => ⟨rfl, rfl⟩, fun c b => rfl, fun c r f => rfl,
    fun c k => rfl, fun c p => rfl, fun c l => rfl, fun c f q => rfl, fun c e => rfl, fun c e => Sys.reset_cent_valid, fun c e => rfl, rfl, rfl, rfl, rfl,
    fun s => ⟨_, rfl, rfl, rfl, rfl, fun ht l => ⟨fun ⟨hh, hk⟩ => ?_, fun ho k => ?_⟩, rfl, rfl⟩⟩
  · exact Sys.reset_ctx hx ▸ ⟨rfl, rfl, rfl⟩
  · by_cases hx : x = 0
    · subst hx
      exact ⟨rfl, rfl, rfl, rfl⟩
    · change (Sys.reset.ctx x).stall = _ ∧ (Sys.reset.ctx x).ftlim = _ ∧ (Sys.reset.ctx x).wlimit = _ ∧ (Sys.reset.ctx x).cxvec = _
      rw [Sys.reset_ctx hx]
      exact ⟨rfl, rfl, rfl, rfl⟩
  · exact resetLines_unowned ht hh hk
  · obtain ⟨j, hj⟩ := resetLines_owned ht ho
    exact Sys.opens_keyless hj

end Sys2Proof.Machine

namespace Sys2Proof.Machine
open Claims

/-! ## Threads: aborting, saving, retiring, faulting and entering blocks keep form -/

/-! ### The colour table (R36 to R41) -/

protected theorem Sys.Form.setPartials {y : Sys} {c r k : Nat} {ps : List (Nat × Nat × Nat)} (h : y.Form) : (Sys.setPartials y c r k ps).Form := by
  unfold Sys.setPartials
  grind [← Sys.Form.modRegion]

protected theorem Sys.Form.countFault {y : Sys} {c col : Nat} (h : y.Form) : (Sys.countFault y c col).Form := by
  unfold Sys.countFault
  grind [← Sys.Form.modCent]

/-! ### Kernels, blocks, instances -/

protected theorem Fly.Form.checkReady {y : Sys} {c k : Nat} {f : Fly} (h : f.Form) : (checkReady y c k f).Form := by
  unfold Machine.checkReady
  grind [← Fly.Form.event, ← Fly.Form.setInst]

/-! ### Aborting an instance (R97) -/

protected theorem Sys.Form.dropTokens {y : Sys} {c : Nat} {p : Entry → Bool} (h : y.Form) : (Sys.dropTokens y c p).Form := by
  unfold Sys.dropTokens
  grind [← Sys.Form.parks, ← Sys.Form.withParks, ← rising.filterMap, ← Sys.Form.foldl, ← Sys.Form.modRegion]

protected theorem Fly.Form.wakeRegion {now c r : Nat} {f : Fly} (h : f.Form) : (wakeRegion now c r f).Form := by
  unfold Machine.wakeRegion
  grind [← Fly.Form.event]

protected theorem Fly.Form.calmed {y0 y : Sys} {c : Nat} {f : Fly} (h : f.Form) : (calmed y0 y c f).Form := by
  unfold Machine.calmed
  grind [← Fly.Form.plain]

protected theorem Fly.Form.wakeCluster {y0 y : Sys} {c : Nat} {f : Fly} (h : f.Form) : (wakeCluster y0 y c f).Form := by
  unfold Machine.wakeCluster
  grind [← Fly.Form.calmed, ← Fly.Form.event, ← Fly.Form.foldl, ← Fly.Form.wakeRegion]

protected theorem Fly.Form.abortAccess {now : Nat} {f : Fly} {id : Nat} {a : Access} (h : f.Form) : (Fly.abortAccess now f id a).Form := by
  unfold Fly.abortAccess
  grind [← Fly.Form.plain, ← Fly.Form.delAcc, ← Fly.Form.event, ← Fly.Form.setAcc]

protected theorem Sys.Form.unsend {y : Sys} {i : Inst} (h : y.Form) : (Sys.unsend y i).Form := by
  unfold Sys.unsend
  grind [← Sys.Form.thrs, ← Sys.Form.withThrs, ← rising.map]

protected theorem Sys.Form.undrop {y : Sys} {c k : Nat} {i : Inst} (h : y.Form) : (Sys.undrop y c k i).Form := by
  unfold Sys.undrop
  grind [← Sys.Form.modThr]

protected theorem Sys.Form.unpop {y : Sys} {c : Nat} {i : Inst} (h : y.Form) : (Sys.unpop y c i).Form := by
  unfold Sys.unpop
  grind [← Sys.Form.foldl, ← Sys.Form.modBank]

protected theorem State.Form.abortInst {s : State} {c k : Nat} (h : s.Form) : (abortInst s c k).Form := by
  unfold Machine.abortInst
  split
  · exact h
  · extract_lets y f f' f'' y' g
    have hy : y.Form := h.sys.unsend.undrop.unpop.dropTokens.setPartials
    have hy' : y'.Form := by grind [← Sys.Form.modThr]
    have hg : g.Form := by
      grind [← State.Form.fly, ← Fly.Form.plain, ← Fly.Form.delInst, ← Fly.Form.foldl, ← Fly.Form.abortAccess, ← Fly.Form.wakeCluster]
    exact { h with sys := hy', fly := { hg with sleeps := hg.sleeps.filter _, posts := hg.posts.filter _ } }

/-! ### Saving a thread (R92, R218, R350) -/

protected theorem Sys.Form.unwait {y : Sys} {c : Nat} {p : Nat → Nat → Nat → Bool} (h : y.Form) : (Sys.unwait y c p).Form := by
  unfold Sys.unwait
  grind [← Sys.Form.modClu]

protected theorem State.Form.maskRegs {s : State} {c k : Nat} (h : s.Form) : (maskRegs s c k).Form := h.setRegs (h.regsOf.filter _)

protected theorem State.Form.saveThread {s : State} {c k : Nat} (h : s.Form) : (saveThread s c k).Form := by
  unfold Machine.saveThread
  grind [← State.Form.sys, ← State.Form.mapSys, ← State.Form.maskRegs, ← Sys.Form.setThr, ← Sys.Form.unwait]

/-! ### Barriers and groups (R114 to R128) -/

protected theorem Sys.Form.settleBar {y : Sys} {c b : Nat} (h : y.Form) : (Sys.settleBar y c b).Form := by
  unfold Sys.settleBar
  grind [← Sys.Form.modBar]

protected theorem Sys.Form.leaveLocal {y : Sys} {c k g : Nat} (h : y.Form) : (Sys.leaveLocal y c k g).Form := by
  unfold Sys.leaveLocal
  grind [← Sys.Form.foldl, ← Sys.Form.modBar, ← Sys.Form.modThr, ← Sys.Form.setLc]

protected theorem Sys.Form.joinLocal {y : Sys} {c k g : Nat} (h : y.Form) : (Sys.joinLocal y c k g).Form := by
  unfold Sys.joinLocal
  grind [← Sys.Form.modThr, ← Sys.Form.setLc]

protected theorem Fly.Form.wakeBars {y : Sys} {c part : Nat} {gs : List Nat} {f : Fly} (h : f.Form) : (wakeBars y c part gs f).Form := by
  unfold Machine.wakeBars
  grind [← Fly.Form.event, ← Fly.Form.foldl]

/-! ### Monitor samples (R367, R368) -/

protected theorem Fly.Form.sampleMon {y : Sys} {x colour event v : Nat} {f : Fly} (h : f.Form) : (sampleMon y x colour event v f).Form := by
  unfold Machine.sampleMon
  grind [← Fly.Form.event]

/-! ### Retirement (R94, R119, R106) -/

protected theorem Sys.Form.discardKernels {y : Sys} {x : Nat} (h : y.Form) : (discardKernels y x).Form := by
  unfold Machine.discardKernels
  grind [← Ctx.Form.plain, ← Sys.Form.modCtx]

protected theorem State.Form.signal {s : State} {c : Nat} {t : Ctrl} (h : s.Form) : (signal s c t).Form := by
  unfold Machine.signal
  grind [← State.Form.sys, ← State.Form.mapSys, ← State.Form.sched, ← Sys.Form.setRegion]

protected theorem State.Form.completionSend {y0 : Sys} {s : State} {c x ident : Nat} (h : s.Form) : (completionSend y0 s c x ident).Form := by
  unfold Machine.completionSend
  grind [← State.Form.signal]

protected theorem State.Form.leaveGroups {s : State} {c k : Nat} (h : s.Form) : (leaveGroups s c k).Form := by
  unfold Machine.leaveGroups
  grind [← State.Form.sys, ← State.Form.fly, ← State.Form.parts, ← Fly.Form.event, ← Sys.Form.foldl, ← Fly.Form.foldl, ← Fly.Form.fresh,
    ← Sys.Form.leaveLocal, ← Fly.Form.setPost, ← Fly.Form.wakeBars]

protected theorem State.Form.retireThread {s : State} {c k : Nat} (h : s.Form) : (retireThread s c k).Form := by
  unfold Machine.retireThread
  extract_lets u t
  have hu : u.Form := h.leaveGroups
  clear_value u
  split
  · exact hu.mapSys hu.sys.setThr
  · rename_i y0 y y1 y2 y3 y4 y5 y6 v v' v'' _
    have hy : y2.Form := by
      grind [← State.Form.sys, ← Sys.Form.modCtx, ← Ctx.Form.plain, ← Sys.Form.dropTokens, ← Sys.Form.modMent, ← Sys.Form.setTslot]
    have hy : y6.Form := by
      grind [← Sys.Form.modClu, ← Sys.Form.setThr, ← Sys.Form.foldl, ← Sys.Form.withFrames, ← Sys.Form.frames, ← rising.set,
        ← Sys.Form.discardKernels]
    have hv : v.Form := (hu.setRegs rising_nil).mapSys (g := fun _ => y6) hy
    grind [← State.Form.completionSend, ← State.Form.signal, ← Fly.Form.wakeCluster, ← State.Form.parts, ← State.Form.mapFly, ← Fly.Form.plain,
      ← State.Form.sys, ← State.Form.fly]

protected theorem State.Form.endThread {s : State} {c k : Nat} (h : s.Form) : (endThread s c k).Form := by
  unfold Machine.endThread
  grind [← State.Form.sys, ← State.Form.fly, ← State.Form.parts, ← Fly.Form.fresh, ← State.Form.retireThread, ← Fly.Form.setPost, ← Sys.Form.setThr]

/-! ### The watchdog (R84, R85) -/

protected theorem Sys.Form.wsync {y : Sys} {x : Nat} (h : y.Form) : (Sys.wsync y x).Form := by
  unfold Sys.wsync
  grind [← Ctx.Form.plain, ← Sys.Form.modCtx]

protected theorem Fly.Form.armWatchdog {y : Sys} {x : Nat} {f : Fly} (h : f.Form) : (armWatchdog y x f).Form := by
  unfold Machine.armWatchdog
  grind [← Fly.Form.event]

/-! ### Context faults (R76, R80) -/

protected theorem State.Form.interrupt {s : State} {x fcause c k : Nat} (h : s.Form) : (interrupt s x fcause c k).Form := by
  unfold Machine.interrupt
  grind [← State.Form.sys, ← Sys.Form.plain, ← State.Form.mapSys]

protected theorem Sys.Form.roundXfers {y : Sys} {x : Nat} {p : Nat → Bool} (h : y.Form) : (Sys.roundXfers y x p).Form := by
  unfold Sys.roundXfers
  grind [← Sys.Form.xfers, ← Sys.Form.withXfers, ← rising.map]

protected theorem State.Form.haltXfers {s : State} {x : Nat} (h : s.Form) : (haltXfers s x).Form := by
  unfold Machine.haltXfers
  grind [← State.Form.sys, ← State.Form.foldl, ← State.Form.mapSys, ← Sys.Form.roundXfers, ← State.Form.sched]

protected theorem State.Form.contextFault {s : State} {x fcause c k : Nat} (h : s.Form) : (contextFault s x fcause c k).Form := by
  unfold Machine.contextFault
  grind [← State.Form.sys, ← Ctx.Form.plain, ← Sys.Form.ctx, ← State.Form.abortInst, ← State.Form.endThread, ← State.Form.foldl,
    ← State.Form.haltXfers, ← State.Form.interrupt, ← State.Form.mapSys, ← Sys.Form.modCtx, ← Sys.Form.modThr, ← State.Form.saveThread,
    ← Sys.Form.setCtx, ← Sys.Form.wsync]

protected theorem State.Form.memFault {s : State} {x c k owner : Nat} (h : s.Form) : (memFault s x c k owner).Form := by
  unfold Machine.memFault
  grind [← State.Form.sys, ← Ctx.Form.plain, ← State.Form.contextFault, ← State.Form.interrupt, ← State.Form.mapSys, ← Sys.Form.modCtx]

/-! ### Taking a trap (R343 to R346, R395) -/

protected theorem State.Form.takeTrap {s : State} {c k : Nat} {r : TrapRec} {blk : Nat} {defer : Bool} (h : s.Form) :
    (takeTrap s c k r blk defer).Form := by
  unfold Machine.takeTrap
  grind [← State.Form.sys, ← State.Form.mapSys, ← State.Form.sched, ← Sys.Form.setThr]

protected theorem State.Form.trapRegs {s : State} {c k : Nat} (h : s.Form) : (trapRegs s c k).Form := by
  unfold Machine.trapRegs
  grind [← State.Form.sys, ← State.Form.contextFault, ← State.Form.mapSys, ← State.Form.sched, ← Sys.Form.setThr]

protected theorem State.Form.raiseTrap {s : State} {c k idx : Nat} {r : TrapRec} (h : s.Form) : (raiseTrap s c k idx r).Form := by
  unfold Machine.raiseTrap
  grind [← State.Form.fly, ← Fly.Form.event, ← State.Form.mapFly, ← Fly.Form.setInst]

protected theorem State.Form.deliverTrap {s : State} {c k : Nat} {i : Inst} {r : TrapRec} (h : s.Form) : (deliverTrap s c k i r).Form := by
  unfold Machine.deliverTrap
  grind [← State.Form.sys, ← State.Form.abortInst, ← Sys.Form.countFault, ← State.Form.mapSys, ← Sys.Form.modClu, ← Sys.Form.modThr,
    ← State.Form.takeTrap]

/-! ### Entering a block (R92, R99, R101) -/

protected theorem State.Form.enterBlock {s : State} {c k r b : Nat} (h : s.Form) : (enterBlock s c k r b).Form := by
  unfold Machine.enterBlock
  grind [← State.Form.sys, ← State.Form.fly, ← State.Form.parts, ← Fly.Form.event, ← Fly.Form.foldl, ← Fly.Form.fresh, ← Fly.Form.sched,
    ← Sys.Form.setFrame, ← Fly.Form.setInst, ← Sys.Form.setThr, ← State.Form.takeTrap]

protected theorem State.Form.waitBlock {s : State} {c ctx blk who : Nat} (h : s.Form) : (waitBlock s c ctx blk who).Form := by
  unfold Machine.waitBlock
  grind [← State.Form.sys, ← State.Form.mapSys, ← Sys.Form.modClu, ← State.Form.sched]

protected theorem State.Form.enterNext {s : State} {c k : Nat} (h : s.Form) : (enterNext s c k).Form := by
  unfold Machine.enterNext
  extract_lets t u
  have hu : u.Form := h.mapSys h.sys.setThr
  clear_value u
  repeat' split
  all_goals grind [← State.Form.sys, ← State.Form.mapSys, ← Sys.Form.modThr, ← Sys.Form.setThr, ← Sys.Form.wsync, ← State.Form.endThread,
    ← State.Form.enterBlock, ← State.Form.saveThread, ← State.Form.takeTrap, ← State.Form.waitBlock]

protected theorem State.Form.proceed {s : State} {c k : Nat} (h : s.Form) : (proceed s c k).Form := by
  unfold Machine.proceed
  grind [← State.Form.enterNext, ← State.Form.saveThread, ← State.Form.takeTrap]

protected theorem State.Form.releaseWaiters {s : State} {c : Nat} (h : s.Form) : (releaseWaiters s c).Form := by
  unfold Machine.releaseWaiters
  grind [← State.Form.sys, ← State.Form.foldl, ← State.Form.mapSys, ← Sys.Form.modThr, ← State.Form.proceed]

/-! ### Deferred traps (R345) -/

protected theorem State.Form.deferTrap {s : State} {c k : Nat} {ser : Option Nat} {r : TrapRec} (h : s.Form) : (deferTrap s c k ser r).Form := by
  unfold Machine.deferTrap
  grind [← State.Form.sys, ← State.Form.mapSys, ← Sys.Form.modThr]

end Sys2Proof.Machine

namespace Sys2Proof.Machine
open Claims

/-! ## Firings of the general, arithmetic, wide and memory classes keep form -/

/-! ### How a firing ends -/

protected theorem Fly.Form.waitFiring {now : Nat} {c : Firing} {f : Fly} (h : f.Form) : (waitFiring now c f).Form := by
  unfold Machine.waitFiring
  grind [← Fly.Form.plain, ← Fly.Form.foldl, ← Fly.Form.sched]

theorem Formed.finish {s : State} {r : FireRes} (h : s.Form) (hr : r.Form) : Formed (finish s r) := by
  cases r with
  | ok f => exact .next { h with fly := hr }
  | wait => exact .next { h with fly := h.fly.waitFiring }
  | trap q => exact .next h.raiseTrap

/-! ### What a firing yields -/

protected theorem Fly.Form.toCommit {c : Firing} {at_ part col : Nat} {t : Token} {f : Fly} (h : f.Form) : (toCommit c at_ part col t f).Form := by
  unfold Machine.toCommit
  grind [← Fly.Form.event]

protected theorem Fly.Form.sendTok {c : Firing} {leave : Nat} {t : Token} {tgt : Target} {f : Fly} (h : f.Form) : (sendTok c leave t tgt f).Form := by
  unfold Machine.sendTok
  grind [← Fly.Form.event, ← Fly.Form.toCommit]

protected theorem Fly.Form.sendAll {c : Firing} {leave : Nat} {tgts : List Target} {ts : List Token} {f : Fly} (h : f.Form) :
    (sendAll c leave tgts ts f).Form := by
  unfold Machine.sendAll
  grind [← Fly.Form.foldl, ← Fly.Form.sendTok]

protected theorem Fly.Form.mapUnary {s : State} {hd : Head} {mover : Bool} {out : Fmt} {lat : Nat} {tgts : List Target} {g : Nat → Word → Word}
    (h : s.fly.Form) :
    (mapUnary s hd mover out lat tgts g).Form := by
  unfold Machine.mapUnary
  grind [← FireRes.Form.ok, ← FireRes.Form.trap, ← Fly.Form.sendAll]

protected theorem Fly.Form.mapBinary {s : State} {hd : Head} {mover : Bool} {out : Fmt} {lat : Nat} {tgts : List Target}
    {g : Nat → Word → Word → Word} (h : s.fly.Form) :
    (mapBinary s hd mover out lat tgts g).Form := by
  unfold Machine.mapBinary
  grind [← FireRes.Form.ok, ← FireRes.Form.trap, ← Fly.Form.sendAll]

protected theorem Fly.Form.scalarFire {s : State} {hd : Head} {k : FireRes} (h : s.fly.Form) (hk : k.Form) : (scalarFire s hd k).Form := by
  unfold Machine.scalarFire
  grind [← FireRes.Form.ok, ← FireRes.Form.trap]

protected theorem Fly.Form.yieldScalar {s : State} {out : Fmt} {lat : Nat} {tgts : List Target} {x : Word} (h : s.fly.Form) :
    (yieldScalar s out lat tgts x).Form := by
  unfold Machine.yieldScalar
  grind [← FireRes.Form.ok, ← Fly.Form.sendAll]

/-! ### Shared forms -/

protected theorem Fly.Form.mapUnaryOf {s : State} {hd : Head} {fs : List Fmt} {out : Fmt} {lat : Nat} {tgts : List Target} {g : Nat → Word → Word}
    (h : s.fly.Form) :
    (mapUnaryOf s hd fs out lat tgts g).Form := by
  unfold Machine.mapUnaryOf
  grind [← FireRes.Form.ok, ← FireRes.Form.trap, ← Fly.Form.sendAll]

protected theorem Fly.Form.intS {s : State} {x : GWord} {lat : Nat} {f : Nat → Int → Int → Int} (h : s.fly.Form) : (intS s x lat f).Form := by
  unfold Machine.intS
  grind [← Fly.Form.mapBinary]

protected theorem Fly.Form.intU {s : State} {x : GWord} {lat : Nat} {f : Nat → Int → Int → Int} (h : s.fly.Form) : (intU s x lat f).Form := by
  unfold Machine.intU
  grind [← Fly.Form.mapBinary]

protected theorem Fly.Form.intI {s : State} {x : GWord} {f : Nat → Int → Int → Int} (h : s.fly.Form) : (intI s x f).Form := by
  unfold Machine.intI
  grind [← Fly.Form.mapUnary]

protected theorem Fly.Form.bitB {s : State} {x : GWord} {f : Nat → Word → Word → Word} (h : s.fly.Form) : (bitB s x f).Form := by
  unfold Machine.bitB
  grind [← Fly.Form.mapBinary]

protected theorem Fly.Form.bitI {s : State} {x : GWord} {f : Nat → Word → Word → Word} (h : s.fly.Form) : (bitI s x f).Form := by
  unfold Machine.bitI
  grind [← Fly.Form.mapUnary]

protected theorem Fly.Form.bitU {s : State} {x : GWord} {f : Nat → Word → Word} (h : s.fly.Form) : (bitU s x f).Form := by
  unfold Machine.bitU
  grind [← Fly.Form.mapUnary]

protected theorem Fly.Form.compareS {s : State} {x : GWord} {p : Int → Int → Bool} (h : s.fly.Form) : (compareS s x p).Form := by
  unfold Machine.compareS
  grind [← Fly.Form.mapBinary]

protected theorem Fly.Form.compareU {s : State} {x : GWord} {p : Nat → Nat → Bool} (h : s.fly.Form) : (compareU s x p).Form := by
  unfold Machine.compareU
  grind [← Fly.Form.mapBinary]

protected theorem Fly.Form.compareI {s : State} {x : GWord} {p : Int → Int → Bool} (h : s.fly.Form) : (compareI s x p).Form := by
  unfold Machine.compareI
  grind [← Fly.Form.mapUnary]

protected theorem Fly.Form.putReg {s : State} {x : GWord} (h : s.fly.Form) : (putReg s x).Form := by
  unfold Machine.putReg
  grind [← FireRes.Form.ok, ← FireRes.Form.trap, ← Fly.Form.sendAll]

protected theorem Fly.Form.nullAnswer {s : State} {x : GWord} (h : s.fly.Form) : (nullAnswer s x).Form := by
  unfold Machine.nullAnswer
  grind [← FireRes.Form.ok, ← FireRes.Form.trap, ← Fly.Form.foldl, ← Fly.Form.toCommit]

protected theorem Fly.Form.steer {s : State} {x : GWord} (h : s.fly.Form) : (steer s x).Form := by
  unfold Machine.steer
  grind [← FireRes.Form.ok, ← FireRes.Form.trap, ← Fly.Form.sendAll]

protected theorem Fly.Form.sendExit {s : State} {kind addr ret : Nat} (h : s.fly.Form) : (sendExit s kind addr ret).Form := by
  unfold Machine.sendExit
  grind [← FireRes.Form.ok, ← Fly.Form.event]

protected theorem Fly.Form.exitLeft {s : State} {hd : Head} {k : Word → FireRes} (h : s.fly.Form) (hk : ∀ a, (k a).Form) :
    (exitLeft s hd k).Form := by
  unfold Machine.exitLeft
  grind [← FireRes.Form.trap, ← Fly.Form.scalarFire]

protected theorem Fly.Form.rdid {s : State} {x : GWord} (h : s.fly.Form) : (rdid s x).Form := by
  unfold Machine.rdid
  grind [← Fly.Form.mapUnaryOf, ← Fly.Form.scalarFire, ← Fly.Form.yieldScalar]

protected theorem Fly.Form.spawnFire {s : State} {x : GWord} (h : s.fly.Form) : (spawnFire s x).Form := by
  unfold Machine.spawnFire
  grind [← FireRes.Form.trap, ← Fly.Form.addEff, ← Fly.Form.modInst, ← Fly.Form.scalarFire, ← Fly.Form.yieldScalar]

protected theorem Fly.Form.emitFire {s : State} {x : GWord} (h : s.fly.Form) : (emitFire s x).Form := by
  unfold Machine.emitFire
  dsimp only
  repeat' split
  all_goals
    grind [← FireRes.Form.ok, ← FireRes.Form.trap, ← Fly.Form.foldl, ← Fly.Form.modInst, ← Fly.Form.toCommit]

protected theorem Fly.Form.leaFire {s : State} {x : GWord} (h : s.fly.Form) : (leaFire s x).Form := by
  unfold Machine.leaFire
  grind [← Fly.Form.mapBinary, ← Fly.Form.mapUnary]

/-! ### Accesses -/

protected theorem Fly.Form.sendAccess {s : State} {a : Access} {f : Fly} (h : f.Form) : (sendAccess s a f).Form := by
  unfold Machine.sendAccess
  grind [← FireRes.Form.ok, ← FireRes.Form.trap, ← Fly.Form.event, ← Fly.Form.fresh, ← Fly.Form.setAcc]

/-! ### Issue (R306, R190, R397) -/

protected theorem Sys.Form.portIssue {y : Sys} {c r lead k : Nat} (h : y.Form) : (portIssue y c r lead k).2.Form := h.setPortT

protected theorem Fly.Form.sendParts {t id : Nat} {a : Access} {f : Fly} (h : f.Form) : (sendParts t id a f).Form := by
  unfold Machine.sendParts
  grind [← Fly.Form.draw, ← Fly.Form.event, ← Fly.Form.foldl]

protected theorem State.Form.issueAccess {s : State} {id : Nat} {a : Access} {lead : Nat} (h : s.Form) : (issueAccess s id a lead).Form := by
  unfold Machine.issueAccess
  have hy : ∀ k, (if a.op = .copy ∨ a.op = .copyt then (s.sys.now + lead, s.sys) else portIssue s.sys a.clu a.reg lead k).2.Form := by
    intro k
    split
    · exact h.sys
    · exact h.sys.setPortT
  extract_lets k f e m
  have hf : f.Form := h.fly.setAcc
  clear_value f
  specialize hy k
  generalize (if a.op = .copy ∨ a.op = .copyt then (s.sys.now + lead, s.sys) else portIssue s.sys a.clu a.reg lead k) = p at *
  obtain ⟨t, y⟩ := p
  dsimp only at hy ⊢
  split
  all_goals grind [← State.Form.parts, ← Fly.Form.event, ← Fly.Form.draw, ← Fly.Form.foldl, ← Fly.Form.sendParts, ← State.Form.deferTrap]

protected theorem State.Form.advance {s : State} {c k : Nat} (h : s.Form) : (advance s c k).Form := by
  unfold Machine.advance
  grind [← State.Form.sys, ← State.Form.fly, ← State.Form.parts, ← Fly.Form.event, ← State.Form.foldl, ← State.Form.issueAccess, ← Fly.Form.setAcc]

/-! ### Shared forms -/

protected theorem Fly.Form.fpU {s : State} {x : GWord} {lat : Nat} {g : FP → Rnd → FVal → Nat} (h : s.fly.Form) : (fpU s x lat g).Form := by
  unfold Machine.fpU
  grind [← Fly.Form.mapUnary]

protected theorem Fly.Form.fpB {s : State} {x : GWord} {lat : Nat} {g : FP → Rnd → FVal → FVal → Nat} (h : s.fly.Form) : (fpB s x lat g).Form := by
  unfold Machine.fpB
  grind [← Fly.Form.mapBinary]

protected theorem Fly.Form.fpBits1 {s : State} {x : GWord} {g : FP → Word → Word} (h : s.fly.Form) : (fpBits1 s x g).Form := by
  unfold Machine.fpBits1
  grind [← Fly.Form.mapUnary]

protected theorem Fly.Form.fpBits2 {s : State} {x : GWord} {lat : Nat} {g : FP → Word → Word → Word} (h : s.fly.Form) : (fpBits2 s x lat g).Form := by
  unfold Machine.fpBits2
  grind [← Fly.Form.mapBinary]

protected theorem Fly.Form.fpCmp {s : State} {x : GWord} {q : FVal → FVal → Bool} (h : s.fly.Form) : (fpCmp s x q).Form := by
  unfold Machine.fpCmp
  grind [← Fly.Form.mapBinary]

protected theorem Fly.Form.mapBinaryOf {s : State} {hd : Head} {mover : Bool} {fs : List Fmt} {out : Fmt} {lat : Nat} {tgts : List Target}
    {g : Nat → Word → Word → Word} (h : s.fly.Form) :
    (mapBinaryOf s hd mover fs out lat tgts g).Form := by
  unfold Machine.mapBinaryOf
  grind [← FireRes.Form.ok, ← FireRes.Form.trap, ← Fly.Form.sendAll]

protected theorem Fly.Form.fpFused {s : State} {x : GWord} {sub : Bool} (h : s.fly.Form) : (fpFused s x sub).Form := by
  unfold Machine.fpFused
  grind [← Fly.Form.mapBinaryOf]

protected theorem Fly.Form.fpScale {s : State} {x : GWord} (h : s.fly.Form) : (fpScale s x).Form := by
  unfold Machine.fpScale
  grind [← Fly.Form.fpU, ← Fly.Form.mapBinaryOf]

protected theorem Fly.Form.cvtIF {s : State} {x : GWord} (h : s.fly.Form) : (cvtIF s x).Form := by
  unfold Machine.cvtIF
  grind [← Fly.Form.mapUnaryOf]

protected theorem Fly.Form.cvtFI {s : State} {x : GWord} (h : s.fly.Form) : (cvtFI s x).Form := by
  unfold Machine.cvtFI
  grind [← Fly.Form.mapUnary]

protected theorem Fly.Form.cvtFF {s : State} {x : GWord} (h : s.fly.Form) : (cvtFF s x).Form := by
  unfold Machine.cvtFF
  grind [← Fly.Form.mapUnary]

protected theorem Fly.Form.tencFire {s : State} {x : GWord} (h : s.fly.Form) : (tencFire s x).Form := by
  unfold Machine.tencFire
  grind [← Fly.Form.mapUnary]

protected theorem Fly.Form.reduce {s : State} {x : GWord} {out : Fmt} {lat : Nat} {g : List Word → Word} (h : s.fly.Form) :
    (reduce s x out lat g).Form := by
  unfold Machine.reduce
  grind [← FireRes.Form.ok, ← FireRes.Form.trap, ← Fly.Form.yieldScalar]

protected theorem Fly.Form.bfqFire {s : State} {x : GWord} (h : s.fly.Form) : (bfqFire s x).Form := by
  unfold Machine.bfqFire
  grind [← FireRes.Form.ok, ← FireRes.Form.trap, ← Fly.Form.sendAll]

protected theorem Fly.Form.runB {s : State} {hd : Head} {rfmt : Option Fmt} {out : Fmt} {tgts : List Target}
    {g : List Word → List Word → Nat → Word} (h : s.fly.Form) :
    (runB s hd rfmt out tgts g).Form := by
  unfold Machine.runB
  grind [← FireRes.Form.ok, ← FireRes.Form.trap, ← Fly.Form.sendAll]

protected theorem FireRes.Form.misuseIf {s : State} {hd : Head} {bad : Bool} {code : Nat} {k : FireRes} (hk : k.Form) :
    (misuseIf s hd bad code k).Form := by
  unfold Machine.misuseIf
  grind [← FireRes.Form.trap]

protected theorem Fly.Form.vgenFire {s : State} {x : GWord} (h : s.fly.Form) : (vgenFire s x).Form := by
  unfold Machine.vgenFire
  grind [← FireRes.Form.ok, ← Fly.Form.foldl, ← Fly.Form.scalarFire, ← Fly.Form.sendAll]

protected theorem Fly.Form.vsplFire {s : State} {x : GWord} (h : s.fly.Form) : (vsplFire s x).Form := by
  unfold Machine.vsplFire
  grind [← FireRes.Form.ok, ← FireRes.Form.trap, ← Fly.Form.sendAll]

protected theorem Fly.Form.vlanFire {s : State} {x : GWord} (h : s.fly.Form) : (vlanFire s x).Form := by
  unfold Machine.vlanFire
  grind [← FireRes.Form.ok, ← FireRes.Form.trap, ← FireRes.Form.misuseIf, ← Fly.Form.sendAll]

protected theorem Fly.Form.vinsFire {s : State} {x : GWord} (h : s.fly.Form) : (vinsFire s x).Form := by
  unfold Machine.vinsFire
  grind [← FireRes.Form.ok, ← FireRes.Form.trap, ← FireRes.Form.misuseIf, ← Fly.Form.sendAll]

protected theorem Fly.Form.vsldFire {s : State} {x : GWord} (h : s.fly.Form) : (vsldFire s x).Form := by
  unfold Machine.vsldFire
  grind [← FireRes.Form.misuseIf, ← Fly.Form.runB]

protected theorem Fly.Form.vcatFire {s : State} {x : GWord} (h : s.fly.Form) : (vcatFire s x).Form := by
  unfold Machine.vcatFire
  grind [← Fly.Form.mapBinary, ← Fly.Form.mapUnaryOf]

protected theorem Fly.Form.vcmprFire {s : State} {x : GWord} (h : s.fly.Form) : (vcmprFire s x).Form := by
  unfold Machine.vcmprFire
  dsimp only
  repeat' split
  all_goals
    grind [← FireRes.Form.ok, ← FireRes.Form.trap, ← Fly.Form.sendAll]

protected theorem Fly.Form.vdotFire {s : State} {x : GWord} (h : s.fly.Form) : (vdotFire s x).Form := by
  unfold Machine.vdotFire
  grind [← FireRes.Form.ok, ← FireRes.Form.trap, ← Fly.Form.yieldScalar]

protected theorem Fly.Form.vscanFire {s : State} {x : GWord} (h : s.fly.Form) : (vscanFire s x).Form := by
  unfold Machine.vscanFire
  grind [← FireRes.Form.ok, ← FireRes.Form.trap, ← Fly.Form.sendAll]

protected theorem Fly.Form.sel24Fire {s : State} {x : GWord} (h : s.fly.Form) : (sel24Fire s x).Form := by
  unfold Machine.sel24Fire
  grind [← FireRes.Form.ok, ← FireRes.Form.trap, ← FireRes.Form.misuseIf, ← Fly.Form.sendAll]

protected theorem Fly.Form.rstatFire {s : State} {x : GWord} (h : s.fly.Form) : (rstatFire s x).Form := by
  unfold Machine.rstatFire
  dsimp only
  repeat' split
  all_goals
    grind [← FireRes.Form.ok, ← FireRes.Form.trap, ← Fly.Form.sendAll]

protected theorem Fly.Form.rsclFire {s : State} {x : GWord} (h : s.fly.Form) : (rsclFire s x).Form := by
  unfold Machine.rsclFire
  grind [← FireRes.Form.ok, ← FireRes.Form.trap, ← Fly.Form.sendAll]

/-! ### Whole positions (R269) -/

protected theorem Fly.Form.predFire {s : State} {hd : Head} {k : FireRes} (h : s.fly.Form) (hk : k.Form) : (predFire s hd k).Form := by
  unfold Machine.predFire
  grind [← FireRes.Form.ok, ← FireRes.Form.trap]

protected theorem Fly.Form.yieldToks {s : State} {lat : Nat} {tgts : List Target} {ts : List Token} (h : s.fly.Form) :
    (yieldToks s lat tgts ts).Form := by
  unfold Machine.yieldToks
  grind [← FireRes.Form.ok, ← Fly.Form.sendAll]

protected theorem Fly.Form.yieldRun {s : State} {out : Fmt} {lat : Nat} {tgts : List Target} {xs : List Word} (h : s.fly.Form) :
    (yieldRun s out lat tgts xs).Form := by
  unfold Machine.yieldRun
  grind [← Fly.Form.yieldToks]

protected theorem Fly.Form.yieldOne {s : State} {out : Fmt} {lat : Nat} {tgts : List Target} {x : Word} (h : s.fly.Form) :
    (yieldOne s out lat tgts x).Form := by
  unfold Machine.yieldOne
  grind [← Fly.Form.yieldToks]

/-! ### Packed accumulators (R271 to R276) -/

protected theorem Fly.Form.setOpen {f : Fly} {p : Nat} {v : PAcc} (h : f.Form) : (setOpen f p v).Form := by
  unfold Machine.setOpen
  grind [← Fly.Form.modInst]

protected theorem Fly.Form.onAcc {s : State} {hd : Head} {p : Nat} {k : PAcc → FireRes} (h : s.fly.Form) (hk : ∀ a, (k a).Form) :
    (onAcc s hd p k).Form := by
  unfold Machine.onAcc
  grind [← FireRes.Form.wait, ← Fly.Form.predFire]

protected theorem Fly.Form.accDone {s : State} {lat : Nat} {tgts : List Target} {p : Nat} {v : PAcc} (h : s.fly.Form) :
    (accDone s lat tgts p v).Form := by
  unfold Machine.accDone
  grind [← Fly.Form.setOpen, ← Fly.Form.yieldOne]

/-! ### Lanes (R273, R281 to R284) -/

protected theorem Fly.Form.onLanes {s : State} {hd : Head} {n : Nat} {base : Except TrapRec Word} {k : Nat → FireRes} (h : s.fly.Form) (hk : ∀ a,
    (k a).Form) :
    (onLanes s hd n base k).Form := by
  unfold Machine.onLanes
  grind [← FireRes.Form.trap, ← Fly.Form.predFire]

protected theorem Fly.Form.laneEffs {f : Fly} {base : Nat} {ops : List LaneOp} (h : f.Form) : (laneEffs f base ops).Form := by
  unfold Machine.laneEffs
  grind [← Fly.Form.addEff, ← Fly.Form.foldl]

/-! ### Firings -/

protected theorem Fly.Form.guardFire {s : State} {x : XWWord} (h : s.fly.Form) : (guardFire s x).Form := by
  unfold Machine.guardFire
  grind [← FireRes.Form.trap, ← Fly.Form.accDone, ← Fly.Form.onAcc]

protected theorem Fly.Form.pclrFire {s : State} {x : XWWord} {free : Bool} (h : s.fly.Form) : (pclrFire s x free).Form := by
  unfold Machine.pclrFire
  grind [← FireRes.Form.trap, ← Fly.Form.accDone, ← Fly.Form.onAcc]

protected theorem Fly.Form.pstatFire {s : State} {x : XWWord} (h : s.fly.Form) : (pstatFire s x).Form := by
  unfold Machine.pstatFire
  grind [← FireRes.Form.trap, ← Fly.Form.predFire, ← Fly.Form.yieldOne]

protected theorem Fly.Form.packsFire {s : State} {x : XWWord} (h : s.fly.Form) : (packsFire s x).Form := by
  unfold Machine.packsFire
  grind [← FireRes.Form.trap, ← Fly.Form.predFire, ← Fly.Form.yieldOne]

protected theorem Fly.Form.packlFire {s : State} {x : XWWord} (h : s.fly.Form) : (packlFire s x).Form := by
  unfold Machine.packlFire
  grind [← FireRes.Form.trap, ← Fly.Form.predFire, ← Fly.Form.yieldRun]

protected theorem Fly.Form.wmulFire {s : State} {x : XWWord} {conv : Bool} (h : s.fly.Form) : (wmulFire s x conv).Form := by
  unfold Machine.wmulFire
  grind [← FireRes.Form.trap, ← Fly.Form.accDone, ← Fly.Form.onAcc]

protected theorem Fly.Form.wmulfFire {s : State} {x : XWWord} {cplx : Bool} (h : s.fly.Form) : (wmulfFire s x cplx).Form := by
  unfold Machine.wmulfFire
  grind [← FireRes.Form.trap, ← Fly.Form.accDone, ← Fly.Form.onAcc]

protected theorem Fly.Form.xtrFire {s : State} {x : XWWord} (h : s.fly.Form) : (xtrFire s x).Form := by
  unfold Machine.xtrFire
  grind [← FireRes.Form.trap, ← Fly.Form.accDone, ← Fly.Form.laneEffs, ← Fly.Form.onAcc]

protected theorem Fly.Form.xtrfFire {s : State} {x : XWWord} (h : s.fly.Form) : (xtrfFire s x).Form := by
  unfold Machine.xtrfFire
  grind [← FireRes.Form.trap, ← Fly.Form.accDone, ← Fly.Form.laneEffs, ← Fly.Form.onAcc]

protected theorem Fly.Form.zallocFire {s : State} {x : XWWord} (h : s.fly.Form) : (zallocFire s x).Form := by
  unfold Machine.zallocFire
  grind [← Fly.Form.modInst, ← Fly.Form.predFire, ← Fly.Form.yieldOne]

protected theorem Fly.Form.zrdFire {s : State} {x : XWWord} (h : s.fly.Form) : (zrdFire s x).Form := by
  unfold Machine.zrdFire
  grind [← Fly.Form.onLanes, ← Fly.Form.yieldRun]

protected theorem Fly.Form.zwrFire {s : State} {x : XWWord} (h : s.fly.Form) : (zwrFire s x).Form := by
  unfold Machine.zwrFire
  grind [← FireRes.Form.ok, ← FireRes.Form.trap, ← Fly.Form.laneEffs, ← Fly.Form.predFire]

protected theorem Fly.Form.zcvtFire {s : State} {x : XWWord} (h : s.fly.Form) : (zcvtFire s x).Form := by
  unfold Machine.zcvtFire
  grind [← FireRes.Form.trap, ← Fly.Form.laneEffs, ← Fly.Form.onLanes, ← Fly.Form.yieldOne]

/-! ### Shared forms -/

protected theorem Fly.Form.onAddr {s : State} {x : MWord} {mf scalar : Bool} {k : Nat → Nat → List Word → FireRes} (h : s.fly.Form) (hk : ∀ a b d,
    (k a b d).Form) :
    (onAddr s x mf scalar k).Form := by
  unfold Machine.onAddr
  grind [← FireRes.Form.trap, ← Fly.Form.predFire]

protected theorem Fly.Form.loadFire {s : State} {x : MWord} {n : Nat} {vec : Bool} (h : s.fly.Form) : (loadFire s x n vec).Form := by
  unfold Machine.loadFire
  grind [← Fly.Form.onAddr, ← Fly.Form.sendAccess]

protected theorem Fly.Form.storeFire {s : State} {x : MWord} {scalar : Bool} (h : s.fly.Form) : (storeFire s x scalar).Form := by
  unfold Machine.storeFire
  grind [← Fly.Form.onAddr, ← Fly.Form.sendAccess]

protected theorem Fly.Form.gatherFire {s : State} {x : MWord} {scatter : Bool} (h : s.fly.Form) : (gatherFire s x scatter).Form := by
  unfold Machine.gatherFire
  grind [← FireRes.Form.ok, ← FireRes.Form.trap, ← Fly.Form.sendAccess]

protected theorem Fly.Form.prefFire {s : State} {x : MWord} (h : s.fly.Form) : (prefFire s x).Form := by
  unfold Machine.prefFire
  grind [← FireRes.Form.trap, ← Fly.Form.predFire, ← Fly.Form.sendAccess]

protected theorem Fly.Form.wordFire {s : State} {x : MWord} {op : AccOp} {released : Bool} (h : s.fly.Form) : (wordFire s x op released).Form := by
  unfold Machine.wordFire
  grind [← FireRes.Form.trap, ← Fly.Form.onAddr, ← Fly.Form.sendAccess]

protected theorem Fly.Form.atomFire {s : State} {x : MWord} {op : Atom} (h : s.fly.Form) : (atomFire s x op).Form := by
  unfold Machine.atomFire
  grind [← FireRes.Form.trap, ← Fly.Form.onAddr, ← Fly.Form.sendAccess]

protected theorem Fly.Form.fenceFire {s : State} {x : MWord} {op : AccOp} (h : s.fly.Form) : (fenceFire s x op).Form := by
  unfold Machine.fenceFire
  grind [← FireRes.Form.trap, ← Fly.Form.predFire, ← Fly.Form.sendAccess]

protected theorem Fly.Form.copyFire {s : State} {x : MWord} {t : Bool} (h : s.fly.Form) : (copyFire s x t).Form := by
  unfold Machine.copyFire
  grind [← FireRes.Form.trap, ← Fly.Form.modInst, ← Fly.Form.onAddr, ← Fly.Form.sendAccess, ← Fly.Form.sendAll]

end Sys2Proof.Machine

namespace Sys2Proof.Machine
open Claims

/-! ## Firings of the ring, storage and system classes keep form -/

/-! ### Firings -/

protected theorem Fly.Form.tstageFire {s : State} {x : XRWord} (h : s.fly.Form) : (tstageFire s x).Form := by
  unfold Machine.tstageFire
  grind [← FireRes.Form.trap, ← Fly.Form.modInst, ← Fly.Form.predFire, ← Fly.Form.sendAccess]

protected theorem Fly.Form.tmatchFire {s : State} {x : XRWord} (h : s.fly.Form) : (tmatchFire s x).Form := by
  unfold Machine.tmatchFire
  grind [← FireRes.Form.ok, ← FireRes.Form.trap, ← Fly.Form.addEff, ← Fly.Form.predFire]

protected theorem Fly.Form.tmclrFire {s : State} {x : XRWord} (h : s.fly.Form) : (tmclrFire s x).Form := by
  unfold Machine.tmclrFire
  grind [← FireRes.Form.ok, ← FireRes.Form.trap, ← Fly.Form.addEff, ← Fly.Form.predFire]

protected theorem Fly.Form.tgoFire {s : State} {x : XRWord} (h : s.fly.Form) : (tgoFire s x).Form := by
  unfold Machine.tgoFire
  grind [← FireRes.Form.ok, ← FireRes.Form.wait, ← FireRes.Form.trap, ← Fly.Form.addEff, ← Fly.Form.predFire]

protected theorem Fly.Form.tldFire {s : State} {x : XRWord} (h : s.fly.Form) : (tldFire s x).Form := by
  unfold Machine.tldFire
  grind [← FireRes.Form.trap, ← Fly.Form.predFire, ← Fly.Form.yieldToks]

protected theorem Fly.Form.trecallFire {s : State} {x : XRWord} (h : s.fly.Form) : (trecallFire s x).Form := by
  unfold Machine.trecallFire
  grind [← FireRes.Form.ok, ← FireRes.Form.trap, ← Fly.Form.addEff, ← Fly.Form.predFire]

protected theorem Fly.Form.tpassFire {s : State} {x : XRWord} (h : s.fly.Form) : (tpassFire s x).Form := by
  unfold Machine.tpassFire
  grind [← FireRes.Form.ok, ← FireRes.Form.trap, ← Fly.Form.addEff, ← Fly.Form.predFire]

/-! ### Handles (R150) -/

protected theorem Fly.Form.onScalars {s : State} {hd : Head} {k : Word → Word → FireRes} (h : s.fly.Form) (hk : ∀ a b, (k a b).Form) :
    (onScalars s hd k).Form := by
  unfold Machine.onScalars
  grind [← FireRes.Form.trap, ← Fly.Form.predFire]

protected theorem Fly.Form.onWords {s : State} {hd : Head} {k : Word → Word → FireRes} (h : s.fly.Form) (hk : ∀ a b, (k a b).Form) :
    (onWords s hd k).Form := by
  unfold Machine.onWords
  grind [← FireRes.Form.trap, ← Fly.Form.predFire]

protected theorem Fly.Form.onAddrWord {s : State} {hd : Head} {k : Word → Word → FireRes} (h : s.fly.Form) (hk : ∀ a b, (k a b).Form) :
    (onAddrWord s hd k).Form := by
  unfold Machine.onAddrWord
  grind [← FireRes.Form.trap, ← Fly.Form.predFire]

protected theorem Fly.Form.onHandle {s : State} {hd : Head} {k : Nat → Pin → Word → FireRes} (h : s.fly.Form) (hk : ∀ a b d, (k a b d).Form) :
    (onHandle s hd k).Form := by
  unfold Machine.onHandle
  grind [← FireRes.Form.trap, ← Fly.Form.onWords]

protected theorem Fly.Form.pieceRead {s : State} {x : GWord} {snext : Bool} {e : Nat} {p : Pin} {n : Nat} (h : s.fly.Form) :
    (pieceRead s x snext e p n).Form := by
  unfold Machine.pieceRead
  grind [← FireRes.Form.trap, ← Fly.Form.sendAccess]

protected theorem Fly.Form.yieldPin {s : State} {x : GWord} {lat : Nat} {v : Word} (h : s.fly.Form) : (yieldPin s x lat v).Form := by
  unfold Machine.yieldPin
  grind [← Fly.Form.yieldOne]

protected theorem Fly.Form.snewFire {s : State} {x : GWord} (h : s.fly.Form) : (snewFire s x).Form := by
  unfold Machine.snewFire
  grind [← FireRes.Form.trap, ← Fly.Form.onWords, ← Fly.Form.sendAccess]

protected theorem Fly.Form.spliceFire {s : State} {x : MWord} (h : s.fly.Form) : (spliceFire s x).Form := by
  unfold Machine.spliceFire
  grind [← FireRes.Form.trap, ← Fly.Form.onAddrWord, ← Fly.Form.sendAccess]

protected theorem Fly.Form.spinFire {s : State} {x : MWord} (h : s.fly.Form) : (spinFire s x).Form := by
  unfold Machine.spinFire
  grind [← FireRes.Form.trap, ← Fly.Form.onAddrWord, ← Fly.Form.sendAccess]

protected theorem Fly.Form.sunpinFire {s : State} {x : MWord} (h : s.fly.Form) : (sunpinFire s x).Form := by
  unfold Machine.sunpinFire
  grind [← Fly.Form.onHandle, ← Fly.Form.sendAccess]

protected theorem Fly.Form.sfreeFire {s : State} {x : GWord} (h : s.fly.Form) : (sfreeFire s x).Form := by
  unfold Machine.sfreeFire
  grind [← FireRes.Form.trap, ← Fly.Form.onWords, ← Fly.Form.sendAccess]

protected theorem Fly.Form.sidxFire {s : State} {x : GWord} (h : s.fly.Form) : (sidxFire s x).Form := by
  unfold Machine.sidxFire
  grind [← FireRes.Form.trap, ← Fly.Form.onHandle, ← Fly.Form.pieceRead, ← Fly.Form.yieldPin]

protected theorem Fly.Form.snextFire {s : State} {x : GWord} (h : s.fly.Form) : (snextFire s x).Form := by
  unfold Machine.snextFire
  grind [← Fly.Form.onHandle, ← Fly.Form.pieceRead, ← Fly.Form.yieldPin]

/-! ### The instructions -/

protected theorem Fly.Form.msendFire {s : State} {x : GWord} (h : s.fly.Form) : (msendFire s x).Form := by
  unfold Machine.msendFire
  grind [← FireRes.Form.ok, ← FireRes.Form.trap, ← Fly.Form.addEff, ← Fly.Form.fresh, ← Fly.Form.predFire]

protected theorem Fly.Form.mrecvFire {s : State} {x : GWord} (h : s.fly.Form) : (mrecvFire s x).Form := by
  unfold Machine.mrecvFire
  grind [← FireRes.Form.ok, ← FireRes.Form.wait, ← Fly.Form.addEff, ← Fly.Form.predFire, ← Fly.Form.sendAll]

protected theorem Fly.Form.mpollFire {s : State} {x : GWord} (h : s.fly.Form) : (mpollFire s x).Form := by
  unfold Machine.mpollFire
  grind [← FireRes.Form.ok, ← Fly.Form.addEff, ← Fly.Form.predFire, ← Fly.Form.sendAll]

/-! ### Transfers (R177 to R181) -/

protected theorem Fly.Form.onTransfer {s : State} {x : GWord} {k : Word → FireRes} (h : s.fly.Form) (hk : ∀ a, (k a).Form) :
    (onTransfer s x k).Form := by
  unfold Machine.onTransfer
  grind [← FireRes.Form.trap, ← Fly.Form.onScalars]

protected theorem Fly.Form.waittFire {s : State} {x : GWord} (h : s.fly.Form) : (waittFire s x).Form := by
  unfold Machine.waittFire
  grind [← FireRes.Form.ok, ← Fly.Form.sleeps, ← Fly.Form.withSleeps, ← rising.put, ← Fly.Form.event, ← Fly.Form.fresh, ← Fly.Form.onTransfer]

protected theorem Fly.Form.cpstFire {s : State} {x : GWord} (h : s.fly.Form) : (cpstFire s x).Form := by
  unfold Machine.cpstFire
  grind [← Fly.Form.onTransfer, ← Fly.Form.yieldOne]

/-! ### Banks (R168 to R176) -/

protected theorem Fly.Form.bankmFire {s : State} {x : GWord} (h : s.fly.Form) : (bankmFire s x).Form := by
  unfold Machine.bankmFire
  grind [← FireRes.Form.ok, ← FireRes.Form.trap, ← Fly.Form.addEff, ← Fly.Form.onScalars]

protected theorem FireRes.Form.onFifo {s : State} {b : Nat} {k : Bank → FireRes} (hk : ∀ a, (k a).Form) : (onFifo s b k).Form := by
  unfold Machine.onFifo
  grind [← FireRes.Form.trap]

protected theorem Fly.Form.fpushFire {s : State} {x : GWord} (h : s.fly.Form) : (fpushFire s x).Form := by
  unfold Machine.fpushFire
  grind [← FireRes.Form.ok, ← FireRes.Form.trap, ← Fly.Form.addEff, ← Fly.Form.fresh, ← FireRes.Form.onFifo, ← Fly.Form.predFire]

protected theorem Fly.Form.fpopFire {s : State} {x : GWord} (h : s.fly.Form) : (fpopFire s x).Form := by
  unfold Machine.fpopFire
  grind [← FireRes.Form.ok, ← FireRes.Form.wait, ← FireRes.Form.trap, ← Fly.Form.addEff, ← FireRes.Form.onFifo, ← Fly.Form.predFire,
    ← Fly.Form.sendAll]

/-! ### Barriers (R122 to R128) -/

protected theorem Fly.Form.onTrigger {s : State} {hd : Head} {k : FireRes} (h : s.fly.Form) (hk : k.Form) : (onTrigger s hd k).Form := by
  unfold Machine.onTrigger
  grind [← FireRes.Form.trap, ← Fly.Form.predFire]

protected theorem Fly.Form.leftOr {s : State} {x : GWord} {lo n : Nat} {k : Nat → FireRes} (h : s.fly.Form) (hk : ∀ a, (k a).Form) :
    (leftOr s x lo n k).Form := by
  unfold Machine.leftOr
  grind [← FireRes.Form.trap, ← Fly.Form.predFire]

protected theorem Fly.Form.bariFire {s : State} {e : Eff} (h : s.fly.Form) : (bariFire s e).Form := by
  unfold Machine.bariFire
  grind [← FireRes.Form.ok, ← FireRes.Form.trap, ← Fly.Form.addEff]

protected theorem Fly.Form.arriveFire {s : State} {b : Nat} {wait : Bool} {k : Fly → Bar → Bool → FireRes} (h : s.fly.Form) (hk : ∀ w a b, w.Form →
    (k w a b).Form) :
    (arriveFire s b wait k).Form := by
  unfold Machine.arriveFire
  grind [← FireRes.Form.trap, ← Fly.Form.addEff]

protected theorem Fly.Form.baraFire {s : State} {x : GWord} (h : s.fly.Form) : (baraFire s x).Form := by
  unfold Machine.baraFire
  grind [← FireRes.Form.ok, ← Fly.Form.arriveFire, ← Fly.Form.onTrigger, ← Fly.Form.sendAll]

protected theorem Fly.Form.barwFire {s : State} {x : GWord} (h : s.fly.Form) : (barwFire s x).Form := by
  unfold Machine.barwFire
  grind [← FireRes.Form.wait, ← FireRes.Form.trap, ← Fly.Form.onScalars, ← Fly.Form.yieldOne]

/-! ### Groups (R114 to R121) -/

protected theorem Fly.Form.joinFire {s : State} {x : GWord} (h : s.fly.Form) : (joinFire s x).Form := by
  unfold Machine.joinFire
  grind [← FireRes.Form.ok, ← FireRes.Form.trap, ← Fly.Form.addEff, ← Fly.Form.leftOr]

protected theorem Fly.Form.leaveFire {s : State} {x : GWord} (h : s.fly.Form) : (leaveFire s x).Form := by
  unfold Machine.leaveFire
  grind [← FireRes.Form.ok, ← FireRes.Form.trap, ← Fly.Form.addEff, ← Fly.Form.leftOr]

protected theorem Fly.Form.grpqFire {s : State} {x : GWord} (h : s.fly.Form) : (grpqFire s x).Form := by
  unfold Machine.grpqFire
  grind [← FireRes.Form.trap, ← Fly.Form.leftOr, ← Fly.Form.yieldOne]

/-! ### COMB (R323) -/

protected theorem Fly.Form.combFire {s : State} {x : GWord} (h : s.fly.Form) : (combFire s x).Form := by
  unfold Machine.combFire
  grind [← FireRes.Form.ok, ← FireRes.Form.wait, ← FireRes.Form.trap, ← Fly.Form.event, ← Fly.Form.modInst, ← Fly.Form.sendAll]

/-! ### Firings -/

protected theorem FireRes.Form.onReg {s : State} {r : Nat} {k : FireRes} (hk : k.Form) : (onReg s r k).Form := by
  unfold Machine.onReg
  grind [← FireRes.Form.trap]

protected theorem Fly.Form.trapFire {s : State} {x : GWord} (h : s.fly.Form) : (trapFire s x).Form := by
  unfold Machine.trapFire
  grind [← FireRes.Form.ok, ← FireRes.Form.trap, ← Fly.Form.addEff, ← Fly.Form.predFire]

protected theorem Fly.Form.tretFire {s : State} {x : GWord} (h : s.fly.Form) : (tretFire s x).Form := by
  unfold Machine.tretFire
  grind [← FireRes.Form.ok, ← FireRes.Form.trap, ← Fly.Form.addEff, ← Fly.Form.predFire]

protected theorem Fly.Form.launchFire {s : State} {x : GWord} (h : s.fly.Form) : (launchFire s x).Form := by
  unfold Machine.launchFire
  grind [← FireRes.Form.ok, ← FireRes.Form.trap, ← Fly.Form.addEff, ← Fly.Form.predFire]

protected theorem Fly.Form.queueFire {s : State} {x : GWord} {e : Nat → Nat → Eff} (h : s.fly.Form) : (queueFire s x e).Form := by
  unfold Machine.queueFire
  grind [← FireRes.Form.ok, ← FireRes.Form.trap, ← Fly.Form.addEff, ← Fly.Form.predFire]

protected theorem Fly.Form.colourFire {s : State} {x : GWord} {e : Nat → Nat → Eff} (h : s.fly.Form) : (colourFire s x e).Form := by
  unfold Machine.colourFire
  grind [← FireRes.Form.ok, ← FireRes.Form.trap, ← Fly.Form.addEff, ← Fly.Form.predFire]

protected theorem Fly.Form.ctxFire {s : State} {x : GWord} {e : Nat → Eff} (h : s.fly.Form) : (ctxFire s x e).Form := by
  unfold Machine.ctxFire
  grind [← FireRes.Form.ok, ← FireRes.Form.trap, ← Fly.Form.addEff, ← Fly.Form.predFire]

protected theorem Fly.Form.recordFire {s : State} {x : GWord} {e : Nat → Eff} (h : s.fly.Form) : (recordFire s x e).Form := by
  unfold Machine.recordFire
  grind [← FireRes.Form.ok, ← FireRes.Form.trap, ← Fly.Form.addEff, ← Fly.Form.predFire]

protected theorem Fly.Form.onUnit {s : State} {x : GWord} {k : Nat → FireRes} (h : s.fly.Form) (hk : ∀ a, (k a).Form) : (onUnit s x k).Form := by
  unfold Machine.onUnit
  grind [← FireRes.Form.trap, ← Fly.Form.predFire]

protected theorem Fly.Form.monArmFire {s : State} {x : GWord} (h : s.fly.Form) : (monArmFire s x).Form := by
  unfold Machine.monArmFire
  grind [← FireRes.Form.ok, ← FireRes.Form.trap, ← Fly.Form.addEff, ← Fly.Form.onUnit]

/-! ### The instructions -/

protected theorem Fly.Form.nopFire {s : State} {x : GWord} (h : s.fly.Form) : (nopFire s x).Form := by
  unfold Machine.nopFire
  grind [← FireRes.Form.ok, ← FireRes.Form.trap]

end Sys2Proof.Machine

namespace Sys2Proof.Machine
open Claims

/-! ## The host port, translation of the device, parking and re-injection keep form -/

/-! ### Queues -/

protected theorem Sys.Form.setQueue {y : Sys} {x q : Nat} {v : Queue} (h : y.Form) : (Sys.setQueue y x q v).Form := by
  unfold Sys.setQueue
  grind [← Ctx.Form.plain, ← Sys.Form.modCtx]

protected theorem Fly.Form.offerQueue {f : Fly} {due x q : Nat} (h : f.Form) : (offerQueue f due x q).Form := by
  unfold Machine.offerQueue
  grind [← Fly.Form.event]

protected theorem Sys.Form.putQueue {y : Sys} {x q : Nat} {v : Queue} (h : y.Form) : (Sys.putQueue y x q v).Form := by
  unfold Sys.putQueue
  grind [← Sys.Form.setQueue]

protected theorem State.Form.arriveRecord {s : State} {x q : Nat} {r : List Word} {whole launch : Bool} (h : s.Form) :
    (arriveRecord s x q r whole launch).Form := by
  unfold Machine.arriveRecord
  grind [← State.Form.sys, ← State.Form.fly, ← State.Form.mapFly, ← State.Form.mapSys, ← Fly.Form.offerQueue, ← Sys.Form.putQueue,
    ← Sys.Form.setQueue]

protected theorem State.Form.countHead {s : State} {x q : Nat} {v : Queue} {r : List Word} (h : s.Form) : (countHead s x q v r).Form := by
  unfold Machine.countHead
  grind [← State.Form.sys, ← State.Form.mapSys, ← Sys.Form.setQueue, ← State.Form.waitBlock]

protected theorem State.Form.offerHead {s : State} {x q : Nat} (h : s.Form) : (offerHead s x q).Form := by
  unfold Machine.offerHead
  grind [← State.Form.sys, ← State.Form.countHead, ← State.Form.mapSys, ← Sys.Form.putQueue, ← State.Form.sched]

theorem rising_zipIdx {α : Type} (l : List α) : rising (l.zipIdx.map fun (w, i) => (i + 1, w)) := by
  have hp : (l.zipIdx.map Prod.snd).Pairwise (· < ·) := by
    rw [List.zipIdx_map_snd]
    exact List.pairwise_lt_range'
  exact List.pairwise_map.2 ((List.pairwise_map.1 hp).imp fun hab => Nat.succ_lt_succ hab)

protected theorem State.Form.createThread {s : State} {c k : Nat} {t : Thr} {gs : List Word} (h : s.Form) : (createThread s c k t gs).Form :=
  State.Form.setRegs (h.parts h.sys.setThr h.fly.fresh) ((rising_zipIdx gs).filter _)

protected theorem State.Form.startHead {s : State} {x q : Nat} (h : s.Form) : (startHead s x q).Form := by
  unfold Machine.startHead
  split
  · exact h
  split
  · exact h
  extract_lets now again cl ahead gone v mark
  have hagain : ∀ due part u, u.Form → (again due part u).Form := fun _ _ _ hu => hu.sched
  have hmark : ∀ u, u.Form → (mark u).Form := fun _ hu => hu.mapSys hu.sys.setClu
  clear_value again mark
  repeat' split
  all_goals grind [← State.Form.sys, ← State.Form.sched, ← State.Form.mapSys, ← State.Form.createThread, ← Sys.Form.putQueue]

protected theorem State.Form.enterCreated {s : State} {c k : Nat} (h : s.Form) : (enterCreated s c k).Form := by
  unfold Machine.enterCreated
  grind [← State.Form.enterNext]

/-! ### The host port (R193, R365) -/

protected theorem State.Form.whenAwake {s : State} {i : Instr} {k : State → State} (h : s.Form) (hk : ∀ u, u.Form → (k u).Form) :
    (whenAwake s i k).Form := by
  unfold Machine.whenAwake
  grind [← State.Form.sched]

protected theorem State.Form.atHostPort {s : State} {i : Instr} {k : State → State} (h : s.Form) (hk : ∀ u, u.Form → (k u).Form) :
    (atHostPort s i k).Form := by
  unfold Machine.atHostPort
  grind [← State.Form.sched, ← State.Form.whenAwake]

/-! ### Bytes the device writes and reads itself -/

protected theorem Sys.Form.recallLine {y : Sys} {l : Nat} (h : y.Form) : (recallLine y l).Form := by
  unfold Machine.recallLine
  grind [← Sys.Form.modBank, ← Sys.Form.modLine]

protected theorem Sys.Form.stamp {y : Sys} {l : Nat} {w : Bool} (h : y.Form) : (Sys.stamp y l w).Form := by
  unfold Sys.stamp
  grind [← Sys.Form.modLine]

protected theorem Sys.Form.giveUp {y : Sys} {l : Nat} {clean : Bool} (h : y.Form) : (Sys.giveUp y l clean).Form := by
  unfold Sys.giveUp
  grind [← Sys.Form.recallLine, ← Sys.Form.setLine]

protected theorem Sys.Form.makeRoom {y : Sys} {l : Nat} (h : y.Form) : (makeRoom y l).Form := by
  unfold Machine.makeRoom
  grind [← Sys.Form.giveUp]

protected theorem Sys.Form.fetched {y z : Sys} {l : Nat} {k : KeyTag} (h : y.Form) (e : y.fetched l k = some z) : z.Form := by
  unfold Sys.fetched at e
  dsimp only at e
  split at e
  · cases e; exact h.makeRoom.setLine
  · cases e

protected theorem Sys.Form.unhold {y : Sys} {l : Nat} (h : y.Form) : (Sys.unhold y l).Form := by
  unfold Sys.unhold
  grind [← Sys.Form.giveUp]

protected theorem State.Form.leaveL1 {s : State} (h : s.Form) : (leaveL1 s).Form := by
  unfold Machine.leaveL1
  grind [← State.Form.sched]

/-- What a home slice answers to those that ask for lines: a state in form, if any. -/
def LineRes.Form : LineRes → Prop
  | .ok s => s.Form
  | .wait s => s.Form
  | .down => True
  | .bad s => s.Form

protected theorem State.Form.openLine {s : State} {q : Ask} (h : s.Form) : (openLine s q).Form := by
  unfold Machine.openLine
  split
  · exact h.mapSys h.sys.recallLine.stamp
  · extract_lets y
    have hy : y.Form := h.sys.unhold
    clear_value y
    split
    · next z hz => exact { h with sys := Sys.Form.stamp (Sys.Form.plain (hy.fetched hz)) }
    · exact { h with sys := hy.plain }

protected theorem State.Form.openAll {s : State} {l : List Ask} (h : s.Form) : (openAll l s).Form := by
  induction l generalizing s with
  | nil => exact h
  | cons q t ih =>
    have hq := h.openLine (q := q)
    unfold Machine.openAll
    split
    · next u hu => rw [hu] at hq; exact ih hq
    · exact hq

protected theorem State.Form.openLines {s : State} {l : List Ask} (h : s.Form) : (openLines l s).Form := by
  unfold Machine.openLines
  dsimp only
  split
  · trivial
  · split
    · exact h.leaveL1
    · split
      · exact h
      · exact h.openAll

section
variable {s u : State} {l : List Ask}

theorem State.Form.openLines_ok (h : s.Form) (e : openLines l s = .ok u) : u.Form := by have := h.openLines (l := l); rwa [e] at this
theorem State.Form.openLines_wait (h : s.Form) (e : openLines l s = .wait u) : u.Form := by have := h.openLines (l := l); rwa [e] at this
theorem State.Form.openLines_bad (h : s.Form) (e : openLines l s = .bad u) : u.Form := by have := h.openLines (l := l); rwa [e] at this

end

protected theorem Sys.Form.storeLine {y : Sys} {l : Nat} {k : KeyTag} (h : y.Form) : (Sys.storeLine y l k).Form := by
  unfold Sys.storeLine
  grind [← Sys.Form.modLine, ← Sys.Form.recallLine]

protected theorem State.Form.putVirt {s : State} {x colour ident va : Nat} {bs : List Byte} (h : s.Form) : (putVirt s x colour ident va bs).Form := by
  induction bs generalizing s va with
  | nil => exact h
  | cons b bs ih =>
    unfold Machine.putVirt
    refine ih ?_
    split
    · exact h.withMem (writeByte_wf _ _ h.mem)
    · exact h

/-- Whichever way an access of the device itself ends, the state it answers with is in form. -/
def ExceptForm {ε α : Type} (err : ε → State) (ok : α → State) : Except ε α → Prop
  | .error e => (err e).Form
  | .ok a => (ok a).Form

theorem ExceptForm.error {ε α : Type} {err : ε → State} {ok : α → State} {r : Except ε α} {e : ε} (h : ExceptForm err ok r) (hr : r = .error e) :
    (err e).Form := by
  rwa [hr] at h

theorem ExceptForm.ok {ε α : Type} {err : ε → State} {ok : α → State} {r : Except ε α} {a : α} (h : ExceptForm err ok r) (hr : r = .ok a) :
    (ok a).Form := by
  rwa [hr] at h

section
variable {s u : State} {x colour ident va : Nat} {bs : List Byte}

protected theorem State.Form.writeVirt (h : s.Form) : ExceptForm (·.2.2) id (writeVirt s x colour ident va bs) := by
  have ho := h.openLines (l := linesOf s.sys s.mem x colour va bs.length true)
  rw [Machine.writeVirt]
  generalize firstBad _ _ _ _ _ _ _ = f
  cases f with
  | some p => exact h
  | none =>
    generalize openLines _ s = r at ho ⊢
    cases r with
    | ok u => exact State.Form.putVirt ho
    | wait u => exact ho
    | down => exact h
    | bad u => exact ho

theorem State.Form.writeVirt_ok (h : s.Form) (e : writeVirt s x colour ident va bs = .ok u) : u.Form := h.writeVirt.ok e

theorem State.Form.writeVirt_error {b : Nat} {r : XRes} (h : s.Form) (e : writeVirt s x colour ident va bs = .error (b, r, u)) : u.Form :=
  h.writeVirt.error e

end

section
variable {s u : State} {x colour va n : Nat}

theorem State.Form.takeVirt_ok {bs : List Byte} (h : s.Form) (e : takeVirt s x colour va n = .ok (bs, u)) : u.Form := by
  unfold takeVirt at e
  grind [→ State.Form.openLines_ok]

theorem State.Form.takeVirt_error {r : XRes} (h : s.Form) (e : takeVirt s x colour va n = .error (r, u)) : u.Form := by
  unfold takeVirt at e
  grind [→ State.Form.openLines_wait, → State.Form.openLines_bad]

end

/-! ### Tickets (R163, R164) -/

protected theorem State.Form.withhold {s : State} {x colour c r byte kind : Nat} (h : s.Form) : (withhold s x colour c r byte kind).2.Form := by
  unfold Machine.withhold
  dsimp only
  split
  · exact h
  · exact { h with sys := { h.sys with tickets := h.sys.tickets.put _ _ } }

/-! ### Contained faults at a token's arrival (R28, R32, R345) -/

protected theorem Sys.Form.logFault {y : Sys} {c : Nat} {d : Dest} {t : Token} {cause : Nat} (h : y.Form) : (logFault y c d t cause).Form := by
  unfold Machine.logFault
  grind [← Sys.Form.modClu]

protected theorem State.Form.dropTag {s : State} {c : Nat} {d : Dest} {t : Token} (h : s.Form) : (dropTag s c d t).Form := by
  unfold Machine.dropTag
  grind [← State.Form.sys, ← State.Form.fly, ← Sys.Form.dropTokens, ← State.Form.mapFly, ← State.Form.mapSys, ← Fly.Form.setInst,
    ← Fly.Form.wakeCluster]

protected theorem State.Form.faultAt {s : State} {c : Nat} {d : Dest} {t : Token} {cause info : Nat} (h : s.Form) :
    (faultAt s c d t cause info).Form := by
  have hd : (dropTag s c d t).Form := h.dropTag
  have he : ∀ b r, (faultAt.elsewhere c d t cause s b r).Form :=
    fun b r => (hd.mapSys hd.sys.countFault.logFault.modThr).deferTrap
  unfold Machine.faultAt
  dsimp only
  split
  · exact hd.mapSys hd.sys.logFault
  · split
    · split
      · exact h.raiseTrap
      · exact he _ _
    · exact he _ _

/-! ### Posts: what follows the acknowledgement of released accesses -/

protected theorem State.Form.firePost {s : State} {due id : Nat} {p : Post} (h : s.Form) : (firePost s due id p).Form := by
  have hd : (s.mapFly (·.delPost id)).Form := h.mapFly h.fly.delPost
  unfold Machine.firePost
  split
  case h_6 n _ =>
    extract_lets u
    split
    · next a _ =>
      have hu : (u.mapFly fun f => f.setAcc n { a with st := .issued }).Form := hd.mapFly hd.fly.setAcc
      grind [← State.Form.sched]
    · exact hd
  case h_7 => grind [← State.Form.endThread]
  all_goals exact h.sched

protected theorem State.Form.addPost {s : State} {due : Nat} {p : Post} (h : s.Form) : (addPost s due p).Form := by
  unfold Machine.addPost
  grind [← State.Form.sys, ← State.Form.fly, ← State.Form.parts, ← State.Form.firePost, ← Fly.Form.fresh, ← Fly.Form.setPost]

protected theorem State.Form.ackAccess {s : State} {id : Nat} (h : s.Form) : (ackAccess s id).Form := by
  unfold Machine.ackAccess
  grind [← State.Form.fly, ← State.Form.firePost, ← State.Form.foldl, ← State.Form.mapFly, ← Fly.Form.setPost]

/-! ### Faults that the next block entry takes -/

protected theorem State.Form.deferContained {s : State} {c k : Nat} {ser : Option Nat} {r : TrapRec} (h : s.Form) :
    (deferContained s c k ser r).Form := by
  unfold Machine.deferContained
  grind [← State.Form.sys, ← Sys.Form.countFault, ← State.Form.deferTrap, ← State.Form.mapSys, ← Sys.Form.modClu]

/-! ### Pairing (R27, R34, R199, R249, R269) -/

protected theorem Fly.Form.holdDivider {i : Option Instr} {f : Firing} {due : Nat} {fl : Fly} (h : fl.Form) : (holdDivider i f due fl).Form := by
  unfold Machine.holdDivider
  grind [← Fly.Form.event]

protected theorem Fly.Form.schedFire {now : Nat} {i : Option Instr} {f : Firing} {fl : Fly} (h : fl.Form) : (schedFire now i f fl).Form := by
  unfold Machine.schedFire
  grind [← Fly.Form.holdDivider, ← Fly.Form.sched]

protected theorem Fly.Form.freeNext {now c r : Nat} {f : Fly} (h : f.Form) : (freeNext now c r f).Form := by
  unfold Machine.freeNext
  grind [← Fly.Form.event]

protected theorem State.Form.freeEntries {s : State} {c r : Nat} (h : s.Form) : (freeEntries s c r).Form := by
  unfold Machine.freeEntries
  grind [← State.Form.sys, ← State.Form.fly, ← State.Form.parts, ← Sys.Form.modRegion, ← Fly.Form.wakeCluster]

section
variable {s u : State} {c r loc : Nat} {e : Entry}

theorem State.Form.tryFire_ok {new : List Entry} (h : s.Form) (ht : tryFire s c r loc e = .ok (u, new)) : u.Form := by
  unfold tryFire at ht
  dsimp only at ht
  repeat' split at ht
  all_goals cases ht
  all_goals
    refine h.parts h.sys.setRegion ?_
    grind [← State.Form.fly, ← Fly.Form.schedFire, ← Fly.Form.freeNext, ← Fly.Form.wakeCluster]

theorem State.Form.tryFire_error (h : s.Form) (ht : tryFire s c r loc e = .error u) : u.Form := by
  unfold tryFire at ht
  dsimp only at ht
  repeat' split at ht
  all_goals cases ht
  · exact h
  · exact h
  all_goals exact h.mapSys h.sys.setRegion

end

protected theorem State.Form.offerAll {n : Nat} {s : State} {c r : Nat} {es : List Entry} (h : s.Form) : (offerAll n s c r es).Form := by
  induction n generalizing s es with
  | zero => exact h
  | succ n ih =>
    cases es with
    | nil => exact h
    | cons e es =>
      unfold Machine.offerAll
      split
      · next ht => exact ih (h.tryFire_ok ht)
      · next ht => exact ih ((h.tryFire_error ht).mapSys (h.tryFire_error ht).sys.modRegion)

protected theorem State.Form.placeLater {s : State} {c r : Nat} (h : s.Form) : (placeLater s c r).Form := by
  unfold Machine.placeLater
  grind [← State.Form.sched]

protected theorem State.Form.retryWaiting {s : State} {c r : Nat} (h : s.Form) : (retryWaiting s c r).Form := by
  unfold Machine.retryWaiting
  grind [← State.Form.foldl, ← State.Form.offerAll, ← State.Form.placeLater, → State.Form.tryFire_ok, → State.Form.tryFire_error]

/-! ### Parking (R42, R43, R45) -/

protected theorem State.Form.parkOverflow {s : State} {c col code va : Nat} (h : s.Form) : (parkOverflow s c col code va).Form := by
  unfold Machine.parkOverflow
  grind [← State.Form.foldl, ← State.Form.raiseTrap]

protected theorem State.Form.tokenFault {s : State} {c : Nat} {e : Entry} (h : s.Form) : (tokenFault s c e).Form := by
  unfold Machine.tokenFault
  grind [← State.Form.memFault]

protected theorem State.Form.parkWithheld {s : State} {c r col b : Nat} {q : Nat × Nat × Entry} {x : XRes} (h : s.Form) :
    (parkWithheld s c r col b q x).Form := by
  cases x with
  | migrating => exact h
  | wait => exact (h.mapSys h.sys.modPark).sched
  | uncorrectable => exact h.tokenFault
  | down => exact h.raiseTrap
  | ok | prot | config | absent | miss => exact h.withhold

protected theorem State.Form.sendPark {s : State} {c r col : Nat} {q : Nat × Nat × Entry} (h : s.Form) : (sendPark s c r col q).Form := by
  rw [Machine.sendPark]
  generalize parkBad s c col q = b
  cases b with
  | some p => exact h.parkWithheld
  | none => exact h.parts h.sys.modPark h.fly.draw.event

protected theorem State.Form.rewriteParks {s : State} {c r col : Nat} (h : s.Form) : (rewriteParks s c r col).Form := by
  unfold Machine.rewriteParks
  grind [← State.Form.foldl, ← State.Form.sendPark]

protected theorem State.Form.parkTok {s : State} {c r col origin : Nat} {e : Entry} (h : s.Form) : (parkTok s c r col origin e).Form := by
  have hu : ∀ p q, (sendPark (s.mapSys fun y => y.setPark c col p) c r col q).Form := fun _ _ => State.Form.sendPark (h.mapSys h.sys.setPark)
  unfold Machine.parkTok
  split
  · exact h
  · exact .ite h.parkOverflow (.ite (hu _ _) h.parkOverflow)

protected theorem State.Form.parkColour {s : State} {c col : Nat} (h : s.Form) : (parkColour s c col).Form := by
  unfold Machine.parkColour
  extract_lets y at_ es hs retry y1 y2 u u1 u2 u3
  have hy : y2.Form := by grind [← State.Form.sys, ← Sys.Form.foldl, ← Sys.Form.modRegion, ← Sys.Form.modPark]
  have hu : u.Form := h.parts hy h.fly.wakeCluster
  have hu2 : u2.Form := by grind [← State.Form.foldl, ← State.Form.placeLater, ← State.Form.sched]
  have hu3 : u3.Form := hu2.foldl fun _ _ h => h.parkTok
  exact hu3.foldl fun _ _ h => h.parkTok

/-! ### Placement (R40) and the low-water mark (R42) -/

protected theorem Sys.Form.admitHolds {c r n : Nat} {y : Sys} (h : y.Form) : (admitHolds c r n y).Form := by
  induction n generalizing y with
  | zero => exact h
  | succ n ih =>
    unfold Machine.admitHolds
    dsimp only
    split
    · exact h
    · exact ih h.setRegion

protected theorem State.Form.placeTok {s : State} {c r : Nat} {e : Entry} (h : s.Form) : (placeTok s c r e).Form := by
  unfold Machine.placeTok
  grind [← State.Form.sys, ← State.Form.mapSys, ← Sys.Form.modRegion, ← State.Form.parkColour, ← State.Form.parkTok]

protected theorem Fly.Form.parkCheck {y : Sys} {c r due : Nat} {f : Fly} (h : f.Form) : (parkCheck y c r due f).Form := by
  unfold Machine.parkCheck
  grind [← Fly.Form.event]

protected theorem State.Form.parkChecks {s : State} {c : Nat} (h : s.Form) : (parkChecks s c).Form := by
  unfold Machine.parkChecks
  grind [← State.Form.fly, ← Fly.Form.foldl, ← State.Form.mapFly, ← Fly.Form.parkCheck]

protected theorem State.Form.calmSince {s0 s : State} {c : Nat} (h : s.Form) : (calmSince s0 s c).Form := by
  unfold Machine.calmSince
  grind [← State.Form.fly, ← Fly.Form.calmed, ← State.Form.mapFly]

protected theorem State.Form.placeAll {s : State} {c r : Nat} (h : s.Form) : (placeAll s c r).Form := by
  unfold Machine.placeAll
  extract_lets s0
  split
  extract_lets u v
  have hu : u.Form := h.mapSys h.sys.modRegion.admitHolds
  have hv : v.Form := (hu.foldl fun _ _ h => h.placeTok).calmSince
  exact hv.mapFly hv.fly.parkCheck

/-! ### Re-injection (R44) -/

/-- One record taken back (R44). -/
theorem reinject_succ (c col n : Nat) (s : State) : reinject c col (n + 1) s = (
    let p := s.sys.park c col
    let x := s.sys.ctxOf c
    match p.recs with
    | [] => s.mapSys fun y => y.setPark c col Park.reset
    | (i, q) :: rest =>
      let stop (s : State) := s.mapSys fun y => y.modPark c col fun p => { p with injecting := true }
      if (s.sys.centOf c col).isNone || p.pending.any (·.1 == i) then stop s
      else match takeVirt s x col ((s.sys.cent c ((s.sys.centOf c col).getD 0)).parkBase + i * 64) (64 * (1 + contOf q.tok)) with
      | .error (.uncorrectable, s) => tokenFault (stop s) c q
      | .error (.wait, s) => (stop s).sched (s.sys.now + 1) .reInjectionResume { clu := c, col := col }
      | .error (_, s) => stop s
      | .ok (bs, s) =>
        let e := { parkEntry q.ent bs with first := q.first - q.first % 2 ^ 48 + (parkEntry q.ent bs).first }
        let e := if q.ent.isNone then { e with dest := q.dest } else e
        let go (s : State) := s.mapSys fun y => y.setPark c col { p with recs := rest, rd := i + 1 + contOf q.tok, injecting := true }
        match tryFire s c e.dest.reg 0 e with
        | .ok (s, new) => reinject c col n (placeLater (offerAll 128 (go s) c e.dest.reg new) c e.dest.reg)
        | .error s =>
          if mayTake s.sys c e.dest.reg col (s.sys.holdQ c e.dest.reg col).isEmpty then
            reinject c col n ((go s).mapSys fun y => y.modRegion c e.dest.reg fun g => { g with entries := g.entries ++ [e] })
          else stop s) := rfl

protected theorem State.Form.reinject {c col n : Nat} {s : State} (h : s.Form) : (reinject c col n s).Form := by
  induction n generalizing s with
  | zero => exact h
  | succ n ih =>
    rw [reinject_succ]
    extract_lets p x stop
    split
    · exact h.mapSys h.sys.setPark
    have hstop : ∀ u, u.Form → (stop u).Form := fun _ hu => hu.mapSys hu.sys.modPark
    clear_value stop
    split
    · exact hstop _ h
    split
    · next ht => exact (hstop _ (h.takeVirt_error ht)).tokenFault
    · next ht => exact (hstop _ (h.takeVirt_error ht)).sched
    · next ht => exact hstop _ (h.takeVirt_error ht)
    · next u ht =>
      have hu := h.takeVirt_ok ht
      extract_lets src e e' go
      have hgo : ∀ u, u.Form → (go u).Form := fun _ hu => hu.mapSys hu.sys.setPark
      clear_value go
      split
      · next ht => exact ih (hgo _ (hu.tryFire_ok ht)).offerAll.placeLater
      · next ht =>
        have hv := hu.tryFire_error ht
        split
        · exact ih ((hgo _ hv).mapSys (hgo _ hv).sys.modRegion)
        · exact hstop _ hv

protected theorem State.Form.reinjectColour {s : State} {c col : Nat} (h : s.Form) : (reinjectColour s c col).Form := by
  unfold Machine.reinjectColour
  grind [← State.Form.calmSince, ← State.Form.parkChecks, ← State.Form.reinject]

protected theorem State.Form.writePark {s : State} {c r col i : Nat} (h : s.Form) : (writePark s c r col i).Form := by
  fun_cases Machine.writePark s c r col i
  case case1 => exact h
  case case2 q _ u v hw w _ =>
    have hv : v.Form := (h.mapSys h.sys.modPark).writeVirt_ok hw
    exact (hv.mapSys hv.sys.modPark).reinjectColour
  case case3 q _ u v hw w _ =>
    have hv : v.Form := (h.mapSys h.sys.modPark).writeVirt_ok hw
    exact hv.mapSys hv.sys.modPark
  case case4 q _ u _ _ v hw => exact ((h.mapSys h.sys.modPark).writeVirt_error hw).parkWithheld

/-! ### The commit unit (R95, R378) -/

protected theorem State.Form.commitTrap {s : State} {e : Ev} {code : Nat} (h : s.Form) : (commitTrap s e code).Form := by
  unfold Machine.commitTrap
  grind [← State.Form.raiseTrap]

protected theorem State.Form.toCommitUnit {s : State} {e : Ev} {i : Inst} (h : s.Form) : (toCommitUnit s e i).Form := by
  unfold Machine.toCommitUnit
  grind [← State.Form.fly, ← State.Form.advance, ← Fly.Form.checkReady, ← State.Form.commitTrap, ← State.Form.mapFly, ← State.Form.raiseTrap,
    ← Fly.Form.setInst]

/-! ### Arrival at a region -/

protected theorem State.Form.arriveTok {s : State} {e : Ev} (h : s.Form) : (arriveTok s e).Form := by
  unfold Machine.arriveTok
  grind [← State.Form.faultAt, ← State.Form.offerAll, ← State.Form.placeLater]

/-! ### The events -/

protected theorem State.Form.settlePartials {s : State} {c r k : Nat} (h : s.Form) : (settlePartials s c r k).Form := by
  unfold Machine.settlePartials
  grind [← State.Form.sys, ← State.Form.fly, ← State.Form.parts, ← State.Form.parkChecks, ← Sys.Form.setPartials, ← Fly.Form.wakeCluster]

protected theorem State.Form.actOnCtrl {s : State} {c : Nat} {t : Ctrl} (h : s.Form) : (actOnCtrl s c t).Form := by cases t <;> exact h.sched

end Sys2Proof.Machine

namespace Sys2Proof.Machine
open Claims

/-! ## Transfers, ring passes, links, barriers and messages keep form -/

/-! ### The bytes of a transfer (R177) -/

protected theorem State.Form.moveByte {s : State} {c : Nat} {v : Xfer} {k : Nat} (h : s.Form) : (moveByte s c v k).Form := by
  unfold Machine.moveByte
  extract_lets a d b b'
  split
  · exact h.mapSys h.sys.setScr
  split
  · exact h.withMem (writeByte_wf _ _ h.mem)
  · exact h

protected theorem State.Form.moveBytes {s : State} {c : Nat} {v : Xfer} {k n : Nat} (h : s.Form) : (moveBytes s c v k n).Form := by
  unfold Machine.moveBytes
  grind [← State.Form.foldl, ← State.Form.moveByte]

/-! ### Promises (R179) -/

protected theorem State.Form.wakeSleeps {s : State} {c k : Nat} (h : s.Form) : (wakeSleeps s c k).Form := by
  unfold Machine.wakeSleeps
  grind [← State.Form.fly, ← Fly.Form.sleeps, ← Fly.Form.withSleeps, ← rising.put, ← State.Form.foldl, ← State.Form.mapFly, ← State.Form.sched]

protected theorem Fly.Form.startNext {y : Sys} {c : Nat} {f : Fly} (h : f.Form) : (startNext y c f).Form := by
  unfold Machine.startNext
  grind [← Fly.Form.event, ← Fly.Form.foldl]

/-! ### The engine at work -/

protected theorem State.Form.stopXfer {s : State} {c k byte ticket : Nat} (h : s.Form) : (stopXfer s c k byte ticket).Form := by
  unfold Machine.stopXfer
  grind [← State.Form.sys, ← State.Form.fly, ← State.Form.mapFly, ← State.Form.mapSys, ← Sys.Form.modXfer, ← Fly.Form.startNext,
    ← State.Form.wakeSleeps]

protected theorem State.Form.onCommander {s : State} {v : Xfer} {g' : Access → State} (h : s.Form) (hg' : ∀ a, (g' a).Form) :
    (onCommander s v g').Form := by
  unfold Machine.onCommander
  grind

protected theorem State.Form.xferError {s : State} {c k byte : Nat} (h : s.Form) : (xferError s c k byte).Form := by
  unfold Machine.xferError
  grind [← State.Form.contextFault, ← State.Form.memFault, ← State.Form.stopXfer]

protected theorem State.Form.withholdXfer {s : State} {c k byte : Nat} {why : XRes} (h : s.Form) : (withholdXfer s c k byte why).Form := by
  unfold Machine.withholdXfer
  grind [← State.Form.stopXfer, ← State.Form.withhold, ← State.Form.xferError]

protected theorem State.Form.finishXfer {s : State} {c k : Nat} (h : s.Form) : (finishXfer s c k).Form := by
  unfold Machine.finishXfer
  grind [← State.Form.sys, ← State.Form.fly, ← Fly.Form.event, ← State.Form.mapFly, ← State.Form.mapSys, ← Sys.Form.setXfer]

protected theorem State.Form.engineLeaves {s : State} {c k due : Nat} {i : Instr} (h : s.Form) : (engineLeaves s c k due i).Form := by
  unfold Machine.engineLeaves
  grind [← State.Form.sys, ← State.Form.fly, ← State.Form.mapFly, ← State.Form.mapSys, ← State.Form.sched, ← Sys.Form.setXfer, ← Fly.Form.startNext]

protected theorem State.Form.engineStep {s : State} {c k : Nat} (h : s.Form) : (engineStep s c k).Form := by
  unfold Machine.engineStep
  grind [← State.Form.sys, ← State.Form.deferTrap, ← State.Form.engineLeaves, ← State.Form.mapSys, ← State.Form.moveBytes, ← State.Form.onCommander,
    → State.Form.openLines_ok, → State.Form.openLines_wait, → State.Form.openLines_bad, ← State.Form.sched, ← Sys.Form.setXfer,
    ← State.Form.stopXfer, ← State.Form.xferError]

protected theorem State.Form.beginMove {s : State} {c k at_ : Nat} (h : s.Form) : (beginMove s c k at_).Form := by
  unfold Machine.beginMove
  grind [← State.Form.sys, ← State.Form.engineStep, ← State.Form.mapSys, ← Sys.Form.modXfer, ← State.Form.sched]

protected theorem State.Form.moveAgain {s : State} {c k : Nat} (h : s.Form) : (moveAgain s c k).Form := by
  unfold Machine.moveAgain
  grind [← State.Form.sys, ← State.Form.beginMove, ← State.Form.mapSys, ← Sys.Form.modXfer, ← State.Form.wakeSleeps]

protected theorem State.Form.haltXfer {s : State} {c k : Nat} (h : s.Form) : (haltXfer s c k).Form := by
  unfold Machine.haltXfer
  grind [← State.Form.sys, ← State.Form.mapSys, ← Sys.Form.modXfer, ← State.Form.stopXfer]

protected theorem State.Form.resumeXfer {s : State} {c k : Nat} (h : s.Form) : (resumeXfer s c k).Form := by
  unfold Machine.resumeXfer
  grind [← State.Form.sys, ← State.Form.fly, ← State.Form.mapFly, ← State.Form.mapSys, ← Sys.Form.setXfer, ← Fly.Form.startNext,
    ← State.Form.wakeSleeps]

/-! ### The events -/

protected theorem State.Form.endSleep {s : State} {id : Nat} {v : Sleep} (h : s.Form) : (endSleep s id v).Form := by
  unfold Machine.endSleep
  grind [← State.Form.fly, ← Fly.Form.sleeps, ← Fly.Form.withSleeps, ← rising.del, ← State.Form.mapFly, ← Fly.Form.setInst]

/-! ### A pass and its barriers (R129, R136) -/

protected theorem Sys.Form.modPass {y : Sys} {g : Nat} {g' : Pass → Pass} (h : y.Form) : (Sys.modPass y g g').Form := by
  unfold Sys.modPass
  grind [← Sys.Form.modRing]

protected theorem Sys.Form.markPass {y : Sys} {g b : Nat} (h : y.Form) : (Sys.markPass y g b).Form := by
  unfold Sys.markPass
  grind [← Sys.Form.foldl, ← Sys.Form.modBar]

/-! ### Completion (R129, R142) -/

protected theorem Fly.Form.checkStops {y : Sys} {g : Nat} {f : Fly} (h : f.Form) : (checkStops y g f).Form := by
  unfold Machine.checkStops
  grind [← Fly.Form.event, ← Fly.Form.foldl]

/-! ### Starting (R136) -/

protected theorem State.Form.tryArm {s : State} {g : Nat} (h : s.Form) : (tryArm s g).Form := by
  unfold Machine.tryArm
  split
  · exact h
  split
  · exact h
  · extract_lets es ts y y' q u
    have hy : y.Form := h.sys.foldl fun _ _ h => h.modMent
    have hy' : y'.Form := hy.foldl fun _ _ h => h.setTile
    have hu : u.Form := h.parts hy'.modRing h.fly
    refine hu.sched.mapFly ?_
    split
    · exact hu.sched.fly.checkStops
    · exact hu.sched.fly

protected theorem State.Form.startPass {s : State} {c k q b : Nat} {scope : Scope} (h : s.Form) : (startPass s c k q b scope).Form := by
  unfold Machine.startPass
  grind [← State.Form.sys, ← State.Form.mapSys, ← Sys.Form.markPass, ← Sys.Form.modRing, ← State.Form.tryArm]

/-! ### Ending (R142, R143) -/

protected theorem Sys.Form.unload {y : Sys} {es : List (Nat × Nat)} (h : y.Form) : (unload y es).Form := by
  unfold Machine.unload
  grind [← Sys.Form.foldl, ← Sys.Form.modMent]

protected theorem Sys.Form.settleTails {y : Sys} {g : Nat} (h : y.Form) : (settleTails y g).Form := by
  unfold Machine.settleTails
  grind [← Sys.Form.foldl, ← Sys.Form.modRing, ← Sys.Form.unload]

protected theorem State.Form.releaseHeld {s : State} {p : Pass} (h : s.Form) : (releaseHeld s p).Form := by
  unfold Machine.releaseHeld
  grind [← State.Form.sys, ← State.Form.endThread, ← State.Form.mapSys, ← Sys.Form.setThr]

protected theorem State.Form.dropBeats {s : State} {g : Nat} (h : s.Form) : (dropBeats s g).Form := by
  unfold Machine.dropBeats
  grind [← State.Form.fly, ← Fly.Form.plain, ← State.Form.mapFly]

protected theorem State.Form.endPass {s : State} {g code : Nat} (h : s.Form) : (endPass s g code).Form := by
  unfold Machine.endPass
  split
  · exact h
  · next p _ =>
    extract_lets y y' y'' u
    have hy : y.Form := h.sys.foldl fun _ _ h => h.setTile
    have hy' : y''.Form := hy.modRing.markPass.settleTails
    have hu : u.Form := State.Form.dropBeats { h with sys := hy' }
    grind [← State.Form.releaseHeld]

protected theorem State.Form.failPass {s : State} {g : Nat} {p : Pass} (h : s.Form) : (failPass s g p).Form := by
  unfold Machine.failPass
  grind [← State.Form.sys, ← State.Form.deferTrap, ← State.Form.endPass, ← State.Form.mapSys, ← State.Form.raiseTrap, ← Sys.Form.setThr,
    ← State.Form.takeTrap]

protected theorem State.Form.recallPass {s : State} {c k ser x colour idx : Nat} (h : s.Form) : (recallPass s c k ser x colour idx).Form := by
  unfold Machine.recallPass
  extract_lets g
  split
  · exact h
  split
  · exact h.deferContained
  split
  · extract_lets y y'
    have hy' : y'.Form := Sys.Form.foldl h.sys.unload fun _ _ h => h.modTile
    exact State.Form.endPass { h with sys := hy'.modPass }
  · exact h.mapSys h.sys.modPass

/-! ### Suspension (R351) -/

protected theorem Sys.Form.suspendPass {y : Sys} {g : Nat} {p : Pass} (h : y.Form) : (suspendPass y g p).Form := by
  unfold Machine.suspendPass
  grind [← Sys.Form.modRing]

/-! ### Beats (R137 to R142) -/

protected theorem State.Form.meet {s : State} {g : Nat} {ce : Nat × Nat} (h : s.Form) : (meet s g ce).Form := by
  have hm : ∀ c e v, (s.mapSys fun y => y.setMent c e v).Form := fun _ _ _ => h.mapSys h.sys.setMent
  fun_cases Machine.meet s g ce
  case case4 _ _ _ _ y1 y2 y3 y4 f =>
    have hy : y4.Form := (Sys.Form.foldl h.sys.setMent.setTslot fun _ _ h => h.setTile).modPass
    have hf : f.Form := h.fly.foldl fun _ _ h => h.sampleMon
    exact (h.parts hy hf).sched
  case case5 | case6 => exact hm _ _ _
  all_goals exact h

protected theorem State.Form.doBeat {s : State} {g t : Nat} (h : s.Form) : (doBeat s g t).Form := by
  unfold Machine.doBeat
  grind [← State.Form.sys, ← State.Form.fly, ← State.Form.parts, ← Fly.Form.checkStops, ← State.Form.endPass, ← State.Form.failPass,
    ← State.Form.foldl, ← State.Form.mapFly, ← State.Form.mapSys, ← State.Form.meet, ← Sys.Form.modPass, ← State.Form.sched, ← Sys.Form.suspendPass]

protected theorem State.Form.createTask {s : State} {e : Ev} (h : s.Form) : (createTask s e).Form := by
  unfold Machine.createTask
  grind [← State.Form.createThread, ← State.Form.enterNext]

/-! ### Routes (R186, R189) -/

protected theorem Fly.Form.wakeLink {f : Fly} {due c d : Nat} (h : f.Form) : (wakeLink f due c d).Form := by
  unfold Machine.wakeLink
  grind [← Fly.Form.event]

/-! ### Delivery -/

protected theorem State.Form.deliver {s : State} {p : Packet} {from_ : Option (Nat × Nat)} (h : s.Form) : (deliver s p from_).Form := by
  unfold Machine.deliver
  grind [← State.Form.sys, ← State.Form.mapSys, ← State.Form.sched, ← Sys.Form.setRegion]

protected theorem Sys.Form.setRouter {y : Sys} {g part : Nat} {v : List Packet} (h : y.Form) : (Sys.setRouter y g part v).Form := by
  unfold Sys.setRouter
  grind [← Sys.Form.routers, ← Sys.Form.withRouters, ← rising.set]

protected theorem State.Form.atStop {s : State} {g a d : Nat} {p : Packet} (h : s.Form) : (atStop s g a d p).Form := by
  unfold Machine.atStop
  grind [← State.Form.sys, ← State.Form.fly, ← State.Form.deliver, ← State.Form.mapFly, ← State.Form.mapSys, ← Sys.Form.modLink, ← State.Form.sched,
    ← Sys.Form.setRouter, ← Fly.Form.wakeLink]

protected theorem State.Form.inject {s : State} {p : Packet} (h : s.Form) : (inject s p).Form := by
  unfold Machine.inject
  grind [← State.Form.atStop]

/-! ### The links (R185 to R187) -/

protected theorem State.Form.linkCycle {s : State} {c d : Nat} (h : s.Form) : (linkCycle s c d).Form := by
  unfold Machine.linkCycle
  grind [← State.Form.sys, ← State.Form.fly, ← State.Form.mapFly, ← State.Form.mapSys, ← State.Form.sched, ← Sys.Form.setLink, ← Fly.Form.wakeLink]

protected theorem State.Form.arrivePacket {s : State} {c d : Nat} (h : s.Form) : (arrivePacket s c d).Form := by
  unfold Machine.arrivePacket
  grind [← State.Form.sys, ← State.Form.atStop, ← State.Form.deliver, ← State.Form.foldl, ← State.Form.mapSys, ← State.Form.sched, ← Sys.Form.setLink]

protected theorem State.Form.slotFreed {s : State} {c d ch : Nat} (h : s.Form) : (slotFreed s c d ch).Form := by
  unfold Machine.slotFreed
  grind [← State.Form.sys, ← State.Form.fly, ← State.Form.mapFly, ← State.Form.mapSys, ← Sys.Form.modLink, ← Fly.Form.wakeLink]

/-! ### Barriers (R124 to R129) -/

protected theorem State.Form.settleNow {s : State} {c b : Nat} (h : s.Form) : (settleNow s c b).Form := by
  unfold Machine.settleNow
  grind [← State.Form.sys, ← State.Form.mapSys, ← State.Form.sched, ← Sys.Form.settleBar]

protected theorem State.Form.threadArrives {s : State} {p : Post} {b idx : Nat} {wait : Bool} (h : s.Form) : (threadArrives s p b idx wait).Form := by
  unfold Machine.threadArrives
  grind [← State.Form.sys, ← State.Form.deferContained, ← State.Form.deferTrap, ← State.Form.mapSys, ← Sys.Form.modThr, ← State.Form.proceed,
    ← Sys.Form.setBar, ← State.Form.settleNow]

protected theorem State.Form.stopArrives {s : State} {c b mine : Nat} (h : s.Form) : (stopArrives s c b mine).Form := by
  unfold Machine.stopArrives
  grind [← State.Form.sys, ← State.Form.mapSys, ← Sys.Form.setBar, ← State.Form.settleNow]

protected theorem State.Form.settleBarrier {s : State} {c b : Nat} {joined : Bool} (h : s.Form) : (settleBarrier s c b joined).Form := by
  unfold Machine.settleBarrier
  grind [← State.Form.sys, ← State.Form.mapSys, ← Sys.Form.modBar, ← State.Form.releaseWaiters, ← State.Form.settleNow]

/-! ### Groups (R114, R117, R118) -/

protected theorem State.Form.groupUpdate {s : State} {p : Post} {g idx : Nat} {join : Bool} (h : s.Form) : (groupUpdate s p g idx join).Form := by
  unfold Machine.groupUpdate
  grind [← State.Form.sys, ← State.Form.fly, ← Ctx.Form.groups, ← Ctx.Form.withGroups, ← rising.set, ← State.Form.deferContained, ← Fly.Form.delPost,
    ← Sys.Form.leaveLocal, ← State.Form.mapFly, ← State.Form.mapSys, ← Sys.Form.modClu, ← Sys.Form.modCtx, ← Fly.Form.wakeBars]

/-! ### Messages (R295, R296) -/

protected theorem State.Form.nextMessage {s : State} {c k : Nat} {waits : List Nat} (h : s.Form) : (nextMessage s c k waits).Form := by
  unfold Machine.nextMessage
  grind [← State.Form.addPost, ← State.Form.sched]

protected theorem State.Form.sendMessage {s : State} {id : Nat} (h : s.Form) : (sendMessage s id).Form := by
  unfold Machine.sendMessage
  grind [← State.Form.sched]

protected theorem State.Form.stopMessage {s : State} {id since : Nat} (h : s.Form) : (stopMessage s id since).Form := by
  unfold Machine.stopMessage
  grind [← State.Form.inject]

protected theorem State.Form.messageDone {s : State} {id : Nat} {p : Post} (h : s.Form) : (messageDone s id p).Form := by
  unfold Machine.messageDone
  grind [← State.Form.fly, ← Fly.Form.delPost, ← State.Form.mapFly, ← State.Form.nextMessage, ← Fly.Form.setInst]

protected theorem State.Form.dropMessage {s : State} {p : Post} (h : s.Form) : (dropMessage s p).Form := by
  unfold Machine.dropMessage
  grind [← State.Form.sys, ← State.Form.fly, ← State.Form.mapFly, ← State.Form.mapSys, ← Fly.Form.setInst, ← Sys.Form.setThr]

/-! ### Banks (R168 to R175) -/

protected theorem Sys.Form.flushBank {y : Sys} {c b : Nat} (h : y.Form) : (flushBank y c b).Form := by
  unfold Machine.flushBank
  grind [← Sys.Form.foldl, ← Sys.Form.modBank, ← Sys.Form.recallLine]

protected theorem Sys.Form.zeroBank {y : Sys} {c b : Nat} (h : y.Form) : (zeroBank y c b).Form := by
  unfold Machine.zeroBank
  grind [← Sys.Form.scratch, ← Sys.Form.withScratch, ← rising.filter, ← Sys.Form.modBank]

protected theorem Sys.Form.cleanBank {y : Sys} {c b : Nat} (h : y.Form) : (cleanBank y c b).Form := by
  unfold Machine.cleanBank
  grind [← Sys.Form.foldl, ← Sys.Form.modBank, ← Sys.Form.modLine]

end Sys2Proof.Machine

namespace Sys2Proof.Machine
open Claims

/-! ## Context commands, records, the commit and its effects keep form -/

/-! ### Queues (R109, R330) -/

protected theorem Fly.Form.wakeQueues {y : Sys} {x : Nat} {f : Fly} (h : f.Form) : (wakeQueues y x f).Form := by
  unfold Machine.wakeQueues
  grind [← Fly.Form.foldl, ← Fly.Form.offerQueue]

protected theorem State.Form.openQueues {s : State} {x : Nat} {p : Nat → Queue → Bool} (h : s.Form) : (openQueues s x p).Form := by
  unfold Machine.openQueues
  grind [← State.Form.sys, ← State.Form.fly, ← Ctx.Form.plain, ← State.Form.mapFly, ← State.Form.mapSys, ← Sys.Form.modCtx, ← Fly.Form.wakeQueues]

protected theorem State.Form.suspendQueue {s : State} {x q : Nat} (h : s.Form) : (suspendQueue s x q).Form := by
  unfold Machine.suspendQueue
  grind [← State.Form.sys, ← Ctx.Form.plain, ← State.Form.mapSys, ← Sys.Form.modCtx]

protected theorem State.Form.resumeQueue {s : State} {x q : Nat} (h : s.Form) : (resumeQueue s x q).Form := by
  unfold Machine.resumeQueue
  grind [← State.Form.openQueues]

/-! ### Resuming threads (R92, R353) -/

protected theorem State.Form.resumeThread {s : State} {c k : Nat} (h : s.Form) : (resumeThread s c k).Form := by
  unfold Machine.resumeThread
  grind [← State.Form.sys, ← State.Form.mapSys, ← State.Form.proceed, ← Sys.Form.setThr]

protected theorem State.Form.resumeThreads {s : State} {x : Nat} {p : Thr → Bool} (h : s.Form) : (resumeThreads s x p).Form := by
  unfold Machine.resumeThreads
  grind [← State.Form.foldl, ← State.Form.resumeThread]

protected theorem State.Form.reinjectColours {s : State} {x : Nat} {p : Nat → Bool} (h : s.Form) : (reinjectColours s x p).Form := by
  unfold Machine.reinjectColours
  grind [← State.Form.foldl, ← State.Form.reinjectColour]

protected theorem Fly.Form.resumePasses {y : Sys} {x : Nat} {p : Nat → Bool} {f : Fly} (h : f.Form) : (resumePasses y x p f).Form := by
  unfold Machine.resumePasses
  grind [← Fly.Form.event, ← Fly.Form.foldl]

protected theorem State.Form.restore {s : State} {x : Nat} {p : Nat → Bool} (h : s.Form) : (restore s x p).Form := by
  unfold Machine.restore
  grind [← State.Form.fly, ← State.Form.foldl, ← State.Form.mapFly, ← State.Form.openQueues, ← State.Form.reinjectColours, ← Fly.Form.resumePasses,
    ← State.Form.resumeThreads, ← State.Form.resumeXfer]

protected theorem State.Form.resumeColour {s : State} {x col : Nat} (h : s.Form) : (resumeColour s x col).Form := by
  unfold Machine.resumeColour
  grind [← State.Form.sys, ← Ctx.Form.plain, ← Sys.Form.ctx, ← State.Form.mapSys, ← State.Form.restore, ← Sys.Form.setCtx]

protected theorem State.Form.resumeCtx {s : State} {x : Nat} (h : s.Form) : (resumeCtx s x).Form := by
  unfold Machine.resumeCtx
  extract_lets v t u
  split
  · have ht : t.Form := h.mapSys (h.sys.wsync.modCtx fun _ h => h.plain)
    exact (ht.mapFly ht.fly.armWatchdog).restore
  · exact h

/-! ### Drains (R349, R350, R352, R353) -/

protected theorem State.Form.beginDrain {s : State} {x : Nat} {col : Option Nat} (h : s.Form) : (beginDrain s x col).Form := by
  unfold Machine.beginDrain
  extract_lets v again now d v' t t1 e t2
  split
  · exact h
  · have ht : t.Form := h.mapSys (h.sys.setCtx { h.sys.ctx with })
    have ht1 : t1.Form := ht.foldl fun _ _ h => h.inject
    have ht2 : t2.Form := ht1.foldl fun _ _ h => h.sched
    exact ht2.sched.sched

protected theorem State.Form.abortSave {s : State} {c k : Nat} (h : s.Form) : (abortSave s c k).Form := by
  unfold Machine.abortSave
  grind [← State.Form.sys, ← State.Form.abortInst, ← State.Form.mapSys, ← Sys.Form.modThr, ← State.Form.saveThread]

protected theorem State.Form.drainTold {s : State} {x what k : Nat} (h : s.Form) : (drainTold s x what k).Form := by
  unfold Machine.drainTold
  grind [← State.Form.sys, ← Sys.Form.plain, ← State.Form.mapSys]

/-! ### The management interface (R370) -/

protected theorem State.Form.refuseBusy {s : State} (h : s.Form) : (refuseBusy s).Form := by
  unfold Machine.refuseBusy
  grind [← State.Form.sys, ← Sys.Form.plain, ← State.Form.mapSys]

protected theorem State.Form.onManagement {s : State} {who : Nat} {i : Instr} {k : State → State} (h : s.Form) (hk : ∀ u, u.Form → (k u).Form) :
    (onManagement s who i k).Form := by
  unfold Machine.onManagement
  grind [← State.Form.refuseBusy, ← State.Form.whenAwake]

/-! ### Context commands (R77 to R82) -/

protected theorem Sys.Form.endCmd {y : Sys} {st : Nat} (h : y.Form) : (endCmd y st).Form := by
  unfold Machine.endCmd
  grind [← Sys.Form.plain]

protected theorem State.Form.writeCxcmd {s : State} {v : Word} (h : s.Form) : (writeCxcmd s v).Form := by
  unfold Machine.writeCxcmd
  grind [← State.Form.sys, ← State.Form.fly, ← State.Form.parts, ← Sys.Form.plain, ← Fly.Form.draw, ← Sys.Form.endCmd, ← State.Form.mapSys,
    ← State.Form.sched]

protected theorem State.Form.onCommand {s : State} {ok : CtxSt → Bool} {k : Nat → State} (h : s.Form) (hk : ∀ a, (k a).Form) :
    (onCommand s ok k).Form := by
  unfold Machine.onCommand
  grind [← State.Form.sys, ← Sys.Form.endCmd, ← State.Form.mapSys]

protected theorem State.Form.wipeThreads {s : State} {x : Nat} (h : s.Form) : (wipeThreads s x).Form := by
  unfold Machine.wipeThreads
  extract_lets cs mine u y y' gone
  have hu : u.Form := h.foldl fun _ _ h => h.abortInst
  have hy := hu.sys
  have hf := hu.fly
  exact
    { hu with
      greg := hu.greg.filter _
      regs := fun e he => hu.regs e (List.mem_of_mem_filter he)
      sys := { hy with
        thrs := hy.thrs.filter _, regions := hy.regions.filter _, parks := hy.parks.filter _, frames := hy.frames.filter _
        xfers := hy.xfers.filter _, links := hy.links.filter _, routers := hy.routers.filter _ }
      fly := { hf with posts := hf.posts.filter _, commits := hf.commits.filter _, accs := hf.accs.filter _ } }

/-! ### The watchdog (R84, R85) -/

protected theorem State.Form.kickWdog {s : State} {x : Nat} (h : s.Form) : (kickWdog s x).Form := by
  unfold Machine.kickWdog
  grind [← State.Form.sys, ← State.Form.fly, ← Ctx.Form.plain, ← Fly.Form.armWatchdog, ← State.Form.mapFly, ← State.Form.mapSys, ← Sys.Form.modCtx]

/-! ### Fault time limit (R163, R164, R348) -/

protected theorem State.Form.serveTicket {s : State} {n : Nat} {t : Ticket} (h : s.Form) : (serveTicket s n t).Form := by
  unfold Machine.serveTicket
  extract_lets cols s1 s2 s3 s4 s5
  have h1 : s1.Form := h.mapSys (h.sys.withTickets (h.sys.tickets.del _))
  have h2 : s2.Form := h1.foldl fun _ _ h => { h with fly := h.fly.setAcc.event }
  have h3 : s3.Form := h2.foldl fun u k hu => by grind [← State.Form.mapSys, ← State.Form.sys, ← Sys.Form.setXfer, ← State.Form.moveAgain]
  have h4 : s4.Form := h3.foldl fun u k hu => by grind [← State.Form.rewriteParks, ← State.Form.reinjectColour]
  have h5 : s5.Form := h4.foldl fun u k hu => by grind [← State.Form.sched]
  refine h5.foldl fun u m hu => ?_
  have hv : (u.mapSys fun y => y.modThr (m / 1024) (m % 1024) fun h => { h with ticket := none }).Form := hu.mapSys hu.sys.modThr
  grind [← State.Form.resumeThread]

/-! ### Shoot-downs (R165) -/

protected theorem Fly.Form.readAgain {f : Fly} {x now : Nat} (h : f.Form) : (readAgain f x now).Form := by
  unfold Machine.readAgain
  grind [← Fly.Form.plain, ← Fly.Form.event, ← Fly.Form.foldl]

protected theorem State.Form.shootDown {s : State} {x first last : Nat} (h : s.Form) : (shootDown s x first last).Form := by
  unfold Machine.shootDown
  grind [← State.Form.sys, ← State.Form.fly, ← State.Form.parts, ← Sys.Form.shoots, ← Sys.Form.withShoots, ← Sys.Form.portTs, ← Sys.Form.withPortTs,
    ← rising.map, ← rising.put, ← Fly.Form.event, ← Fly.Form.foldl, ← State.Form.foldl, ← Fly.Form.fresh, ← State.Form.mapSys, ← Fly.Form.readAgain,
    ← State.Form.rewriteParks, ← State.Form.sched, ← Fly.Form.setAcc]

/-! ### System records (R166, R331) -/

protected theorem State.Form.startLoad {s : State} {c k owner ser x colour va : Nat} {rt : Bool} (h : s.Form) :
    (startLoad s c k owner ser x colour va rt).Form := by
  unfold Machine.startLoad
  split
  · exact h
  · exact State.Form.sched (h.parts (h.sys.withLoads (h.sys.loads.put _ _)) h.fly.fresh.draw)

protected theorem State.Form.startRelat {s : State} {c k owner ser x colour va : Nat} (h : s.Form) :
    (startRelat s c k owner ser x colour va).Form := by
  unfold Machine.startRelat
  split
  · exact h
  · exact State.Form.sched (h.parts (h.sys.withRelats (h.sys.relats.put _ _)) h.fly.fresh.draw)

protected theorem State.Form.recordBad {s : State} {c k owner ser : Nat} (h : s.Form) : (recordBad s c k owner ser).Form := by
  unfold Machine.recordBad
  grind [← State.Form.deferTrap]

protected theorem State.Form.passRelat {s : State} {id : Nat} {v : Relat} (h : s.Form) : (passRelat s id v).Form := by
  unfold Machine.passRelat
  extract_lets first last n hit fs slots waits drop src y
  have hy : y.Form :=
    { h.sys with
      frames := h.sys.frames.map fun e => by grind
      relats := h.sys.relats.put _ _ }
  exact State.Form.sched (h.parts hy h.fly)

/-! ### Writes to system registers (R325, R326) -/

protected theorem Sys.Form.writeCent0 {y : Sys} {c e : Nat} {v : Word} (h : y.Form) : (writeCent0 y c e v).Form := by
  unfold Machine.writeCent0
  grind [← Sys.Form.setCent]

protected theorem Sys.Form.writeCent1 {y : Sys} {c e : Nat} {v : Word} (h : y.Form) : (writeCent1 y c e v).Form := by
  unfold Machine.writeCent1
  grind [← Sys.Form.setCent]

protected theorem Fly.Form.wakeRegions {y : Sys} {c : Nat} {f : Fly} (h : f.Form) : (wakeRegions y c f).Form := by
  unfold Machine.wakeRegions
  grind [← Fly.Form.foldl, ← Fly.Form.parkCheck, ← Fly.Form.wakeRegion]

protected theorem State.Form.writeCtent {s : State} {v : Word} (h : s.Form) : (writeCtent s v).Form := by
  unfold Machine.writeCtent
  grind [← State.Form.sys, ← State.Form.fly, ← State.Form.mapFly, ← State.Form.mapSys, ← Fly.Form.wakeRegions, ← Sys.Form.writeCent0,
    ← Sys.Form.writeCent1]

protected theorem Fly.Form.rearmStalls {y : Sys} {x : Nat} {f : Fly} (h : f.Form) : (rearmStalls y x f).Form := by
  unfold Machine.rearmStalls
  grind [← Fly.Form.event, ← Fly.Form.foldl]

protected theorem Fly.Form.rearmTickets {y : Sys} {x : Nat} {f : Fly} (h : f.Form) : (rearmTickets y x f).Form := by
  unfold Machine.rearmTickets
  grind [← Fly.Form.event, ← Fly.Form.foldl]

protected theorem State.Form.writeWdog {s : State} {x : Nat} {v : Word} (h : s.Form) : (writeWdog s x v).Form := by
  unfold Machine.writeWdog
  grind [← State.Form.sys, ← State.Form.fly, ← Ctx.Form.plain, ← Fly.Form.armWatchdog, ← State.Form.mapFly, ← State.Form.mapSys, ← Sys.Form.modCtx,
    ← Sys.Form.wsync]

protected theorem State.Form.writeReg {s : State} {c k x0 r : Nat} {p : Bool} {v : Word} (h : s.Form) : (writeReg s c k x0 r p v).Form := by
  unfold Machine.writeReg
  grind [← State.Form.sys, ← State.Form.fly, ← Sys.Form.plain, ← Ctx.Form.plain, ← State.Form.kickWdog, ← State.Form.mapFly, ← State.Form.mapSys,
    ← Sys.Form.modClu, ← Sys.Form.modCtx, ← Sys.Form.modThr, ← Fly.Form.rearmStalls, ← Fly.Form.rearmTickets, ← State.Form.sched,
    ← Fly.Form.wakeRegions, ← State.Form.writeCtent, ← State.Form.writeCxcmd, ← State.Form.writeWdog]

/-! ### Release (R96, R178, R286) -/

protected theorem Sys.Form.queueXfer {y : Sys} {id : Nat} {a : Access} (h : y.Form) : (queueXfer y id a).Form := by
  unfold Machine.queueXfer
  grind [← Sys.Form.setXfer]

protected theorem State.Form.loseCommand {s : State} {id : Nat} {a : Access} {code : Nat} (h : s.Form) : (loseCommand s id a code).Form := by
  unfold Machine.loseCommand
  grind [← State.Form.fly, ← State.Form.deferTrap, ← Fly.Form.event, ← State.Form.mapFly, ← Fly.Form.setAcc]

protected theorem State.Form.commitAcc {s : State} {id : Nat} (h : s.Form) : (commitAcc s id).Form := by
  unfold Machine.commitAcc
  split
  · exact h
  · split
    next n f e =>
    extract_lets a u
    have hu : u.Form := { h with fly := (h.fly.freshened e).setAcc }
    clear_value a u
    repeat' split
    case h_1 | h_1 => exact hu.loseCommand
    case h_2 | h_2 => exact hu.mapSys hu.sys.queueXfer
    case h_3 => exact hu.mapSys hu.sys.modTile
    case h_4.isTrue => exact hu.mapFly hu.fly.delAcc
    all_goals exact hu

protected theorem State.Form.release {s : State} {c k ser : Nat} {p : Access → Bool} (h : s.Form) : (release s c k ser p).Form := by
  unfold Machine.release
  grind [← State.Form.advance, ← State.Form.commitAcc, ← State.Form.foldl]

/-! ### The decision (c+1) -/

protected theorem Sys.Form.claim {y : Sys} {i : Inst} (h : y.Form) : (claim y i).Form := by
  unfold Machine.claim
  grind [← Ctx.Form.plain, ← Sys.Form.foldl, ← Sys.Form.modCtx, ← Sys.Form.setQueue]

protected theorem State.Form.decide_ {s : State} {e : Ev} {i : Inst} (h : s.Form) : (decide_ s e i).Form := by
  unfold Machine.decide_
  grind [← State.Form.sys, ← State.Form.fly, ← State.Form.parts, ← Fly.Form.commits, ← Fly.Form.withCommits, ← rising.put, ← Sys.Form.claim,
    ← Fly.Form.delInst, ← State.Form.mapFly, ← State.Form.sched, ← Fly.Form.setInst]

protected theorem State.Form.sendFirst {s : State} {e : Ev} (h : s.Form) : (sendFirst s e).Form := by
  unfold Machine.sendFirst
  grind [← State.Form.nextMessage, ← State.Form.release]

/-! ### Exit records (R113, R237) -/

protected theorem State.Form.withPorts {s : State} {x : Nat} {t : Tab Port} (h : s.Form) :
    (s.mapSys fun y => y.modCtx x fun w => { w with ports := t }).Form := h.mapSys (h.sys.modCtx fun _ h => h.plain)

/-- What the recursion on a `Nat` gives keeps `K` where each step of it does. The step is stated about the recursion's functional itself, so that
the kernel need not unfold a definition by recursion to check it. -/
theorem brecOn_keeps {β : Type} {K : β → Prop} {F : (n : Nat) → Nat.below (motive := fun _ => β) n → β} (h0 : ∀ b, K (F 0 b))
    (hs : ∀ n (b : Nat.below (motive := fun _ => β) (n + 1)), K b.1 → K (F (n + 1) b)) (n : Nat) : K (Nat.brecOn n F) := by
  induction n with
  | zero => exact h0 _
  | succ n ih => exact hs n _ ih

/-- `writeVirt` stands as a variable `W` with its two rules: with the definition in its place the kernel would evaluate it on the record's 64
bytes at every comparison of two matches on its result (`refine id ?_` keeps the variable in the proof term). -/
theorem flushExits_keeps_form (n : Nat) : ∀ s x p, State.Form s → (flushExits n s x p).Form := by
  have hok := @State.Form.writeVirt_ok
  have herr := @State.Form.writeVirt_error
  delta flushExits
  refine brecOn_keeps (K := fun f : State → Nat → Nat → State => ∀ s x p, State.Form s → (f s x p).Form) ?_ ?_ n
  · intro b s x p h
    exact h
  · delta flushExits._f
    generalize @writeVirt = W at hok herr ⊢
    revert W
    refine id ?_
    intro W hok herr n b ih s x p h
    dsimp only
    split
    · exact h
    · split
      · exact h
      · split
        case _ hw => exact ih _ _ _ (hok h hw).withPorts
        case _ hw => exact (herr h hw).sched
        case _ hw => exact ih _ _ _ (herr h hw).memFault.withPorts
        case _ hw => exact ih _ _ _ (herr h hw).withPorts

protected theorem State.Form.flushExits {n x p : Nat} {s : State} (h : s.Form) : (flushExits n s x p).Form := flushExits_keeps_form n s x p h

protected theorem State.Form.writeExit {s : State} {c k now : Nat} {i : Inst} {p : Nat} {t : Token} (h : s.Form) :
    (writeExit s c k now i p t).Form := by
  unfold Machine.writeExit
  split
  · exact h
  · extract_lets r u
    have hu : u.Form := h.mapSys (h.sys.modCtx fun _ h => h.plain)
    split
    · exact hu.flushExits
    · exact hu

/-! ### The thread's next event -/

protected theorem State.Form.postGroup {s : State} {c k : Nat} {i : Inst} {owner idx g : Nat} {join : Bool} (h : s.Form) :
    (postGroup s c k i owner idx g join).Form := by
  unfold Machine.postGroup
  grind [← State.Form.addPost]

protected theorem State.Form.groupChange {s : State} {c k : Nat} {i : Inst} {owner idx g : Nat} {join : Bool} {g' : Sys → Sys} (h : s.Form)
    (hg' : ∀ z, z.Form → (g' z).Form) :
    (groupChange s c k i owner idx g join g').Form := by
  unfold Machine.groupChange
  grind [← State.Form.sys, ← State.Form.fly, ← State.Form.mapFly, ← State.Form.mapSys, ← State.Form.postGroup, ← Fly.Form.wakeBars]

protected theorem State.Form.groupEff {s : State} {c k : Nat} {i : Inst} {n : EffAt} (h : s.Form) : (groupEff s c k i n).Form := by
  unfold Machine.groupEff
  grind [← State.Form.groupChange, ← Sys.Form.joinLocal, ← Sys.Form.leaveLocal]

protected theorem Sys.Form.quit {y : Sys} {c k : Nat} {i : Inst} (h : y.Form) : (Sys.quit y c k i).Form := by
  unfold Sys.quit
  grind [← Sys.Form.modClu, ← Sys.Form.setThr]

protected theorem State.Form.quitGroups {s : State} {c k : Nat} {i : Inst} (h : s.Form) : (quitGroups s c k i).Form := by
  unfold Machine.quitGroups
  grind [← State.Form.sys, ← State.Form.foldl, ← State.Form.groupChange, ← Sys.Form.leaveLocal, ← State.Form.mapSys, ← Sys.Form.modClu,
    ← State.Form.postGroup]

protected theorem State.Form.retireAtCommit {s : State} {c k : Nat} {i : Inst} (h : s.Form) : (retireAtCommit s c k i).Form := by
  unfold Machine.retireAtCommit
  grind [← State.Form.sys, ← State.Form.endThread, ← State.Form.mapSys, ← Sys.Form.quit, ← Sys.Form.setThr]

protected theorem State.Form.writeExits {s : State} {c k now : Nat} {i : Inst} (h : s.Form) : (writeExits s c k now i).Form := by
  unfold Machine.writeExits
  grind [← State.Form.foldl, ← State.Form.writeExit]

protected theorem State.Form.pushFifo {s : State} {c k : Nat} {i : Inst} {idx b : Nat} {v : FEnt} (h : s.Form) : (pushFifo s c k i idx b v).Form := by
  unfold Machine.pushFifo
  grind [← State.Form.sys, ← State.Form.deferContained, ← State.Form.deferTrap, ← State.Form.mapSys, ← Sys.Form.setBank]

theorem rising_filterMap_dropRead {t : Tab Access} (h : rising t) (ser : Nat) : rising (t.filterMap (dropRead ser)) :=
  h.filterMap fun e b hb => by
    unfold dropRead at hb
    grind

protected theorem State.Form.leaveInst {s : State} {e : Ev} {i : Inst} (h : s.Form) : (leaveInst s e i).Form := by
  unfold Machine.leaveInst
  extract_lets c k y0 v0 y f0 f later moved step f' u v w t owner e3
  have hy : y.Form := h.sys.dropTokens.setPartials.foldl fun y n hy => by grind [← Sys.Form.modThr, ← Sys.Form.modBank, ← Sys.Form.setThr]
  have hf : f'.Form :=
    { h.fly with
      sleeps := h.fly.sleeps.filter _
      accs := rising_filterMap_dropRead h.fly.accs _
      commits := h.fly.commits.put _ _ }
  have hu : u.Form := h.parts hy hf.wakeCluster
  have hv : v.Form := hu.foldl fun u n hu => by grind [← State.Form.pushFifo]
  have hw : w.Form := by grind [← State.Form.writeExits]
  split
  · exact hw.retireAtCommit.sched
  · exact (hw.mapSys hw.sys.modThr).sched.sched

/-! ### Effects (c+2) -/

protected theorem State.Form.bariEvent {s : State} {c k : Nat} {i : Inst} {dead : Bool} {idx part b n : Nat} (h : s.Form) :
    (bariEvent s c k i dead idx part b n).Form := by
  unfold Machine.bariEvent
  grind [← State.Form.sched]

protected theorem State.Form.mtsEvent {s : State} {c k x r : Nat} {v : Word} (h : s.Form) : (mtsEvent s c k x r v).Form := by
  unfold Machine.mtsEvent
  grind [← State.Form.sched]

protected theorem State.Form.applyEff {s : State} {c k : Nat} {i : Inst} {quit dead : Bool} {n : EffAt} (h : s.Form) :
    (applyEff s c k i quit dead n).Form := by
  unfold Machine.applyEff
  grind [← State.Form.sys, ← State.Form.addPost, ← State.Form.bariEvent, ← State.Form.beginDrain, ← Sys.Form.foldl, ← State.Form.groupEff,
    ← State.Form.mapSys, ← Sys.Form.modBar, ← Sys.Form.modClu, ← Sys.Form.modLane, ← Sys.Form.modMon, ← Sys.Form.modThr, ← State.Form.mtsEvent,
    ← State.Form.recallPass, ← State.Form.resumeColour, ← State.Form.resumeCtx, ← State.Form.resumeQueue, ← State.Form.sched, ← Sys.Form.setBank,
    ← Sys.Form.setLane, ← Sys.Form.setMent, ← Sys.Form.setMon, ← State.Form.startLoad, ← State.Form.startPass, ← State.Form.startRelat,
    ← State.Form.suspendQueue]

protected theorem Sys.Form.settlePushes {y : Sys} {c : Nat} {i : Inst} {g' : Word → Word} (h : y.Form) : (settlePushes y c i g').Form := by
  unfold Machine.settlePushes
  grind [← Sys.Form.foldl, ← Sys.Form.modBank]

protected theorem Fly.Form.settleStores {f : Fly} {i : Inst} {g' : Word → Word} (h : f.Form) : (settleStores f i g').Form := by
  unfold Machine.settleStores
  grind [← Fly.Form.accs, ← Fly.Form.withAccs, ← rising.map]

protected theorem State.Form.commitRegs {s : State} {c k : Nat} {i : Inst} {quit : Bool} (h : s.Form) : (commitRegs s c k i quit).Form := by
  unfold Machine.commitRegs
  grind [← State.Form.sys, ← State.Form.foldl, ← State.Form.mapSys, ← Sys.Form.modThr, ← State.Form.setReg]

protected theorem Sys.Form.commitWide {y : Sys} {c : Nat} {i : Inst} (h : y.Form) : (commitWide y c i).Form := by
  unfold Machine.commitWide
  grind [← Sys.Form.foldl, ← Sys.Form.setLane, ← Sys.Form.setPacc]

protected theorem State.Form.performPosts {s : State} {c k : Nat} {i : Inst} (h : s.Form) : (performPosts s c k i).Form := by
  unfold Machine.performPosts
  grind [← State.Form.addPost, ← State.Form.foldl]

protected theorem Sys.Form.openMessages {y : Sys} {i : Inst} (h : y.Form) : (openMessages y i).Form := by
  unfold Machine.openMessages
  grind [← Sys.Form.foldl, ← Sys.Form.modThr]

protected theorem State.Form.takeEffect {s : State} {e : Ev} {i : Inst} (h : s.Form) : (takeEffect s e i).Form := by
  unfold Machine.takeEffect
  extract_lets c k s1 hv s2 i' s3 dead s4 s5 s6 s7 s8
  have h1 : s1.Form := h.release
  have h2 : s2.Form := State.Form.mapSys (h1.mapFly h1.fly.settleStores) h1.sys.settlePushes
  have h3 : s3.Form := h2.writeExits
  have h4 : s4.Form := by grind [← State.Form.quitGroups]
  have h5 : s5.Form := by grind [← State.Form.commitRegs]
  have h6 : s6.Form := h5.mapSys h5.sys.commitWide
  have h7 : s7.Form := h6.foldl fun _ _ h => h.applyEff
  have h8 : s8.Form := (h7.mapSys h7.sys.openMessages).performPosts
  exact h8.mapFly (h8.fly.withCommits (h8.fly.commits.del _))

protected theorem State.Form.enterNextBlock {s : State} {e : Ev} (h : s.Form) : (enterNextBlock s e).Form := by
  unfold Machine.enterNextBlock
  grind [← State.Form.sys, ← State.Form.mapSys, ← Sys.Form.modThr, ← State.Form.proceed, ← Sys.Form.setThr]

protected theorem State.Form.bariEffect {s : State} {e : Ev} (h : s.Form) : (bariEffect s e).Form := by
  unfold Machine.bariEffect
  grind [← State.Form.sys, ← State.Form.deferContained, ← State.Form.deferTrap, ← State.Form.mapSys, ← Sys.Form.setBar]

/-! ### STALL and the handler -/

section
variable {s u : State} {e : Ev} {t : Thr} {cause : Nat}

theorem State.Form.readVector_done {a : Option Nat} (h : s.Form) (hr : readVector s e t cause = .done u a) : u.Form := by
  unfold readVector at hr
  grind [→ State.Form.openLines_ok]

theorem State.Form.readVector_later {due part : Nat} (h : s.Form) (hr : readVector s e t cause = .later u due part) : u.Form := by
  unfold readVector at hr
  grind [→ State.Form.openLines_wait, ← State.Form.mapSys, ← State.Form.sys, ← State.Form.fly, ← Sys.Form.modPortT, ← State.Form.parts,
    ← Fly.Form.draw]

theorem State.Form.readVector_bad (h : s.Form) (hr : readVector s e t cause = .bad u) : u.Form := by
  unfold readVector at hr
  grind [→ State.Form.openLines_bad]

end

protected theorem State.Form.enterHandler {s : State} {c k a : Nat} (h : s.Form) : (enterHandler s c k a).Form := by
  unfold Machine.enterHandler
  grind [← State.Form.sys, ← State.Form.enterNext, ← State.Form.mapSys, ← State.Form.maskRegs, ← Sys.Form.modThr]

end Sys2Proof.Machine

namespace Sys2Proof.Machine
open Claims

/-! ## Reloads, translated accesses and the home slices keep form -/

/-! ### The words of a block (R203) -/

section
variable {s u : State} {x ident blk : Nat}

protected theorem State.Form.fetchBlock (h : s.Form) : ExceptForm (·.2.2) (·.2) (fetchBlock s x ident blk) := by
  have ho := h.openLines (l := linesOf s.sys s.mem x 0 blk (blockBytes s.sys s.mem x ident blk) false)
  rw [Machine.fetchBlock]
  generalize fetchStop _ _ _ _ _ = f
  cases f with
  | some p => exact h
  | none =>
    extract_lets n
    change (openLines (linesOf s.sys s.mem x 0 blk n false) s).Form at ho
    generalize openLines _ s = r at ho ⊢
    generalize fetchWords _ _ _ _ _ _ = w
    cases r with
    | ok u =>
      cases w with
      | some ws => exact ho
      | none => exact ho
    | wait u => exact ho
    | down => exact h
    | bad u => exact ho

theorem State.Form.fetchBlock_ok {ws : List Word} (h : s.Form) (e : fetchBlock s x ident blk = .ok (ws, u)) : u.Form := h.fetchBlock.ok e

theorem State.Form.fetchBlock_error {b : Nat} {r : XRes} (h : s.Form) (e : fetchBlock s x ident blk = .error (b, r, u)) : u.Form :=
  h.fetchBlock.error e

end

/-! ### The reload decision (R102) -/

protected theorem Sys.Form.displace {y : Sys} {c r n blk : Nat} (h : y.Form) : (displace y c r n blk).Form := by
  unfold Machine.displace
  grind [← Sys.Form.parks, ← Sys.Form.withParks, ← rising.map, ← Sys.Form.modRegion]

protected theorem State.Form.startFrame {s : State} {c n : Nat} {w : Wait} (h : s.Form) : (startFrame s c n w).Form := by
  unfold Machine.startFrame
  grind [← State.Form.sys, ← State.Form.fly, ← State.Form.parts, ← Sys.Form.displace, ← State.Form.sched, ← Sys.Form.setFrame]

protected theorem State.Form.wakeBlock {s : State} {c x blk : Nat} (h : s.Form) : (wakeBlock s c x blk).Form := by
  unfold Machine.wakeBlock
  grind [← State.Form.sys, ← State.Form.fly, ← State.Form.enterNext, ← State.Form.foldl, ← State.Form.mapFly, ← State.Form.mapSys,
    ← Fly.Form.offerQueue, ← Sys.Form.setQueue, ← Sys.Form.unwait]

protected theorem State.Form.trapWaiters {s : State} {c x blk : Nat} {r : TrapRec} (h : s.Form) : (trapWaiters s c x blk r).Form := by
  unfold Machine.trapWaiters
  grind [← State.Form.sys, ← State.Form.foldl, ← State.Form.mapSys, ← State.Form.takeTrap, ← Sys.Form.unwait, ← State.Form.wakeBlock]

/-! ### A block becomes resident (R90, R91) -/

protected theorem State.Form.rehome {s : State} {c r n blk : Nat} (h : s.Form) : (rehome s c r n blk).Form := by
  unfold Machine.rehome
  grind [← State.Form.sys, ← State.Form.fly, ← State.Form.parts, ← Sys.Form.parks, ← Sys.Form.withParks, ← rising.map, ← Sys.Form.foldl,
    ← State.Form.mapSys, ← Sys.Form.modRegion, ← State.Form.placeLater]

protected theorem Sys.Form.settleKernels {y : Sys} {x : Nat} (h : y.Form) : (settleKernels y x).Form := by
  unfold Machine.settleKernels
  grind [← Sys.Form.frames, ← Sys.Form.withFrames, ← rising.filter, ← Sys.Form.discardKernels]

protected theorem Sys.Form.spoilBlock {y : Sys} {x ident blk : Nat} {info : Word} (h : y.Form) : (Sys.spoilBlock y x ident blk info).Form := by
  unfold Sys.spoilBlock
  grind [← Ctx.Form.plain, ← Sys.Form.modCtx]

protected theorem State.Form.dropFrame {s : State} {c r n : Nat} (h : s.Form) : (dropFrame s c r n).Form := by
  unfold Machine.dropFrame
  grind [← State.Form.sys, ← State.Form.mapSys, ← State.Form.sched, ← Sys.Form.setFrame, ← Sys.Form.settleKernels]

protected theorem State.Form.fetchFails {s : State} {e : Ev} {f : BFrame} {b : Nat} {r : XRes} (h : s.Form) : (fetchFails s e f b r).Form := by
  unfold Machine.fetchFails
  grind [← State.Form.sys, ← State.Form.dropFrame, ← State.Form.mapSys, ← State.Form.memFault, ← State.Form.sched, ← State.Form.trapWaiters,
    ← Sys.Form.unwait, ← State.Form.withhold]

protected theorem State.Form.failBlock {s : State} {c r n : Nat} {f : BFrame} {info : Word} (h : s.Form) : (failBlock s c r n f info).Form := by
  unfold Machine.failBlock
  grind [← State.Form.sys, ← State.Form.dropFrame, ← State.Form.foldl, ← State.Form.mapSys, ← Sys.Form.spoilBlock, ← State.Form.wakeBlock]

/-! ### What an access does to its instance -/

protected theorem State.Form.trapAcc {s : State} {a : Access} {r : TrapRec} (h : s.Form) : (trapAcc s a r).Form := by
  unfold Machine.trapAcc
  grind [← State.Form.raiseTrap]

protected theorem State.Form.deferAcc {s : State} {a : Access} {r : TrapRec} (h : s.Form) : (deferAcc s a r).Form := by
  unfold Machine.deferAcc
  grind [← State.Form.deferContained, ← State.Form.deferTrap]

protected theorem State.Form.answerAcc {s : State} {a : Access} (h : s.Form) : (answerAcc s a).Form := by
  fun_cases Machine.answerAcc s a
  case case1 hd => exact { h with fly := (h.fly.drawn hd).setInst.checkReady }
  case case2 hd _ _ => exact { h with fly := (h.fly.drawn hd).setInst.event }
  all_goals exact h

/-! ### `%seqlast` (R320) -/

protected theorem State.Form.popAcc {s : State} {id : Nat} {a : Access} (h : s.Form) : (popAcc s id a).Form := by
  unfold Machine.popAcc
  grind [← State.Form.sys, ← State.Form.fly, ← Fly.Form.delAcc, ← State.Form.mapFly, ← State.Form.mapSys, ← Fly.Form.setAcc, ← Fly.Form.setInst,
    ← Sys.Form.setThr]

protected theorem State.Form.popRetired {s : State} {c k : Nat} (h : s.Form) : (popRetired s c k).Form := by
  unfold Machine.popRetired
  grind [← State.Form.foldl, ← State.Form.popAcc]

/-! ### An access that is translated -/

protected theorem State.Form.readyAcc {s : State} {id lead : Nat} {a : Access} (h : s.Form) : (readyAcc s id lead a).Form := by
  unfold Machine.readyAcc
  grind [← State.Form.fly, ← State.Form.advance, ← State.Form.issueAccess, ← State.Form.mapFly, ← State.Form.sched, ← Fly.Form.setAcc]

protected theorem State.Form.memoryError {s : State} {id : Nat} {a : Access} (h : s.Form) : (memoryError s id a).Form := by
  unfold Machine.memoryError
  grind [← State.Form.fly, ← State.Form.mapFly, ← State.Form.memFault, ← Fly.Form.setAcc]

protected theorem State.Form.xlatFails {s : State} {id : Nat} {a : Access} {b : Nat} {r : XRes} (h : s.Form) : (xlatFails s id a b r).Form := by
  unfold Machine.xlatFails
  grind [← State.Form.fly, ← State.Form.advance, ← State.Form.issueAccess, ← State.Form.mapFly, ← State.Form.memoryError, ← State.Form.sched,
    ← Fly.Form.setAcc, ← State.Form.trapAcc, ← State.Form.withhold]

/-! ### Requests and responses of the port (R190, R306) -/

protected theorem State.Form.portAsk {s : State} {id lead : Nat} {a : Access} {i : Instr} {part pa : Nat} {va : Word} (h : s.Form) :
    (portAsk s id lead a i part pa va).Form := by
  unfold Machine.portAsk
  grind [← State.Form.sys, ← State.Form.fly, ← State.Form.parts, ← Fly.Form.draw, ← Fly.Form.event, ← Sys.Form.portIssue]

protected theorem State.Form.portAnswer {s : State} {i : Instr} {e : Ev} {bytes : List Byte} (h : s.Form) : (portAnswer s i e bytes).Form := by
  unfold Machine.portAnswer
  grind [← State.Form.sys, ← State.Form.fly, ← State.Form.parts, ← Fly.Form.draw, ← Fly.Form.event]

protected theorem State.Form.goOn {s : State} {id t : Nat} {a : Access} (h : s.Form) : (goOn s id t a).Form := by
  unfold Machine.goOn
  grind [← State.Form.sched]

/-! ### Translation through the caches (R160, R161) -/

protected theorem State.Form.readTables {s : State} {id t : Nat} {a : Access} {b : Nat} {leaf : Bool} (h : s.Form) :
    (readTables s id t a b leaf).Form := by
  unfold Machine.readTables
  grind [← State.Form.portAsk]

protected theorem State.Form.byCaches {s : State} {id t : Nat} {a : Access} {ps : List (Nat × Nat × Need)} {k : State → Access → State} (h : s.Form)
    (hk : ∀ u a, u.Form → (k u a).Form) :
    (byCaches s id t a ps k).Form := by
  unfold Machine.byCaches
  grind [← State.Form.sys, ← State.Form.fly, ← State.Form.mapFly, ← State.Form.mapSys, ← Sys.Form.modPortT, ← State.Form.readTables,
    ← State.Form.sched, ← Fly.Form.setAcc, ← State.Form.xlatFails]

/-! ### Records that the port reads (R153, R177) -/

protected theorem State.Form.checkCommand {s : State} {id lead : Nat} {a : Access} (h : s.Form) : (checkCommand s id lead a).Form := by
  unfold Machine.checkCommand
  grind [← State.Form.readyAcc, ← State.Form.trapAcc]

protected theorem State.Form.takeCommand {s : State} {id : Nat} {a : Access} {bs : List Byte} (h : s.Form) : (takeCommand s id a bs).Form := by
  unfold Machine.takeCommand
  grind [← State.Form.fly, ← State.Form.checkCommand, ← State.Form.mapFly, ← Fly.Form.setAcc, ← State.Form.trapAcc]

protected theorem State.Form.takeSplice {s : State} {id : Nat} {a : Access} {bs : List Byte} (h : s.Form) : (takeSplice s id a bs).Form := by
  unfold Machine.takeSplice
  grind [← State.Form.byCaches, ← State.Form.readyAcc]

protected theorem State.Form.readRecord {s : State} {id t : Nat} {a : Access} {va : Nat} (h : s.Form) : (readRecord s id t a va).Form := by
  unfold Machine.readRecord
  grind [← State.Form.fly, ← State.Form.mapFly, ← State.Form.portAsk, ← Fly.Form.setAcc]

protected theorem State.Form.scratchReady {s : State} {id : Nat} {a : Access} (h : s.Form) : (scratchReady s id a).Form := by
  unfold Machine.scratchReady
  grind [← State.Form.readyAcc, ← State.Form.trapAcc]

protected theorem State.Form.translateAcc {s : State} {id t : Nat} {a : Access} (h : s.Form) : (translateAcc s id t a).Form := by
  unfold Machine.translateAcc
  grind [← State.Form.byCaches, ← State.Form.checkCommand, ← State.Form.readRecord, ← State.Form.readyAcc, ← State.Form.sched]

/-! ### The events -/

protected theorem State.Form.atSlices {s : State} {i : Instr} {e : Ev} {a : Access} {asks : List Ask} {k : State → State} (h : s.Form)
    (hk : ∀ u, u.Form → (k u).Form) :
    (atSlices s i e a asks k).Form := by
  unfold Machine.atSlices
  grind [→ State.Form.openLines_ok, → State.Form.openLines_wait, → State.Form.openLines_bad, ← State.Form.sched, ← State.Form.xlatFails]

protected theorem State.Form.readTable {s : State} {e : Ev} {a : Access} {pa : Nat} (h : s.Form) : (readTable s e a pa).Form := by
  unfold Machine.readTable
  grind [← State.Form.atSlices, ← State.Form.portAnswer, ← State.Form.xlatFails]

/-! ### Responses (R190, R306) -/

protected theorem Fly.Form.respond {now id slice : Nat} {a : Access} {f : Fly} (h : f.Form) : (respond now id slice a f).Form := by
  unfold Machine.respond
  grind [← Fly.Form.draw, ← Fly.Form.event]

/-! ### The bytes of a line part (R303) -/

theorem storePart_wf {m : Memory} (h : Memory.wf m = true) (a : Access) (l : Nat) : Memory.wf (storePart m a l) = true :=
  foldl_keeps (P := fun m => Memory.wf m = true) (fun m w hm => by
    split
    · exact writeByte_wf _ _ hm
    · exact hm) (a.writesIn l) h

/-! ### CACHE banks (R174) -/

protected theorem Sys.Form.fillBank {y : Sys} {m : Memory} {c b l : Nat} {dirty : Bool} (h : y.Form) : (fillBank y m c b l dirty).Form := by
  unfold Machine.fillBank
  grind [← Sys.Form.modLine, ← Sys.Form.setBank]

protected theorem Sys.Form.dropCopies {y : Sys} {c l : Nat} (h : y.Form) : (dropCopies y c l).Form := by
  unfold Machine.dropCopies
  grind [← Sys.Form.foldl, ← Sys.Form.modBank]

/-! ### Full/empty words (R311 to R315) -/

protected theorem Sys.Form.setSpill {y : Sys} {slice : Nat} {v : List Nat} (h : y.Form) : (Sys.setSpill y slice v).Form := by
  unfold Sys.setSpill
  grind [← Sys.Form.spill, ← Sys.Form.withSpill, ← rising.set]

protected theorem State.Form.serveReader {tag : BitVec 16} {slice : Nat} {s : State} {id : Nat} (h : s.Form) : (serveReader tag slice s id).Form := by
  unfold Machine.serveReader
  grind [← State.Form.sys, ← State.Form.fly, ← State.Form.parts, ← Fly.Form.respond, ← Fly.Form.setAcc]

protected theorem State.Form.wakeReaders {s : State} {pa : Nat} (h : s.Form) : (wakeReaders s pa).Form := by
  unfold Machine.wakeReaders
  grind [← State.Form.sys, ← State.Form.foldl, ← State.Form.mapSys, ← State.Form.serveReader, ← Sys.Form.setLine, ← Sys.Form.setSpill]

protected theorem State.Form.fillWord {s : State} {pa : Nat} {v : Word} (h : s.Form) : (fillWord s pa v).Form :=
  State.Form.wakeReaders (State.Form.withMem (h.mapSys h.sys.modLine) (writeWord_wf pa v h.mem))

/-! ### The access reaches its home slice (R357, R358, R383) -/

protected theorem State.Form.missLine {s : State} {id part l : Nat} {a : Access} (h : s.Form) : (missLine s id part l a).Form := by
  unfold Machine.missLine
  grind [← State.Form.sys, ← State.Form.fly, ← State.Form.parts, ← Fly.Form.draw, ← State.Form.mapSys, ← State.Form.sched, ← Sys.Form.unhold]

protected theorem State.Form.refuseAcc {s : State} {id slice : Nat} {a : Access} {r : TrapRec} (h : s.Form) : (refuseAcc s id slice a r).Form := by
  unfold Machine.refuseAcc
  grind [← State.Form.sys, ← State.Form.fly, ← State.Form.parts, ← State.Form.deferAcc, ← Fly.Form.delAcc, ← State.Form.mapFly, ← Fly.Form.respond,
    ← Fly.Form.setAcc, ← State.Form.trapAcc]

protected theorem State.Form.atSlice {s : State} {i : Instr} {e : Ev} {a : Access} {va : Nat} {k : State → Nat → State} (h : s.Form)
    (hk : ∀ u a, u.Form → (k u a).Form) :
    (atSlice s i e a va k).Form := by
  unfold Machine.atSlice
  grind [← State.Form.leaveL1, ← State.Form.missLine, ← State.Form.refuseAcc, ← State.Form.sched]

/-! ### Performing (R382, R383) -/

protected theorem State.Form.partDone {s : State} {id slice : Nat} {a : Access} (h : s.Form) : (partDone s id slice a).Form := by
  unfold Machine.partDone
  grind [← State.Form.sys, ← State.Form.fly, ← State.Form.parts, ← Fly.Form.respond, ← Fly.Form.setAcc]

protected theorem State.Form.performLde {s : State} {e : Ev} {a : Access} {l : Nat} (h : s.Form) : (performLde s e a l).Form := by
  unfold Machine.performLde
  grind [← State.Form.sys, ← State.Form.fly, ← Fly.Form.event, ← State.Form.mapFly, ← State.Form.mapSys, ← State.Form.partDone,
    ← Sys.Form.recallLine, ← State.Form.sched, ← Fly.Form.setAcc, ← Sys.Form.setLine, ← Sys.Form.setSpill, ← Sys.Form.stamp]

protected theorem State.Form.performWrite {s : State} {e : Ev} {a : Access} {vl l : Nat} (h : s.Form) : (performWrite s e a vl l).Form := by
  unfold Machine.performWrite
  extract_lets -lift bad
  clear_value bad
  split
  · exact h.refuseAcc
  · rename_i u a' pa w pa' old got v _
    have hu : u.Form := h.mapSys h.sys.recallLine.dropCopies.stamp
    have hw : w.Form := hu.mapSys hu.sys.modLine
    have hv : v.Form := by
      unfold v
      clear_value u w a' got
      split
      · exact State.Form.partDone (hu.withMem (storePart_wf hu.mem a vl))
      · exact State.Form.partDone (State.Form.wakeReaders (hw.withMem (storePart_wf hw.mem a vl)))
      · exact State.Form.partDone (hu.mapSys hu.sys.modLine)
      · exact State.Form.partDone (hu.withMem (writeLE_wf _ _ _ hu.mem))
      · exact hu
    clear_value v
    split
    · exact hv.sched
    · exact hv

protected theorem State.Form.performRead {s : State} {e : Ev} {a : Access} {vl l : Nat} (h : s.Form) : (performRead s e a vl l).Form := by
  unfold Machine.performRead
  grind [← State.Form.sys, ← State.Form.mapSys, ← State.Form.partDone, ← Sys.Form.recallLine, ← Sys.Form.stamp]

protected theorem State.Form.keepLine {s : State} {a : Access} {l : Nat} {x : Xlat} (h : s.Form) : (keepLine s a l x).Form := by
  unfold Machine.keepLine
  grind [← State.Form.sys, ← Sys.Form.fillBank, ← State.Form.mapSys]

protected theorem State.Form.performBank {s : State} {e : Ev} {a : Access} {vl l b : Nat} (h : s.Form) : (performBank s e a vl l b).Form := by
  unfold Machine.performBank
  split
  · exact h.partDone
  · exact State.Form.partDone { h with mem := storePart_wf h.mem a vl, sys := h.sys.fillBank }

protected theorem State.Form.performPref {s : State} {e : Ev} {a : Access} {l : Nat} {x : Xlat} (h : s.Form) : (performPref s e a l x).Form := by
  unfold Machine.performPref
  grind [← State.Form.missLine, ← State.Form.partDone]

protected theorem State.Form.performAcc {s : State} {e : Ev} {a : Access} {spin : State → Ev → Access → Nat → State} (h : s.Form)
    (hspin : ∀ u e a l, u.Form → (spin u e a l).Form) : (performAcc s e a spin).Form := by
  fun_cases Machine.performAcc s e a spin
  case case3 => exact h.performPref
  case case4 => exact h.performBank
  case case5 =>
    refine h.atSlice fun u l hu => ?_
    split
    · exact hu.performRead.keepLine
    · exact hu.performRead
    · exact hu.performLde
    · exact hu.performWrite.keepLine
    · exact hu.performWrite
    · exact hu.performWrite
    · exact hu.performWrite
    · exact hspin _ _ _ _ hu
    · exact hspin _ _ _ _ hu
    · exact hu
  all_goals exact h

/-! ### Scratch accesses (R173, R397) -/

protected theorem State.Form.performScratch {s : State} {a : Access} {vl : Nat} (h : s.Form) : (performScratch s a vl).1.Form := by
  unfold Machine.performScratch
  dsimp only
  split
  · exact h
  · exact State.Form.mapSys (g := fun y => List.foldl _ y _) h (h.sys.foldl fun _ _ h => h.setScr)
  · exact State.Form.mapSys (g := fun y => List.foldl _ y _) h (h.sys.foldl fun _ _ h => h.setScr)

end Sys2Proof.Machine

namespace Sys2Proof.Machine
open Claims

/-! ## Storage objects, loads, links and management keep form -/

/-! ### Words of a descriptor and of its version area (R145, R147) -/

theorem setDescWord_wf {m : Memory} (h : Memory.wf m = true) (l n : Nat) (w : Word) : Memory.wf (setDescWord m l n w) = true := writeWord_wf _ _ h

protected theorem State.Form.putFrames {s : State} {d : Desc} {va : Nat} {bs : List Byte} (h : s.Form) : (putFrames s d va bs).Form := by
  induction bs generalizing s va with
  | nil => exact h
  | cons b bs ih =>
    unfold Machine.putFrames
    refine ih ?_
    split
    · exact h.withMem (writeByte_wf _ _ h.mem)
    · exact h

protected theorem State.Form.performSpin_full {s : State} {e : Ev} {a : Access} (h : s.Form) : (performSpin.full e s a).Form :=
  State.Form.partDone (h.mapSys h.sys.plain)

protected theorem State.Form.putArea {s : State} {d : Desc} {va : Nat} {ws : List Word} (h : s.Form) : (putArea s d va ws).Form := by
  unfold Machine.putArea
  grind [← State.Form.putFrames]

protected theorem State.Form.withLines {s : State} {i : Instr} {e : Ev} {a : Access} {asks : List Ask} {k : State → State} (h : s.Form)
    (hk : ∀ u, u.Form → (k u).Form) :
    (withLines s i e a asks k).Form := by
  unfold Machine.withLines
  grind [← State.Form.memoryError, → State.Form.openLines_ok, → State.Form.openLines_wait, → State.Form.openLines_bad, ← State.Form.refuseAcc,
    ← State.Form.sched]

/-! ### Versions and extents (R148, R149) -/

protected theorem State.Form.putDesc {s : State} {l : Nat} {d : Desc} (h : s.Form) : (putDesc s l d).Form := by
  unfold Machine.putDesc
  extract_lets d' y u
  have hu : u.Form := { h with mem := setDescWord_wf h.mem _ _ _, sys := h.sys.withDescs (h.sys.descs.put _ _) }
  split
  · exact hu.sched
  · exact hu

/-! ### Pins (R150, R151) -/

protected theorem State.Form.repin {s : State} {l slot : Nat} {d : Desc} {g' : Nat → Nat} (h : s.Form) : (repin s l slot d g').Form := by
  unfold Machine.repin
  extract_lets fix n at_ u w3 v
  have hu : u.Form := h.putArea
  exact State.Form.putDesc (hu.withMem (setDescWord_wf hu.mem _ _ _))

protected theorem State.Form.performSpin {s : State} {e : Ev} {a : Access} {l : Nat} (h : s.Form) : (performSpin s e a l).Form := by
  have hd : (s.mapFly (·.delAcc e.id)).Form := h.mapFly h.fly.delAcc
  have hturn : ∀ (u : State) w, u.Form → (u.mapSys fun y => (recallLine y l).stamp l w).Form :=
    fun _ _ hu => hu.mapSys hu.sys.recallLine.stamp
  fun_cases Machine.performSpin s e a l
  case case1 | case2 => exact hd.trapAcc
  case case3 => exact (hturn _ _ h).partDone
  case case4 => exact (hturn _ _ h).performSpin_full
  case case5 =>
    refine h.withLines fun u hu => ?_
    have hv := hturn _ true hu
    exact State.Form.partDone (State.Form.repin (hv.mapSys hv.sys.setPin))

protected theorem State.Form.performSunpin {s : State} {e : Ev} {a : Access} {l : Nat} (h : s.Form) : (performSunpin s e a l).Form := by
  have hturn : ∀ (u : State) w, u.Form → (u.mapSys fun y => (recallLine y l).stamp l w).Form :=
    fun _ _ hu => hu.mapSys hu.sys.recallLine.stamp
  unfold Machine.performSunpin
  extract_lets -lift p
  split
  · refine h.withLines fun u hu => ?_
    have hv := hturn _ true hu
    exact State.Form.partDone (State.Form.repin (hv.mapSys hv.sys.setPin))
  · exact State.Form.partDone (State.Form.deferAcc (hturn _ _ h))

/-! ### Splices (R153) -/

protected theorem State.Form.newVersion {s : State} {l : Nat} {d : Desc} {slot len : Nat} {ps : List PieceAt} {exts : List Ext} (h : s.Form) :
    (newVersion s l d slot len ps exts).Form := by
  unfold Machine.newVersion
  extract_lets n at_ u w0 m
  have hu : u.Form := h.putArea
  exact State.Form.putDesc (hu.withMem (setDescWord_wf (setDescWord_wf hu.mem _ _ _) _ _ _))

/-! ### Descriptors made and freed (R152, R293) -/

protected theorem State.Form.performPin {s : State} {e : Ev} {a : Access} {l : Nat} (h : s.Form) : (performPin s e a l).Form := by
  unfold Machine.performPin
  grind [← State.Form.performSpin, ← State.Form.performSunpin]

/-! ### What a response yields -/

protected theorem Fly.Form.portTok {a : Access} {leave : Nat} {t : Token} {tgt : Target} {f : Fly} (h : f.Form) : (portTok a leave t tgt f).Form := by
  unfold Machine.portTok
  grind [← Fly.Form.event]

protected theorem Fly.Form.sendYields {now : Nat} {a : Access} {ts : List Token} {f : Fly} (h : f.Form) : (sendYields now a ts f).Form := by
  unfold Machine.sendYields
  grind [← Fly.Form.foldl, ← Fly.Form.portTok]

/-! ### Reads of piece entries (R294) -/

protected theorem State.Form.pieceBack {s : State} {id : Nat} {a : Access} {snext : Bool} (h : s.Form) : (pieceBack s id a snext).Form := by
  unfold Machine.pieceBack
  grind [← State.Form.fly, ← Fly.Form.delAcc, ← State.Form.mapFly, ← State.Form.sched, ← Fly.Form.sendYields, ← Fly.Form.setAcc, ← State.Form.trapAcc]

/-! ### The event -/

protected theorem State.Form.retireAcc {s : State} {id : Nat} {a : Access} (h : s.Form) : (retireAcc s id a).Form := by
  unfold Machine.retireAcc
  extract_lets s1 s2 s3 s4 s5
  have h1 : s1.Form := h.mapFly h.fly.setAcc.sendYields
  have h2 : s2.Form := by grind [← State.Form.answerAcc]
  have h3 : s3.Form := by grind [← State.Form.mapFly, ← State.Form.fly, ← Fly.Form.sampleMon]
  have h4 : s4.Form := h3.ackAccess
  have h5 : s5.Form := by grind [← State.Form.mapFly, ← State.Form.fly, ← Fly.Form.delAcc, ← State.Form.popRetired]
  exact h5.advance

/-! ### A load in progress -/

/-- A load in progress is of a state in form. -/
def Loading.Form (l : Loading) : Prop := l.s.Form

section
variable {l : Loading}

theorem Loading.Form.plain (h : l.Form) {k : Kernel} {bad : List Nat} : Loading.Form { l with k := k, bad := bad } := h

theorem Loading.Form.state (h : l.Form) : l.s.Form := h

theorem Loading.Form.put {s : State} {x : Nat} {k : Kernel} {bad : List Nat} (h : s.Form) : Loading.Form { s := s, x := x, k := k, bad := bad } := h

theorem Loading.Form.mapSys (h : l.Form) {g : Sys → Sys} (hg : (g l.s.sys).Form) : Loading.Form { l with s := l.s.mapSys g } :=
  State.Form.mapSys h hg

protected theorem Loading.Form.fail (h : l.Form) {n : Nat} : (l.fail n).Form := h

protected theorem Loading.Form.check (h : l.Form) {ok : Bool} {n : Nat} : (l.check ok n).Form := by
  unfold Loading.check
  split
  · exact h
  · exact h.fail

theorem Loading.Form.foldl {α : Type} {xs : List α} (h : l.Form) {g : Loading → α → Loading} (hg : ∀ l a, l.Form → (g l a).Form) :
    (xs.foldl g l).Form := foldl_keeps hg xs h

protected theorem Loading.Form.each (h : l.Form) {pa ty : Nat} {ss : List Sect} {g : Loading → Nat → Loading} (hg : ∀ l a, l.Form → (g l a).Form) :
    (l.each pa ss ty g).Form := by
  unfold Loading.each
  split
  · exact h
  · exact h.foldl fun _ _ hl => hg _ _ hl

end

protected theorem State.Form.supply {s : State} (h : s.Form) : (supply s).2.Form :=
  h.mapSys (g := fun y => { y with freeIx := y.freeIx + 1 }) h.sys.plain

protected theorem State.Form.zeroPages {s : State} {a n : Nat} (h : s.Form) : (zeroPages s a n).Form := by
  unfold Machine.zeroPages
  extract_lets within y clean
  have hy : y.Form := h.sys.foldl fun _ _ h => h.recallLine
  have hl : rising (y.lines.map clean) := hy.lines.map fun e => by grind
  exact { h with mem := filter_wf _ h.mem, sys := hy.withLines hl }

protected theorem State.Form.writeTable {s : State} {x pa : Nat} {w : Word} (h : s.Form) : (writeTable s x pa w).Form :=
  { h with mem := writeWord_wf _ _ h.mem, sys := h.sys.storeLine }

protected theorem State.Form.placeBytes {s : State} {x colour ident va : Nat} {bs : List Byte} (h : s.Form) :
    (placeBytes s x colour ident va bs).Form :=
  State.Form.mapSys (g := fun y => List.foldl _ y (linesOf y s.mem x colour va bs.length true)) h.putVirt
    (h.putVirt.sys.foldl fun _ _ h => h.storeLine)

/-! ### RANGE (R158, R159, R217) -/

protected theorem State.Form.descend {x : Nat} {s : State} {t i : Nat} (h : s.Form) : (descend x s t i).2.Form := by
  unfold Machine.descend
  split
  · exact h
  · exact h.supply.zeroPages.writeTable

protected theorem State.Form.backPage {x : Nat} {attr : Word} {pbase : Nat} {s : State} {page : Nat} (h : s.Form) :
    (backPage x attr pbase s page).Form :=
  h.descend.descend.descend.supply.zeroPages.writeTable

section
variable {l : Loading}

protected theorem Loading.Form.loadRange (h : l.Form) {at_ : Nat} : (loadRange l at_).Form := by
  unfold Machine.loadRange
  extract_lets w common back table paged first last reserved
  split
  · exact h.fail
  split
  · exact h.fail
  · have hs : (if back then supply l.s else (0, l.s)).2.Form := by
      split
      · exact h.state.supply
      · exact h
    generalize (if back then supply l.s else (0, l.s)) = p at hs ⊢
    obtain ⟨v, s⟩ := p
    dsimp -zeta only
    extract_lets pbase u ent u'
    have hu : u.Form := by
      unfold u
      split
      · exact hs
      split
      · exact hs.zeroPages.foldl fun _ _ h => h.backPage
      · exact hs.zeroPages
    exact Loading.Form.put hu.writeTable.writeTable.writeTable.writeTable

protected theorem Loading.Form.placeCommon (h : l.Form) {pa : Nat} {q : Sect} {ok b : Bool} : (placeCommon l pa q ok b).Form := by
  unfold Machine.placeCommon
  split
  · exact h.state.placeBytes
  · exact h.fail

protected theorem Loading.Form.loadBlocks (h : l.Form) {pa : Nat} {ss : List Sect} : (loadBlocks l pa ss).Form := by
  unfold Machine.loadBlocks
  split
  · exact h
  · exact h.placeCommon.plain

protected theorem Loading.Form.loadConst (h : l.Form) {pa : Nat} {ss : List Sect} : (loadConst l pa ss).Form := by
  unfold Machine.loadConst
  split
  · exact h
  · exact h.placeCommon

protected theorem Loading.Form.modCtx (h : l.Form) {g : Ctx → Ctx} (hg : ∀ v : Ctx, v.Form → (g v).Form) :
    Loading.Form { l with s := l.s.mapSys fun y => y.modCtx l.x g } :=
  h.mapSys (h.state.sys.modCtx hg)

protected theorem Loading.Form.loadTrapv (h : l.Form) {pa : Nat} {ss : List Sect} : (loadTrapv l pa ss).Form := by
  unfold Machine.loadTrapv
  split
  · exact h
  · exact h.placeCommon.modCtx fun _ hv => hv.plain

protected theorem Loading.Form.loadData (h : l.Form) {cols : List Nat} {at_ size n o : Nat} : (loadData cols at_ size n o l).Form := by
  induction n generalizing o l with
  | zero => exact h
  | succ n ih =>
    unfold Machine.loadData
    extract_lets va w1 len bs one
    have hone : ∀ l c, Loading.Form l → (one l c).Form := by
      intro l c hl
      unfold one
      split
      · exact hl.fail
      · exact hl.state.placeBytes
    clear_value one
    split
    · exact h.fail
    · exact ih (h.foldl hone)

protected theorem Loading.Form.loadQuota (h : l.Form) {at_ : Nat} : (loadQuota l at_).Form := by
  fun_cases Machine.loadQuota l at_
  case case3 => exact h.mapSys h.state.sys.writeCent0.writeCent1
  all_goals exact h.fail

protected theorem Loading.Form.loadMatch (h : l.Form) {at_ : Nat} : (loadMatch l at_).Form := by
  unfold Machine.loadMatch
  extract_lets w c e q reserved
  split
  · exact h.fail
  · exact h.mapSys h.state.sys.setMent

protected theorem Loading.Form.loadQueue (h : l.Form) {at_ : Nat} : (loadQueue l at_).Form := by
  fun_cases Machine.loadQueue l at_
  case case3 | case5 => exact h.modCtx fun _ hv => hv.plain
  all_goals exact h.fail

protected theorem Loading.Form.loadInject (h : l.Form) {at_ : Nat} : (loadInject l at_).Form := by
  unfold Machine.loadInject
  extract_lets w0 w1 pos
  split
  · exact h.fail
  · exact h.plain

protected theorem Loading.Form.loadCtx (h : l.Form) {at_ : Nat} : (loadCtx l at_).Form := by
  unfold Machine.loadCtx
  extract_lets w set
  split
  · exact h.fail
  · exact h.mapSys (h.state.sys.wsync.modCtx fun _ hv => hv.plain)

protected theorem Loading.Form.loadSides (h : l.Form) {pa : Nat} {ss : List Sect} : (loadSides l pa ss).Form :=
  Loading.Form.each (h.each fun _ _ hl => hl.plain) fun _ _ hl => hl.check.plain

end

/-! ### The load -/

protected theorem State.Form.fillCaches {s : State} {x : Nat} (h : s.Form) : (fillCaches s x).Form := by
  unfold Machine.fillCaches
  grind [← State.Form.sys, ← Sys.Form.foldl, ← State.Form.foldl, ← State.Form.mapSys, ← Sys.Form.modPortT]

protected theorem Loading.Form.loadSections {l : Loading} (h : l.Form) {pa : Nat} {ss : List Sect} : (loadSections l pa ss).Form := by
  unfold Machine.loadSections
  extract_lets l1 l2 l3 l4 l5 l6 l7 l8 l9
  have h3 : l3.Form := (Loading.Form.each (h.each fun _ _ hl => hl.loadRange) fun _ _ hl => hl.loadInject).loadBlocks.loadConst
  have h4 : l4.Form := by
    unfold l4
    clear_value l3
    split
    · exact h3
    · exact h3.loadData
  have h6 : l6.Form := h4.loadTrapv.each fun _ _ hl => hl.loadCtx
  have h8 : l8.Form := Loading.Form.each (h6.each fun _ _ hl => hl.loadQuota) fun _ _ hl => hl.loadMatch
  exact (h8.each fun _ _ hl => hl.loadQueue).loadSides

section
variable {s u : State} {x : Nat}

protected theorem State.Form.loadKernel_ok {pa : Nat} (h : s.Form) (e : loadKernel s x pa = .ok u) : u.Form := by
  unfold loadKernel at e
  extract_lets m ss ident v dig k l0 l1 l2 l3 l4 l5 l6 s1 s2 f f' at e
  have hl : l6.Form := (Loading.Form.check (l := l0) h).check.check.check.check.loadSections
  have h1 : s1.Form := hl.state.mapSys (hl.state.sys.modCtx fun _ hv => hv.plain)
  have h2 : s2.Form := h1.fillCaches
  have hf : f'.Form := h2.fly.rearmStalls.rearmTickets.armWatchdog.foldl fun _ _ hf => hf.wakeRegions
  split at e
  · cases e
  split at e
  · cases e
  · cases e
    exact { h2 with fly := hf }

protected theorem State.Form.retireKernel_ok {ident : Nat} (h : s.Form) (e : retireKernel s x ident = .ok u) : u.Form := by
  unfold retireKernel at e
  extract_lets v one hold w y s1 s2 at e
  have hy : y.Form := h.sys.setCtx { (h.sys.ctx : v.Form) with }
  have h2 : s2.Form := State.Form.foldl (s := s1) { h with sys := hy } fun _ _ hu => hu.completionSend
  split at e
  · cases e
  split at e
  · cases e
  · cases e
    exact h2.mapSys (g := (settleKernels · x)) h2.sys.settleKernels

end

protected theorem State.Form.onRecord {s : State} {i : Instr} {pa : Nat} {key : KeyTag} {w : Bool} {c k owner : Nat} {drop g' : State → State}
    (h : s.Form) (hdrop : ∀ u, u.Form → (drop u).Form) (hg' : ∀ u, u.Form → (g' u).Form) :
    (onRecord s i pa key w c k owner drop g').Form := by
  unfold Machine.onRecord
  grind [← State.Form.memFault, → State.Form.openLines_ok, → State.Form.openLines_wait, → State.Form.openLines_bad, ← State.Form.sched]

/-! ### `%lnksts` (R192) -/

protected theorem Sys.Form.setLnk {y : Sys} {lo n v : Nat} (h : y.Form) : (Sys.setLnk y lo n v).Form := by
  unfold Sys.setLnk
  grind [← Sys.Form.plain]

protected theorem Sys.Form.countLnk {y : Sys} {lo n k : Nat} (h : y.Form) : (Sys.countLnk y lo n k).Form := by
  unfold Sys.countLnk
  grind [← Sys.Form.setLnk]

protected theorem State.Form.linkMove {s : State} {ok : List Nat} {g' : Sys → Sys} (h : s.Form) (hg' : ∀ z, z.Form → (g' z).Form) :
    Formed (linkMove s ok g') := by
  unfold Machine.linkMove
  grind [← State.Form.sys, ← Formed.next, ← State.Form.mapSys]

protected theorem Sys.Form.goDown {y : Sys} (h : y.Form) : (goDown y).Form := by
  unfold Machine.goDown
  grind [← Sys.Form.countLnk, ← Sys.Form.setLnk]

/-! ### Power states (R363 to R366) -/

protected theorem State.Form.setPower {s : State} {st cause : Nat} (h : s.Form) : (setPower s st cause).Form := by
  unfold Machine.setPower
  grind [← State.Form.sys, ← State.Form.fly, ← Sys.Form.plain, ← Fly.Form.armWatchdog, ← Sys.Form.foldl, ← Fly.Form.foldl, ← State.Form.mapFly,
    ← State.Form.mapSys, ← Sys.Form.wsync]

protected theorem State.Form.runState {s : State} (h : s.Form) : (runState s).Form := by
  unfold Machine.runState
  grind [← State.Form.setPower]

protected theorem Sys.Form.writeBack {y : Sys} (h : y.Form) : (writeBack y).Form := by
  unfold Machine.writeBack
  grind [← Sys.Form.lines, ← Sys.Form.withLines, ← rising.map]

/-! ### The management window (R362, R369, R370) -/

protected theorem State.Form.hostRead {s : State} {x item : Nat} {w : Word} (h : s.Form) : (hostRead s x item w).Form := by
  unfold Machine.hostRead
  grind [← State.Form.sys, ← Sys.Form.plain, ← State.Form.mapSys]

end Sys2Proof.Machine

namespace Sys2Proof.Machine
open Claims

/-! ## Events of the host port -/

/-! ### The instructions -/

protected theorem State.Form.execCall {x : CWord} {s : State} (h : s.Form) : Formed (execCall x s) :=
  .finish h (h.fly.exitLeft fun _ => by
    split
    · exact .trap
    · exact h.fly.sendExit)

protected theorem State.Form.execRet {x : GWord} {s : State} (h : s.Form) : Formed (execRet x s) :=
  .finish h (h.fly.scalarFire (by
    split
    · exact h.fly.sendExit
    · exact .trap))

protected theorem State.Form.execTdone {x : XRWord} {s : State} (h : s.Form) : Formed (execTdone x s) :=
  .finish h (h.fly.predFire (by
    split
    · exact h.fly.sendExit
    · exact .trap))

/-! ### The events -/

protected theorem State.Form.execHostRecordWrite {s : State} (h : s.Form) : Formed (execHostRecordWrite s) := by
  unfold Machine.execHostRecordWrite
  grind [← Formed.next, ← State.Form.arriveRecord, ← State.Form.atHostPort]

protected theorem State.Form.execRecordStart {s : State} (h : s.Form) : Formed (execRecordStart s) := by
  unfold Machine.execRecordStart
  grind [← Formed.next, ← State.Form.enterCreated, ← State.Form.offerHead, ← State.Form.startHead]

protected theorem State.Form.execExitHeadWrite {s : State} (h : s.Form) : Formed (execExitHeadWrite s) := by
  unfold Machine.execExitHeadWrite
  grind [← State.Form.sys, ← Formed.next, ← Ctx.Form.plain, ← State.Form.atHostPort, ← State.Form.mapSys, ← Sys.Form.modCtx]

protected theorem State.Form.execLaunchAppend {s : State} (h : s.Form) : Formed (execLaunchAppend s) := by
  unfold Machine.execLaunchAppend
  grind [← State.Form.fly, ← Formed.next, ← State.Form.arriveRecord, ← Fly.Form.delPost, ← State.Form.mapFly, ← State.Form.whenAwake]

protected theorem State.Form.execSpawnCreate {s : State} (h : s.Form) : Formed (execSpawnCreate s) := by
  refine .next (h.whenAwake fun u hu => ?_)
  split
  · exact State.Form.sched (State.Form.createThread (hu.mapFly hu.fly.delPost))
  · exact hu

end Sys2Proof.Machine

namespace Sys2Proof.Machine
open Claims

/-! ## Events of the device -/

/-! ### The events -/

protected theorem State.Form.execTokenArrival {s : State} (h : s.Form) : Formed (execTokenArrival s) := by
  unfold Machine.execTokenArrival
  grind [← State.Form.fly, ← Formed.next, ← State.Form.arriveTok, ← Fly.Form.checkReady, ← State.Form.freeEntries, ← State.Form.mapFly,
    ← State.Form.placeAll, ← State.Form.retryWaiting, ← State.Form.settlePartials, ← State.Form.toCommitUnit]

protected theorem State.Form.execHoldQueueAdmit {s : State} (h : s.Form) : Formed (execHoldQueueAdmit s) := by
  have hu : ∀ g, (retryWaiting (s.mapSys fun y => y.modRegion s.fly.ev.clu s.fly.ev.reg g) s.fly.ev.clu s.fly.ev.reg).Form :=
    fun _ => State.Form.retryWaiting (h.mapSys h.sys.modRegion)
  unfold Machine.execHoldQueueAdmit
  extract_lets e s0 s1 s2 s3 s4
  have h3 : s3.Form := State.Form.calmSince ((hu _).mapSys (hu _).sys.admitHolds)
  have h4 : s4.Form := .ite h3 h3.placeLater
  exact .next (h4.mapFly h4.fly.parkCheck)

protected theorem State.Form.execParking {s : State} (h : s.Form) : Formed (execParking s) := by
  fun_cases Machine.execParking s
  case case1 => exact .next h.writePark
  case case3 => exact .next (h.parkColour.mapFly h.parkColour.fly.parkCheck)
  case case5 => exact .next (h.mapFly h.fly.parkCheck)
  all_goals exact .next h

protected theorem State.Form.execRetryTimerExpiry {s : State} (h : s.Form) : Formed (execRetryTimerExpiry s) := by
  unfold Machine.execRetryTimerExpiry
  grind [← State.Form.sys, ← Formed.next, ← State.Form.mapSys, ← Sys.Form.modPark, ← State.Form.reinjectColour, ← State.Form.sched,
    ← State.Form.whenAwake]

protected theorem State.Form.execReInjectionResume {s : State} (h : s.Form) : Formed (execReInjectionResume s) := by
  unfold Machine.execReInjectionResume
  grind [← Formed.next, ← State.Form.reinjectColour]

protected theorem State.Form.execControlTokenDelivery {s : State} (h : s.Form) : Formed (execControlTokenDelivery s) := by
  unfold Machine.execControlTokenDelivery
  extract_lets -lift e g
  split
  · exact .next h
  · refine .next (State.Form.actOnCtrl ?_)
    have hu : ∀ v, (s.mapSys fun y => y.setRegion e.clu e.reg v).Form := fun _ => h.mapSys h.sys.setRegion
    split
    · exact State.Form.sched (.ite (hu _) (hu _).sched)
    · exact .ite (hu _) (hu _).sched

protected theorem State.Form.execTransferStart {s : State} (h : s.Form) : Formed (execTransferStart s) := by
  unfold Machine.execTransferStart
  grind [← Formed.next, ← State.Form.beginMove]

protected theorem State.Form.execTransferWithhold {s : State} (h : s.Form) : Formed (execTransferWithhold s) := by
  unfold Machine.execTransferWithhold
  grind [← Formed.next, ← State.Form.beginMove, ← State.Form.haltXfer, ← State.Form.withholdXfer]

protected theorem State.Form.execTransferDone {s : State} (h : s.Form) : Formed (execTransferDone s) := by
  unfold Machine.execTransferDone
  grind [← Formed.next, ← State.Form.engineStep, ← State.Form.finishXfer]

protected theorem State.Form.execWaittWake {s : State} (h : s.Form) : Formed (execWaittWake s) := by
  have hv : ∀ y z a b d e v w p, (((endSleep s s.fly.ev.id v).mapFly (sampleMon y a b 3 d)).mapFly (sampleMon z w p 4 e)).Form :=
    fun _ _ _ _ _ _ _ _ _ => State.Form.mapFly (h.endSleep.mapFly h.endSleep.fly.sampleMon) (Fly.Form.sampleMon h.endSleep.fly.sampleMon)
  fun_cases Machine.execWaittWake s
  case case1 => exact .next h
  case case2 => exact .next (State.Form.sched (h.mapFly (h.fly.withSleeps (h.fly.sleeps.put _ _))))
  case case3 => exact .next ((hv _ _ _ _ _ _ _ _ _).mapFly (hv _ _ _ _ _ _ _ _ _).fly.sendAll)
  case case4 =>
    exact .next (State.Form.raiseTrap (.ite ((hv _ _ _ _ _ _ _ _ _).mapSys (hv _ _ _ _ _ _ _ _ _).sys.setXfer) (hv _ _ _ _ _ _ _ _ _)))

protected theorem State.Form.execTstageFillComplete {s : State} (h : s.Form) : Formed (execTstageFillComplete s) := by
  unfold Machine.execTstageFillComplete
  extract_lets -lift e
  split
  · exact .next h
  · extract_lets -lift f q t va ls filled
    have hfilled : ∀ u v, u.Form → (filled u v).Form := fun u v hu => (State.Form.ite (hu.mapSys hu.sys.setTile) hu).sched.tryArm
    clear_value filled
    split
    · next e => exact .next (hfilled _ _ (h.openLines_ok e))
    · next e => exact .next (h.openLines_wait e).sched
    · exact .next (.ite (hfilled _ _ h).deferTrap (hfilled _ _ h))
    · next e => exact .next (hfilled _ _ (h.openLines_bad e)).memFault

protected theorem State.Form.execBeat0 {s : State} (h : s.Form) : Formed (execBeat0 s) := by
  fun_cases Machine.execBeat0 s
  case case3 p _ _ y y' =>
    have hy : y.Form := h.sys.foldl fun _ _ h => h.modTile
    exact .next (State.Form.doBeat { h with sys := hy.modPass })
  all_goals exact .next h

protected theorem State.Form.execBeat {s : State} (h : s.Form) : Formed (execBeat s) := by
  unfold Machine.execBeat
  grind [← Formed.next, ← State.Form.createTask, ← State.Form.doBeat]

protected theorem State.Form.execStopCompletion {s : State} (h : s.Form) : Formed (execStopCompletion s) := by
  have hu : (s.mapSys fun y => settleTails y (s.fly.ev.clu / 8)).Form := h.mapSys h.sys.settleTails
  fun_cases Machine.execStopCompletion s
  case case1 | case2 => exact .next hu
  case case3 arr u v =>
    have hv : v.Form := State.Form.sched (hu.mapSys hu.sys.modPass)
    exact .next (.ite hv.endPass hv)

protected theorem State.Form.execPassResume {s : State} (h : s.Form) : Formed (execPassResume s) := by
  unfold Machine.execPassResume
  grind [← State.Form.sys, ← Formed.next, ← State.Form.mapSys, ← Sys.Form.modRing, ← State.Form.sched]

protected theorem State.Form.execFlitTransfer {s : State} (h : s.Form) : Formed (execFlitTransfer s) := by
  unfold Machine.execFlitTransfer
  grind [← Formed.next, ← State.Form.arrivePacket, ← State.Form.linkCycle, ← State.Form.slotFreed]

protected theorem State.Form.execFenceRouterPass {s : State} (h : s.Form) : Formed (execFenceRouterPass s) := by
  have hu : ∀ l, (s.mapSys fun y => y.setRouter s.fly.ev.id s.fly.ev.part l).Form := fun _ => h.mapSys h.sys.setRouter
  have hfree : ∀ (u : State) n, u.Form → (u.mapSys fun y => { y with freeIx := n }).Form := fun _ _ hu => hu.mapSys hu.sys.plain
  fun_cases Machine.execFenceRouterPass s
  case case1 => exact .next h
  case case2 =>
    exact .next (State.Form.sched ((hu _).mapSys (Sys.Form.setRouter ((hu _).sys.withSeals ((hu _).sys.seals.set _ _ _)))))
  case case3 => exact .next (hfree _ _ (hu _)).atStop
  case case4 => exact .next (hfree _ _ (hu _)).memFault
  case case5 => exact .next (hfree _ _ (hu _)).memFault

/-! ### Barriers (R124 to R129) -/

protected theorem State.Form.execBarrierArrival {s : State} (h : s.Form) : Formed (execBarrierArrival s) := by
  fun_cases Machine.execBarrierArrival s
  case case1 => exact .next h.settleBarrier
  case case2 => exact .next h.stopArrives
  case case3 => exact .next (State.Form.threadArrives (h.mapFly h.fly.delPost))
  all_goals exact .next h

/-! ### Groups (R114, R117, R118) -/

protected theorem State.Form.execGroupTotalUpdate {s : State} (h : s.Form) : Formed (execGroupTotalUpdate s) := by
  have hu : ∀ p g idx join, (groupUpdate (s.mapFly (·.delPost s.fly.ev.id)) p g idx join).Form :=
    fun _ _ _ _ => State.Form.groupUpdate (h.mapFly h.fly.delPost)
  fun_cases Machine.execGroupTotalUpdate s
  case case2 => exact .next (.ite (hu _ _ _ _).sched (hu _ _ _ _))
  case case3 => exact .next (hu _ _ _ _)
  all_goals exact .next h

/-! ### Messages (R295, R296) -/

protected theorem State.Form.execMessageSend {s : State} (h : s.Form) : Formed (execMessageSend s) := by
  unfold Machine.execMessageSend
  grind [← Formed.next, ← State.Form.sendMessage, ← State.Form.stopMessage]

protected theorem State.Form.execMessageResend {s : State} (h : s.Form) : Formed (execMessageResend s) := by
  unfold Machine.execMessageResend
  grind [← Formed.next, ← State.Form.sendMessage]

protected theorem State.Form.execMessageArrival {s : State} (h : s.Form) : Formed (execMessageArrival s) := by
  fun_cases Machine.execMessageArrival s
  case case1 => exact .next h.dropMessage.messageDone
  case case2 => exact .next h.sched
  case case3 => exact .next (State.Form.messageDone (h.mapSys h.sys.setThr))
  all_goals exact .next h

/-! ### Banks (R168 to R175) -/

protected theorem State.Form.execBankPendingComplete {s : State} (h : s.Form) : Formed (execBankPendingComplete s) := by
  fun_cases Machine.execBankPendingComplete s
  case case1 => exact .next h
  case case2 => exact .next (h.mapSys h.sys.setBank)
  case case3 => exact .next h.sched
  case case4 => exact .next (State.Form.sched (h.mapSys h.sys.flushBank.zeroBank))

protected theorem State.Form.execCompletionToken {s : State} (h : s.Form) : Formed (execCompletionToken s) := by
  unfold Machine.execCompletionToken
  grind [← State.Form.sys, ← Formed.next, ← Sys.Form.cleanBank, ← Sys.Form.foldl, ← State.Form.mapSys]

/-! ### Drains (R349, R350, R352, R353) -/

protected theorem State.Form.execDrainMarkerArrival {s : State} (h : s.Form) : Formed (execDrainMarkerArrival s) := by
  unfold Machine.execDrainMarkerArrival
  grind [← State.Form.sys, ← Formed.next, ← Ctx.Form.plain, ← Sys.Form.cleanBank, ← Sys.Form.foldl, ← State.Form.foldl, ← State.Form.mapSys,
    ← Sys.Form.modCtx, ← State.Form.saveThread]

protected theorem State.Form.execDrainAbort {s : State} (h : s.Form) : Formed (execDrainAbort s) := by
  unfold Machine.execDrainAbort
  grind [← Formed.next, ← State.Form.abortSave, ← State.Form.foldl]

protected theorem State.Form.execDrainHalt {s : State} (h : s.Form) : Formed (execDrainHalt s) := by
  unfold Machine.execDrainHalt
  grind [← State.Form.sys, ← Formed.next, ← Ctx.Form.plain, ← State.Form.foldl, ← State.Form.mapSys, ← Sys.Form.modCtx, ← State.Form.saveThread,
    ← State.Form.sched]

protected theorem State.Form.execDrainCompletion {s : State} (h : s.Form) : Formed (execDrainCompletion s) := by
  have hu : ∀ d : Drain, (s.mapSys fun y => y.roundXfers s.fly.ev.ctx d.has).Form := fun _ => h.mapSys h.sys.roundXfers
  have hdone : ∀ (u : State) k, u.Form → (u.mapSys fun y => y.modCtx s.fly.ev.ctx (·.colourDone k)).Form :=
    fun _ _ hu => hu.mapSys (hu.sys.modCtx fun _ hv => { hv with })
  fun_cases Machine.execDrainCompletion s
  case case3 => exact .next h.sched
  case case4 u _ ks v w =>
    have hv : v.Form := (hu _).foldl fun u k hu => (hdone u k hu).drainTold
    exact .next (State.Form.drainTold (hv.mapSys (hv.sys.wsync.modCtx fun _ hw => { hw with })))
  case case5 => exact .next (hdone _ _ (hu _)).drainTold
  all_goals exact .next h

/-! ### Context commands (R77 to R82) -/

/-- The parts of a ring that ALLOC finds afresh (R77). -/
theorem Sys.Form.dropEntries {y : Sys} (h : y.Form) {n : Nat} {pin : Nat × Pin → Bool} {pacc : Nat × PAcc → Bool} {lane : Nat × Lane → Bool}
    {frame : Nat × BFrame → Bool} {bank : Nat × Bank → Bool} {scr : Nat × Byte → Bool} {sl : Nat × Nat → Bool} :
    ({ y with
        freeIx := n, pins := y.pins.filter pin, paccs := y.paccs.filter pacc, lanes := y.lanes.filter lane, frames := y.frames.filter frame
        banks := y.banks.filter bank, scratch := y.scratch.filter scr, seals := y.seals.filter sl } : Sys).Form :=
  { h with
    pins := h.pins.filter _, paccs := h.paccs.filter _, lanes := h.lanes.filter _, frames := h.frames.filter _, banks := h.banks.filter _
    scratch := h.scratch.filter _, seals := h.seals.filter _ }

protected theorem State.Form.execAlloc {s : State} (h : s.Form) : Formed (execAlloc s) := by
  refine .next (h.onCommand fun x => ?_)
  dsimp only
  split
  · exact h.mapSys h.sys.endCmd
  · refine h.mapSys (Sys.Form.endCmd (Sys.Form.dropEntries (Sys.Form.setCtx h.sys ?_)))
    exact ⟨rising_nil, rising_nil⟩

protected theorem State.Form.execStart {s : State} (h : s.Form) : Formed (execStart s) := by
  refine .next (h.onCommand fun x => ?_)
  have hu : (s.mapSys fun y => endCmd ((y.wsync x).modCtx x fun v => { v with st := .running }) 0).Form :=
    h.mapSys (Sys.Form.endCmd (h.sys.wsync.modCtx fun _ hv => hv.plain))
  exact hu.mapFly hu.fly.armWatchdog

protected theorem State.Form.execDestroy {s : State} (h : s.Form) : Formed (execDestroy s) := by
  refine .next (h.onCommand fun x => State.Form.sched (h.wipeThreads.mapSys (Sys.Form.endCmd (h.wipeThreads.sys.modCtx fun v hv => ?_))))
  exact ⟨rising_nil, hv.keys⟩

protected theorem State.Form.execClear {s : State} (h : s.Form) : Formed (execClear s) := by
  unfold Machine.execClear
  grind [← State.Form.sys, ← Formed.next, ← Ctx.Form.plain, ← Sys.Form.endCmd, ← State.Form.mapSys, ← Sys.Form.modCtx, ← State.Form.onCommand]

protected theorem State.Form.execScrubComplete {s : State} (h : s.Form) : Formed (execScrubComplete s) := by
  have hw : ∀ {α : Type} {t : Tab α} (cs : List Nat) (n : Nat), rising t → rising (wipe cs n t) := fun _ _ ht => ht.filter _
  fun_cases Machine.execScrubComplete s
  case case1 => exact .next h
  case case2 x _ cs gs =>
    have hy := h.sys
    exact .next { h with sys := { hy with
      clus := hw _ _ hy.clus, ctab := hw _ _ hy.ctab, bars := hw _ _ hy.bars, lcount := hw _ _ hy.lcount
      banks := hw _ _ hy.banks, scratch := hw _ _ hy.scratch, paccs := hw _ _ hy.paccs, lanes := hw _ _ hy.lanes
      pins := hw _ _ hy.pins, tiles := hw _ _ hy.tiles, ments := hw _ _ hy.ments, tslots := hw _ _ hy.tslots
      portTs := hw _ _ hy.portTs, rings := hy.rings.filter _, tickets := hy.tickets.filter _
      lines := hy.lines.map fun _ => rfl, descs := hy.descs.filter _
      ctxs := (hy.setCtx Ctx.Form.reset).ctxs, each := (hy.setCtx Ctx.Form.reset).each } }

/-! ### The watchdog (R84, R85) -/

protected theorem State.Form.execWatchdogExpiry {s : State} (h : s.Form) : Formed (execWatchdogExpiry s) := by
  unfold Machine.execWatchdogExpiry
  grind [← State.Form.fly, ← Formed.next, ← Fly.Form.armWatchdog, ← State.Form.contextFault, ← State.Form.mapFly]

protected theorem State.Form.execWdogKick {s : State} (h : s.Form) : Formed (execWdogKick s) := by
  unfold Machine.execWdogKick
  grind [← Formed.next, ← State.Form.kickWdog]

/-! ### Fault time limit (R163, R164, R348) -/

protected theorem State.Form.execCheckpoint {s : State} (h : s.Form) : Formed (execCheckpoint s) := by
  unfold Machine.execCheckpoint
  grind [← State.Form.sys, ← Formed.next, ← State.Form.abortSave, ← State.Form.foldl, ← State.Form.mapSys, ← Sys.Form.modThr, ← State.Form.sched]

protected theorem State.Form.execPfdoneWrite {s : State} (h : s.Form) : Formed (execPfdoneWrite s) := by
  unfold Machine.execPfdoneWrite
  grind [← Formed.next, ← State.Form.serveTicket, ← State.Form.whenAwake]

/-! ### Debug halt (R218) -/

protected theorem State.Form.execDebugHaltRequest {s : State} (h : s.Form) : Formed (execDebugHaltRequest s) := by
  unfold Machine.execDebugHaltRequest
  grind [← State.Form.sys, ← Formed.next, ← State.Form.mapSys, ← State.Form.onManagement, ← Sys.Form.setThr]

/-! ### Shoot-downs (R165) -/

protected theorem State.Form.execShootDown {s : State} (h : s.Form) : Formed (execShootDown s) := by
  unfold Machine.execShootDown
  grind [← Formed.next, ← State.Form.onManagement, ← State.Form.shootDown]

protected theorem State.Form.execShootDownComplete {s : State} (h : s.Form) : Formed (execShootDownComplete s) := by
  unfold Machine.execShootDownComplete
  grind [← State.Form.sys, ← Formed.next, ← Sys.Form.shoots, ← Sys.Form.withShoots, ← rising.del, ← State.Form.mapSys, ← State.Form.sched]

/-! ### Writes to system registers (R325, R326) -/

protected theorem State.Form.execCtentWrite {s : State} (h : s.Form) : Formed (execCtentWrite s) := by
  unfold Machine.execCtentWrite
  grind [← Formed.next, ← State.Form.writeCtent]

protected theorem State.Form.execRegisterWrite {s : State} (h : s.Form) : Formed (execRegisterWrite s) := by
  unfold Machine.execRegisterWrite
  grind [← Formed.next, ← State.Form.writeReg]

/-! ### Effects (c+2) -/

protected theorem State.Form.execCommit {s : State} (h : s.Form) : Formed (execCommit s) := by
  fun_cases Machine.execCommit s
  case case1 => exact .next (.ite h.decide_ h)
  case case3 => exact .next (.ite h (.ite h.leaveInst h.takeEffect))
  case case5 => exact .next h.enterNextBlock
  case case6 => exact .next h.sendFirst
  case case7 => exact .next h.flushExits
  case case8 => exact .next h.bariEffect
  all_goals exact .next h

/-! ### STALL and the handler -/

protected theorem State.Form.execStallExpiry {s : State} (h : s.Form) : Formed (execStallExpiry s) := by
  unfold Machine.execStallExpiry
  grind [← Formed.next, ← State.Form.raiseTrap, ← State.Form.sched]

protected theorem State.Form.execHandlerEntry {s : State} (h : s.Form) : Formed (execHandlerEntry s) := by
  unfold Machine.execHandlerEntry
  grind [← Formed.next, ← State.Form.contextFault, ← State.Form.deliverTrap, ← State.Form.enterHandler, → State.Form.readVector_done,
    → State.Form.readVector_later, → State.Form.readVector_bad, ← State.Form.saveThread, ← State.Form.sched, ← State.Form.trapRegs]

/-! ### The reload decision (R102) -/

protected theorem State.Form.execReloadDecision {s : State} (h : s.Form) : Formed (execReloadDecision s) := by
  unfold Machine.execReloadDecision
  extract_lets -lift c
  split
  · exact .next h
  · rename_i s1 v want later here _
    have h1 : s1.Form := h.foldl fun _ _ h => h.wakeBlock
    have hlater : ∀ u, u.Form → (later u).Form := fun u hu => .ite hu hu.sched
    clear_value s1 later
    split
    · exact .next h1
    · exact .next (hlater _ h1)
    · split
      · exact .next (hlater _ h1)
      · have hv : ∀ n w, (startFrame s1 c n w).Form := fun _ _ => h1.startFrame
        exact .next (.ite (hlater _ ((hv _ _).mapSys (hv _ _).sys.modClu)) ((hv _ _).mapSys (hv _ _).sys.modClu))

/-! ### A block becomes resident (R90, R91) -/

protected theorem State.Form.execFrameLoadComplete {s : State} (h : s.Form) : Formed (execFrameLoadComplete s) := by
  fun_cases Machine.execFrameLoadComplete s
  case case1 => exact .next h
  case case2 => exact .next h.sched
  case case3 hf => exact .next (h.fetchBlock_error hf).fetchFails
  case case4 hf _ _ _ => exact .next (h.fetchBlock_ok hf).failBlock
  case case5 hf _ _ _ _ _ _ _ =>
    have hu := h.fetchBlock_ok hf
    exact .next (State.Form.sched (State.Form.wakeBlock (State.Form.rehome (hu.mapSys hu.sys.setFrame.settleKernels))))

/-! ### The events -/

protected theorem State.Form.execTranslate {s : State} (h : s.Form) : Formed (execTranslate s) := by
  unfold Machine.execTranslate
  grind [← State.Form.fly, ← Formed.next, ← State.Form.advance, ← State.Form.atSlices, ← State.Form.goOn, ← State.Form.mapFly,
    ← State.Form.portAnswer, ← State.Form.scratchReady, ← Fly.Form.setAcc, ← State.Form.takeCommand, ← State.Form.takeSplice,
    ← State.Form.translateAcc, ← State.Form.xlatFails]

protected theorem State.Form.execTableReadFill {s : State} (h : s.Form) : Formed (execTableReadFill s) := by
  have hport : ∀ (a : Access) g, (s.mapSys fun y => y.modPortT a.clu a.reg g).Form := fun _ _ => h.mapSys h.sys.modPortT
  fun_cases Machine.execTableReadFill s
  case case3 => exact .next h.readTable
  case case4 => exact .next h.sched
  case case5 => exact .next (hport _ _).goOn
  case case6 => exact .next h.portAsk
  case case7 => exact .next h.xlatFails
  case case8 => exact .next (hport _ _).goOn
  case case9 => exact .next h.goOn
  all_goals exact .next h

protected theorem State.Form.execLdeRetry {s : State} (h : s.Form) : Formed (execLdeRetry s) := by
  fun_cases Machine.execLdeRetry s
  case case1 => exact .next h
  case case2 => exact .next (State.Form.advance (State.Form.popRetired (h.mapFly h.fly.delAcc)))
  case case3 => exact .next h.sched

protected theorem State.Form.execLdeWithdrawal {s : State} (h : s.Form) : Formed (execLdeWithdrawal s) := by
  fun_cases Machine.execLdeWithdrawal s
  case case3 pa slice u =>
    have hu : u.Form := h.mapSys (Sys.Form.setSpill h.sys.modLine)
    exact .next (State.Form.advance (State.Form.popRetired (hu.mapFly hu.fly.delAcc)))
  all_goals exact .next h

protected theorem State.Form.execLineFetch {s : State} (h : s.Form) : Formed (execLineFetch s) := by
  unfold Machine.execLineFetch
  extract_lets -lift e
  split
  · exact .next h
  split
  · exact .next h
  split
  · exact .next h
  · extract_lets -lift l v k r back
    have hback : ∀ u, u.Form → (back u).Form := fun u hu => by
      unfold back
      split
      · exact hu.partDone
      all_goals exact hu.sched
    clear_value back
    split
    · exact .next (hback _ h)
    split
    · next hy => exact .next (hback _ { h with sys := Sys.Form.plain (h.sys.fetched hy) })
    · exact .next (State.Form.memoryError (h.mapSys h.sys.plain))

/-! ### Scratch accesses (R173, R397) -/

protected theorem State.Form.execScratchPerform {s : State} (h : s.Form) : Formed (execScratchPerform s) := by
  have hu : ∀ (a : Access) vl b g, (performScratch (s.mapSys fun y => y.modBank a.clu b g) a vl).1.Form :=
    fun _ _ _ _ => State.Form.performScratch (h.mapSys h.sys.modBank)
  fun_cases Machine.execScratchPerform s
  case case3 => exact .next h.sched
  case case4 a _ vl _ b now _ t a' hp n last u =>
    have ht : t.Form := (congrArg (fun p => p.1.Form) hp).mp (hu a vl b _)
    have hw : u.Form := ht.mapFly ht.fly.setAcc
    exact .next (.ite hw.sched hw)
  all_goals exact .next h

/-! ### Splices (R153) -/

protected theorem State.Form.execSplicePerform {s : State} (h : s.Form) : Formed (execSplicePerform s) := by
  unfold Machine.execSplicePerform
  extract_lets -lift e
  split
  · exact .next h
  · refine .next (h.atSlice fun u l hu => ?_)
    split
    · exact hu.refuseAcc
    split
    · exact hu.refuseAcc
    · refine hu.withLines fun v hv => State.Form.partDone ?_
      have hw : (v.mapSys fun y => (recallLine y l).stamp l true).Form := hv.mapSys hv.sys.recallLine.stamp
      split
      · exact hw.fillWord
      · exact State.Form.fillWord (hw.newVersion.withMem (writeWord_wf _ _ hw.newVersion.mem))

/-! ### Descriptors made and freed (R152, R293) -/

protected theorem State.Form.execSnewPerform {s : State} (h : s.Form) : Formed (execSnewPerform s) := by
  unfold Machine.execSnewPerform
  extract_lets -lift e
  split
  · exact .next h
  · refine .next (h.atSlice fun u l hu => ?_)
    split
    · exact hu.refuseAcc
    · refine hu.withLines fun v hv => State.Form.partDone (State.Form.putDesc ?_)
      have hw : (v.mapSys fun y => (recallLine y l).stamp l true).Form := hv.mapSys hv.sys.recallLine.stamp
      exact hw.putArea.withMem (foldl_keeps (P := fun m => Memory.wf m = true) (fun _ _ hm => setDescWord_wf hm _ _ _) _ hw.putArea.mem)

protected theorem State.Form.execSfreePerform {s : State} (h : s.Form) : Formed (execSfreePerform s) := by
  unfold Machine.execSfreePerform
  extract_lets -lift e
  split
  · exact .next h
  · refine .next (h.atSlice fun u l hu => ?_)
    split
    · exact hu.refuseAcc
    split
    · exact hu.refuseAcc
    split
    · exact hu.refuseAcc
    · exact State.Form.partDone (hu.mapSys (hu.sys.recallLine.stamp.withDescs (hu.sys.descs.del _)))

protected theorem State.Form.execFreeListWrite {s : State} (h : s.Form) : Formed (execFreeListWrite s) := by
  have hu : (s.mapSys fun y => recallLine y s.fly.ev.id).Form := h.mapSys h.sys.recallLine
  unfold Machine.execFreeListWrite
  extract_lets -lift e l u
  change u.Form at hu
  clear_value u
  split
  · exact .next hu
  split
  · exact .next hu
  split
  · exact .next hu
  extract_lets -lift va own
  split
  · next e => exact .next (State.Form.sched (hu.openLines_wait e))
  · exact .next hu.sched
  · next e => exact .next (hu.openLines_bad e).memFault
  · next e =>
    have hv := hu.openLines_ok e
    exact .next (State.Form.putDesc (hv.putArea.withMem (setDescWord_wf hv.putArea.mem _ _ _)))

protected theorem State.Form.execAccessPerform {s : State} (h : s.Form) : Formed (execAccessPerform s) := by
  unfold Machine.execAccessPerform
  grind [← Formed.next, ← State.Form.performAcc, ← State.Form.performPin]

/-! ### The event -/

protected theorem State.Form.execAccessRetire {s : State} (h : s.Form) : Formed (execAccessRetire s) := by
  fun_cases Machine.execAccessRetire s
  case case2 => exact .next (.ite h h.answerAcc)
  case case4 => exact .next (State.Form.advance (State.Form.popRetired (State.Form.ackAccess (h.mapFly h.fly.delAcc))))
  case case5 => exact .next h.pieceBack
  case case6 => exact .next h.retireAcc
  all_goals exact .next h

/-! ### The load -/

protected theorem State.Form.execKernelLoading {s : State} (h : s.Form) : Formed (execKernelLoading s) := by
  have hdrop : ∀ u : State, u.Form → (u.mapSys fun y => { y with loads := tabDel y.loads s.fly.ev.id }).Form :=
    fun u hu => hu.mapSys (hu.sys.withLoads (hu.sys.loads.del _))
  unfold Machine.execKernelLoading
  extract_lets -lift e
  split
  · exact .next h
  split
  · refine .next (h.onRecord hdrop fun u hu => ?_)
    exact .ite (hdrop _ hu).recordBad (State.Form.sched (hu.mapSys (hu.sys.withLoads (hu.sys.loads.put _ _))))
  · refine .next (h.onRecord hdrop fun u hu => ?_)
    dsimp only
    split
    · next hk =>
      split at hk
      · exact ((hdrop u hu).retireKernel_ok hk).fillWord
      · exact ((hdrop u hu).loadKernel_ok hk).fillWord
    · exact (hdrop u hu).fillWord

protected theorem State.Form.execRelatEmerge {s : State} (h : s.Form) : Formed (execRelatEmerge s) := by
  have hdrop : ∀ u : State, u.Form → (u.mapSys fun y => { y with relats := tabDel y.relats s.fly.ev.id }).Form :=
    fun u hu => hu.mapSys (hu.sys.withRelats (hu.sys.relats.del _))
  unfold Machine.execRelatEmerge
  extract_lets -lift e
  split
  · exact .next h
  split
  · exact .next (h.onRecord hdrop fun u hu => .ite (hdrop _ hu).recordBad hu.passRelat)
  split
  · exact .next h.sched
  · exact .next (h.onRecord hdrop fun u hu => (hdrop _ hu).fillWord)

/-! ### Keys (R354, R355, R361, R371) -/

protected theorem State.Form.execKeyRecord {s : State} (h : s.Form) : Formed (execKeyRecord s) := by
  unfold Machine.execKeyRecord
  grind [← State.Form.sys, ← Formed.next, ← Sys.Form.plain, ← Sys.Form.ctx, ← Ctx.Form.keys, ← Ctx.Form.withKeys, ← rising.put, ← State.Form.mapSys,
    ← State.Form.onManagement, ← State.Form.refuseBusy, ← Sys.Form.setCtx]

protected theorem State.Form.execKernelKeyRegister {s : State} (h : s.Form) : Formed (execKernelKeyRegister s) := by
  unfold Machine.execKernelKeyRegister
  grind [← State.Form.sys, ← Formed.next, ← Ctx.Form.plain, ← Sys.Form.ctx, ← State.Form.mapSys, ← State.Form.onManagement, ← Sys.Form.setCtx]

/-! ### `%lnksts` (R192) -/

protected theorem State.Form.execReceiverDetect {s : State} (h : s.Form) : Formed (execReceiverDetect s) := by
  unfold Machine.execReceiverDetect
  grind [← State.Form.linkMove, ← Sys.Form.setLnk]

protected theorem State.Form.execTrainingComplete {s : State} (h : s.Form) : Formed (execTrainingComplete s) := by
  unfold Machine.execTrainingComplete
  grind [← Formed.next, ← State.Form.linkMove, ← Sys.Form.setLnk]

protected theorem State.Form.execTrainingFailure {s : State} (h : s.Form) : Formed (execTrainingFailure s) := by
  unfold Machine.execTrainingFailure
  grind [← Sys.Form.goDown, ← State.Form.linkMove]

protected theorem State.Form.execLinkError {s : State} (h : s.Form) : Formed (execLinkError s) := by
  unfold Machine.execLinkError
  grind [← Sys.Form.countLnk, ← State.Form.linkMove, ← Sys.Form.setLnk]

protected theorem State.Form.execRecoveryComplete {s : State} (h : s.Form) : Formed (execRecoveryComplete s) := by
  unfold Machine.execRecoveryComplete
  grind [← Sys.Form.goDown, ← State.Form.linkMove, ← Sys.Form.setLnk]

protected theorem State.Form.execL1Entry {s : State} (h : s.Form) : Formed (execL1Entry s) := by
  unfold Machine.execL1Entry
  grind [← Formed.next, ← State.Form.linkMove, ← Sys.Form.setLnk]

protected theorem State.Form.execL1Exit {s : State} (h : s.Form) : Formed (execL1Exit s) := by
  unfold Machine.execL1Exit
  grind [← State.Form.linkMove, ← Sys.Form.setLnk]

protected theorem State.Form.execLinkLoss {s : State} (h : s.Form) : Formed (execLinkLoss s) := by
  unfold Machine.execLinkLoss
  grind [← Sys.Form.goDown, ← State.Form.linkMove]

protected theorem State.Form.execLinkReset {s : State} (h : s.Form) : Formed (execLinkReset s) := by
  unfold Machine.execLinkReset
  grind [← State.Form.linkMove, ← Sys.Form.setLnk]

protected theorem State.Form.execCorrectableLinkError {s : State} (h : s.Form) : Formed (execCorrectableLinkError s) := by
  unfold Machine.execCorrectableLinkError
  grind [← Sys.Form.countLnk, ← State.Form.linkMove]

/-! ### Power states (R363 to R366) -/

protected theorem State.Form.execPowerStateChoice {s : State} (h : s.Form) : Formed (execPowerStateChoice s) := by
  unfold Machine.execPowerStateChoice
  extract_lets -lift e u tol
  have hu : u.Form := h.mapSys h.sys.plain
  clear_value u
  split
  · exact .next hu.runState
  split
  · exact .next hu.runState
  · have hv : ∀ st : Nat, (if st = 4 then u.mapSys writeBack else u).Form := fun _ => .ite (hu.mapSys hu.sys.writeBack) hu
    exact .next (.ite (hv _).setPower.sched (hv _).setPower)

protected theorem State.Form.execWake {s : State} (h : s.Form) : Formed (execWake s) := by
  unfold Machine.execWake
  grind [← Formed.next, ← State.Form.runState]

/-! ### Monitor samples (R367, R368) -/

protected theorem State.Form.execMonitorSample {s : State} (h : s.Form) : Formed (execMonitorSample s) := by
  unfold Machine.execMonitorSample
  grind [← State.Form.sys, ← Formed.next, ← Sys.Form.mons, ← Sys.Form.withMons, ← rising.map, ← State.Form.mapSys, ← State.Form.sched,
    ← Sys.Form.setMon]

/-! ### The management window (R362, R369, R370) -/

protected theorem State.Form.execMsessWrite {s : State} (h : s.Form) : Formed (execMsessWrite s) := by
  unfold Machine.execMsessWrite
  grind [← State.Form.sys, ← Formed.next, ← Sys.Form.plain, ← State.Form.mapSys, ← State.Form.whenAwake]

protected theorem State.Form.execAttestationReport {s : State} (h : s.Form) : Formed (execAttestationReport s) := by
  unfold Machine.execAttestationReport
  grind [← State.Form.sys, ← Formed.next, ← Sys.Form.plain, ← State.Form.mapSys, ← State.Form.onManagement]

protected theorem State.Form.execHostMgmtRead {s : State} (h : s.Form) : Formed (execHostMgmtRead s) := by
  unfold Machine.execHostMgmtRead
  grind [← State.Form.sys, ← Formed.next, ← Sys.Form.plain, ← Ctx.Form.plain, ← Sys.Form.ctx, ← State.Form.atHostPort, ← State.Form.hostRead,
    ← State.Form.mapSys, ← State.Form.onManagement, ← Sys.Form.setCtx, ← State.Form.whenAwake]

/-! ### Reset (R77, R360) -/

protected theorem State.Form.execReset {s : State} (h : s.Form) : Formed (execReset s) := by
  have hl : rising (s.sys.lines.filterMap fun e => (resetLine e.2).map fun v => (e.1, v)) := h.sys.lines.filterMap fun e b hb => by
    obtain ⟨v, -, rfl⟩ := Option.map_eq_some_iff.1 hb
    rfl
  exact .next
    { mem := h.mem, greg := rising_nil, regs := by simp
      sys := { Sys.Form.atReset with lines := hl }
      fly := { Fly.Form.atReset with } }

end Sys2Proof.Machine

namespace Sys2Proof.Machine
open Claims

/-! ## The step keeps form -/

/-- Every row of the opcode table answers states in form: a word by what it puts in flight, a device event by its own lemma. -/
protected theorem State.Form.exec {s : State} (h : s.Form) (i : Instr) : Formed (exec i s) := by
  cases i with
  | mov _ => exact .finish h h.fly.mapUnary
  | fan _ => exact .finish h h.fly.mapUnary
  | getg _ => exact .finish h (h.fly.scalarFire h.fly.yieldScalar)
  | putg _ => exact .finish h h.fly.putReg
  | ldi _ => exact .finish h (h.fly.scalarFire h.fly.yieldScalar)
  | ldih _ => exact .finish h h.fly.mapUnaryOf
  | null _ => exact .finish h h.fly.nullAnswer
  | sel _ => exact .finish h h.fly.mapBinary
  | steer _ => exact .finish h h.fly.steer
  | merge _ => exact .finish h h.fly.mapUnary
  | exit _ => exact .finish h (h.fly.scalarFire h.fly.sendExit)
  | exiti _ => exact .finish h (h.fly.exitLeft fun _ => h.fly.sendExit)
  | call _ => exact h.execCall
  | ret _ => exact h.execRet
  | halt _ => exact .finish h (h.fly.scalarFire h.fly.sendExit)
  | rdid _ => exact .finish h h.fly.rdid
  | add _ => exact .finish h h.fly.intS
  | sub _ => exact .finish h h.fly.intS
  | addi _ => exact .finish h h.fly.intI
  | mul _ => exact .finish h h.fly.intS
  | mulh _ => exact .finish h h.fly.intS
  | mulhn _ => exact .finish h h.fly.intU
  | div _ => exact .finish h h.fly.intS
  | divn _ => exact .finish h h.fly.intU
  | rem _ => exact .finish h h.fly.intS
  | remn _ => exact .finish h h.fly.intU
  | adds _ => exact .finish h h.fly.intS
  | subs _ => exact .finish h h.fly.intS
  | min _ => exact .finish h h.fly.intS
  | max _ => exact .finish h h.fly.intS
  | minn _ => exact .finish h h.fly.intU
  | maxn _ => exact .finish h h.fly.intU
  | and _ => exact .finish h h.fly.bitB
  | or _ => exact .finish h h.fly.bitB
  | xor _ => exact .finish h h.fly.bitB
  | andn _ => exact .finish h h.fly.bitB
  | andi _ => exact .finish h h.fly.bitI
  | ori _ => exact .finish h h.fly.bitI
  | xori _ => exact .finish h h.fly.bitI
  | shl _ => exact .finish h h.fly.bitB
  | shr _ => exact .finish h h.fly.bitB
  | sha _ => exact .finish h h.fly.bitB
  | rol _ => exact .finish h h.fly.bitB
  | shli _ => exact .finish h h.fly.bitU
  | shri _ => exact .finish h h.fly.bitU
  | shai _ => exact .finish h h.fly.bitU
  | clz _ => exact .finish h h.fly.bitU
  | popc _ => exact .finish h h.fly.bitU
  | teq _ => exact .finish h h.fly.compareS
  | tne _ => exact .finish h h.fly.compareS
  | tlt _ => exact .finish h h.fly.compareS
  | tle _ => exact .finish h h.fly.compareS
  | tltn _ => exact .finish h h.fly.compareU
  | tlen _ => exact .finish h h.fly.compareU
  | teqi _ => exact .finish h h.fly.compareI
  | tlti _ => exact .finish h h.fly.compareI
  | tlei _ => exact .finish h h.fly.compareI
  | pand _ => exact .finish h h.fly.mapBinary
  | por _ => exact .finish h h.fly.mapBinary
  | pxor _ => exact .finish h h.fly.mapBinary
  | pnot _ => exact .finish h h.fly.mapUnary
  | abs _ => exact .finish h h.fly.bitU
  | neg _ => exact .finish h h.fly.bitU
  | fadd _ => exact .finish h h.fly.fpB
  | fsub _ => exact .finish h h.fly.fpB
  | fmul _ => exact .finish h h.fly.fpB
  | ffma _ => exact .finish h h.fly.fpFused
  | ffms _ => exact .finish h h.fly.fpFused
  | fdiv _ => exact .finish h h.fly.fpB
  | fsqrt _ => exact .finish h h.fly.fpU
  | frsq _ => exact .finish h h.fly.fpU
  | fmin _ => exact .finish h h.fly.fpBits2
  | fmax _ => exact .finish h h.fly.fpBits2
  | fabs _ => exact .finish h h.fly.fpBits1
  | fneg _ => exact .finish h h.fly.fpBits1
  | fcps _ => exact .finish h h.fly.fpBits2
  | feq _ => exact .finish h h.fly.fpCmp
  | flt _ => exact .finish h h.fly.fpCmp
  | fle _ => exact .finish h h.fly.fpCmp
  | funo _ => exact .finish h h.fly.fpCmp
  | fcls _ => exact .finish h h.fly.mapUnary
  | ex2 _ => exact .finish h h.fly.fpU
  | lg2 _ => exact .finish h h.fly.fpU
  | frnd _ => exact .finish h h.fly.fpU
  | fscl _ => exact .finish h h.fly.fpScale
  | cvtif _ => exact .finish h h.fly.cvtIF
  | cvtfi _ => exact .finish h h.fly.cvtFI
  | cvtff _ => exact .finish h h.fly.cvtFF
  | tdec _ => exact .finish h h.fly.fpU
  | tenc _ => exact .finish h h.fly.tencFire
  | bfq _ => exact .finish h h.fly.bfqFire
  | bfs _ => exact .finish h h.fly.reduce
  | vgen _ => exact .finish h h.fly.vgenFire
  | vspl _ => exact .finish h h.fly.vsplFire
  | vlan _ => exact .finish h h.fly.vlanFire
  | vins _ => exact .finish h h.fly.vinsFire
  | vsld _ => exact .finish h h.fly.vsldFire
  | vcat _ => exact .finish h h.fly.vcatFire
  | vperm _ => exact .finish h h.fly.runB
  | vcmpr _ => exact .finish h h.fly.vcmprFire
  | vsel _ => exact .finish h h.fly.mapBinary
  | vsum _ => exact .finish h h.fly.reduce
  | vmax _ => exact .finish h h.fly.reduce
  | vmin _ => exact .finish h h.fly.reduce
  | vdot _ => exact .finish h h.fly.vdotFire
  | vscan _ => exact .finish h h.fly.vscanFire
  | sel24 _ => exact .finish h h.fly.sel24Fire
  | rstat _ => exact .finish h h.fly.rstatFire
  | rscl _ => exact .finish h h.fly.rsclFire
  | brev _ => exact .finish h h.fly.bitU
  | bfx _ => exact .finish h h.fly.bitU
  | bfi _ => exact .finish h h.fly.bitB
  | zcvt _ => exact .finish h h.fly.zcvtFire
  | guard _ => exact .finish h h.fly.guardFire
  | packs _ => exact .finish h h.fly.packsFire
  | packl _ => exact .finish h h.fly.packlFire
  | wmul _ => exact .finish h h.fly.wmulFire
  | wconv _ => exact .finish h h.fly.wmulFire
  | wmulf _ => exact .finish h h.fly.wmulfFire
  | wmulz _ => exact .finish h h.fly.wmulfFire
  | xtr _ => exact .finish h h.fly.xtrFire
  | xtrf _ => exact .finish h h.fly.xtrfFire
  | pclr _ => exact .finish h h.fly.pclrFire
  | pclrFree _ => exact .finish h h.fly.pclrFire
  | pstat _ => exact .finish h h.fly.pstatFire
  | zalloc _ => exact .finish h h.fly.zallocFire
  | zfree _ => exact .finish h (h.fly.onLanes fun _ => h.fly.addEff)
  | zclr _ => exact .finish h (h.fly.onLanes fun _ => h.fly.laneEffs)
  | zrd _ => exact .finish h h.fly.zrdFire
  | zwr _ => exact .finish h h.fly.zwrFire
  | tstage _ => exact .finish h h.fly.tstageFire
  | tmatch _ => exact .finish h h.fly.tmatchFire
  | tmclr _ => exact .finish h h.fly.tmclrFire
  | tgo _ => exact .finish h h.fly.tgoFire
  | tld _ => exact .finish h h.fly.tldFire
  | tdone _ => exact h.execTdone
  | trstat _ => exact .finish h (h.fly.predFire h.fly.yieldOne)
  | trecall _ => exact .finish h h.fly.trecallFire
  | tpass _ => exact .finish h h.fly.tpassFire
  | snew _ => exact .finish h h.fly.snewFire
  | splice _ => exact .finish h h.fly.spliceFire
  | spin _ => exact .finish h h.fly.spinFire
  | sunpin _ => exact .finish h h.fly.sunpinFire
  | sidx _ => exact .finish h h.fly.sidxFire
  | slen _ => exact .finish h (h.fly.onHandle fun _ _ _ => h.fly.yieldPin)
  | snext _ => exact .finish h h.fly.snextFire
  | sfree _ => exact .finish h h.fly.sfreeFire
  | msend _ => exact .finish h h.fly.msendFire
  | mrecv _ => exact .finish h h.fly.mrecvFire
  | mpoll _ => exact .finish h h.fly.mpollFire
  | ld _ => exact .finish h h.fly.loadFire
  | st _ => exact .finish h h.fly.storeFire
  | ldv _ => exact .finish h h.fly.loadFire
  | stv _ => exact .finish h h.fly.storeFire
  | ldg _ => exact .finish h h.fly.gatherFire
  | stsc _ => exact .finish h h.fly.gatherFire
  | pref _ => exact .finish h h.fly.prefFire
  | lea _ => exact .finish h h.fly.leaFire
  | lde _ => exact .finish h h.fly.wordFire
  | stf _ => exact .finish h h.fly.wordFire
  | clrf _ => exact .finish h h.fly.wordFire
  | aadd _ => exact .finish h h.fly.atomFire
  | amin _ => exact .finish h h.fly.atomFire
  | amax _ => exact .finish h h.fly.atomFire
  | aminn _ => exact .finish h h.fly.atomFire
  | amaxn _ => exact .finish h h.fly.atomFire
  | aand _ => exact .finish h h.fly.atomFire
  | aor _ => exact .finish h h.fly.atomFire
  | axor _ => exact .finish h h.fly.atomFire
  | aswp _ => exact .finish h h.fly.atomFire
  | acas _ => exact .finish h h.fly.atomFire
  | afadd _ => exact .finish h h.fly.atomFire
  | fence _ => exact .finish h h.fly.fenceFire
  | fencea _ => exact .finish h h.fly.fenceFire
  | copy _ => exact .finish h h.fly.copyFire
  | copyt _ => exact .finish h h.fly.copyFire
  | waitt _ => exact .finish h h.fly.waittFire
  | cpst _ => exact .finish h h.fly.cpstFire
  | bankm _ => exact .finish h h.fly.bankmFire
  | fpush _ => exact .finish h h.fly.fpushFire
  | fpop _ => exact .finish h h.fly.fpopFire
  | bariCnt _ => exact .finish h (h.fly.leftOr fun _ => h.fly.bariFire)
  | bariGrp _ => exact .finish h (h.fly.leftOr fun _ => h.fly.bariFire)
  | bariFree _ => exact .finish h (h.fly.onTrigger h.fly.bariFire)
  | bara _ => exact .finish h h.fly.baraFire
  | barw _ => exact .finish h h.fly.barwFire
  | baraw _ => exact .finish h (h.fly.onTrigger (h.fly.arriveFire fun _ _ _ hf => hf))
  | join _ => exact .finish h h.fly.joinFire
  | leave _ => exact .finish h h.fly.leaveFire
  | grpq _ => exact .finish h h.fly.grpqFire
  | comb _ => exact .finish h h.fly.combFire
  | mfs _ => exact .finish h (h.fly.onTrigger (.onReg h.fly.yieldOne))
  | mts _ => exact .finish h (h.fly.onScalars fun _ _ => .onReg h.fly.addEff)
  | trap _ => exact .finish h h.fly.trapFire
  | tret _ => exact .finish h h.fly.tretFire
  | launch _ => exact .finish h h.fly.launchFire
  | qsusp _ => exact .finish h h.fly.queueFire
  | qresQ _ => exact .finish h h.fly.queueFire
  | qresCol _ => exact .finish h h.fly.colourFire
  | qresCtx _ => exact .finish h h.fly.ctxFire
  | drainCol _ => exact .finish h h.fly.colourFire
  | drainCtx _ => exact .finish h h.fly.ctxFire
  | cfgld _ => exact .finish h h.fly.recordFire
  | cfgldRt _ => exact .finish h h.fly.recordFire
  | relat _ => exact .finish h h.fly.recordFire
  | monArm _ => exact .finish h h.fly.monArmFire
  | monRead _ => exact .finish h (h.fly.onUnit fun _ => h.fly.yieldOne)
  | monClear _ => exact .finish h (h.fly.onUnit fun _ => h.fly.addEff)
  | monStop _ => exact .finish h (h.fly.onUnit fun _ => h.fly.addEff)
  | spawn _ => exact .finish h h.fly.spawnFire
  | emit _ => exact .finish h h.fly.emitFire
  | nop _ => exact .finish h h.fly.nopFire
  | reset => exact h.execReset
  | hostRecordWrite => exact h.execHostRecordWrite
  | recordStart => exact h.execRecordStart
  | exitHeadWrite => exact h.execExitHeadWrite
  | tokenArrival => exact h.execTokenArrival
  | holdQueueAdmit => exact h.execHoldQueueAdmit
  | parking => exact h.execParking
  | retryTimerExpiry => exact h.execRetryTimerExpiry
  | reInjectionResume => exact h.execReInjectionResume
  | controlTokenDelivery => exact h.execControlTokenDelivery
  | commit => exact h.execCommit
  | stallExpiry => exact h.execStallExpiry
  | reloadDecision => exact h.execReloadDecision
  | frameLoadComplete => exact h.execFrameLoadComplete
  | handlerEntry => exact h.execHandlerEntry
  | watchdogExpiry => exact h.execWatchdogExpiry
  | wdogKick => exact h.execWdogKick
  | checkpoint => exact h.execCheckpoint
  | pfdoneWrite => exact h.execPfdoneWrite
  | debugHaltRequest => exact h.execDebugHaltRequest
  | drainMarkerArrival => exact h.execDrainMarkerArrival
  | drainAbort => exact h.execDrainAbort
  | drainHalt => exact h.execDrainHalt
  | drainCompletion => exact h.execDrainCompletion
  | passResume => exact h.execPassResume
  | alloc => exact h.execAlloc
  | start => exact h.execStart
  | destroy => exact h.execDestroy
  | clear => exact h.execClear
  | scrubComplete => exact h.execScrubComplete
  | shootDown => exact h.execShootDown
  | shootDownComplete => exact h.execShootDownComplete
  | relatEmerge => exact h.execRelatEmerge
  | kernelLoading => exact h.execKernelLoading
  | keyRecord => exact h.execKeyRecord
  | msessWrite => exact h.execMsessWrite
  | attestationReport => exact h.execAttestationReport
  | kernelKeyRegister => exact h.execKernelKeyRegister
  | hostMgmtRead => exact h.execHostMgmtRead
  | ctentWrite => exact h.execCtentWrite
  | registerWrite => exact h.execRegisterWrite
  | translate => exact h.execTranslate
  | tableReadFill => exact h.execTableReadFill
  | accessPerform => exact h.execAccessPerform
  | ldeRetry => exact h.execLdeRetry
  | ldeWithdrawal => exact h.execLdeWithdrawal
  | lineFetch => exact h.execLineFetch
  | accessRetire => exact h.execAccessRetire
  | scratchPerform => exact h.execScratchPerform
  | bankPendingComplete => exact h.execBankPendingComplete
  | completionToken => exact h.execCompletionToken
  | transferStart => exact h.execTransferStart
  | transferWithhold => exact h.execTransferWithhold
  | transferDone => exact h.execTransferDone
  | waittWake => exact h.execWaittWake
  | tstageFillComplete => exact h.execTstageFillComplete
  | beat0 => exact h.execBeat0
  | beat => exact h.execBeat
  | stopCompletion => exact h.execStopCompletion
  | flitTransfer => exact h.execFlitTransfer
  | fenceRouterPass => exact h.execFenceRouterPass
  | splicePerform => exact h.execSplicePerform
  | snewPerform => exact h.execSnewPerform
  | sfreePerform => exact h.execSfreePerform
  | freeListWrite => exact h.execFreeListWrite
  | messageSend => exact h.execMessageSend
  | messageArrival => exact h.execMessageArrival
  | messageResend => exact h.execMessageResend
  | barrierArrival => exact h.execBarrierArrival
  | groupTotalUpdate => exact h.execGroupTotalUpdate
  | launchAppend => exact h.execLaunchAppend
  | spawnCreate => exact h.execSpawnCreate
  | receiverDetect => exact h.execReceiverDetect
  | trainingComplete => exact h.execTrainingComplete
  | trainingFailure => exact h.execTrainingFailure
  | linkError => exact h.execLinkError
  | recoveryComplete => exact h.execRecoveryComplete
  | l1Entry => exact h.execL1Entry
  | l1Exit => exact h.execL1Exit
  | linkLoss => exact h.execLinkLoss
  | linkReset => exact h.execLinkReset
  | powerStateChoice => exact h.execPowerStateChoice
  | wake => exact h.execWake
  | monitorSample => exact h.execMonitorSample
  | correctableLinkError => exact h.execCorrectableLinkError

section
variable {s : State}

protected theorem State.Form.takeWork (h : s.Form) : (takeWork s).1.Form := by
  unfold Machine.takeWork
  split
  · exact h.mapSys (g := fun y => { y with now := y.now + 1 }) h.sys.plain
  · exact h.parts h.sys.plain h.fly.plain

protected theorem State.Form.latchFiring (h : s.Form) {f : Firing} : (latchFiring s f).Form := h.mapFly h.fly.plain

protected theorem State.Form.latchEvent (h : s.Form) {e : Ev} : (latchEvent s e).Form := h.mapFly h.fly.plain

protected theorem State.Form.haltFiring (h : s.Form) {f : Firing} : (haltFiring s f).Form := by
  unfold Machine.haltFiring
  exact h.abortInst.mapSys h.abortInst.sys.wsync.modThr

protected theorem State.Form.selectWork (h : s.Form) : (selectWork s).1.Form := by
  have ht := h.takeWork
  unfold Machine.selectWork
  generalize Machine.takeWork s = p at ht ⊢
  split
  · exact ht
  · exact ht.latchEvent
  · next t f =>
    change t.Form at ht
    split
    · exact ht
    split
    · exact ht.mapFly (g := fun g => g.sched (t.sys.now + 1) (.fire f)) ht.fly.sched
    split
    · exact ht.haltFiring
    split
    · exact ht.latchFiring
    · exact ht.raiseTrap

protected theorem State.Form.step (h : s.Form) : Formed (step s) := by
  have hw := h.selectWork
  unfold Machine.step
  generalize Machine.selectWork s = p at hw ⊢
  split
  · exact .fault
  split
  · exact hw.exec _
  · exact .next hw

end

/-- Settles O12: the form of a state is kept by each operation of the model, hence by every row of the opcode table and by the step. -/
theorem stepKeepsForm : Obligations.StepKeepsForm := by
  unfold Obligations.StepKeepsForm
  intro s t hs ht
  exact (State.form_iff t).2 (((State.form_iff s).1 hs).step t ht)

end Sys2Proof.Machine

namespace Sys2Proof.Machine
open Claims

/-! ## Line fetches, responses and scratch accesses -/

/-! ### The agenda -/

theorem mem_schedList {w v : Work} {l : List Work} : v ∈ schedList w l ↔ v = w ∨ v ∈ l := by
  induction l with
  | nil => simp [schedList]
  | cons u l ih =>
    rw [schedList]
    split
    · simp
    · simp only [List.mem_cons, ih]; tauto

theorem Fly.mem_event_agenda {f : Fly} {n : Nat} {i : Instr} {e : Ev} {w : Work} :
    w ∈ (f.event n i e).agenda ↔ w = { due := n, act := .ev i e } ∨ w ∈ f.agenda := mem_schedList

theorem soon_sched {s : State} {n : Nat} {i : Instr} {e : Ev} : soon (s.sched n i e) n i e := Fly.mem_event_agenda.2 (.inl rfl)

theorem le_foldl_max {α : Type} (g : α → Nat) (l : List α) (n : Nat) : n ≤ l.foldl (fun d w => max d (g w)) n :=
  foldl_keeps (P := (n ≤ ·)) (fun _ _ h => le_trans h (le_max_left _ _)) l le_rfl

theorem le_pathDue (f : Fly) (c slice due : Nat) : due ≤ pathDue f c slice due := le_foldl_max Work.due _ due

/-! ### Entries read back after they are written -/

section
variable {y : Sys}

theorem Sys.Form.line_setLine (h : y.Form) (l : Nat) (v : Line) : (y.setLine l v).line l = v := tabGet_set_same _ _ _ _ ((rising_iff _).1 h.lines)

theorem Sys.Form.line_modLine (h : y.Form) (l : Nat) (g : Line → Line) : (y.modLine l g).line l = g (y.line l) := h.line_setLine l _

theorem Sys.Form.ctx_setCtx (h : y.Form) (x : Nat) (v : Ctx) : (y.setCtx x v).ctx x = v := tabGet_set_same _ _ _ _ ((rising_iff _).1 h.ctxs)

theorem Sys.Form.thr_setThr (h : y.Form) (c k : Nat) (v : Thr) : (y.setThr c k v).thr c k = v := tabGet_set_same _ _ _ _ ((rising_iff _).1 h.thrs)

theorem Sys.Form.bank_modBank (h : y.Form) (c b : Nat) (g : Bank → Bank) : (y.modBank c b g).bank c b = g (y.bank c b) :=
  tabGet_set_same _ _ _ _ ((rising_iff _).1 h.banks)

theorem Sys.Form.scr_setScr (h : y.Form) (c o : Nat) (v : Byte) : (y.setScr c o v).scr c o = v := tabGet_set_same _ _ _ _ ((rising_iff _).1 h.scratch)

theorem Sys.scr_setScr_other {c o c' o' : Nat} (v : Byte) (h : c' * 1048576 + o' ≠ c * 1048576 + o) : (y.setScr c o v).scr c' o' = y.scr c' o' :=
  tabGet_set_other _ _ _ _ _ h

end

/-! ### A line given back, written back or fetched (R17, R18, R174, R358) -/

section
variable {y : Sys} {l : Nat}

@[simp] theorem recallLine_now : (recallLine y l).now = y.now := by unfold recallLine; split <;> rfl
@[simp] theorem recallLine_ctxs : (recallLine y l).ctxs = y.ctxs := by unfold recallLine; split <;> rfl

/-- A line that is recalled stays held as it was. -/
theorem Sys.Form.recallLine_held (h : y.Form) : ((recallLine y l).line l).held = (y.line l).held := by
  unfold Machine.recallLine
  split
  · rfl
  · next c b _ =>
    have hl := h.line_modLine l fun v => { v with holder := none, dirty := v.dirty || (tabFind (y.bank c b).lines l).any Prod.snd }
    exact (congrArg Line.held hl :)

theorem Sys.storedAs_congr {z : Sys} (h : y.ctxs = z.ctxs) (k : KeyTag) : y.storedAs k = z.storedAs k := by
  unfold Sys.storedAs Sys.keyOf Sys.ctx
  rw [h]

@[simp] theorem Sys.giveUp_now {clean : Bool} : (y.giveUp l clean).now = y.now := by
  unfold Sys.giveUp
  dsimp only
  split
  · exact recallLine_now
  · exact recallLine_now

@[simp] theorem makeRoom_now : (makeRoom y l).now = y.now := by
  unfold makeRoom
  dsimp only
  split
  · rfl
  split
  · rfl
  split
  · exact Sys.giveUp_now
  · rfl

/-- A line given up is held no more. -/
theorem Sys.Form.giveUp_held (h : y.Form) (clean : Bool) : ((y.giveUp l clean).line l).held = none := by
  unfold Sys.giveUp
  dsimp only
  split
  · assumption
  · rw [h.recallLine.line_setLine]

/-- A line taken from its key tag is stored under it (R358). -/
theorem Sys.Form.unhold_ktag (h : y.Form) {k : KeyTag} (hk : (y.line l).held = some k) : ((y.unhold l).line l).ktag = some (y.storedAs k) := by
  have hr : ((Machine.recallLine y l).line l).held = some k := h.recallLine_held.trans hk
  simp [Sys.unhold, Sys.giveUp, hr, h.recallLine.line_setLine, Sys.storedAs_congr (recallLine_ctxs (y := y) (l := l))]

/-- A line that nothing has stored, or that is stored under the tag and its key, passes the integrity check (R357); no other does. -/
theorem Sys.opens_iff {v : Line} {k : KeyTag} : y.opens v k = true ↔ v.ktag = none ∨ v.ktag = some (y.storedAs k) := by
  unfold Sys.opens
  cases v.ktag <;> simp

/-- A fetch that passes its checks holds the line under the key tag, its sequence tag begun again. -/
theorem Sys.Form.fetched_of_opens (h : y.Form) {k : KeyTag} (hc : Config.eccOk y.fetches = true) (ho : y.opens (y.line l) k = true) :
    ∃ z, y.fetched l k = some z ∧ z.now = y.now ∧ z.line l = { y.line l with held := some k, tag := 0, dirty := false } := by
  refine ⟨(Machine.makeRoom y l).setLine l { y.line l with held := some k, tag := 0, dirty := false }, ?_, ?_, h.makeRoom.line_setLine l _⟩
  · simp [Sys.fetched, hc, ho]
  · rw [Sys.setLine_now, makeRoom_now]

theorem Sys.fetched_eq_none {k : KeyTag} (h : Config.eccOk y.fetches = false ∨ y.opens (y.line l) k = false) : y.fetched l k = none := by
  rcases h with h | h <;> simp [Sys.fetched, h]

end

/-- What a miss does (R17, R358): the line is given up, and its fetch is due. -/
theorem missLine_eq (s : State) (id part l : Nat) (a : Access) : ∃ f d r,
    missLine s id part l a = State.sched { s with sys := s.sys.unhold l, fly := f } d .lineFetch r ∧
      r.id = id ∧ r.part = part ∧ r.ent = some l := by
  unfold missLine
  dsimp only
  exact ⟨_, _, _, rfl, rfl, rfl, rfl⟩

section
variable {s : State} {a : Access} {x : Xlat} {vl l : Nat}

/-- An access other than a PREF that finds its line under another key tag, or not held, misses (R358). -/
theorem performAcc_miss {c : Nat} {spin : State → Ev → Access → Nat → State} (hp : Claims.partAt s a x vl l) (hop : a.op ≠ .pref)
    (hh : (s.sys.line l).held ≠ some (a.tagAt s.sys l x)) (hl : (s.sys.line l).last ≠ some s.sys.now) :
    performAcc s { s.fly.ev with col := c } a spin = missLine s s.fly.ev.id s.fly.ev.part l a := by
  obtain ⟨-, hvl, hx, rfl, hdev, hb⟩ := hp
  have hhost : hostLine ((x.pa + vl * 64 % 65536) / 64) = false := by simp [hostLine]; omega
  simp [performAcc, atSlice, hvl, hx, hop, hb, hh, hl, hhost]

theorem accessPerform_miss (hs : s.Form) (hp : Claims.partAt s a x vl l) (hop : a.op ≠ .pref)
    (hh : (s.sys.line l).held ≠ some (a.tagAt s.sys l x)) (hl : (s.sys.line l).last ≠ some s.sys.now) :
    gives s .accessPerform fun t => t.greg = s.greg ∧ (t.sys.line l).held = none ∧
      (∀ h, (s.sys.line l).held = some h → (t.sys.line l).ktag = some (s.sys.storedAs h)) ∧
      ∃ d r, soon t d .lineFetch r ∧ r.id = s.fly.ev.id ∧ r.part = s.fly.ev.part ∧ r.ent = some l := by
  obtain ⟨f, d, r, he, hid, hpart, hent⟩ := missLine_eq s s.fly.ev.id s.fly.ev.part l a
  have hex : exec .accessPerform s = .next (performAcc s { s.fly.ev with col := a.slice s.fly.ev.part } a performPin) := by
    simp [exec, execAccessPerform, hp.1]
  refine ⟨_, hex.trans (congrArg _ ((performAcc_miss hp hop hh hl).trans he)), rfl, rfl, ?_, ?_, d, r, soon_sched, hid, hpart, hent⟩
  · exact hs.sys.giveUp_held true
  · exact fun h hk => hs.sys.unhold_ktag hk

/-! ### A fetch comes back (R17, R357) -/

/-- The accesses that go on with ACCESS_PERFORM when their line is there. -/
def AccOp.performs (o : AccOp) : Prop := o = .ld ∨ o = .st ∨ o = .lde ∨ o = .stf ∨ o = .clrf ∨ ∃ q, o = .atom q

theorem execLineFetch_fetched {y : Sys} (hp : Claims.partAt s a x vl l) (hh : (s.sys.line l).held = none) (hop : a.op.performs)
    (hf : s.sys.fetched l (a.tagAt s.sys l x) = some y) :
    execLineFetch s = .next (State.sched { s with sys := { y with fetches := y.fetches + 1 } } y.now .accessPerform
      { clu := a.clu, reg := a.reg, col := s.fly.ev.col, id := s.fly.ev.id, part := s.fly.ev.part, q := true }) := by
  obtain ⟨ha, hvl, hx, rfl, -, -⟩ := hp
  rcases hop with ho | ho | ho | ho | ho | ⟨q, ho⟩ <;> simp [execLineFetch, ha, hvl, hx, hh, hf, ho]

theorem execLineFetch_failed (hp : Claims.partAt s a x vl l) (hh : (s.sys.line l).held = none)
    (hf : s.sys.fetched l (a.tagAt s.sys l x) = none) :
    execLineFetch s = .next (memoryError (s.mapSys fun y => { y with fetches := y.fetches + 1 }) s.fly.ev.id a) := by
  obtain ⟨ha, hvl, hx, rfl, -, -⟩ := hp
  simp [execLineFetch, ha, hvl, hx, hh, hf]

theorem lineFetch_passes (hs : s.Form) (hp : Claims.partAt s a x vl l) (hh : (s.sys.line l).held = none) (hop : a.op.performs)
    (hc : Config.eccOk s.sys.fetches = true)
    (hk : (s.sys.line l).ktag = none ∨ (s.sys.line l).ktag = some (s.sys.storedAs (a.tagAt s.sys l x))) :
    gives s .lineFetch fun t => t.greg = s.greg ∧ (t.sys.line l).held = some (a.tagAt s.sys l x) ∧ (t.sys.line l).tag = 0 ∧
      (t.sys.line l).fe = (s.sys.line l).fe ∧
      ∃ r, soon t s.sys.now .accessPerform r ∧ r.id = s.fly.ev.id ∧ r.part = s.fly.ev.part := by
  obtain ⟨z, hf, hnow, hline⟩ := hs.sys.fetched_of_opens (l := l) hc (Sys.opens_iff.2 hk)
  have hsys : ({ z with fetches := z.fetches + 1 } : Sys).line l = _ := hline
  rw [← hnow]
  refine ⟨_, execLineFetch_fetched hp hh hop hf, rfl, rfl, ?_, ?_, ?_, _, soon_sched, rfl, rfl⟩ <;> rw [State.sched_sys, hsys]

/-! ### A fault of a context (R80) -/

section
variable {y : Sys} {c k : Nat}

@[simp] theorem Sys.unsend_ctxs {i : Inst} : (y.unsend i).ctxs = y.ctxs := by unfold Sys.unsend; split <;> rfl
@[simp] theorem Sys.undrop_ctxs {i : Inst} : (y.undrop c k i).ctxs = y.ctxs := by unfold Sys.undrop; split <;> rfl
@[simp] theorem Sys.setPartials_ctxs {r : Nat} {ps : List (Nat × Nat × Nat)} : (y.setPartials c r k ps).ctxs = y.ctxs := by
  unfold Sys.setPartials; split <;> rfl
@[simp] theorem Sys.unpop_ctxs {i : Inst} : (y.unpop c i).ctxs = y.ctxs := by
  unfold Sys.unpop
  refine foldl_keeps (P := fun z : Sys => z.ctxs = y.ctxs) (fun z n hz => ?_) _ rfl
  split <;> exact hz
@[simp] theorem Sys.dropTokens_ctxs {p : Entry → Bool} : (y.dropTokens c p).ctxs = y.ctxs := by
  unfold Sys.dropTokens
  dsimp only
  refine foldl_keeps (P := fun z : Sys => z.ctxs = y.ctxs) ?_ _ rfl
  exact fun z n hz => hz

end

@[simp] theorem abortInst_ctxs (c k : Nat) : (abortInst s c k).sys.ctxs = s.sys.ctxs := by
  unfold abortInst
  split
  · rfl
  · dsimp only
    split <;> simp [Sys.modThr]

@[simp] theorem saveThread_ctxs (c k : Nat) : (saveThread s c k).sys.ctxs = s.sys.ctxs := by
  unfold saveThread
  dsimp only
  split <;> rfl

@[simp] theorem haltXfers_ctxs (n : Nat) : (haltXfers s n).sys.ctxs = s.sys.ctxs := by
  unfold haltXfers
  refine foldl_keeps (P := fun t : State => t.sys.ctxs = s.sys.ctxs) ?_ _ rfl
  exact fun _ _ ht => ht

/-- A RUNNING context other than 0 is FAULTED by a fault event, with its FCAUSE. -/
theorem State.Form.contextFault_ctx (hs : s.Form) {n : Nat} (fcause c k : Nat) (hn : n ≠ 0) (hr : (s.sys.ctx n).st = .running) :
    ((contextFault s n fcause c k).sys.ctx n).st = .faulted ∧ ((contextFault s n fcause c k).sys.ctx n).fcause = fcause := by
  have hw : ((s.sys.wsync n).ctx n).st = .running := by
    unfold Sys.wsync Sys.modCtx
    rw [hs.sys.ctx_setCtx]
    exact hr
  obtain ⟨v, hst, hfc, he⟩ : ∃ v : Ctx, v.st = .faulted ∧ v.fcause = fcause ∧
      (contextFault s n fcause c k).sys.ctxs = ((s.sys.wsync n).setCtx n v).ctxs := by
    simp only [contextFault, State.mapSys_sys, hw, hn, or_true, if_true, if_false]
    refine ⟨_, ?_, ?_, foldl_keeps (P := fun t : State => t.sys.ctxs = _) (fun t m ht => ?_) _ (haltXfers_ctxs n)⟩
    · rfl
    · rfl
    · split <;> simpa [Sys.modThr] using ht
  have hv : (contextFault s n fcause c k).sys.ctx n = v := by
    unfold Sys.ctx
    rw [he]
    exact hs.sys.wsync.ctx_setCtx n v
  rw [hv]
  exact ⟨hst, hfc⟩

theorem lineFetch_fails (hs : s.Form) (hp : Claims.partAt s a x vl l) (hh : (s.sys.line l).held = none)
    (hf : Config.eccOk s.sys.fetches = false ∨ ∃ h, (s.sys.line l).ktag = some h ∧ h ≠ s.sys.storedAs (a.tagAt s.sys l x))
    (hx : a.ctx ≠ 0) (hr : (s.sys.ctx a.ctx).st = .running) :
    gives s .lineFetch fun t => (t.sys.ctx a.ctx).st = .faulted ∧ (t.sys.ctx a.ctx).fcause = 4 := by
  have hnone : s.sys.fetched l (a.tagAt s.sys l x) = none := by
    refine Sys.fetched_eq_none (hf.imp_right fun ⟨h, hk, hne⟩ => ?_)
    rw [Bool.eq_false_iff, Ne, Sys.opens_iff, hk]
    simpa using hne
  refine ⟨_, execLineFetch_failed hp hh hnone, ?_, ?_⟩
  · simp [memoryError, memFault, hx]
  · simp only [memoryError, memFault, hx, ne_eq, not_false_eq_true, true_or, if_true]
    exact State.Form.contextFault_ctx ((hs.mapSys hs.sys.plain).mapFly hs.fly.setAcc) 4 a.clu a.frm hx hr

end

end Sys2Proof.Machine

namespace Sys2Proof.Machine
open Claims

/-! ### A thread with no access, or one, at the ports (R304, R396) -/

theorem threadAccs_of_no_accs {f : Fly} (h : f.accs = []) (c k : Nat) : threadAccs f c k = [] := by simp [threadAccs, h]

section
variable {s : State} {c k : Nat}

theorem advance_of_no_accs (h : s.fly.accs = []) : advance s c k = s := by rw [advance, threadAccs_of_no_accs h, List.foldl_nil]

theorem popRetired_of_no_accs (h : s.fly.accs = []) : popRetired s c k = s := by simp [popRetired, threadAccs_of_no_accs h]

/-- The one access of a thread, which is answered, leaves the port. -/
theorem popRetired_lone {id : Nat} {b : Access} (h : s.fly.accs = [(id, b)]) (hl : b.lsid.isSome = true) (hst : b.st = .retired)
    (hd : b.dead = false) (hop : b.op ≠ .spin) : popRetired s b.clu b.frm = popAcc s id b := by
  simp [popRetired, threadAccs, h, hl, hst, hd, hop, insertAcc]

end

theorem tabDel_lone {α : Type} (k : Nat) (v : α) : tabDel [(k, v)] k = [] := by simp [tabDel]

theorem tabPut_lone {α : Type} (k : Nat) (v w : α) : tabPut [(k, v)] k w = [(k, w)] := by simp [tabPut]

/-! ### Parked readers (R312, R315) -/

section
variable {s : State} {a : Access}

theorem Fly.acc_of_lone {f : Fly} {id : Nat} (h : f.accs = [(id, a)]) : f.acc id = some a := by simp [Fly.acc, h, tabFind]

/-- A reader that is withdrawn is parked no more; the other readers of its word stay parked. -/
theorem ldeWithdrawal_parked (hs : s.Form) (ha : s.fly.accs = [(s.fly.ev.id, a)]) (hst : a.st = .parked) :
    gives s .ldeWithdrawal fun t => t.greg = s.greg ∧ t.fly.accs = [] ∧ s.fly.ev.id ∉ (t.sys.line (a.word.getD 0 / 8)).parked ∧
      ∀ r, r ≠ s.fly.ev.id → (r ∈ (t.sys.line (a.word.getD 0 / 8)).parked ↔ r ∈ (s.sys.line (a.word.getD 0 / 8)).parked) := by
  have hpa : a.word.getD 0 * 8 / 64 = a.word.getD 0 / 8 := by omega
  have hdel : (s.fly.delAcc s.fly.ev.id).accs = [] := by rw [Fly.delAcc, ha, tabDel_lone]
  have hline := hs.sys.line_modLine (a.word.getD 0 / 8) fun v => { v with parked := v.parked.filter (· != s.fly.ev.id) }
  refine ⟨State.mapFly (s.mapSys fun y => Sys.setSpill (y.modLine (a.word.getD 0 / 8) fun v => { v with parked := v.parked.filter (· != s.fly.ev.id) })
    (homeSlice (a.word.getD 0 * 8)) ((y.spillOf (homeSlice (a.word.getD 0 * 8))).filter (· != s.fly.ev.id))) (·.delAcc s.fly.ev.id),
    ?_, rfl, rfl, hdel, ?_⟩
  · simp only [exec, execLdeWithdrawal, Fly.acc_of_lone ha, hst, ne_eq, not_true_eq_false, if_false, hpa]
    rw [popRetired_of_no_accs hdel, advance_of_no_accs hdel]
  · have hparked := congrArg Line.parked hline
    constructor
    · intro hm
      exact absurd (hparked ▸ hm :) (by simp)
    · intro r hr
      refine (iff_of_eq (congrArg (r ∈ ·) hparked)).trans ?_
      simp [hr]

theorem ldeWithdrawal_other (ha : s.fly.accs = [(s.fly.ev.id, a)]) (hst : a.st ≠ .parked) : nothing s .ldeWithdrawal := by
  simp [nothing, exec, execLdeWithdrawal, Fly.acc_of_lone ha, hst]

/-- A refused LDE is on its way to its home slice again, ten cycles and more. -/
theorem ldeRetry_sends (ha : s.fly.accs = [(s.fly.ev.id, a)]) (hd : a.dead = false) :
    ∃ due ≥ s.sys.now + 10, exec .ldeRetry s = .next (s.sched due .accessPerform { s.fly.ev with clu := a.clu, col := a.slice 0, q := false }) :=
  ⟨pathDue s.fly a.clu (a.slice 0) (s.sys.now + 10), le_pathDue _ _ _ _, by simp [exec, execLdeRetry, Fly.acc_of_lone ha, hd]⟩

end

/-! ### What the end of an access changes (R320, R367, R396) -/

/-- A token that leaves the port changes the agenda and nothing else that is in flight. -/
theorem portTok_fly (a : Access) (n : Nat) (t : Token) (g : Target) (f : Fly) :
    portTok a n t g f = { f with agenda := (portTok a n t g f).agenda } := by
  cases g <;> rfl

theorem sendYields_fly (n : Nat) (a : Access) (ts : List Token) (f : Fly) :
    sendYields n a ts f = { f with agenda := (sendYields n a ts f).agenda } := by
  unfold sendYields
  induction ts generalizing f with
  | nil => rfl
  | cons t ts ih => rw [List.foldl_cons, ih, portTok_fly, portTok_fly]

/-- A sample enters the agenda, or nothing changes. -/
theorem sampleMon_fly (y : Sys) (x colour event v : Nat) (f : Fly) :
    sampleMon y x colour event v f = { f with agenda := (sampleMon y x colour event v f).agenda } := by
  unfold sampleMon; split <;> rfl

theorem mem_sampleMon_agenda {y : Sys} {x colour event v : Nat} {f : Fly} {w : Work} (h : w ∈ f.agenda) :
    w ∈ (sampleMon y x colour event v f).agenda := by
  unfold sampleMon
  split
  · exact Fly.mem_event_agenda.2 (.inr h)
  · exact h

theorem accInst_eq_none {f : Fly} {a : Access} (h : f.inst a.clu a.frm = none) : accInst f a = none := by simp [accInst, h]

theorem answerAcc_of_no_inst {s : State} {a : Access} (h : s.fly.inst a.clu a.frm = none) : answerAcc s a = s := by
  simp [answerAcc, accInst_eq_none h]

theorem ackAccess_of_no_posts {s : State} (h : s.fly.posts = []) (id : Nat) : ackAccess s id = s := by simp [ackAccess, h]

/-- `%seqlast` as an access leaves it that leaves the port (R320). -/
def Sys.retag (y : Sys) (a : Access) : Sys :=
  if a.tag = 0 ∨ (y.thr a.clu a.frm).serial ≠ a.owner then y else y.setThr a.clu a.frm { y.thr a.clu a.frm with seqlast := a.tag }

theorem Sys.Form.retag_seqlast {y : Sys} (h : y.Form) {a : Access} (ht : a.tag ≠ 0) (ho : (y.thr a.clu a.frm).serial = a.owner) :
    ((y.retag a).thr a.clu a.frm).seqlast = a.tag := by
  rw [Sys.retag, if_neg (not_or.2 ⟨ht, not_not.2 ho⟩), h.thr_setThr]

theorem popAcc_of_no_inst {s : State} {id : Nat} {a : Access} (hi : s.fly.inst a.clu a.frm = none) (hop : a.op ≠ .spin) :
    popAcc s id a = { s with sys := s.sys.retag a, fly := s.fly.delAcc id } := by
  unfold popAcc Sys.retag
  simp only [accInst_eq_none hi, hop, false_and, if_false]
  split <;> rfl

/-! ### Responses (R190, R306, R307, R320, R396) -/

/-- What is in flight while the response of an access is taken: the access answered, its tokens on their way, a load's latency sampled. -/
def Fly.answered (f : Fly) (y : Sys) (id : Nat) (a : Access) : Fly :=
  let f := sendYields y.now a a.yields (f.setAcc id { a with st := .retired })
  if a.op = .ld ∨ a.op = .lde then sampleMon y a.ctx a.colour 0 (y.now - a.since) f else f

theorem Fly.answered_fly (f : Fly) (y : Sys) (id : Nat) (a : Access) :
    f.answered y id a = { f.setAcc id { a with st := .retired } with agenda := (f.answered y id a).agenda } := by
  unfold Fly.answered
  dsimp only
  split
  · rw [sampleMon_fly, sendYields_fly]
  · rw [sendYields_fly]

section
variable {s : State} {a : Access}

theorem Fly.answered_accs {f : Fly} {y : Sys} {id : Nat} (ha : f.accs = [(id, a)]) :
    (f.answered y id a).accs = [(id, { a with st := .retired })] := by
  rw [Fly.answered_fly]
  exact (congrArg (tabPut · id _) ha).trans (tabPut_lone _ _ _)

/-- No access is in flight when the one there was has left. -/
theorem Fly.answered_delAcc {f : Fly} {y : Sys} {id : Nat} (ha : f.accs = [(id, a)]) : ((f.answered y id a).delAcc id).accs = [] := by
  rw [Fly.delAcc, Fly.answered_accs ha, tabDel_lone]

/-- The response of an access that no live entry waits for answers no LSID. -/
theorem retireAcc_of_no_inst {id : Nat} (hi : s.fly.inst a.clu a.frm = none) (hl : a.lsid.isSome = true) :
    retireAcc s id a = advance (popRetired (ackAccess (s.mapFly fun f => f.answered s.sys id a) id) a.clu a.frm) a.clu a.frm := by
  have hsent := answerAcc_of_no_inst (s := s.mapFly fun f => sendYields s.sys.now a a.yields (f.setAcc id { a with st := .retired })) (a := a)
    (by rw [State.mapFly_fly, sendYields_fly]; exact hi)
  have hlsid : a.lsid.isNone = false := by simpa using hl
  unfold retireAcc Fly.answered
  simp only [hsent, ite_self, hlsid, Bool.false_eq_true, if_false]
  by_cases hop : a.op = .ld ∨ a.op = .lde
  · simp only [hop, if_true]; rfl
  · simp only [hop, if_false]

/-- Where it is the one access in flight, its tokens leave, and the port retires it. -/
theorem retireAcc_lone {id : Nat} (ha : s.fly.accs = [(id, a)]) (hp : s.fly.posts = []) (hi : s.fly.inst a.clu a.frm = none) (hd : a.dead = false)
    (hl : a.lsid.isSome = true) (hop : a.op ≠ .spin) :
    retireAcc s id a = { s with sys := s.sys.retag a, fly := (s.fly.answered s.sys id a).delAcc id } := by
  have hf := s.fly.answered_fly s.sys id a
  have hposts : (s.fly.answered s.sys id a).posts = [] := by rw [hf]; exact hp
  have hinst : (s.fly.answered s.sys id a).inst a.clu a.frm = none := by rw [hf]; exact hi
  have hpop : popRetired (s.mapFly fun f => f.answered s.sys id a) a.clu a.frm =
      { s with sys := s.sys.retag a, fly := (s.fly.answered s.sys id a).delAcc id } :=
    (popRetired_lone (s := s.mapFly fun f => f.answered s.sys id a) (Fly.answered_accs ha) hl rfl hd hop).trans (popAcc_of_no_inst hinst hop)
  rw [retireAcc_of_no_inst hi hl, ackAccess_of_no_posts hposts, hpop, advance_of_no_accs (Fly.answered_delAcc ha)]

/-- The low bits of a scalar token's data are those of its value in the format (R24). -/
theorem scalarTok_low (c k i : Nat) (f : Fmt) (w : Word) (n : Nat) (hn : n ≤ 64) :
    (scalarTok c k i f w).data.extractLsb' 0 n = (scalarData f w).extractLsb' 0 n := by
  ext j hj
  have h64 : j < 64 := by omega
  have h1024 : j < 1024 := by omega
  simp [scalarTok, h64, h1024]

/-- An element in the layout of its format is loaded as it stands (R48). -/
theorem memLoad_own (f : Fmt) (n : Nat) : memLoad 0 (n % 2 ^ memBits f 0) = BitVec.ofNat 64 (n % 2 ^ f.width) := rfl

/-- The data of a format wide enough for the value is the value. -/
theorem scalarData_of_lt {f : Fmt} (hf : f ≠ .i32) {n : Nat} (hn : n < 2 ^ f.width) : scalarData f (BitVec.ofNat 64 n) = BitVec.ofNat 64 n := by
  have h64 : n < 2 ^ 64 := hn.trans_le (Nat.pow_le_pow_right (by decide) f.width_le)
  have hmod : (BitVec.ofNat 64 n).toNat % 2 ^ f.width = n := by rw [BitVec.toNat_ofNat, Nat.mod_eq_of_lt h64, Nat.mod_eq_of_lt hn]
  cases f
  case i32 => exact absurd rfl hf
  all_goals exact congrArg (BitVec.ofNat 64) hmod

theorem scalarData_i32_low (w : Word) : (scalarData .i32 w).extractLsb' 0 32 = w.extractLsb' 0 32 := by
  ext j hj
  have h64 : j < 64 := by omega
  simp [scalarData, BitVec.getElem_signExtend, hj, h64]

/-- The value of a scalar load (R48): the bytes read, in their memory layout. -/
theorem loaded_head {g : Nat × Nat × Nat} (hy : a.y = 0) (hn : 0 < a.n) (hg : a.segs = [g]) :
    a.loaded.headD 0 = memLoad g.2.2 (leNat (a.gotBytes g) % 2 ^ memBits a.fmt g.2.2) := by
  obtain ⟨n, hn⟩ : ∃ n, a.n = n + 1 := ⟨a.n - 1, by omega⟩
  simp [Access.loaded, hy, hg, hn, List.range_succ_eq_map]

/-- A loaded element's data keeps its low 32 bits: I32 is extended from them, and another format is as wide as its layout (R48). -/
theorem scalarData_memLoad {f : Fmt} {m v : Nat} (h : m = 0 ∨ f = .i32) :
    (scalarData f (memLoad m (v % 2 ^ memBits f m))).extractLsb' 0 32 = (memLoad m (v % 2 ^ memBits f m)).extractLsb' 0 32 := by
  by_cases hf : f = .i32
  · rw [hf, scalarData_i32_low]
  · obtain rfl := h.resolve_right hf
    rw [memLoad_own, scalarData_of_lt hf (Nat.mod_lt _ (Nat.two_pow_pos _))]

theorem scalarData_x64 (w : Word) : scalarData .x64 w = w := by
  change BitVec.ofNat 64 (w.toNat % 2 ^ 64) = w
  rw [Nat.mod_eq_of_lt w.isLt, BitVec.ofNat_toNat, BitVec.setWidth_eq]

/-- The one token of a load leaves the port in the next cycle, along the row of PEs (R190, R396). -/
theorem sendYields_ld {n : Nat} {t : Token} {p : Pos} {j : BitVec 7} {f : Fly} (hop : a.op = .ld) (ht0 : a.t0 = .op p j) (ht1 : a.t1 = .none) :
    sendYields n a [t] f = f.event (n + 2 + peCol j.toNat) .tokenArrival
      { clu := a.clu, reg := a.reg, frm := a.bf, dest := { clu := a.clu, reg := a.reg, frm := a.bf, idx := j.toNat, pos := p }, id := a.idx,
        ent := some a.ser, tok := t, net := t.net } := by
  simp [sendYields, portTok, hop, ht0, ht1, Nat.add_assoc]

theorem yields_ld {g : Nat × Nat × Nat} (hop : a.op = .ld) (hv : a.vec = false) (hy : a.y = 0) (hn : 0 < a.n) (hg : a.segs = [g]) :
    a.yields = [scalarTok a.colour a.frm a.index a.fmt (memLoad g.2.2 (leNat (a.gotBytes g) % 2 ^ memBits a.fmt g.2.2))] := by
  simp only [Access.yields, hop, hv, Bool.not_false, if_true, loaded_head hy hn hg]

/-- The token of a scalar load is on its way once the load is answered. -/
theorem mem_answered_agenda {f : Fly} {y : Sys} {id : Nat} {t : Token} {p : Pos} {j : BitVec 7} (hop : a.op = .ld) (hts : a.yields = [t])
    (ht0 : a.t0 = .op p j) (ht1 : a.t1 = .none) :
    { due := y.now + 2 + peCol j.toNat,
      act := .ev .tokenArrival
        { clu := a.clu, reg := a.reg, frm := a.bf, dest := { clu := a.clu, reg := a.reg, frm := a.bf, idx := j.toNat, pos := p }, id := a.idx,
          ent := some a.ser, tok := t, net := t.net } } ∈ (f.answered y id a).agenda := by
  rw [Fly.answered, hts, sendYields_ld hop ht0 ht1, if_pos (.inl hop)]
  exact mem_sampleMon_agenda (Fly.mem_event_agenda.2 (.inl rfl))

/-! ### The event (R306, R319, R320) -/

section
variable (hs : s.Form) (ha : s.fly.accs = [(s.fly.ev.id, a)]) (hp : s.fly.posts = []) (hi : s.fly.inst a.clu a.frm = none) (hpart : s.fly.ev.part = 0)
  (hd : a.dead = false) (hst : a.st = .performed ∨ a.st = .issued) (hl : a.lsid.isSome = true)
include ha hp hi hpart hd hst hl

/-- Neither a SPIN nor a read of piece entries: the event takes the response of the one access in flight. -/
theorem accessRetire_lone (h1 : a.op ≠ .spin) (h2 : ∀ n, a.op ≠ .piece n) :
    exec .accessRetire s = .next { s with sys := s.sys.retag a, fly := (s.fly.answered s.sys s.fly.ev.id a).delAcc s.fly.ev.id } := by
  have hret : a.st ≠ .retired := by rcases hst with h | h <;> simp [h]
  have hex : exec .accessRetire s = .next (retireAcc s s.fly.ev.id a) := by
    simp only [exec, execAccessRetire, Fly.acc_of_lone ha, hpart, hret, hd, Nat.zero_ne_one, Bool.false_eq_true, if_false]
  rw [hex, retireAcc_lone ha hp hi hd hl h1]

include hs

/-- The response of a scalar load yields its value under the tag of its address token; the token leaves the port in the next cycle. -/
theorem accessRetire_ld {va b m : Nat} {p : Pos} {j : BitVec 7} (hop : a.op = .ld) (hv : a.vec = false) (hy : a.y = 0) (hn : 0 < a.n)
    (hm : m = 0 ∨ a.fmt = .i32) (hg : a.segs = [(va, b, m)]) (ht0 : a.t0 = .op p j) (ht1 : a.t1 = .none) :
    gives s .accessRetire fun t => t.greg = s.greg ∧ t.fly.accs = [] ∧
      (∃ r, soon t (s.sys.now + 2 + peCol j.toNat) .tokenArrival r ∧
        r.dest = { clu := a.clu, reg := a.reg, frm := a.bf, idx := j.toNat, pos := p } ∧ r.ent = some a.ser ∧ r.tok.colour = a.colour ∧
        r.tok.frame = a.frm ∧ r.tok.index = a.index ∧ r.tok.fmt = a.fmt ∧ r.tok.vec = false ∧
        let v := memLoad m (leNat (a.gotBytes (va, b, m)) % 2 ^ memBits a.fmt m)
        r.tok.data.extractLsb' 0 32 = v.extractLsb' 0 32 ∧ (a.fmt = .x64 → r.tok.data.extractLsb' 0 64 = v)) ∧
      (a.tag ≠ 0 → (s.sys.thr a.clu a.frm).serial = a.owner → (t.sys.thr a.clu a.frm).seqlast = a.tag) := by
  refine ⟨_, accessRetire_lone ha hp hi hpart hd hst hl (by simp [hop]) (by simp [hop]), rfl, rfl, ?_, ?_, hs.sys.retag_seqlast⟩
  · exact Fly.answered_delAcc ha
  · refine ⟨_, mem_answered_agenda hop (yields_ld hop hv hy hn hg) ht0 ht1, rfl, rfl, rfl, rfl, rfl, rfl, rfl, ?_, fun hx => ?_⟩
    · rw [scalarTok_low _ _ _ _ _ _ (by decide), scalarData_memLoad hm]
    · rw [scalarTok_low _ _ _ _ _ _ (by decide), hx, scalarData_x64, BitVec.extractLsb'_eq_self]

/-- The acknowledgement of a released store yields no token. -/
theorem accessRetire_st (hop : a.op = .st) :
    gives s .accessRetire fun t => t.greg = s.greg ∧ t.fly.accs = [] ∧ t.fly.agenda = s.fly.agenda ∧
      (a.tag ≠ 0 → (s.sys.thr a.clu a.frm).serial = a.owner → (t.sys.thr a.clu a.frm).seqlast = a.tag) := by
  refine ⟨_, accessRetire_lone ha hp hi hpart hd hst hl (by simp [hop]) (by simp [hop]), rfl, rfl, ?_, ?_, hs.sys.retag_seqlast⟩
  · exact Fly.answered_delAcc ha
  · simp [Fly.answered, hop, Access.yields, sendYields]

end

end

end Sys2Proof.Machine

namespace Sys2Proof.Machine
open Claims

/-! ### Scratch bytes that a store writes (R173, R303) -/

/-- The bytes of a cluster's scratch space as the bytes of a store leave them, in their order. -/
def Sys.storeScr (y : Sys) (c : Nat) (ws : List WByte) : Sys := ws.foldl (fun y w => y.setScr c w.va (w.merge (y.scr c w.va))) y

section
variable {c : Nat} {ws : List WByte}

theorem Sys.storeScr_cons {y : Sys} {w : WByte} : y.storeScr c (w :: ws) = (y.setScr c w.va (w.merge (y.scr c w.va))).storeScr c ws := rfl

theorem Sys.storeScr_sys {y : Sys} : y.storeScr c ws = { y with scratch := (y.storeScr c ws).scratch } := by
  induction ws generalizing y with
  | nil => rfl
  | cons w ws ih => rw [Sys.storeScr_cons, ih]; rfl

/-- A byte that no byte of the store names stays as it was. -/
theorem Sys.storeScr_other {y : Sys} {c' o : Nat} (h : ∀ w ∈ ws, c * 1048576 + w.va ≠ c' * 1048576 + o) :
    (y.storeScr c ws).scr c' o = y.scr c' o := by
  induction ws generalizing y with
  | nil => rfl
  | cons w ws ih =>
    rw [Sys.storeScr_cons, ih fun u hu => h u (List.mem_cons_of_mem _ hu), Sys.scr_setScr_other _ (h w List.mem_cons_self).symm]

/-- A byte that one byte of the store names takes the bits that this one writes. -/
theorem Sys.Form.storeScr_same {y : Sys} (hy : y.Form) {w : WByte} (h : ws.filter (fun u => u.va == w.va) = [w]) :
    (y.storeScr c ws).scr c w.va = w.merge (y.scr c w.va) := by
  induction ws generalizing y with
  | nil => cases h
  | cons u ws ih =>
    rw [Sys.storeScr_cons]
    by_cases hu : u.va = w.va
    · rw [List.filter_cons_of_pos (by simpa using hu), List.cons.injEq, List.filter_eq_nil_iff] at h
      obtain ⟨rfl, hrest⟩ := h
      rw [Sys.storeScr_other fun v hv he => hrest v hv (by simp; omega), hy.scr_setScr]
    · rw [List.filter_cons_of_neg (by simpa using hu)] at h
      rw [ih hy.setScr h, Sys.scr_setScr_other _ (by omega)]

end

/-! ### A scratch access at its bank (R173, R397) -/

section
variable {s : State} {a : Access} {vl : Nat}

theorem performScratch_ld (hop : a.op = .ld) :
    performScratch s a vl = (s, { a with got := a.got ++ (a.inLine vl).map fun o => (o, s.sys.scr a.clu o) }) := by
  simp only [performScratch, hop]

theorem performScratch_st (hop : a.op = .st) : performScratch s a vl = (s.mapSys fun y => y.storeScr a.clu (a.writesIn vl), a) := by
  simp only [performScratch, hop]
  rfl

/-- What the part of a scratch access changes: bytes of scratch, and the bytes that the access has read. -/
theorem performScratch_eq : ∃ t g, performScratch s a vl = ({ s with sys := { s.sys with scratch := t } }, { a with got := g }) := by
  unfold performScratch
  dsimp only
  split
  · exact ⟨s.sys.scratch, _, rfl⟩
  · next op _ =>
    have hset : ∀ (l : List (Byte × Nat)) (y : Sys) (o : Nat), ∃ t,
        l.foldl (fun y p => y.setScr a.clu (o + p.2) p.1) y = { y with scratch := t } := by
      intro l
      induction l with
      | nil => exact fun y o => ⟨_, rfl⟩
      | cons p l ih => exact fun y o => (ih _ o).imp fun t ht => by rw [List.foldl_cons, ht]; rfl
    obtain ⟨t, ht⟩ := hset _ s.sys _
    exact ⟨t, _, congrArg (fun y => (({ s with sys := y } : State), _)) ht⟩
  · exact ⟨_, _, congrArg (fun y => (({ s with sys := y } : State), a)) Sys.storeScr_sys⟩

/-- The cluster's bank `b` performs in this cycle. -/
def State.takeBank (s : State) (c b : Nat) : State := s.mapSys fun y => y.modBank c b fun v => { v with used := some s.sys.now }

/-- The access has one part more performed; after its last its response is due four cycles on. -/
def scratchDone (now : Nat) (s : State) (id : Nat) (a : Access) : State :=
  let last := a.done + 1 ≥ a.lines.length
  let s := s.mapFly fun f => f.setAcc id { a with done := a.done + 1, st := if last then .performed else .issued }
  if last then s.sched (now + 4) .accessRetire { clu := a.clu, reg := a.reg, id := id } else s

@[simp] theorem scratchDone_mem {now id : Nat} : (scratchDone now s id a).mem = s.mem := by unfold scratchDone; dsimp only; split <;> rfl
@[simp] theorem scratchDone_greg {now id : Nat} : (scratchDone now s id a).greg = s.greg := by unfold scratchDone; dsimp only; split <;> rfl
@[simp] theorem scratchDone_sys {now id : Nat} : (scratchDone now s id a).sys = s.sys := by unfold scratchDone; dsimp only; split <;> rfl

theorem scratchDone_acc {now id : Nat} : ∃ c, (scratchDone now s id a).fly.acc id = some c ∧ c.got = a.got := by
  unfold scratchDone
  dsimp only
  split <;> exact ⟨_, tabFind_put_same _ _ _, rfl⟩

theorem scratchDone_soon {now id : Nat} (h : a.lines.length ≤ a.done + 1) :
    soon (scratchDone now s id a) (now + 4) .accessRetire { clu := a.clu, reg := a.reg, id := id } := by
  unfold scratchDone
  dsimp only
  rw [if_pos h]
  exact soon_sched

theorem execScratchPerform_busy (ha : s.fly.acc s.fly.ev.id = some a) (hl : a.lines[s.fly.ev.part]? = some vl)
    (hu : (s.sys.bank a.clu (vl / 1024)).used = some s.sys.now) :
    execScratchPerform s = .next (s.sched (s.sys.now + 1) .scratchPerform { s.fly.ev with q := true }) := by
  simp only [execScratchPerform, ha, hl, hu, if_true]

theorem execScratchPerform_free (ha : s.fly.acc s.fly.ev.id = some a) (hl : a.lines[s.fly.ev.part]? = some vl)
    (hu : (s.sys.bank a.clu (vl / 1024)).used ≠ some s.sys.now) :
    execScratchPerform s = .next (scratchDone s.sys.now (performScratch (s.takeBank a.clu (vl / 1024)) a vl).1 s.fly.ev.id
      (performScratch (s.takeBank a.clu (vl / 1024)) a vl).2) := by
  simp only [execScratchPerform, ha, hl, hu, if_false]
  rfl

/-- A scratch access at a bank that is free performs there (R397). -/
theorem scratchPerform_free (hs : s.Form) (ha : s.fly.acc s.fly.ev.id = some a) (hl : a.lines[s.fly.ev.part]? = some vl)
    (hu : (s.sys.bank a.clu (vl / 1024)).used ≠ some s.sys.now) :
    gives s .scratchPerform fun t => t.greg = s.greg ∧ (t.sys.bank a.clu (vl / 1024)).used = some s.sys.now ∧
      (a.lines.length ≤ a.done + 1 → ∃ r, soon t (s.sys.now + 4) .accessRetire r ∧ r.id = s.fly.ev.id) ∧
      (a.op = .ld → t.sys.scratch = s.sys.scratch ∧ ∃ c, t.fly.acc s.fly.ev.id = some c ∧
        ∀ o ∈ a.inLine vl, (o, s.sys.scr a.clu o) ∈ c.got) ∧
      (a.op = .st → (∀ c o, (∀ w ∈ a.wr, w.va / 64 = vl → a.clu * 1048576 + w.va ≠ c * 1048576 + o) → t.sys.scr c o = s.sys.scr c o) ∧
        ∀ w ∈ a.wr, w.va / 64 = vl → (a.wr.filter fun u => u.va == w.va) = [w] →
          t.sys.scr a.clu w.va = (s.sys.scr a.clu w.va &&& ~~~w.mask) ||| (w.val &&& w.mask)) := by
  obtain ⟨t, g, he⟩ := performScratch_eq (s := s.takeBank a.clu (vl / 1024)) (a := a) (vl := vl)
  refine ⟨_, execScratchPerform_free ha hl hu, ?_, ?_, ?_, fun hlast => ?_, fun hop => ?_, fun hop => ?_⟩
  · rw [he, scratchDone_mem]
    rfl
  · rw [he, scratchDone_greg]
    rfl
  · rw [he, scratchDone_sys]
    exact congrArg Bank.used (hs.sys.bank_modBank a.clu (vl / 1024) fun v => { v with used := some s.sys.now })
  · rw [he]
    exact ⟨_, scratchDone_soon hlast, rfl⟩
  · rw [performScratch_ld hop, scratchDone_sys]
    obtain ⟨c, hc, hgot⟩ := scratchDone_acc (now := s.sys.now) (s := s.takeBank a.clu (vl / 1024)) (id := s.fly.ev.id)
      (a := { a with got := a.got ++ (a.inLine vl).map fun o => (o, (s.takeBank a.clu (vl / 1024)).sys.scr a.clu o) })
    exact ⟨rfl, c, hc, fun o ho => hgot ▸ List.mem_append_right _ (List.mem_map_of_mem ho)⟩
  · rw [performScratch_st hop, scratchDone_sys]
    refine ⟨fun c o h => Sys.storeScr_other fun w hw => ?_, fun w hw hline h1 => ?_⟩
    · obtain ⟨hw, hline⟩ := List.mem_filter.1 hw
      exact h w hw (by simpa using hline)
    · refine (hs.sys.modBank (c := a.clu) (b := vl / 1024) (g := fun v => { v with used := some s.sys.now })).storeScr_same ?_
      rw [Access.writesIn, List.filter_filter, ← h1]
      refine List.filter_congr fun u hu => ?_
      by_cases hva : u.va = w.va <;> simp [hva, hline]

end

end Sys2Proof.Machine

namespace Sys2Proof.Machine
open Claims

/-! ### The statement -/

theorem lineEvents : LineEvents := by
  intro s a x vl l hs
  rw [State.form_iff] at hs
  exact ⟨fun hp => ⟨accessPerform_miss hs hp, fun hh hop =>
      ⟨fun hc hk => lineFetch_passes hs hp hh hop hc hk, fun hf hx hr => lineFetch_fails hs hp hh hf hx hr⟩⟩,
    fun ha => ⟨ldeWithdrawal_parked hs ha, ldeWithdrawal_other ha, ldeRetry_sends ha⟩⟩

theorem responseEvents : ResponseEvents := by
  intro s a hs
  rw [State.form_iff] at hs
  refine ⟨fun ha hp hi hpart hd hst _ _ hl =>
      ⟨fun va b m p j hop hv hy hn hm hg ht0 ht1 => accessRetire_ld hs ha hp hi hpart hd hst hl hop hv hy hn hm hg ht0 ht1,
        fun hop _ => accessRetire_st hs ha hp hi hpart hd hst hl hop⟩,
    fun vl ha hl => ⟨execScratchPerform_busy ha hl, scratchPerform_free hs ha hl⟩⟩

/-- Settles O58, event by event: a miss, a fetch that passes and one that fails its checks, a withdrawal, a retry, the response of a load and of
a store, and a scratch access at its bank. -/
theorem lineAndResponseEvents : Obligations.LineAndResponseEvents := by
  unfold Obligations.LineAndResponseEvents
  exact ⟨lineEvents, responseEvents⟩

end Sys2Proof.Machine

namespace Sys2Proof.Machine
open Claims

/-! ## Entries written with another value than a table's default -/

/-- Whatever the order of a table's keys, an entry written with another value than the default is read back. -/
theorem tabGet_set_written {α : Type} [DecidableEq α] {d : α} {t : Tab α} {k : Nat} {v : α} (h : v ≠ d) : tabGet d (tabSet d t k v) k = v := by
  rw [tabSet, if_neg h, tabGet, tabFind_put_same, Option.getD_some]

theorem Sys.thr_setThr_written {y : Sys} {c k : Nat} {v : Thr} (h : v ≠ Thr.reset) : (y.setThr c k v).thr c k = v := tabGet_set_written h

theorem Sys.frame_setFrame_written {y : Sys} {c r n : Nat} {v : BFrame} (h : v ≠ BFrame.reset) : (y.setFrame c r n v).frame c r n = v :=
  tabGet_set_written h

/-! ## The step: the head of the agenda, in its cycle -/

theorem fieldOf_zero (w : Word) (n : Nat) : fieldOf w 0 n = w.toNat % 2 ^ n := by simp [fieldOf]

section
variable {s : State} {d : Nat} {rest : List Work}

/-- Work at the head of the agenda is taken up in its cycle. -/
theorem takeWork_cons {a : Act} (h : s.fly.agenda = { due := d, act := a } :: rest) : takeWork s = (takesUp s d rest, some a) := by
  simp [takeWork, h, takesUp]

/-- An event stands in its latch when it runs. -/
theorem step_ev {i : Instr} {e : Ev} (hh : s.sys.held = false) (h : s.fly.agenda = { due := d, act := .ev i e } :: rest) :
    step s = exec i (latchEvent (takesUp s d rest) e) := by
  simp [step, selectWork, takeWork_cons h, hh]

/-- A live firing, its device awake and its thread not asked to halt, runs the instruction that its word decodes to. -/
theorem step_fire {f : Firing} {i : Instr} (hh : s.sys.held = false) (h : s.fly.agenda = { due := d, act := .fire f } :: rest)
    (hl : firingLive s f = true) (hp : s.sys.pstate.toNat % 8 < 2) (ht : (s.sys.thr f.clu f.frame).halt = 0)
    (hi : decode (fetchWord s f) = .ok i) : step s = exec i (latchFiring (takesUp s d rest) f) := by
  have hl' : firingLive (takesUp s d rest) f = true := hl
  have hp' : ¬ 2 ≤ fieldOf (takesUp s d rest).sys.pstate 0 3 := by rw [fieldOf_zero]; exact Nat.not_le.2 hp
  have ht' : haltsAt (takesUp s d rest) f = false := by
    have : ((takesUp s d rest).sys.thr f.clu f.frame).halt = 0 := ht
    simp [haltsAt, this]
  have hi' : decode (fetchWord (takesUp s d rest) f) = .ok i := hi
  simp [step, selectWork, takeWork_cons h, hh, hl', hp', ht', hi']

/-- In a C state a live firing is offered again in the next cycle (R364). -/
theorem step_fire_asleep {f : Firing} (hh : s.sys.held = false) (h : s.fly.agenda = { due := d, act := .fire f } :: rest)
    (hl : firingLive s f = true) (hp : 2 ≤ s.sys.pstate.toNat % 8) :
    step s = .next ((takesUp s d rest).mapFly fun g => g.sched ((takesUp s d rest).sys.now + 1) (.fire f)) := by
  have hl' : firingLive (takesUp s d rest) f = true := hl
  have hp' : 2 ≤ fieldOf (takesUp s d rest).sys.pstate 0 3 := by rw [fieldOf_zero]; exact hp
  simp [step, selectWork, takeWork_cons h, hh, hl', hp']

end

theorem firingLive_of {s : State} {f : Firing} {n : Inst} (h : s.fly.inst f.clu f.frame = some n) (hs : n.ser = f.ser) :
    firingLive s f = true := by
  simp [firingLive, h, hs]

theorem placeWord_inst (s : State) (w : Word) : (placeWord s w).fly.inst 0 0 = some (placedInst s) := by
  change tabFind (tabPut s.fly.insts 0 (placedInst s)) 0 = _
  exact tabFind_put_same ..

theorem placeWord_thr (s : State) (w : Word) : ((placeWord s w).sys.thr 0 0).halt = 0 := by
  have h : ({ Thr.reset with st := .active } : Thr) ≠ Thr.reset := by simp [Thr.reset]
  exact congrArg Thr.halt (Sys.thr_setThr_written h : ((s.sys.setFrame 0 0 0 _).setThr 0 0 _).thr 0 0 = _)

theorem placeWord_frame (s : State) (w : Word) : ((placeWord s w).sys.frame 0 0 0).word 0 = w := by
  have h : ({ BFrame.reset with st := .resident, words := [0x0002000000000000, 0, w], expect := [0] } : BFrame) ≠ BFrame.reset := by
    simp [BFrame.reset]
  exact congrArg (BFrame.word · 0) (Sys.frame_setFrame_written h : (s.sys.setFrame 0 0 0 _).frame 0 0 0 = _)

/-- The placed word stands in a resident block of an active thread, whose instance is live. -/
theorem step_placeWord {s : State} {w : Word} {i : Instr} (hi : decode w = .ok i) :
    step (placeWord s w) = exec i (latchFiring (takesUp (placeWord s w) s.sys.now s.fly.agenda) (placedFiring s)) := by
  refine step_fire rfl rfl (firingLive_of (placeWord_inst s w) rfl) ?_ ?_ ?_
  · have h0 : fieldOf s.sys.pstate 0 3 = s.sys.pstate.toNat % 8 := fieldOf_zero ..
    change (if 2 ≤ fieldOf s.sys.pstate 0 3 then (0 : Word) else s.sys.pstate).toNat % 8 < 2
    split
    · simp
    · omega
  · exact placeWord_thr s w
  · exact (congrArg decode (placeWord_frame s w)).trans hi

/-- Settles O11: by the branches of `step`, on the head of the agenda. -/
theorem stepRunsTheDecoded : Obligations.StepRunsTheDecoded := by
  unfold Obligations.StepRunsTheDecoded
  refine ⟨fun s d i e rest hh h => step_ev hh h,
    fun s d f rest n i hh h hn hs hp ht hi => step_fire hh h (firingLive_of hn hs) hp ht hi,
    fun s d f rest n hh h hn hs hp => step_fire_asleep hh h (firingLive_of hn hs) hp,
    fun s hh h => ?_, fun s hh => ?_, fun s n w i hi => ⟨_, step_placeWord hi, rfl, ?_⟩⟩
  · simp [step, selectWork, takeWork, hh, h, State.mapSys]
  · simp [step, hh]
  · exact Nat.max_self _

end Sys2Proof.Machine

namespace Sys2Proof.Machine
open Claims

/-! ## Exits: a predicate position that an unpredicated TDONE finds filled

An element-wise exit does not look at its predicate position when it is not predicated (R28), but an instruction with whole positions checks
the format of whatever token stands there (R269). The statement gives TDONE the rule of the others. -/

/-- TDONE, always firing. -/
def plainTdone : XRWord := { h := plainHead .x64, t0 := .none, lsid := 0, fam := false, slot := 0, elem := 0, p := 0 }

/-- A live instance of a task thread fires an instruction that finds an X64 scalar at its predicate position. -/
def stateWithX64Predicate : State :=
  { State.reset with
    sys := { Sys.reset with thrs := [(0, { Thr.reset with task := some 0 })] }
    fly := { Fly.reset with cur := { Firing.none with pred := some (scalarTok 0 0 0 .x64 0) }, insts := [(0, default)] } }

theorem scalarFires_stateWithX64Predicate : scalarFires stateWithX64Predicate plainTdone.h true := by
  refine ⟨fun t ht => ?_, .inl ⟨rfl, rfl⟩⟩
  obtain rfl := List.mem_singleton.1 ht
  rfl

/-- The firing raises FORMAT: its trap is delivered in this cycle. -/
theorem exec_tdone_stateWithX64Predicate :
    ∃ t, exec (.tdone plainTdone) stateWithX64Predicate = .next t ∧ t.fly.agenda.map Work.due = [0] := ⟨_, rfl, rfl⟩

/-- An exit token reaches the commit unit in the next cycle. -/
theorem exits_stateWithX64Predicate :
    ∃ t, exits stateWithX64Predicate 1 0 0 = .next t ∧ t.fly.agenda.map Work.due = [1] := ⟨_, rfl, rfl⟩

/-- Refutes O43: by `ExitResults`, an unpredicated TDONE of a task thread that finds a scalar X64 token at its predicate position sends its exit;
the model raises FORMAT for that token (R269). -/
theorem not_exitSpawnAndEmitResults : ¬ Obligations.ExitSpawnAndEmitResults := by
  intro ⟨_, hexit, _⟩
  obtain ⟨_, _, htdone⟩ := hexit stateWithX64Predicate default default plainTdone
  obtain ⟨hsent, _⟩ := htdone true scalarFires_stateWithX64Predicate
  have heq := hsent rfl
  obtain ⟨t, ht, hdue⟩ := exec_tdone_stateWithX64Predicate
  obtain ⟨u, hu, hdue'⟩ := exits_stateWithX64Predicate
  rw [ht, if_pos rfl, hu, Host.Outcome.next.injEq] at heq
  rw [heq, hdue'] at hdue
  exact absurd hdue (by decide)

end Sys2Proof.Machine

namespace Sys2Proof.Machine
open Claims

/-! ## Operands and predicates

### Operand formats (R31, R343) -/

/-- The conversion table is the model's and the manual's alike. -/
theorem convert_isSome (mv : Bool) (ty : Fmt) (ac : Bool) (f : Fmt) : (convert mv ty ac f).isSome = accepts ty ac f := by
  cases ac
  · by_cases h : f = ty <;> simp [convert, accepts, h]
  · cases ty <;> cases f <;> rfl

theorem operand_accepted {c : Firing} {h : Head} {t : Token} (mv : Bool) (ha : accepts h.ty h.ac t.fmt = true) :
    ∃ g : Word → Word, operand c h mv (some t) = .ok (t.elems.map g) := by
  rw [← convert_isSome mv, Option.isSome_iff_exists] at ha
  obtain ⟨g, hg⟩ := ha
  exact ⟨g, by simp only [operand, hg]⟩

theorem operand_not_accepted {c : Firing} {h : Head} {t : Token} (mv : Bool) (ha : accepts h.ty h.ac t.fmt = false) :
    operand c h mv (some t) = .error (c.format t h.ty) := by
  rw [← convert_isSome mv, Option.isSome_eq_false_iff, Option.isNone_iff_eq_none] at ha
  exact operand_format mv ha

theorem isFormat_format (c : Firing) (t : Token) (ty : Fmt) : isFormat (c.format t ty) := ⟨rfl, rfl⟩

theorem isFormat_of_operand {c : Firing} {h : Head} {mv : Bool} {o : Option Token} {r : TrapRec} (ho : operand c h mv o = .error r) : isFormat r := by
  cases o with
  | none => cases ho
  | some t =>
    cases hc : convert mv h.ty h.ac t.fmt with
    | some g => simp [operand, hc] at ho
    | none =>
      rw [operand_format mv hc] at ho
      cases ho
      exact isFormat_format ..

theorem isFormat_of_operandOf {c : Firing} {h : Head} {fs : List Fmt} {o : Option Token} {r : TrapRec} (ho : operandOf c h fs o = .error r) :
    isFormat r := by
  cases o with
  | none => cases ho
  | some t =>
    rw [operandOf] at ho
    split at ho <;> cases ho
    exact isFormat_format ..

theorem operandFormats : OperandFormats := by
  intro c h mv t
  refine ⟨operand_accepted mv, fun ha => ?_, fun hac hf hty => ?_, fun hf hmv => ?_⟩
  · rw [operand_not_accepted mv ha]
    simp [Firing.format, Firing.contained, Nat.mul_comm]
  · simp only [operand, convert, hac, hf, hty]
    rfl
  · have hg : (h.ty.narrow && !mv) = false := by rcases hmv with h | h <;> simp [h]
    simp [operand, convert, hf, hg]

/-! ### Predicates (R28, R223) -/

theorem Token.elems_map_bit {t : Token} (hf : t.fmt = .prd) (g : Bool → Bool) :
    (t.elems.map fun x => g (x.getLsbD 0)) = (List.range (t.len + 1)).map fun e => g (t.data.getLsbD e) := by
  simp only [Token.elems, Token.n, List.map_map, Function.comp_def, Token.elem_prd hf]

/-- An element fires by its own predicate bit. -/
theorem firedMask_prd {c : Firing} {h : Head} {t : Token} (hp : h.pred ≠ .always) (hc : c.pred = some t) (hf : t.fmt = .prd) :
    firedMask c h = .ok ((List.range (t.len + 1)).map fun e => t.data.getLsbD e == (h.pred == .onTrue)) := by
  rw [← Token.elems_map_bit hf (· == (h.pred == .onTrue))]
  unfold firedMask
  split
  · exact absurd ‹h.pred = .always› hp
  · simp [hc] at *
  · obtain rfl := Option.some.inj (hc.symm.trans ‹c.pred = some _›)
    simp [hf]

theorem firedMask_format {c : Firing} {h : Head} {t : Token} (hp : h.pred ≠ .always) (hc : c.pred = some t) (hf : t.fmt ≠ .prd) :
    firedMask c h = .error (c.format t h.ty) := by
  unfold firedMask
  split
  · exact absurd ‹h.pred = .always› hp
  · simp [hc] at *
  · obtain rfl := Option.some.inj (hc.symm.trans ‹c.pred = some _›)
    simp [hf]

/-- A predicate bit that is FALSE's at `onTrue` and TRUE's at `onFalse` does not match. -/
theorem pred_mismatch {p : Pred} (hp : p ≠ .always) : ((p == .onFalse) == (p == .onTrue)) = false := by
  cases p
  · exact absurd rfl hp
  · rfl
  · rfl

theorem masked_replicate_false (n : Nat) (xs : List Word) : masked (List.replicate n false) xs = List.replicate (min n xs.length) none := by
  induction n generalizing xs with
  | zero => simp [masked]
  | succ n ih =>
    cases xs with
    | nil => simp [List.replicate_succ, masked]
    | cons x xs => simp [List.replicate_succ, masked, ih, Nat.succ_min_succ]

theorem groupRuns_replicate_none {α : Type} (b n : Nat) : groupRuns b (List.replicate n (none : Option α)) = [] := by
  induction n generalizing b with
  | zero => rfl
  | succ n ih => simp [List.replicate_succ, groupRuns, ih]

theorem resultToks_replicate_none (c : Firing) (out : Fmt) (n : Nat) : resultToks c out (List.replicate n none) = [] := by
  unfold resultToks
  split
  · simp [groupRuns_replicate_none]
  · cases n <;> rfl

/-- A firing that yields nothing leaves the machine as it was. -/
theorem finish_off {s : State} {q : FireRes} (hq : q = .ok s.fly) : finish s q = .next s := by rw [hq, finish_ok]

/-- Elements of which none fires send nothing. -/
theorem mapBinary_none_fires {s : State} {h : Head} {mv : Bool} {xs ys : List Word} {n : Nat} (out : Fmt) (lat : Nat) (tg : List Target)
    (g : Nat → Word → Word → Word) (hx : operand s.fly.cur h mv s.fly.cur.left = .ok xs)
    (hy : operand s.fly.cur h mv s.fly.cur.right = .ok ys) (hm : firedMask s.fly.cur h = .ok (List.replicate n false)) :
    mapBinary s h mv out lat tg g = .ok s.fly := by
  rw [mapBinary_ok out lat tg g hx hy hm, masked_replicate_false, resultToks_replicate_none, sendAll_nil]

theorem predicateSelects : PredicateSelects := by
  refine ⟨fun c h t hp hc => ⟨firedMask_prd hp hc, fun hf => ⟨_, isFormat_format .., firedMask_format hp hc hf⟩⟩, ?_⟩
  intro s x t hp hc hf hbits ⟨xs, hx⟩ ⟨ys, hy⟩
  have hm : firedMask s.fly.cur x.h = .ok (List.replicate (t.len + 1) false) := by
    rw [firedMask_prd hp hc hf]
    refine congrArg Except.ok (List.eq_replicate_iff.2 ⟨by simp, fun b hb => ?_⟩)
    obtain ⟨e, he, rfl⟩ := List.mem_map.1 hb
    rw [hbits e (Nat.le_of_lt_succ (List.mem_range.1 he)), pred_mismatch hp]
  have off (out lat g) := mapBinary_none_fires out lat x.targets g hx hy hm
  exact ⟨finish_off (by rw [intS, off]), finish_off (by rw [intS, off]), finish_off (by rw [compareS, off]), finish_off (by rw [fpB, off])⟩

/-! ### Instructions that take scalars only (R223) -/

section
variable {s : State} {h : Head}

theorem scalarFire_vec (hv : ∃ t ∈ s.fly.cur.toks, t.vec = true) : ∃ r, isFormat r ∧ ∀ k, scalarFire s h k = .trap r := by
  obtain ⟨t, ht⟩ := Option.isSome_iff_exists.1 (List.find?_isSome.2 hv)
  exact ⟨_, isFormat_format s.fly.cur t h.ty, fun k => by simp only [scalarFire, ht]⟩

theorem exitLeft_vec (hv : ∃ t ∈ s.fly.cur.toks, t.vec = true) (k : Word → FireRes) : ∃ r, isFormat r ∧ exitLeft s h k = .trap r := by
  cases ho : operandOf s.fly.cur h [.x64] s.fly.cur.left with
  | error r => exact ⟨r, isFormat_of_operandOf ho, by simp only [exitLeft, ho]⟩
  | ok xs =>
    obtain ⟨r, hr, hk⟩ := scalarFire_vec (h := h) hv
    exact ⟨r, hr, by simp only [exitLeft, ho, hk]⟩

theorem spawnFire_vec (hv : ∃ t ∈ s.fly.cur.toks, t.vec = true) (x : GWord) : ∃ r, isFormat r ∧ spawnFire s x = .trap r := by
  cases hl : operand s.fly.cur x.h false s.fly.cur.left with
  | error r => exact ⟨r, isFormat_of_operand hl, by simp only [spawnFire, hl]⟩
  | ok xs =>
    cases hr : operand s.fly.cur x.h false s.fly.cur.right with
    | error r => exact ⟨r, isFormat_of_operand hr, by simp only [spawnFire, hl, hr]⟩
    | ok ys =>
      obtain ⟨r, hf, hk⟩ := scalarFire_vec (h := x.h) hv
      exact ⟨r, hf, by simp only [spawnFire, hl, hr, hk]⟩

theorem finish_traps {q : FireRes} (hq : ∃ r, isFormat r ∧ q = .trap r) : ∃ r, isFormat r ∧ finish s q = traps s r := by
  obtain ⟨r, hr, rfl⟩ := hq
  exact ⟨r, hr, rfl⟩

theorem finish_scalarFire_vec (hv : ∃ t ∈ s.fly.cur.toks, t.vec = true) (k : FireRes) :
    ∃ r, isFormat r ∧ finish s (scalarFire s h k) = traps s r := by
  obtain ⟨r, hr, hk⟩ := scalarFire_vec (h := h) hv
  exact finish_traps ⟨r, hr, hk k⟩

end

theorem scalarOnlyFormat : ScalarOnlyFormat := by
  intro s x y z hv
  simp only [List.forall_mem_cons, List.not_mem_nil, false_implies, implies_true, and_true]
  exact ⟨finish_scalarFire_vec hv _, finish_scalarFire_vec hv _, finish_scalarFire_vec hv _, finish_traps (exitLeft_vec hv _),
    finish_traps (exitLeft_vec hv _), finish_scalarFire_vec hv _, finish_scalarFire_vec hv _, finish_traps (spawnFire_vec hv x)⟩

/-! ### Instructions with whole positions that do not fire (R28, R269) -/

/-- An operand that is missing, or a scalar of the instruction's type. -/
def plainOperand (h : Head) (o : Option Token) : Prop := ∀ t, o = some t → t.vec = false ∧ t.fmt = h.ty

end Sys2Proof.Machine

namespace Sys2Proof.Claims
open Machine

theorem plainOperands.left {s : State} {h : Head} (hp : plainOperands s h) : plainOperand h s.fly.cur.left := fun t ht => hp t (.inl ht)
theorem plainOperands.right {s : State} {h : Head} (hp : plainOperands s h) : plainOperand h s.fly.cur.right := fun t ht => hp t (.inr ht)

end Sys2Proof.Claims

namespace Sys2Proof.Machine
open Claims

namespace plainOperand
variable {h : Head} {o : Option Token} (hp : plainOperand h o) (c : Firing)
include hp

theorem operand_ok (mv : Bool) : ∃ xs, operand c h mv o = .ok xs := by
  cases o with
  | none => exact ⟨_, rfl⟩
  | some t =>
    obtain ⟨g, hg⟩ := operand_accepted (c := c) (h := h) (t := t) mv (by simp [accepts, (hp t rfl).2])
    exact ⟨_, hg⟩

theorem operandOf_ok : ∃ xs, operandOf c h [h.ty] o = .ok xs := by
  cases o with
  | none => exact ⟨_, rfl⟩
  | some t => exact ⟨t.elems, by simp [operandOf, (hp t rfl).2]⟩

theorem scalarOnly_ok : scalarOnly c h o = .ok () := by
  cases o with
  | none => rfl
  | some t => simp [scalarOnly, (hp t rfl).1]

theorem scalarOp_ok : ∃ w, scalarOp c h o = .ok w := by
  obtain ⟨xs, hx⟩ := hp.operand_ok c false
  exact ⟨_, by simp only [scalarOp, hp.scalarOnly_ok c, hx]; rfl⟩

theorem scalarOpOf_ok {f : Fmt} (hf : h.ty = f) : ∃ w, scalarOpOf c h f o = .ok w := by
  obtain ⟨xs, hx⟩ := hp.operandOf_ok c
  exact ⟨_, by simp only [scalarOpOf, hp.scalarOnly_ok c, ← hf, hx]; rfl⟩

theorem addrWords_ok (hx : h.ty = .x64) : ∃ ws, addrWords c h o = .ok ws := by
  cases o with
  | none => exact ⟨_, rfl⟩
  | some t => exact ⟨_, by rw [addrWords, if_pos ((hp t rfl).2.trans hx)]⟩

end plainOperand

section
variable {s : State} {h : Head}

theorem dataOp_ok (hp : plainOperands s h) (scalar : Bool) : ∃ ds, dataOp s.fly.cur h scalar = .ok ds := by
  obtain ⟨ds, hd⟩ := hp.right.operand_ok s.fly.cur true
  refine ⟨ds, ?_⟩
  cases scalar
  · simp only [dataOp, hd, Bool.false_eq_true, if_false]
  · simp only [dataOp, hd, if_true, hp.right.scalarOnly_ok s.fly.cur]

end

end Sys2Proof.Machine

namespace Sys2Proof.Claims
open Machine

namespace wholeFires
variable {s : State} {h : Head} (hw : wholeFires s h false)
include hw

/-- An instruction whose predicate does not match produces nothing, whatever it would have done. -/
theorem predFire (k : FireRes) : predFire s h k = .ok s.fly := by
  obtain ⟨-, hf⟩ | ⟨t, hc, hv, hf, hb⟩ := hw
  · cases hf
  obtain ⟨hp, hbit⟩ := Bool.or_eq_false_iff.1 hb.symm
  have hm := firedMask_prd (c := { s.fly.cur with left := none, right := none }) (of_decide_eq_false hp) hc hf
  simp only [Machine.predFire, hm]
  simp only [hc, hv, hf, List.range_succ_eq_map, List.map_cons, List.headD_cons, hbit]
  rfl

theorem onAcc (p : Nat) (k : PAcc → FireRes) : onAcc s h p k = .ok s.fly := hw.predFire _

theorem onLanes {n : Nat} {base : Except TrapRec Word} (hb : ∃ b, base = .ok b) (k : Nat → FireRes) : onLanes s h n base k = .ok s.fly := by
  obtain ⟨b, rfl⟩ := hb
  exact hw.predFire _

section
variable (hp : plainOperands s h)
include hp

theorem onTrigger (k : FireRes) : onTrigger s h k = .ok s.fly := by
  simp only [Machine.onTrigger, hp.left.scalarOnly_ok s.fly.cur, hw.predFire]

theorem onScalars (k : Word → Word → FireRes) : onScalars s h k = .ok s.fly := by
  obtain ⟨l, hl⟩ := hp.left.scalarOp_ok s.fly.cur
  obtain ⟨r, hr⟩ := hp.right.scalarOp_ok s.fly.cur
  simp only [Machine.onScalars, hl, hr, hw.predFire]

variable (hx : h.ty = .x64)
include hx

theorem onWords (k : Word → Word → FireRes) : onWords s h k = .ok s.fly := by
  obtain ⟨l, hl⟩ := hp.left.scalarOpOf_ok s.fly.cur hx
  obtain ⟨r, hr⟩ := hp.right.scalarOpOf_ok s.fly.cur hx
  simp only [Machine.onWords, hl, hr, hw.predFire]

theorem onAddrWord (k : Word → Word → FireRes) : onAddrWord s h k = .ok s.fly := by
  obtain ⟨ws, hl⟩ := hp.left.addrWords_ok s.fly.cur hx
  obtain ⟨r, hr⟩ := hp.right.scalarOpOf_ok s.fly.cur hx
  simp only [Machine.onAddrWord, hp.left.scalarOnly_ok s.fly.cur, hl, hr, hw.predFire]

theorem onHandle (k : Nat → Pin → Word → FireRes) : onHandle s h k = .ok s.fly := hw.onWords hp hx _

end

end wholeFires

/-! ### Multiplier bank instructions that do not fire -/

namespace wholeFires
variable {s : State} {x : XWWord} (hw : wholeFires s x.h false)
include hw

theorem guardFire : guardFire s x = .ok s.fly := by rw [Machine.guardFire, hw.onAcc]
theorem pclrFire (free : Bool) : pclrFire s x free = .ok s.fly := by rw [Machine.pclrFire, hw.onAcc]
theorem pstatFire : pstatFire s x = .ok s.fly := by rw [Machine.pstatFire, hw.predFire]
theorem zallocFire : zallocFire s x = .ok s.fly := by rw [Machine.zallocFire, hw.predFire]

variable (hp : plainOperands s x.h)
include hp

theorem packsFire : packsFire s x = .ok s.fly := by
  obtain ⟨xs, hl⟩ := hp.left.operand_ok s.fly.cur false
  simp only [Machine.packsFire, hl, hw.predFire]

theorem packlFire : packlFire s x = .ok s.fly := by
  obtain ⟨xs, hl⟩ := hp.left.operand_ok s.fly.cur false
  obtain ⟨ys, hr⟩ := hp.right.operand_ok s.fly.cur false
  simp only [Machine.packlFire, hl, hr, hw.predFire]

theorem wmulFire (conv : Bool) : wmulFire s x conv = .ok s.fly := by
  obtain ⟨a, hl⟩ := hp.left.scalarOp_ok s.fly.cur
  obtain ⟨ys, hr⟩ := hp.right.operand_ok s.fly.cur false
  simp only [Machine.wmulFire, hl, hr, hw.onAcc]

theorem wmulfFire (cplx : Bool) : wmulfFire s x cplx = .ok s.fly := by
  obtain ⟨a, hl⟩ := hp.left.scalarOp_ok s.fly.cur
  obtain ⟨ys, hr⟩ := hp.right.operand_ok s.fly.cur false
  simp only [Machine.wmulfFire, hl, hr, hw.onAcc]

theorem xtrFire : xtrFire s x = .ok s.fly := by
  obtain ⟨a, hl⟩ := hp.left.scalarOp_ok s.fly.cur
  simp only [Machine.xtrFire, hl, hw.onAcc]

theorem xtrfFire : xtrfFire s x = .ok s.fly := by
  obtain ⟨a, hl⟩ := hp.left.scalarOp_ok s.fly.cur
  simp only [Machine.xtrfFire, hl, hw.onAcc]

theorem zrdFire : zrdFire s x = .ok s.fly := by rw [Machine.zrdFire, hw.onLanes (hp.left.scalarOp_ok _)]

theorem zwrFire : zwrFire s x = .ok s.fly := by
  obtain ⟨a, hl⟩ := hp.left.scalarOp_ok s.fly.cur
  obtain ⟨ys, hr⟩ := hp.right.operand_ok s.fly.cur false
  simp only [Machine.zwrFire, hl, hr, hw.predFire]

theorem zcvtFire (hright : s.fly.cur.right = none) (hx : x.h.ty = .x64) : zcvtFire s x = .ok s.fly := by
  rw [Machine.zcvtFire, hright]
  exact hw.onLanes (hp.left.scalarOpOf_ok _ hx) _

theorem exec_wide : ∀ i ∈
    [Instr.guard x, .packs x, .packl x, .wmul x, .wconv x, .wmulf x, .wmulz x, .pclr x, .pclrFree x, .pstat x, .zalloc x, .xtr x, .xtrf x, .zfree x,
      .zclr x, .zrd x, .zwr x], exec i s = .next s := by
  simp only [List.forall_mem_cons, List.not_mem_nil, false_implies, implies_true, and_true]
  have base := hp.left.scalarOp_ok s.fly.cur
  exact ⟨finish_off hw.guardFire, finish_off (hw.packsFire hp), finish_off (hw.packlFire hp), finish_off (hw.wmulFire hp _),
    finish_off (hw.wmulFire hp _), finish_off (hw.wmulfFire hp _), finish_off (hw.wmulfFire hp _), finish_off (hw.pclrFire _),
    finish_off (hw.pclrFire _), finish_off hw.pstatFire, finish_off hw.zallocFire, finish_off (hw.xtrFire hp), finish_off (hw.xtrfFire hp),
    finish_off (hw.onLanes base _), finish_off (hw.onLanes base _), finish_off (hw.zrdFire hp), finish_off (hw.zwrFire hp)⟩

end wholeFires

/-! ### Ring instructions that do not fire -/

namespace wholeFires
variable {s : State} {x : XRWord} (hw : wholeFires s x.h false)
include hw

theorem tmclrFire : tmclrFire s x = .ok s.fly := by rw [Machine.tmclrFire, hw.predFire]
theorem tgoFire : tgoFire s x = .ok s.fly := by rw [Machine.tgoFire, hw.predFire]
theorem trecallFire : trecallFire s x = .ok s.fly := by rw [Machine.trecallFire, hw.predFire]

variable (hp : plainOperands s x.h)
include hp

theorem tmatchFire : tmatchFire s x = .ok s.fly := by
  obtain ⟨l, hl⟩ := hp.left.scalarOp_ok s.fly.cur
  obtain ⟨rs, hr⟩ := hp.right.operand_ok s.fly.cur false
  simp only [Machine.tmatchFire, hl, hr, hw.predFire]

theorem tpassFire : tpassFire s x = .ok s.fly := by
  obtain ⟨l, hl⟩ := hp.left.scalarOp_ok s.fly.cur
  simp only [Machine.tpassFire, hl, hw.predFire]

variable (hx : x.h.ty = .x64)
include hx

theorem tstageFire : tstageFire s x = .ok s.fly := by
  obtain ⟨ws, hl⟩ := hp.left.addrWords_ok s.fly.cur hx
  simp only [Machine.tstageFire, hp.left.scalarOnly_ok s.fly.cur, hl, hw.predFire]

theorem tldFire : tldFire s x = .ok s.fly := by
  obtain ⟨us, hl⟩ := hp.left.operandOf_ok s.fly.cur
  rw [hx] at hl
  simp only [Machine.tldFire, hp.left.scalarOnly_ok s.fly.cur, hl, hw.predFire]

theorem exec_ring : ∀ i ∈ [Instr.tstage x, .tmatch x, .tmclr x, .tgo x, .tld x, .tdone x, .trstat x, .trecall x, .tpass x], exec i s = .next s := by
  simp only [List.forall_mem_cons, List.not_mem_nil, false_implies, implies_true, and_true]
  exact ⟨finish_off (hw.tstageFire hp hx), finish_off (hw.tmatchFire hp), finish_off hw.tmclrFire, finish_off hw.tgoFire,
    finish_off (hw.tldFire hp hx), finish_off (hw.predFire _), finish_off (hw.predFire _), finish_off hw.trecallFire, finish_off (hw.tpassFire hp)⟩

end wholeFires

/-! ### General instructions that do not fire -/

namespace wholeFires
variable {s : State} {x : GWord} (hw : wholeFires s x.h false)
include hw

theorem mrecvFire : mrecvFire s x = .ok s.fly := by rw [Machine.mrecvFire, hw.predFire]
theorem mpollFire : mpollFire s x = .ok s.fly := by rw [Machine.mpollFire, hw.predFire]
theorem fpopFire : fpopFire s x = .ok s.fly := by rw [Machine.fpopFire, hw.predFire]
theorem tretFire : tretFire s x = .ok s.fly := by rw [Machine.tretFire, hw.predFire]
theorem queueFire (e : Nat → Nat → Eff) : queueFire s x e = .ok s.fly := by rw [Machine.queueFire, hw.predFire]
theorem colourFire (e : Nat → Nat → Eff) : colourFire s x e = .ok s.fly := by rw [Machine.colourFire, hw.predFire]
theorem ctxFire (e : Nat → Eff) : ctxFire s x e = .ok s.fly := by rw [Machine.ctxFire, hw.predFire]
theorem onUnit (k : Nat → FireRes) : onUnit s x k = .ok s.fly := by rw [Machine.onUnit, hw.predFire]

variable (hp : plainOperands s x.h)
include hp

theorem onTransfer (k : Word → FireRes) : onTransfer s x k = .ok s.fly := by rw [Machine.onTransfer, hw.onScalars hp]
theorem waittFire : waittFire s x = .ok s.fly := by rw [Machine.waittFire, hw.onTransfer hp]
theorem cpstFire : cpstFire s x = .ok s.fly := by rw [Machine.cpstFire, hw.onTransfer hp]
theorem bankmFire : bankmFire s x = .ok s.fly := by rw [Machine.bankmFire, hw.onScalars hp]
theorem baraFire : baraFire s x = .ok s.fly := by rw [Machine.baraFire, hw.onTrigger hp]
theorem barwFire : barwFire s x = .ok s.fly := by rw [Machine.barwFire, hw.onScalars hp]

theorem leftOr (lo n : Nat) (k : Nat → FireRes) : leftOr s x lo n k = .ok s.fly := by
  obtain ⟨l, hl⟩ := hp.left.scalarOp_ok s.fly.cur
  simp only [Machine.leftOr, hl, hw.predFire]

theorem joinFire : joinFire s x = .ok s.fly := by rw [Machine.joinFire, hw.leftOr hp]
theorem leaveFire : leaveFire s x = .ok s.fly := by rw [Machine.leaveFire, hw.leftOr hp]
theorem grpqFire : grpqFire s x = .ok s.fly := by rw [Machine.grpqFire, hw.leftOr hp]

theorem fpushFire : fpushFire s x = .ok s.fly := by
  obtain ⟨ds, hl⟩ := hp.left.operand_ok s.fly.cur true
  simp only [Machine.fpushFire, hl, hw.predFire]

theorem launchFire : launchFire s x = .ok s.fly := by
  obtain ⟨ws, hl⟩ := hp.left.operand_ok s.fly.cur false
  simp only [Machine.launchFire, hl, hw.predFire]

theorem trapFire : trapFire s x = .ok s.fly := by
  obtain ⟨l, hl⟩ := hp.left.scalarOp_ok s.fly.cur
  simp only [Machine.trapFire, hl, hw.predFire]

theorem recordFire (e : Nat → Eff) : recordFire s x e = .ok s.fly := by
  obtain ⟨l, hl⟩ := hp.left.scalarOp_ok s.fly.cur
  simp only [Machine.recordFire, hl, hw.predFire]

theorem monArmFire : monArmFire s x = .ok s.fly := by
  obtain ⟨l, hl⟩ := hp.left.scalarOp_ok s.fly.cur
  simp only [Machine.monArmFire, hl, hw.onUnit]

variable (hx : x.h.ty = .x64)
include hx

theorem snewFire : snewFire s x = .ok s.fly := by rw [Machine.snewFire, hw.onWords hp hx]
theorem sfreeFire : sfreeFire s x = .ok s.fly := by rw [Machine.sfreeFire, hw.onWords hp hx]
theorem sidxFire : sidxFire s x = .ok s.fly := by rw [Machine.sidxFire, hw.onHandle hp hx]
theorem snextFire : snextFire s x = .ok s.fly := by rw [Machine.snextFire, hw.onHandle hp hx]

theorem msendFire : msendFire s x = .ok s.fly := by
  obtain ⟨l, hl⟩ := hp.left.scalarOpOf_ok s.fly.cur hx
  obtain ⟨ds, hr⟩ := hp.right.operand_ok s.fly.cur true
  simp only [Machine.msendFire, hl, hr, hw.predFire]

theorem exec_general : ∀ i ∈
    [Instr.snew x, .sidx x, .slen x, .snext x, .sfree x, .msend x, .mrecv x, .mpoll x, .waitt x, .cpst x, .bankm x, .fpush x, .fpop x, .bariCnt x,
      .bariGrp x, .bariFree x, .bara x, .barw x, .baraw x, .join x, .leave x, .grpq x, .mfs x, .mts x, .trap x, .tret x, .launch x, .qsusp x,
      .qresQ x, .qresCol x, .qresCtx x, .drainCol x, .drainCtx x, .cfgld x, .cfgldRt x, .relat x, .monArm x, .monRead x, .monClear x, .monStop x],
    exec i s = .next s := by
  simp only [List.forall_mem_cons, List.not_mem_nil, false_implies, implies_true, and_true]
  exact ⟨finish_off (hw.snewFire hp hx), finish_off (hw.sidxFire hp hx), finish_off (hw.onHandle hp hx _), finish_off (hw.snextFire hp hx),
    finish_off (hw.sfreeFire hp hx), finish_off (hw.msendFire hp hx), finish_off hw.mrecvFire, finish_off hw.mpollFire,
    finish_off (hw.waittFire hp), finish_off (hw.cpstFire hp), finish_off (hw.bankmFire hp), finish_off (hw.fpushFire hp), finish_off hw.fpopFire,
    finish_off (hw.leftOr hp _ _ _), finish_off (hw.leftOr hp _ _ _), finish_off (hw.onTrigger hp _), finish_off (hw.baraFire hp),
    finish_off (hw.barwFire hp), finish_off (hw.onTrigger hp _), finish_off (hw.joinFire hp), finish_off (hw.leaveFire hp),
    finish_off (hw.grpqFire hp), finish_off (hw.onTrigger hp _), finish_off (hw.onScalars hp _), finish_off (hw.trapFire hp),
    finish_off hw.tretFire, finish_off (hw.launchFire hp), finish_off (hw.queueFire _), finish_off (hw.queueFire _),
    finish_off (hw.colourFire _), finish_off (hw.ctxFire _), finish_off (hw.colourFire _), finish_off (hw.ctxFire _),
    finish_off (hw.recordFire hp _), finish_off (hw.recordFire hp _), finish_off (hw.recordFire hp _), finish_off (hw.monArmFire hp),
    finish_off (hw.onUnit _), finish_off (hw.onUnit _), finish_off (hw.onUnit _)⟩

end wholeFires

/-! ### Memory instructions that do not fire -/

namespace wholeFires
variable {s : State} {x : MWord} (hw : wholeFires s x.h false) (hp : plainOperands s x.h) (hx : x.h.ty = .x64)
include hw hp hx

theorem onAddr (mf scalar : Bool) (k : Nat → Nat → List Word → FireRes) : onAddr s x mf scalar k = .ok s.fly := by
  obtain ⟨ws, hl⟩ := hp.left.addrWords_ok s.fly.cur hx
  obtain ⟨ds, hr⟩ := dataOp_ok hp scalar
  simp only [Machine.onAddr, hp.left.scalarOnly_ok s.fly.cur, hl, hr, hw.predFire]

theorem loadFire (n : Nat) (vec : Bool) : loadFire s x n vec = .ok s.fly := by rw [Machine.loadFire, hw.onAddr hp hx]
theorem storeFire (scalar : Bool) : storeFire s x scalar = .ok s.fly := by rw [Machine.storeFire, hw.onAddr hp hx]
theorem wordFire (op : AccOp) (released : Bool) : wordFire s x op released = .ok s.fly := by rw [Machine.wordFire, hw.onAddr hp hx]
theorem atomFire (op : Atom) : atomFire s x op = .ok s.fly := by rw [Machine.atomFire, hw.onAddr hp hx]
theorem copyFire (t : Bool) : copyFire s x t = .ok s.fly := by rw [Machine.copyFire, hw.onAddr hp hx]
theorem spliceFire : spliceFire s x = .ok s.fly := by rw [Machine.spliceFire, hw.onAddrWord hp hx]
theorem spinFire : spinFire s x = .ok s.fly := by rw [Machine.spinFire, hw.onAddrWord hp hx]
theorem sunpinFire : sunpinFire s x = .ok s.fly := by rw [Machine.sunpinFire, hw.onHandle hp hx]

theorem prefFire : prefFire s x = .ok s.fly := by
  obtain ⟨ws, hl⟩ := hp.left.addrWords_ok s.fly.cur hx
  simp only [Machine.prefFire, hl, hw.predFire]

theorem fenceFire (op : AccOp) : fenceFire s x op = .ok s.fly := by
  obtain ⟨ws, hl⟩ := hp.left.addrWords_ok s.fly.cur hx
  simp only [Machine.fenceFire, hl, hw.predFire]

theorem exec_memory : ∀ i ∈
    [Instr.splice x, .spin x, .sunpin x, .ld x, .st x, .ldv x, .stv x, .pref x, .lde x, .stf x, .clrf x, .aadd x, .amin x, .amax x, .aminn x,
      .amaxn x, .aand x, .aor x, .axor x, .aswp x, .acas x, .afadd x, .fence x, .fencea x, .copy x, .copyt x], exec i s = .next s := by
  simp only [List.forall_mem_cons, List.not_mem_nil, false_implies, implies_true, and_true]
  have atom (op : Atom) := finish_off (hw.atomFire hp hx op)
  exact ⟨finish_off (hw.spliceFire hp hx), finish_off (hw.spinFire hp hx), finish_off (hw.sunpinFire hp hx), finish_off (hw.loadFire hp hx _ _),
    finish_off (hw.storeFire hp hx _), finish_off (hw.loadFire hp hx _ _), finish_off (hw.storeFire hp hx _), finish_off (hw.prefFire hp hx),
    finish_off (hw.wordFire hp hx _ _), finish_off (hw.wordFire hp hx _ _), finish_off (hw.wordFire hp hx _ _), atom .add, atom .min, atom .max,
    atom .minn, atom .maxn, atom .and, atom .or, atom .xor, atom .swp, atom .cas, atom .fadd, finish_off (hw.fenceFire hp hx _),
    finish_off (hw.fenceFire hp hx _), finish_off (hw.copyFire hp hx _), finish_off (hw.copyFire hp hx _)⟩

end wholeFires

end Sys2Proof.Claims

namespace Sys2Proof.Machine
open Claims

theorem predicatedOff : PredicatedOff :=
  ⟨fun _ _ hw hp => ⟨hw.exec_wide hp, fun hr hx => finish_off (hw.zcvtFire hp hr hx)⟩, fun _ _ hw hp hx => hw.exec_ring hp hx,
    fun _ _ hw hp hx => hw.exec_general hp hx, fun _ _ hw hp hx => hw.exec_memory hp hx⟩

/-- Settles O41, part by part: the conversion table, the predicate mask of an element-wise firing, the check of a whole predicate position, and the
check that scalar instructions make first. -/
theorem operandRules : Obligations.OperandRules := by
  unfold Obligations.OperandRules
  exact ⟨operandFormats, predicateSelects, predicatedOff, scalarOnlyFormat⟩

end Sys2Proof.Machine

namespace Sys2Proof.Machine
open Claims

/-! ## Writes to system registers

### Bit fields of a word -/

theorem fieldOf_lt (w : Word) (lo n : Nat) : fieldOf w lo n < 2 ^ n := (w.extractLsb' lo n).isLt

/-- A bit of a word whose field was set: the field's, inside it, and the word's own elsewhere. -/
theorem getLsbD_setField {w : Word} {lo n v i : Nat} (hi : i < 64) :
    (setField w lo n v).getLsbD i = if i < lo then w.getLsbD i else if i < lo + n then v.testBit (i - lo) else w.getLsbD i := by
  have hnum : w.toNat / 2 ^ (lo + n) * 2 ^ (lo + n) + v % 2 ^ n * 2 ^ lo + w.toNat % 2 ^ lo
      = 2 ^ lo * (2 ^ n * (w.toNat / 2 ^ (lo + n)) + v % 2 ^ n) + w.toNat % 2 ^ lo := by rw [Nat.pow_add]; ring
  have hlow : w.toNat % 2 ^ lo < 2 ^ lo := Nat.mod_lt _ (Nat.two_pow_pos lo)
  have hmid : v % 2 ^ n < 2 ^ n := Nat.mod_lt _ (Nat.two_pow_pos n)
  rw [setField, hnum, BitVec.getLsbD_ofNat, Nat.testBit_two_pow_mul_add _ hlow, Nat.testBit_two_pow_mul_add _ hmid]
  simp only [hi, decide_true, Bool.true_and, Nat.testBit_mod_two_pow, Nat.testBit_div_two_pow, BitVec.testBit_toNat]
  by_cases h1 : i < lo
  · simp [h1]
  · by_cases h2 : i < lo + n
    · have : i - lo < n := by omega
      simp [h1, h2, this]
    · have h3 : ¬ i - lo < n := by omega
      have h4 : i - lo - n + (lo + n) = i := by omega
      simp [h1, h2, h3, h4]

theorem extract_setField_same {w : Word} {lo n v : Nat} (h : lo + n ≤ 64) : (setField w lo n v).extractLsb' lo n = BitVec.ofNat n v := by
  refine BitVec.eq_of_getLsbD_eq fun i hi => ?_
  rw [BitVec.getLsbD_extractLsb', getLsbD_setField (by omega), if_neg (by omega), if_pos (by omega), Nat.add_sub_cancel_left, BitVec.getLsbD_ofNat]

theorem extract_setField_other {w : Word} {lo n v lo' n' : Nat} (h : lo' + n' ≤ 64) (hd : lo' + n' ≤ lo ∨ lo + n ≤ lo') :
    (setField w lo n v).extractLsb' lo' n' = w.extractLsb' lo' n' := by
  ext i hi
  simp only [BitVec.getElem_extractLsb']
  rw [getLsbD_setField (by omega)]
  split
  · rfl
  · rw [if_neg (by omega)]

theorem setField_zero (lo n : Nat) (v : Word) (m : Nat) : setField 0 lo n (fieldOf v m n) = BitVec.ofNat 64 (fieldOf v m n * 2 ^ lo) := by
  simp [setField, Nat.mod_eq_of_lt (fieldOf_lt v m n)]

/-- The low bits of a word. -/
theorem setField_low (v : Word) (n : Nat) : setField 0 0 n (fieldOf v 0 n) = BitVec.ofNat 64 (v.toNat % 2 ^ n) := by
  simp [setField, fieldOf]

theorem ofNat_w1c (n old v : Nat) : BitVec.ofNat n (w1c old v n) = BitVec.ofNat n old &&& ~~~ BitVec.ofNat n v := by
  rw [w1c, BitVec.ofNat_toNat, BitVec.setWidth_eq]

theorem ofNat_fieldOf (w : Word) (lo n : Nat) : BitVec.ofNat n (fieldOf w lo n) = w.extractLsb' lo n := by
  rw [fieldOf, BitVec.ofNat_toNat, BitVec.setWidth_eq]

/-! ### Contexts whose registers may be written (R77) -/

theorem Sys.ctx_setCtx_used {y : Sys} {x : Nat} {v : Ctx} (h : v.st ≠ .free) : (y.setCtx x v).ctx x = v :=
  tabGet_set_written fun hv => h (by rw [hv]; rfl)

theorem Sys.ctx_modCtx_used {y : Sys} {x : Nat} {g : Ctx → Ctx} (h : (g (y.ctx x)).st ≠ .free) : (y.modCtx x g).ctx x = g (y.ctx x) :=
  Sys.ctx_setCtx_used h

theorem mayWriteCtx_live {st : CtxSt} (r : Nat) (h : st = .running ∨ st = .suspended) : mayWriteCtx st r = true := by
  rcases h with rfl | rfl <;> rfl

theorem mayWriteCtx_not_live {st : CtxSt} {r : Nat} (h : ¬ (st = .running ∨ st = .suspended)) (hr : r ∉ [0x044, 0x043, 0x01A]) :
    mayWriteCtx st r = false := by
  cases st <;> simp_all [mayWriteCtx]

theorem mayWriteCtx_iff {st : CtxSt} {r : Nat} (hr : r ∈ [0x044, 0x043, 0x01A]) :
    mayWriteCtx st r = true ↔ (st = .running ∨ st = .suspended) ∨ st = .allocated := by
  cases st <;> simp_all [mayWriteCtx, or_assoc]

theorem st_ne_free_of_mayWriteCtx {st : CtxSt} {r : Nat} (h : mayWriteCtx st r = true) : st ≠ .free := by
  rintro rfl
  cases h

/-! ### The watchdog (R84) -/

theorem Sys.counting_congr {y z : Sys} {x : Nat} (hst : (z.ctx x).st = (y.ctx x).st) (hp : z.pstate = y.pstate) (ht : z.thrs = y.thrs) :
    z.counting x = y.counting x := by
  rw [Sys.counting, Sys.counting, hst, hp, ht]

/-- COUNT as it was written in this cycle. -/
theorem Sys.counted_synced {y : Sys} {x : Nat} (hr : (y.ctx x).wrem = 0) (hs : (y.ctx x).wsince = y.now) :
    y.counted x = (y.ctx x).wcount * 1024 := by
  simp [Sys.counted, hr, hs]

/-- A watchdog that runs expires when COUNT reaches LIMIT. -/
theorem armWatchdog_soon {s : State} {x : Nat} (hl : (s.sys.ctx x).wlimit ≠ 0) (hc : s.sys.counting x = true) :
    soon (s.mapFly (armWatchdog s.sys x)) (max (s.sys.now + 1) (s.sys.now + (s.sys.ctx x).wlimit * 1024 - s.sys.counted x)) .watchdogExpiry
      { ctx := x } := by
  change _ ∈ (armWatchdog s.sys x s.fly).agenda
  rw [armWatchdog, if_pos ⟨hl, hc⟩]
  exact Fly.mem_event_agenda.2 (.inl rfl)

/-- LIMIT and COUNT of context `x` are `limit` and `count`, with no remainder, and the expiry is timed by them. -/
def watchdogSet (s t : State) (x limit count : Nat) : Prop :=
  t.mem = s.mem ∧ t.greg = s.greg ∧ (t.sys.ctx x).wlimit = limit ∧ (t.sys.ctx x).wcount = count ∧ (t.sys.ctx x).wrem = 0 ∧
    (limit ≠ 0 → s.sys.counting x = true →
      soon t (max (s.sys.now + 1) (s.sys.now + limit * 1024 - count * 1024)) .watchdogExpiry { ctx := x })

/-- The watchdog of a context is armed after its registers were written in this cycle. -/
theorem watchdogSet_arm {s : State} {y : Sys} {x limit count : Nat} {v : Ctx} (hx : y.ctx x = v) (hst : v.st = (s.sys.ctx x).st)
    (hl : v.wlimit = limit) (hn : v.wcount = count) (hr : v.wrem = 0) (hs : v.wsince = s.sys.now) (hnow : y.now = s.sys.now)
    (hp : y.pstate = s.sys.pstate) (ht : y.thrs = s.sys.thrs) :
    watchdogSet s (({ s with sys := y } : State).mapFly (armWatchdog y x)) x limit count := by
  subst hx hl hn
  refine ⟨rfl, rfl, rfl, rfl, hr, fun h0 hc => ?_⟩
  have hsoon := armWatchdog_soon (s := { s with sys := y }) h0 ((Sys.counting_congr hst hp ht).trans hc)
  rw [show ({ s with sys := y } : State).sys = y from rfl, Sys.counted_synced hr (hs.trans hnow.symm), hnow] at hsoon
  exact hsoon

section
variable {s : State} {x : Nat} (h : (s.sys.ctx x).st ≠ .free)
include h

theorem kickWdog_ctx : (kickWdog s x).sys.ctx x = { s.sys.ctx x with wcount := 0, wrem := 0, wsince := s.sys.now } :=
  Sys.ctx_modCtx_used (y := s.sys) h

theorem watchdogSet_kickWdog : watchdogSet s (kickWdog s x) x (s.sys.ctx x).wlimit 0 :=
  watchdogSet_arm (kickWdog_ctx h) rfl rfl rfl rfl rfl rfl rfl rfl

theorem writeWdog_ctx (v : Word) : (writeWdog s x v).sys.ctx x
    = { s.sys.ctx x with wlimit := fieldOf v 33 31, wcount := fieldOf v 1 31, wrem := 0, wsince := s.sys.now } := by
  have hsync : (s.sys.wsync x).ctx x = _ := Sys.ctx_modCtx_used (y := s.sys) h
  have hwrite : (writeWdog s x v).sys.ctx x = _ := Sys.ctx_modCtx_used (y := s.sys.wsync x) (by rw [hsync]; exact h)
  rw [hwrite, hsync]

theorem watchdogSet_writeWdog (v : Word) : watchdogSet s (writeWdog s x v) x (fieldOf v 33 31) (fieldOf v 1 31) :=
  watchdogSet_arm (writeWdog_ctx h v) rfl rfl rfl rfl rfl rfl rfl rfl

/-- LIMIT and COUNT are written, then the kick is taken. -/
theorem watchdogSet_kick_writeWdog (v : Word) : watchdogSet s (kickWdog (writeWdog s x v) x) x (fieldOf v 33 31) 0 := by
  have hx := writeWdog_ctx h v
  obtain ⟨hmem, hgreg, hl, hn, hr, hsoon⟩ := watchdogSet_kickWdog (s := writeWdog s x v) (x := x) (by rw [hx]; exact h)
  have hnow : (writeWdog s x v).sys.now = s.sys.now := rfl
  have hc : (writeWdog s x v).sys.counting x = s.sys.counting x := Sys.counting_congr (by rw [hx]) rfl rfl
  rw [hx] at hl hsoon
  rw [hnow, hc] at hsoon
  exact ⟨hmem, hgreg, hl, hn, hr, hsoon⟩

end

/-! ### Registers, one by one -/

section
variable {s : State} {r : Nat}

theorem exec_registerWrite (hid : s.fly.ev.id = r) :
    exec .registerWrite s = .next (writeReg s s.fly.ev.clu s.fly.ev.frm s.fly.ev.ctx r s.fly.ev.p s.fly.ev.word) := by rw [← hid]; rfl

theorem exec_registerWrite_privileged (hp : s.fly.ev.p = true) (hid : s.fly.ev.id = r) :
    exec .registerWrite s = .next (writeReg s s.fly.ev.clu s.fly.ev.frm s.fly.ev.ctx r true s.fly.ev.word) := by
  rw [exec_registerWrite hid, hp]

theorem exec_registerWrite_user (hp : s.fly.ev.p = false) (hid : s.fly.ev.id = r) :
    exec .registerWrite s = .next (writeReg s s.fly.ev.clu s.fly.ev.frm s.fly.ev.ctx r false s.fly.ev.word) := by
  rw [exec_registerWrite hid, hp]

variable (s) (c k x0 : Nat) (v : Word)

/-- User code writes four registers and the kick. -/
theorem writeReg_user_other (h : r ∉ [0x01A, 0x020, 0x021, 0x030, 0x032]) : writeReg s c k x0 r false v = s := by
  simp only [List.mem_cons, List.not_mem_nil, or_false, not_or] at h
  obtain ⟨h1, h2, h3, h4, h5⟩ := h
  simp [writeReg, h1, h2, h3, h4, h5]

theorem writeReg_user_kick :
    writeReg s c k x0 0x01A false v = if v.getLsbD 0 && mayWriteCtx (s.sys.ctx x0).st 0x01A then kickWdog s x0 else s := rfl

end

/-- A kick by user code of its own context's watchdog. -/
theorem userKick {s : State} (hid : s.fly.ev.id = 0x01A) (hp : s.fly.ev.p = false) :
    (s.fly.ev.word.getLsbD 0 = false ∨ mayWriteCtx (s.sys.ctx s.fly.ev.ctx).st 0x01A = false → nothing s .registerWrite) ∧
    (s.fly.ev.word.getLsbD 0 = true → mayWriteCtx (s.sys.ctx s.fly.ev.ctx).st 0x01A = true → ∃ t, exec .registerWrite s = .next t ∧
      watchdogSet s t s.fly.ev.ctx (s.sys.ctx s.fly.ev.ctx).wlimit 0) := by
  rw [nothing, exec_registerWrite_user hp hid, writeReg_user_kick]
  constructor
  · rintro (h | h) <;> simp only [h, Bool.false_and, Bool.and_false, Bool.false_eq_true, if_false]
  · intro h0 hm
    rw [h0, hm]
    exact ⟨_, rfl, watchdogSet_kickWdog (st_ne_free_of_mayWriteCtx hm)⟩

section
variable (s : State) (c k x0 : Nat) (v : Word)

/-! A thread's registers; a frame that is free has none. -/

section
variable {s c k} (hf : (s.sys.thr c k).st ≠ .free)
include hf

theorem writeReg_dphase (p : Bool) : writeReg s c k x0 0x020 p v = { s with sys := s.sys.setThr c k { s.sys.thr c k with dphase := v.setWidth 5 } } :=
  if_neg hf

theorem writeReg_sprog (p : Bool) : writeReg s c k x0 0x021 p v = { s with sys := s.sys.setThr c k { s.sys.thr c k with sprog := v } } :=
  if_neg hf

theorem writeReg_tcause : writeReg s c k x0 0x010 true v
    = { s with sys := s.sys.setThr c k { s.sys.thr c k with tcause := BitVec.ofNat 64 (v.toNat % 2 ^ 17) } } := by
  rw [← setField_low]
  exact if_neg hf

theorem writeReg_tinfo : writeReg s c k x0 0x011 true v = { s with sys := s.sys.setThr c k { s.sys.thr c k with tinfo := v } } := if_neg hf

theorem writeReg_tva : writeReg s c k x0 0x012 true v
    = { s with sys := s.sys.setThr c k { s.sys.thr c k with tva := BitVec.ofNat 64 (v.toNat % 2 ^ 52) } } := by
  rw [← setField_low]
  exact if_neg hf

theorem writeReg_tblk : writeReg s c k x0 0x013 true v
    = { s with sys := s.sys.setThr c k { s.sys.thr c k with tblk := BitVec.ofNat 64 (v.toNat % 2 ^ 52) } } := by
  rw [← setField_low]
  exact if_neg hf

end

/-! A cluster's and the device's registers. -/

theorem writeReg_barsel (p : Bool) : writeReg s c k x0 0x030 p v
    = { s with sys := s.sys.setClu c { s.sys.clu c with barsel := BitVec.ofNat 64 (v.toNat % 2 ^ 9) } } := by
  rw [← setField_low]; rfl

theorem writeReg_bksel (p : Bool) : writeReg s c k x0 0x032 p v
    = { s with sys := s.sys.setClu c { s.sys.clu c with bksel := BitVec.ofNat 64 (v.toNat % 2 ^ 5) } } := by
  rw [← setField_low]; rfl

theorem writeReg_mscfg : writeReg s c k x0 0x048 true v
    = ({ s with sys := s.sys.setClu c { s.sys.clu c with mscfg := BitVec.ofNat 64 (fieldOf v 16 9 * 2 ^ 16) } } : State).mapFly
        (wakeRegions (s.sys.setClu c { s.sys.clu c with mscfg := BitVec.ofNat 64 (fieldOf v 16 9 * 2 ^ 16) }) c) := by
  rw [← setField_zero]; rfl

theorem writeReg_cxsel : writeReg s c k x0 0x040 true v = { s with sys := { s.sys with cxsel := BitVec.ofNat 64 (v.toNat % 2 ^ 4) } } := by
  rw [← setField_low]; rfl

theorem writeReg_ctsel : writeReg s c k x0 0x049 true v = { s with sys := { s.sys with ctsel := BitVec.ofNat 64 (v.toNat % 2 ^ 14) } } := by
  rw [← setField_low]; rfl

theorem writeReg_lattol : writeReg s c k x0 0x060 true v = { s with sys := { s.sys with lattol := BitVec.ofNat 64 (v.toNat % 2 ^ 33) } } := by
  rw [← setField_low]; rfl

/-- `%lnksts` as it is after a write: three groups of its bits are cleared by ones. -/
def lnkWritten (l v : Word) : Word :=
  setField (setField (setField l 48 16 (w1c (fieldOf l 48 16) (fieldOf v 48 16) 16)) 32 16 (w1c (fieldOf l 32 16) (fieldOf v 32 16) 16)) 0 4
    (w1c (fieldOf l 0 4) (fieldOf v 0 4) 4)

theorem writeReg_lnk : writeReg s c k x0 0x050 true v = { s with sys := { s.sys with lnk := lnkWritten s.sys.lnk v } } := rfl

end

/-- A field that is cleared by ones, just written. -/
theorem extract_setField_w1c {w o v : Word} {lo n : Nat} (h : lo + n ≤ 64) :
    (setField w lo n (w1c (fieldOf o lo n) (fieldOf v lo n) n)).extractLsb' lo n = o.extractLsb' lo n &&& ~~~(v.extractLsb' lo n) := by
  rw [extract_setField_same h, ofNat_w1c, ofNat_fieldOf, ofNat_fieldOf]

theorem lnkWritten_fields (l v : Word) :
    (lnkWritten l v).extractLsb' 0 4 = l.extractLsb' 0 4 &&& ~~~(v.extractLsb' 0 4) ∧ (lnkWritten l v).extractLsb' 4 28 = l.extractLsb' 4 28 ∧
    (lnkWritten l v).extractLsb' 32 16 = l.extractLsb' 32 16 &&& ~~~(v.extractLsb' 32 16) ∧
    (lnkWritten l v).extractLsb' 48 16 = l.extractLsb' 48 16 &&& ~~~(v.extractLsb' 48 16) := by
  unfold lnkWritten
  refine ⟨extract_setField_w1c (by decide), ?_, ?_, ?_⟩
  · rw [extract_setField_other (by decide) (by decide), extract_setField_other (by decide) (by decide),
      extract_setField_other (by decide) (by decide)]
  · rw [extract_setField_other (by decide) (by decide), extract_setField_w1c (by decide)]
  · rw [extract_setField_other (by decide) (by decide), extract_setField_other (by decide) (by decide), extract_setField_w1c (by decide)]

/-! A context's registers, written where the state of the context that `%cxsel` names lets them be (R77). -/

section
variable (s : State) (c k x0 : Nat) (v : Word) {x : Nat} (hx : fieldOf s.sys.cxsel 0 4 = x)
include hx

theorem writeReg_stall : ∃ f, writeReg s c k x0 0x018 true v
    = { s with
        sys := if mayWriteCtx (s.sys.ctx x).st 0x018 then s.sys.setCtx x { s.sys.ctx x with stall := v.setWidth 32 } else s.sys
        fly := f } := by
  subst hx
  cases hm : mayWriteCtx (s.sys.ctx (fieldOf s.sys.cxsel 0 4)).st 0x018
  · exact ⟨_, congrArg (fun u : State => u.mapFly (rearmStalls u.sys (fieldOf s.sys.cxsel 0 4))) (if_neg (Bool.eq_false_iff.1 hm))⟩
  · exact ⟨_, congrArg (fun u : State => u.mapFly (rearmStalls u.sys (fieldOf s.sys.cxsel 0 4))) (if_pos hm)⟩

theorem writeReg_ftlim : ∃ f, writeReg s c k x0 0x019 true v
    = { s with
        sys := if mayWriteCtx (s.sys.ctx x).st 0x019 then s.sys.setCtx x { s.sys.ctx x with ftlim := v.setWidth 32 } else s.sys
        fly := f } := by
  subst hx
  cases hm : mayWriteCtx (s.sys.ctx (fieldOf s.sys.cxsel 0 4)).st 0x019
  · exact ⟨_, congrArg (fun u : State => u.mapFly (rearmTickets u.sys (fieldOf s.sys.cxsel 0 4))) (if_neg (Bool.eq_false_iff.1 hm))⟩
  · exact ⟨_, congrArg (fun u : State => u.mapFly (rearmTickets u.sys (fieldOf s.sys.cxsel 0 4))) (if_pos hm)⟩

theorem writeReg_audit (hm : mayWriteCtx (s.sys.ctx x).st 0x062 = true) : writeReg s c k x0 0x062 true v
    = { s with sys := s.sys.setCtx x { s.sys.ctx x with
          audits := tabSet Audit.reset (s.sys.ctx x).audits (s.sys.cent (ctselOf s.sys).1 (ctselOf s.sys).2.1).colour
            { attempts := w1c (tabGet Audit.reset (s.sys.ctx x).audits (s.sys.cent (ctselOf s.sys).1 (ctselOf s.sys).2.1).colour).attempts
                (fieldOf v 32 32) 32
              last := (tabGet Audit.reset (s.sys.ctx x).audits (s.sys.cent (ctselOf s.sys).1 (ctselOf s.sys).2.1).colour).last } } } := by
  subst hx
  exact if_pos hm

theorem writeReg_audit_closed (hm : mayWriteCtx (s.sys.ctx x).st 0x062 = false) : writeReg s c k x0 0x062 true v = s := by
  subst hx
  exact if_neg (Bool.eq_false_iff.1 hm)

/-- The registers of a context that has none yet, or none any more, are left as they are. -/
theorem writeReg_closed {r : Nat} (hr : r ∈ [0x043, 0x044, 0x01A]) (hm : ∀ r, mayWriteCtx (s.sys.ctx x).st r = false) :
    writeReg s c k x0 r true v = s := by
  subst hx
  simp only [List.mem_cons, List.not_mem_nil, or_false] at hr
  obtain rfl | rfl | rfl := hr
  · exact if_neg (Bool.eq_false_iff.1 (hm _))
  · exact if_neg (Bool.eq_false_iff.1 (hm _))
  · simp [writeReg, hm]

theorem writeReg_cxvec (hm : mayWriteCtx (s.sys.ctx x).st 0x043 = true) : writeReg s c k x0 0x043 true v
    = { s with sys := s.sys.setCtx x { s.sys.ctx x with cxvec := setField (setField 0 8 44 (fieldOf v 8 44)) 0 1 (fieldOf v 0 1) } } := by
  subst hx
  exact if_pos hm

theorem writeReg_rtbase (hm : mayWriteCtx (s.sys.ctx x).st 0x044 = true) : writeReg s c k x0 0x044 true v
    = { s with sys := s.sys.setCtx x { s.sys.ctx x with rtbase := BitVec.ofNat 64 (fieldOf v 25 27 * 2 ^ 25) } } := by
  subst hx
  rw [← setField_zero]
  exact if_pos hm

theorem writeReg_wdog (hm : mayWriteCtx (s.sys.ctx x).st 0x01A = true) : writeReg s c k x0 0x01A true v
    = if v.getLsbD 0 then kickWdog (writeWdog s x v) x else writeWdog s x v := by
  subst hx
  have hst := congrArg Ctx.st (writeWdog_ctx (st_ne_free_of_mayWriteCtx hm) v)
  simp [writeReg, hm, hst]

end

/-- `%cxvec` keeps the address and the valid bit. -/
theorem cxvec_word (v : Word) : setField (setField 0 8 44 (fieldOf v 8 44)) 0 1 (fieldOf v 0 1) = BitVec.ofNat 64 (fieldOf v 8 44 * 2 ^ 8 + fieldOf v 0 1) := by
  have ha := fieldOf_lt v 8 44
  have hb := fieldOf_lt v 0 1
  rw [setField_zero]
  refine BitVec.eq_of_toNat_eq ?_
  simp only [setField, BitVec.toNat_ofNat]
  omega

/-! ### Commands of `%cxcmd` (R78, R79) -/

theorem writeCxcmd_ignored {s : State} {v : Word} (h : fieldOf v 0 4 = 0 ∨ s.sys.cxStatus = 1) : writeCxcmd s v = s := if_pos h

/-- An accepted command counts SEQ; a command that exists is BUSY and on its way, one in a reserved code has ended. -/
theorem writeCxcmd_accepted {s : State} {v : Word} (h0 : fieldOf v 0 4 ≠ 0) (hb : s.sys.cxStatus ≠ 1) :
    ∃ t, writeCxcmd s v = t ∧ t.mem = s.mem ∧ t.greg = s.greg ∧
      t.sys = { s.sys with cxSeq := s.sys.cxSeq + 1, cxStatus := if fieldOf v 0 4 < 5 then 1 else 5 } ∧
      ∀ i, (fieldOf v 0 4, i) ∈ [(1, Instr.alloc), (2, .start), (3, .destroy), (4, .clear)] →
        ∃ due > s.sys.now, soon t due i { ctx := fieldOf v 8 4, word := v } := by
  rw [writeCxcmd, if_neg (by simp [h0, hb])]
  generalize fieldOf v 0 4 = cmd at h0 ⊢
  have hdue : s.sys.now + 1 + s.fly.draw.1 > s.sys.now := by omega
  obtain ⟨n, rfl⟩ | hcmd : (∃ n, cmd = n + 5) ∨ cmd = 1 ∨ cmd = 2 ∨ cmd = 3 ∨ cmd = 4 := by
    by_cases h5 : 5 ≤ cmd
    · exact .inl ⟨cmd - 5, by omega⟩
    · omega
  · exact ⟨_, rfl, rfl, rfl, by rw [if_neg (by omega)]; rfl, fun i hi => absurd hi (by simp)⟩
  · rcases hcmd with rfl | rfl | rfl | rfl
    all_goals
      refine ⟨_, rfl, rfl, rfl, rfl, fun i hi => ⟨_, hdue, ?_⟩⟩
      obtain rfl : i = _ := by simpa using hi
      exact soon_sched

/-! ### Entries of the colour tables (R38, R326) -/

section
variable {s : State} {v : Word}

theorem writeCtent_ignored
    (h : s.sys.ctxOf (ctselOf s.sys).1 ≠ fieldOf s.sys.cxsel 0 4 ∨ mayWriteCtx (s.sys.ctx (s.sys.ctxOf (ctselOf s.sys).1)).st 0x04A = false) :
    writeCtent s v = s :=
  if_pos (h.imp_right (congrArg (!·)))

theorem writeCtent_eq (hx : s.sys.ctxOf (ctselOf s.sys).1 = fieldOf s.sys.cxsel 0 4)
    (hm : mayWriteCtx (s.sys.ctx (s.sys.ctxOf (ctselOf s.sys).1)).st 0x04A = true) :
    ∃ f, writeCtent s v = { s with
      sys := if (ctselOf s.sys).2.2 then writeCent1 s.sys (ctselOf s.sys).1 (ctselOf s.sys).2.1 v
        else writeCent0 s.sys (ctselOf s.sys).1 (ctselOf s.sys).2.1 v
      fly := f } :=
  ⟨_, if_neg (not_or.2 ⟨not_not_intro hx, Bool.eq_false_iff.1 (congrArg (!·) hm)⟩)⟩

end

/-- Word 1 of an entry as it is after a write: PARKSIZE and PARKBASE are the written ones, FAULTS is cleared by ones. -/
def cent1Written (o v : Word) : Word :=
  setField (setField (setField 0 52 12 (fieldOf v 52 12)) 16 36 (fieldOf v 16 36)) 8 8 (w1c (fieldOf o 8 8) (fieldOf v 8 8) 8)

theorem writeCent1_eq (y : Sys) (c e : Nat) (v : Word) : writeCent1 y c e v = y.setCent c e { y.cent c e with w1 := cent1Written (y.cent c e).w1 v } := rfl

theorem cent1Written_fields (o v : Word) :
    (cent1Written o v).extractLsb' 52 12 = v.extractLsb' 52 12 ∧ (cent1Written o v).extractLsb' 16 36 = v.extractLsb' 16 36 ∧
    (cent1Written o v).extractLsb' 8 8 = (o.extractLsb' 8 8 &&& ~~~(v.extractLsb' 8 8)) ∧ (cent1Written o v).extractLsb' 0 8 = 0 := by
  unfold cent1Written
  refine ⟨?_, ?_, extract_setField_w1c (by decide), ?_⟩
  · rw [extract_setField_other (by decide) (by decide), extract_setField_other (by decide) (by decide), extract_setField_same (by decide),
      ofNat_fieldOf]
  · rw [extract_setField_other (by decide) (by decide), extract_setField_same (by decide), ofNat_fieldOf]
  · rw [extract_setField_other (by decide) (by decide), extract_setField_other (by decide) (by decide),
      extract_setField_other (by decide) (by decide)]
    rfl

/-- Word 0 of an entry as it is after a write: its read-only bits are zero. -/
theorem cent0Written_unique {v w : Word} (hhigh : w.extractLsb' 6 58 = v.extractLsb' 6 58) (h4 : w.getLsbD 4 = v.getLsbD 4)
    (h5 : w.getLsbD 5 = false) (hlow : w.extractLsb' 0 4 = 0) : setField (setField v 5 1 0) 0 4 0 = w := by
  refine BitVec.eq_of_getLsbD_eq fun i hi => ?_
  rw [getLsbD_setField hi, getLsbD_setField hi]
  obtain h | rfl | rfl | h : i < 4 ∨ i = 4 ∨ i = 5 ∨ 6 ≤ i := by omega
  · have := congrArg (·.getLsbD i) hlow
    simp [h] at this
    simp [h, this]
  · simpa using h4.symm
  · simpa using h5.symm
  · have := congrArg (·.getLsbD (i - 6)) hhigh
    simp [show i - 6 < 58 by omega, show 6 + (i - 6) = i by omega] at this
    rw [if_neg (by omega), if_neg (by omega), if_neg (by omega), if_neg (by omega), this]

/-- The whole of word 0 of an invalid entry is written, if the table stays one that R38 admits. -/
theorem writeCent0_invalid {y : Sys} {c e : Nat} {v w : Word} (hv : (y.cent c e).valid = false) (hw : setField (setField v 5 1 0) 0 4 0 = w) :
    writeCent0 y c e v = if ctabOk ((List.range 64).map fun m => if m = e then { y.cent c e with w0 := w } else y.cent c m)
      then y.setCent c e { y.cent c e with w0 := w } else y := by
  subst hw
  simp [writeCent0, hv]

/-! ### The obligation -/

section
variable {s : State}

/-- The expiry of a watchdog that was set says how its registers read. -/
theorem gives_watchdogSet {t : State} {x limit count : Nat} (ht : exec .registerWrite s = .next t) (h : watchdogSet s t x limit count) :
    gives s .registerWrite fun t => t.greg = s.greg ∧ (t.sys.ctx x).wlimit = limit ∧ (t.sys.ctx x).wcount = count ∧ (t.sys.ctx x).wrem = 0 ∧
      (limit ≠ 0 → s.sys.counting x = true →
        soon t (max (s.sys.now + 1) (s.sys.now + limit * 1024 - count * 1024)) .watchdogExpiry { ctx := x }) := by
  obtain ⟨hmem, hrest⟩ := h
  exact ⟨t, ht, hmem, hrest⟩

/-- A privileged write of `%wdog`: LIMIT and COUNT, then the kick (R84). -/
theorem privilegedWdog (hid : s.fly.ev.id = 0x01A) (hp : s.fly.ev.p = true) {x : Nat} (hx : fieldOf s.sys.cxsel 0 4 = x)
    (hm : mayWriteCtx (s.sys.ctx x).st 0x01A = true) :
    ∃ t, exec .registerWrite s = .next t ∧
      watchdogSet s t x (fieldOf s.fly.ev.word 33 31) (if s.fly.ev.word.getLsbD 0 then 0 else fieldOf s.fly.ev.word 1 31) := by
  have hfree := st_ne_free_of_mayWriteCtx hm
  refine ⟨_, exec_registerWrite_privileged hp hid, ?_⟩
  rw [writeReg_wdog _ _ _ _ _ hx hm]
  cases s.fly.ev.word.getLsbD 0
  · exact watchdogSet_writeWdog hfree _
  · exact watchdogSet_kick_writeWdog hfree _

end

theorem mayWriteCtx_open {st : CtxSt} {r : Nat} (hr : r ∈ [0x044, 0x043, 0x01A]) (h : (st = .running ∨ st = .suspended) ∨ st = .allocated) :
    mayWriteCtx st r = true := (mayWriteCtx_iff hr).2 h

theorem mayWriteCtx_closed {st : CtxSt} (r : Nat) (h : ¬ ((st = .running ∨ st = .suspended) ∨ st = .allocated)) : mayWriteCtx st r = false := by
  cases st <;> simp_all [mayWriteCtx]

/-- Settles O24, register by register. -/
theorem registerWriteEvents : Obligations.RegisterWriteEvents := by
  unfold Obligations.RegisterWriteEvents
  intro s
  have any {r : Nat} (hid : s.fly.ev.id = r) {u : State}
      (hw : writeReg s s.fly.ev.clu s.fly.ev.frm s.fly.ev.ctx r s.fly.ev.p s.fly.ev.word = u) :
      exec .registerWrite s = .next u := (exec_registerWrite hid).trans (congrArg _ hw)
  have priv {r : Nat} (hp : s.fly.ev.p = true) (hid : s.fly.ev.id = r) {u : State}
      (hw : writeReg s s.fly.ev.clu s.fly.ev.frm s.fly.ev.ctx r true s.fly.ev.word = u) :
      exec .registerWrite s = .next u := (exec_registerWrite_privileged hp hid).trans (congrArg _ hw)
  refine ⟨fun hid hf => any hid (writeReg_dphase _ _ hf _), fun hid hf => any hid (writeReg_sprog _ _ hf _),
    fun hid => any hid (writeReg_barsel ..), fun hid => any hid (writeReg_bksel ..), fun hid hp => ⟨fun h => ?_, fun h0 hm => ?_⟩,
    fun hp hid => ?_, fun hp => ⟨fun hid hf => priv hp hid (writeReg_tcause _ _ hf), fun hid hf => priv hp hid (writeReg_tinfo _ _ hf),
      fun hid hf => priv hp hid (writeReg_tva _ _ hf), fun hid hf => priv hp hid (writeReg_tblk _ _ hf),
      fun hid => priv hp hid (writeReg_cxsel ..), fun hid => priv hp hid (writeReg_ctsel ..), fun hid => priv hp hid (writeReg_lattol ..),
      fun hid => priv hp hid rfl, fun hid => priv hp hid rfl, fun hid => ⟨_, priv hp hid (writeReg_mscfg ..), rfl, rfl, rfl⟩,
      fun hid => ⟨_, priv hp hid (writeReg_lnk ..), lnkWritten_fields _ _⟩, fun hl => ⟨fun hid => ?_, fun hid => ?_, fun hid => ?_⟩,
      fun hl hid => ?_, fun ho => ⟨fun hid => ?_, fun hid => ?_, fun hid => ?_⟩, fun ho hid => ?_, fun hid => ⟨fun h => ?_, fun h0 hb => ?_⟩⟩,
    fun h => ?_, fun hx hm hw => ?_, fun hx hm hw hv w hhigh h4 h5 hlow => ?_⟩
  -- user code's kick, taken and not
  · exact (userKick hid hp).1 (h.imp_right (mayWriteCtx_closed _))
  · obtain ⟨t, ht, hmem, hgreg, hl, hn, hr, hsoon⟩ := (userKick hid hp).2 h0 (mayWriteCtx_open (by decide) hm)
    exact ⟨t, ht, hmem, hgreg, hn, hr, hl, hsoon⟩
  · exact (exec_registerWrite_user hp rfl).trans (congrArg _ (writeReg_user_other _ _ _ _ _ hid))
  -- `%stall`, `%ftlim`, `%audit` of a context that has them, and of one that has not
  · obtain ⟨f, hf⟩ := writeReg_stall s s.fly.ev.clu s.fly.ev.frm s.fly.ev.ctx s.fly.ev.word rfl
    exact ⟨_, priv hp hid hf, rfl, if_pos (mayWriteCtx_live _ hl), rfl⟩
  · obtain ⟨f, hf⟩ := writeReg_ftlim s s.fly.ev.clu s.fly.ev.frm s.fly.ev.ctx s.fly.ev.word rfl
    exact ⟨_, priv hp hid hf, rfl, if_pos (mayWriteCtx_live _ hl), rfl⟩
  · refine ⟨_, rfl, priv hp hid ((writeReg_audit _ _ _ _ _ rfl (mayWriteCtx_live _ hl)).trans ?_)⟩
    rw [← ofNat_fieldOf s.fly.ev.word 32 32]
    rfl
  · have hm (r : Nat) (hr : r ∉ [0x044, 0x043, 0x01A]) := mayWriteCtx_not_live hl hr
    simp only [List.mem_cons, List.not_mem_nil, or_false] at hid
    obtain hid | hid | hid := hid
    · obtain ⟨f, hf⟩ := writeReg_stall s s.fly.ev.clu s.fly.ev.frm s.fly.ev.ctx s.fly.ev.word rfl
      exact ⟨_, priv hp hid hf, rfl, if_neg (Bool.eq_false_iff.1 (hm _ (by decide))), rfl⟩
    · obtain ⟨f, hf⟩ := writeReg_ftlim s s.fly.ev.clu s.fly.ev.frm s.fly.ev.ctx s.fly.ev.word rfl
      exact ⟨_, priv hp hid hf, rfl, if_neg (Bool.eq_false_iff.1 (hm _ (by decide))), rfl⟩
    · exact ⟨_, priv hp hid (writeReg_audit_closed _ _ _ _ _ rfl (hm _ (by decide))), rfl, rfl, rfl⟩
  -- `%cxvec`, `%rtbase`, `%wdog` of a context that has them, and of one that has not
  · exact priv hp hid (by rw [writeReg_cxvec _ _ _ _ _ rfl (mayWriteCtx_open (by decide) ho), cxvec_word]; rfl)
  · exact priv hp hid (writeReg_rtbase _ _ _ _ _ rfl (mayWriteCtx_open (by decide) ho))
  · obtain ⟨t, ht, hset⟩ := privilegedWdog hid hp rfl (mayWriteCtx_open (by decide) ho)
    exact gives_watchdogSet ht hset
  · exact priv hp rfl (writeReg_closed _ _ _ _ _ rfl hid fun r => mayWriteCtx_closed r ho)
  -- `%cxcmd`
  · exact priv hp hid (writeCxcmd_ignored h)
  · obtain ⟨t, ht, hmem, hgreg, hsys, hsoon⟩ := writeCxcmd_accepted h0 hb
    exact ⟨t, priv hp hid ht, hmem, hsys, hgreg, hsoon⟩
  -- the entry that `%ctsel` selects
  · exact congrArg _ (writeCtent_ignored (h.imp_right fun h => mayWriteCtx_not_live h (by decide)))
  · obtain ⟨f, hf⟩ := writeCtent_eq (v := s.fly.ev.word) hx (mayWriteCtx_live _ hm)
    rw [if_pos hw, writeCent1_eq] at hf
    exact ⟨_, congrArg Host.Outcome.next hf, rfl, rfl, _, rfl, cent1Written_fields _ _⟩
  · obtain ⟨f, hf⟩ := writeCtent_eq (v := s.fly.ev.word) hx (mayWriteCtx_live _ hm)
    rw [if_neg (Bool.eq_false_iff.1 hw), writeCent0_invalid hv (cent0Written_unique hhigh h4 h5 hlow)] at hf
    exact ⟨_, congrArg Host.Outcome.next hf, rfl, rfl, rfl⟩

end Sys2Proof.Machine

namespace Sys2Proof.Machine
open Claims

/-! ## Tokens

### Regions read back -/

section
variable {y : Sys} (h : y.Form) (c r : Nat)
include h

theorem Sys.Form.region_setRegion (v : Region) : (y.setRegion c r v).region c r = v := tabGet_set_same _ _ _ _ ((rising_iff _).1 h.regions)

theorem Sys.Form.region_modRegion (g : Region → Region) : (y.modRegion c r g).region c r = g (y.region c r) := h.region_setRegion c r _

end

/-! ### Placement at the end of the cycle (R40) -/

section
variable (s : State) (c r : Nat)

theorem placeLater_due (h : (s.fly.due fun i e => i == .tokenArrival && e.part == 9 && e.clu == c && e.reg == r) = true) :
    placeLater s c r = s := if_pos h

theorem placeLater_not_due (h : ∀ w ∈ s.fly.agenda, ∀ a, w.act = .ev .tokenArrival a → a.part ≠ 9) :
    placeLater s c r = s.sched s.sys.now .tokenArrival { clu := c, reg := r, part := 9 } := by
  refine if_neg fun hd => ?_
  obtain ⟨w, hw, hp⟩ := List.any_eq_true.1 hd
  split at hp
  · next i e hact =>
    simp only [Bool.and_eq_true, beq_iff_eq] at hp
    obtain ⟨⟨⟨rfl, hpart⟩, -⟩, -⟩ := hp
    exact h w hw e hact hpart
  · cases hp

/-- What the region received waits for the end of the cycle, and nothing else changes. -/
theorem placeLater_spec : ∃ f, placeLater s c r = { s with fly := f } ∧ f.insts = s.fly.insts ∧ (∀ w ∈ s.fly.agenda, w ∈ f.agenda) ∧
    ∃ w ∈ f.agenda, ∃ a, w.act = .ev .tokenArrival a ∧ a.part = 9 ∧ a.clu = c ∧ a.reg = r := by
  by_cases h : (s.fly.due fun i e => i == .tokenArrival && e.part == 9 && e.clu == c && e.reg == r) = true
  · refine ⟨s.fly, placeLater_due s c r h, rfl, fun w hw => hw, ?_⟩
    obtain ⟨w, hw, hp⟩ := List.any_eq_true.1 h
    split at hp
    · next i e hact =>
      simp only [Bool.and_eq_true, beq_iff_eq] at hp
      obtain ⟨⟨⟨rfl, hpart⟩, hclu⟩, hreg⟩ := hp
      exact ⟨w, hw, e, hact, hpart, hclu, hreg⟩
    · cases hp
  · exact ⟨_, if_neg h, rfl, fun w hw => Fly.mem_event_agenda.2 (.inr hw), _, Fly.mem_event_agenda.2 (.inl rfl), _, rfl, rfl, rfl, rfl⟩

end

/-! ### When a firing issues (R28, R30, R224) -/

theorem le_foldl_max_of_mem {α : Type} (g : α → Nat) {l : List α} {a : α} (ha : a ∈ l) (n : Nat) : g a ≤ l.foldl (fun d w => max d (g w)) n := by
  induction l generalizing n with
  | nil => cases ha
  | cons b l ih =>
    obtain rfl | ha := List.mem_cons.1 ha
    · exact (Nat.le_max_right _ _).trans (le_foldl_max g l _)
    · exact ih ha _

theorem foldl_max_of_zero {α : Type} (g : α → Nat) {l : List α} (h : ∀ a ∈ l, g a = 0) (n : Nat) : l.foldl (fun d w => max d (g w)) n = n := by
  induction l with
  | nil => rfl
  | cons b l ih =>
    rw [List.foldl_cons, h b (List.mem_cons_self ..), Nat.max_zero]
    exact ih fun a ha => h a (List.mem_cons_of_mem _ ha)

theorem mem_holdDivider {i : Option Instr} {f : Firing} {due : Nat} {fl : Fly} {w : Work} (h : w ∈ fl.agenda) : w ∈ (holdDivider i f due fl).agenda := by
  unfold holdDivider
  split
  · exact Fly.mem_event_agenda.2 (.inr h)
  · exact h

/-- A completed firing issues two or three cycles later, and behind the firings that it must follow. -/
theorem schedFire_due (now : Nat) (i : Option Instr) (f : Firing) (fl : Fly) :
    ∃ comb due, { due := due, act := .fire f } ∈ (schedFire now i f fl).agenda ∧ now + 2 ≤ due ∧
      (∀ w ∈ fl.agenda, afterFiring comb f w ≤ due) ∧ ((∀ w ∈ fl.agenda, afterFiring comb f w = 0) → due ≤ now + 3) := by
  refine ⟨_, _, mem_holdDivider (mem_schedList.2 (.inl rfl)), (Nat.le_add_right _ _).trans (le_foldl_max _ _ _),
    fun w hw => le_foldl_max_of_mem _ hw _, fun h => ?_⟩
  rw [foldl_max_of_zero _ h]
  split <;> omega

theorem afterFiring_eq_zero {comb : Bool} {e : Ev} {f : Firing} {w : Work} (hf : f.clu = e.clu ∧ f.frame = e.tok.frame ∧ f.idx = e.dest.idx ∧
    f.reg = e.dest.reg ∧ f.frm = e.dest.frm) (h : ∀ g, w.act = .fire g → ¬ sameFiring e g) : afterFiring comb f w = 0 := by
  obtain ⟨h1, h2, h3, h4, h5⟩ := hf
  unfold afterFiring
  split
  · next g hg =>
    refine if_neg fun hs => h g hg ?_
    simp only [Bool.and_eq_true, beq_iff_eq, h1, h2, h3, h4, h5] at hs
    obtain ⟨⟨⟨⟨g1, g2⟩, g3⟩, g4⟩, g5⟩ := hs
    exact ⟨g1, g2, g3, g4, g5⟩
  · rfl

theorem lt_of_afterFiring_le {comb : Bool} {e : Ev} {f g : Firing} {w : Work} {due : Nat} (hf : f.clu = e.clu ∧ f.frame = e.tok.frame ∧
    f.idx = e.dest.idx ∧ f.reg = e.dest.reg ∧ f.frm = e.dest.frm) (hi : f.index = e.tok.index) (hw : w.act = .fire g) (hs : sameFiring e g)
    (hg : g.index = e.tok.index) (h : afterFiring comb f w ≤ due) : w.due < due := by
  obtain ⟨h1, h2, h3, h4, h5⟩ := hf
  obtain ⟨g1, g2, g3, g4, g5⟩ := hs
  simpa [afterFiring, hw, h1, h2, h3, h4, h5, g1, g2, g3, g4, g5, hg, hi] using h

/-! ### A token and its instruction (R26, R28) -/

/-- The token that an event brings to a region. -/
def arrival (s : State) : Entry := { dest := s.fly.ev.dest, ent := s.fly.ev.ent, tok := s.fly.ev.tok, first := s.sys.now }

/-- Nothing waits in a region. -/
def idleRegion (g : Region) : Prop := g.entries = [] ∧ g.holds = [] ∧ g.arrived = []

theorem waitingFor_idle {g : Region} (h : idleRegion g) (d : Dest) : waitingFor g d = [] := by
  obtain ⟨he, hh, ha⟩ := h
  simp [waitingFor, he, hh, ha]

/-- A token whose partner is missing finds none in a region where nothing waits. -/
theorem findParts_nil (t : Token) (whole : Bool) {ps : List Pos} (h : ps ≠ []) (lo hi : Nat) : findParts [] t whole ps lo hi = none := by
  cases ps with
  | nil => exact absurd rfl h
  | cons p ps => rfl

theorem positions_posBit (p : Pos) : (positions (posBit p)).filter (· != p) = [] := by cases p <;> rfl

theorem filter_positions_ne {m : Nat} {p q : Pos} (hp : p ≠ q) (hm : p ∈ positions m) : (positions m).filter (· != q) ≠ [] :=
  List.ne_nil_of_mem (List.mem_filter.2 ⟨hm, by simpa using hp⟩)

theorem remainders_whole_range (e : Entry) : remainders e e.tok.index (e.tok.index + e.tok.len) = [] := by simp [remainders]

section
variable {s : State} {c r loc : Nat} {e : Entry} {i : Inst} (hl : liveFor s c e = some i) (hidle : idleRegion (s.sys.region c r))
include hl hidle

theorem tryFire_no_partner (hneed : (positions ((s.sys.frame c r e.dest.frm).expect.getD e.dest.idx 0)).filter (· != e.dest.pos) ≠ []) :
    tryFire s c r loc e = .error s := by
  simp only [tryFire, hl, waitingFor_idle hidle, byArrival, List.foldl_nil, findParts_nil _ _ hneed, Option.filter_none]

/-- A token that is the only one its instruction expects completes it: its firing takes the whole of it and leaves nothing to be placed. -/
theorem tryFire_alone (hneed : (positions ((s.sys.frame c r e.dest.frm).expect.getD e.dest.idx 0)).filter (· != e.dest.pos) = [])
    (hdiv : dividerBusy s.fly c r e.dest.idx = false) :
    ∃ (f : Firing) (whole : Bool), f.clu = c ∧ f.reg = r ∧ f.frm = e.dest.frm ∧ f.idx = e.dest.idx ∧ f.colour = e.tok.colour ∧ f.frame = e.tok.frame ∧
      f.index = e.tok.index ∧ f.ser = i.ser ∧ f.left = partAt [(0, e)] e.tok.index (e.tok.index + e.tok.len) whole .left ∧
      f.right = partAt [(0, e)] e.tok.index (e.tok.index + e.tok.len) whole .right ∧
      f.pred = partAt [(0, e)] e.tok.index (e.tok.index + e.tok.len) whole .pred ∧
      tryFire s c r 0 e = .ok ({ s with
        sys := s.sys.setRegion c r (s.sys.region c r)
        fly := schedFire s.sys.now ((s.sys.frame c r e.dest.frm).instr e.dest.idx) f s.fly }, []) := by
  generalize hwh : (pairsWhole (fieldOf ((s.sys.frame c r e.dest.frm).word e.dest.idx) 56 8)
    || scalarRight (fieldOf ((s.sys.frame c r e.dest.frm).word e.dest.idx) 56 8)) = whole
  refine ⟨⟨c, r, e.dest.frm, e.dest.idx, e.tok.colour, e.tok.frame, e.tok.index, i.ser, partAt .., partAt .., partAt .., s.sys.now⟩, whole, rfl, rfl, rfl, rfl, rfl, rfl, rfl, rfl, rfl, rfl, rfl, ?_⟩
  simp only [tryFire, hl, waitingFor_idle hidle, byArrival, List.foldl_nil, hneed, findParts, hdiv, Bool.and_false, Bool.not_false, Option.filter_some,
    if_true, hwh, List.foldl_cons, consume, remainders_whole_range]
  simp [remainders_whole_range, byIndex]

end

theorem partAt_single_same (loc lo hi : Nat) (whole : Bool) (e : Entry) : (partAt [(loc, e)] lo hi whole e.dest.pos).isSome = true := by
  simp [partAt]

theorem partAt_single_other (loc lo hi : Nat) (whole : Bool) {e : Entry} {p : Pos} (h : e.dest.pos ≠ p) : partAt [(loc, e)] lo hi whole p = none := by
  simp [partAt, h]

section
variable {s t : State} {c r n : Nat} {e : Entry}

theorem offerAll_single_ok (h : tryFire s c r 0 e = .ok (t, [])) : offerAll (n + 1) s c r [e] = t := by
  rw [offerAll, h]
  cases n <;> rfl

theorem offerAll_single_error (h : tryFire s c r 0 e = .error t) :
    offerAll (n + 1) s c r [e] = t.mapSys fun y => y.modRegion c r fun g => { g with arrived := g.arrived ++ [e] } := by
  rw [offerAll, h]
  cases n <;> rfl

end

/-! ### A token that arrives (R28) -/

section
variable {s : State} {i : Inst} (hw : welcome s s.fly.ev i)
include hw

theorem liveFor_arrival : liveFor s s.fly.ev.clu (arrival s) = some i := by
  obtain ⟨hi, hr, hf, hc, hent, -⟩ := hw
  have : s.fly.ev.ent.all (· == i.ser) = true := by rcases hent with h | h <;> simp [h]
  simp [liveFor, arrival, hi, hr, hf, hc, this]

/-- A token that is taken in is offered to its instruction, and what is left is placed at the end of the cycle. -/
theorem arriveTok_welcome :
    arriveTok s s.fly.ev = placeLater (offerAll 128 s s.fly.ev.clu s.fly.ev.dest.reg [arrival s]) s.fly.ev.clu s.fly.ev.dest.reg := by
  obtain ⟨hi, -, -, -, hent, hab, ⟨n, hn, hcls⟩, hscalar⟩ := hw
  have hlive : (s.fly.ev.ent.any fun n => !(s.fly.inst s.fly.ev.clu s.fly.ev.tok.frame).any (·.ser == n)) = false := by
    rcases hent with h | h <;> simp [h, hi]
  have hadm : ((s.sys.centOf s.fly.ev.clu s.fly.ev.tok.colour).any fun n =>
      (s.sys.cent s.fly.ev.clu n).admits (s.sys.frame s.fly.ev.clu s.fly.ev.dest.reg s.fly.ev.dest.frm).cls) = true := by
    rw [hn]
    exact hcls
  have hvec : (s.fly.ev.dest.pos == .right && s.fly.ev.tok.vec
      && scalarRight (fieldOf ((s.sys.frame s.fly.ev.clu s.fly.ev.dest.reg s.fly.ev.dest.frm).word s.fly.ev.dest.idx) 56 8)) = false := by
    by_cases h : s.fly.ev.dest.pos = .right ∧ s.fly.ev.tok.vec = true
    · rw [show scalarRight (fieldOf _ 56 8) = false from hscalar h.1 h.2, Bool.and_false]
    · simp [h]
  simp only [arriveTok, hab, hlive, hadm, hvec, List.contains_nil, Bool.or_self, Bool.false_eq_true, if_false, Bool.not_true]
  rfl

variable (hidle : idleRegion (s.sys.region s.fly.ev.clu s.fly.ev.dest.reg))
include hidle

/-- A token whose partner is missing waits for the end of the cycle. -/
theorem arriveTok_waits (hpart : ∃ p, p ≠ s.fly.ev.dest.pos ∧
      p ∈ positions ((s.sys.frame s.fly.ev.clu s.fly.ev.dest.reg s.fly.ev.dest.frm).expect.getD s.fly.ev.dest.idx 0)) :
    arriveTok s s.fly.ev = placeLater (s.mapSys fun y => y.setRegion s.fly.ev.clu s.fly.ev.dest.reg
      { y.region s.fly.ev.clu s.fly.ev.dest.reg with arrived := [arrival s] }) s.fly.ev.clu s.fly.ev.dest.reg := by
  obtain ⟨p, hp, hm⟩ := hpart
  have hnone := tryFire_no_partner (loc := 0) (liveFor_arrival hw) hidle (filter_positions_ne hp hm)
  rw [arriveTok_welcome hw, offerAll_single_error (n := 127) hnone]
  simp [State.mapSys, Sys.modRegion, hidle.2.2]

/-- A token whose instruction expects its position alone completes it. -/
theorem arriveTok_completes (hexp : (s.sys.frame s.fly.ev.clu s.fly.ev.dest.reg s.fly.ev.dest.frm).expect.getD s.fly.ev.dest.idx 0
      = posBit s.fly.ev.dest.pos)
    (hdiv : dividerBusy s.fly s.fly.ev.clu s.fly.ev.dest.reg s.fly.ev.dest.idx = false) :
    ∃ (f : Firing) (b : Option Instr) (t : State), arriveTok s s.fly.ev = t ∧ t.mem = s.mem ∧ t.greg = s.greg ∧
      (∀ w ∈ (schedFire s.sys.now b f s.fly).agenda, w ∈ t.fly.agenda) ∧ f.clu = s.fly.ev.clu ∧ f.reg = s.fly.ev.dest.reg ∧
      f.frm = s.fly.ev.dest.frm ∧ f.idx = s.fly.ev.dest.idx ∧ f.colour = s.fly.ev.tok.colour ∧ f.frame = s.fly.ev.tok.frame ∧
      f.index = s.fly.ev.tok.index ∧ f.ser = i.ser ∧
      (s.fly.ev.dest.pos = .left → f.left.isSome = true ∧ f.right = none ∧ f.pred = none) ∧
      (s.fly.ev.dest.pos = .right → f.right.isSome = true ∧ f.left = none ∧ f.pred = none) ∧
      (s.fly.ev.dest.pos = .pred → f.pred.isSome = true ∧ f.left = none ∧ f.right = none) := by
  obtain ⟨f, whole, hclu, hreg, hfrm, hidx, hcol, hframe, hindex, hser, hleft, hright, hpred, hfire⟩ :=
    tryFire_alone (liveFor_arrival hw) hidle (by rw [show (arrival s).dest = s.fly.ev.dest from rfl, hexp, positions_posBit]) hdiv
  obtain ⟨g, hg, -, hmem, -⟩ := placeLater_spec { s with
    sys := s.sys.setRegion s.fly.ev.clu s.fly.ev.dest.reg (s.sys.region s.fly.ev.clu s.fly.ev.dest.reg)
    fly := schedFire s.sys.now _ f s.fly } s.fly.ev.clu s.fly.ev.dest.reg
  have harr := (arriveTok_welcome hw).trans ((congrArg (placeLater · _ _) (offerAll_single_ok (n := 127) hfire)).trans hg)
  refine ⟨f, _, _, harr, rfl, rfl, hmem, hclu, hreg, hfrm, hidx, hcol, hframe,
    hindex, hser, ?_⟩
  have hsame := partAt_single_same 0 (arrival s).tok.index ((arrival s).tok.index + (arrival s).tok.len) whole (arrival s)
  have hother {p : Pos} := partAt_single_other 0 (arrival s).tok.index ((arrival s).tok.index + (arrival s).tok.len) whole (e := arrival s) (p := p)
  rw [hleft, hright, hpred]
  refine ⟨fun h => ?_, fun h => ?_, fun h => ?_⟩
  all_goals
    rw [show (arrival s).dest.pos = _ from h] at hsame
    exact ⟨hsame, hother (by rw [show (arrival s).dest.pos = _ from h]; decide), hother (by rw [show (arrival s).dest.pos = _ from h]; decide)⟩

end

/-! ### Placement of a token that waits (R40) -/

/-- A colour with nothing in a region may take an entry of its reserve. -/
theorem mayTake_of_reserve {y : Sys} {c r col n : Nat} (old : Bool) (he : (y.region c r).entries = []) (hp : (y.region c r).partials = [])
    (hf : (y.region c r).freeing = []) (hn : y.centOf c col = some n) (hr : 0 < (y.cent c n).reserve) : mayTake y c r col old = true := by
  have h0 : y.held_ c r col = 0 := by simp [Sys.held_, he, hp, hf]
  simp [mayTake, hn, h0, hr]

theorem admitHolds_of_no_holds {y : Sys} {c r : Nat} (n : Nat) (h : (y.region c r).holds = []) : admitHolds c r n y = y := by
  cases n with
  | zero => rfl
  | succ n => simp [admitHolds, h]

theorem placeTok_takes {s : State} {c r : Nat} {e : Entry} (hp : s.sys.parked c e.tok.colour = false)
    (hm : mayTake s.sys c r e.tok.colour (s.sys.holdQ c r e.tok.colour).isEmpty = true) :
    placeTok s c r e = s.mapSys fun y => y.modRegion c r fun g => { g with entries := g.entries ++ [e] } := by
  simp only [placeTok, hp, hm, Bool.false_eq_true, if_false, if_true]

/-- A firing that has room for its remainder changes nothing where it does not take place. -/
theorem tryFire_error_self {s t : State} {c r loc : Nat} {e : Entry}
    (hm : mayTake s.sys c r e.tok.colour (s.sys.holdQ c r e.tok.colour).isEmpty = true) (h : tryFire s c r loc e = .error t) : t = s := by
  unfold tryFire at h
  split at h
  · cases h; rfl
  · dsimp only at h
    split at h
    · cases h; rfl
    · rw [if_neg (by rw [hm, Bool.not_true, Bool.and_false]; exact Bool.false_ne_true)] at h
      cases h

section
variable {s : State} (h : s.Form) {c r n : Nat} {a : Entry}
include h

theorem waitsRoom_of_mayTake {u : State} (hu : (s.mapSys fun y => y.modRegion c r fun g => { g with blocked := [] }) = u)
    (hm : mayTake u.sys c r a.tok.colour (u.sys.holdQ c r a.tok.colour).isEmpty = true) : waitsRoom s c r a = false := by
  have hb : (u.sys.region c r).blocked = [] := by
    rw [← hu]
    exact congrArg Region.blocked (h.sys.region_modRegion c r _)
  rw [waitsRoom, hu]
  cases ht : tryFire u c r 3 a with
  | ok t => rfl
  | error t =>
    obtain rfl := tryFire_error_self hm ht
    simp [hb]

theorem placeAll_single (ha : (s.sys.region c r).arrived = [a]) (hh : (s.sys.region c r).holds = [])
    (hstay : (!s.sys.parked c a.tok.colour && waitsRoom s c r a) = false) :
    ∃ f, placeAll s c r = { placeTok (s.mapSys fun y => y.modRegion c r fun g => { g with arrived := [] }) c r a with fly := f } := by
  have hpart : [a].partition (fun e => !s.sys.parked c e.tok.colour && waitsRoom s c r e) = ([], [a]) := by
    simp [List.partition_eq_filter_filter, hstay]
  have hholds : ((s.sys.modRegion c r fun g => { g with arrived := [] }).region c r).holds = [] := by rw [h.sys.region_modRegion, hh]
  simp only [placeAll, ha, hpart, List.foldl_cons, List.foldl_nil, State.mapSys, admitHolds_of_no_holds _ hholds]
  exact ⟨_, rfl⟩

/-- The one token that a region received, its colour with an entry left in its reserve, takes it. -/
theorem placeAll_takes (ha : (s.sys.region c r).arrived = [a]) (he : (s.sys.region c r).entries = []) (hh : (s.sys.region c r).holds = [])
    (hp : (s.sys.region c r).partials = []) (hf : (s.sys.region c r).freeing = []) (hpark : s.sys.parked c a.tok.colour = false)
    (hn : s.sys.centOf c a.tok.colour = some n) (hr : 0 < (s.sys.cent c n).reserve) :
    ∃ y f, placeAll s c r = { s with sys := y, fly := f } ∧ (y.region c r).entries = [a] ∧ (y.region c r).arrived = [] := by
  have may (g : Region → Region) (hg : (g (s.sys.region c r)).entries = [] ∧ (g (s.sys.region c r)).partials = [] ∧
      (g (s.sys.region c r)).freeing = []) (old : Bool) : mayTake (s.sys.modRegion c r g) c r a.tok.colour old = true := by
    obtain ⟨h1, h2, h3⟩ := hg
    exact mayTake_of_reserve old (by rw [h.sys.region_modRegion, h1]) (by rw [h.sys.region_modRegion, h2])
      (by rw [h.sys.region_modRegion, h3]) hn hr
  have hroom : waitsRoom s c r a = false := waitsRoom_of_mayTake h rfl (may _ ⟨he, hp, hf⟩ _)
  have htake := placeTok_takes (s := s.mapSys fun y => y.modRegion c r fun g => { g with arrived := [] }) (e := a) hpark (may _ ⟨he, hp, hf⟩ _)
  obtain ⟨f, hplace⟩ := placeAll_single h ha hh (by rw [hroom, Bool.and_false])
  rw [htake] at hplace
  have hregion := (h.sys.modRegion (c := c) (r := r) (g := fun g => { g with arrived := [] })).region_modRegion c r
    fun g => { g with entries := g.entries ++ [a] }
  rw [h.sys.region_modRegion, he] at hregion
  exact ⟨_, f, hplace, congrArg Region.entries hregion, congrArg Region.arrived hregion⟩

end

/-! ### COMB's partials (R323) -/

theorem settlePartials_spec {s : State} (h : s.Form) (c r k : Nat) : ∃ y f, settlePartials s c r k = { s with sys := y, fly := f } ∧
    (y.region c r).entries = (s.sys.region c r).entries ∧
    ∀ p, p ∈ (y.region c r).partials ↔ (p ∈ (s.sys.region c r).partials ∧ p.2.1 ≠ k) ∨
      ∃ i, s.fly.inst c k = some i ∧ i.reg = r ∧ ∃ q ∈ i.combs, p = (i.colour, k, q.idx) := by
  obtain ⟨ps, f, hs, hps⟩ : ∃ ps f, settlePartials s c r k = { s with sys := s.sys.setPartials c r k ps, fly := f } ∧
      ∀ p, p ∈ ps ↔ ∃ i, s.fly.inst c k = some i ∧ i.reg = r ∧ ∃ q ∈ i.combs, p = (i.colour, k, q.idx) := by
    refine ⟨_, _, rfl, fun p => ?_⟩
    cases s.fly.inst c k with
    | none => simp
    | some i =>
      by_cases hr : i.reg = r
      · simp [hr, eq_comm]
      · simp [hr]
  refine ⟨_, f, hs, ?_⟩
  unfold Sys.setPartials
  split
  · next hnone =>
    simp only [Bool.and_eq_true, List.all_eq_true, bne_iff_ne, List.isEmpty_iff] at hnone
    refine ⟨rfl, fun p => ⟨fun hp => .inl ⟨hp, hnone.1 p hp⟩, fun hp => hp.elim And.left fun hi => ?_⟩⟩
    rw [← hps, hnone.2] at hi
    cases hi
  · rw [h.sys.region_modRegion]
    exact ⟨rfl, fun p => by simp [← hps]⟩

/-! ### The commit unit (R95) -/

theorem checkReady_inst {y : Sys} {c k : Nat} {f : Fly} {i : Inst} (h : f.inst c k = some i) :
    ∃ j, (checkReady y c k f).inst c k = some j ∧ j.writes = i.writes ∧ j.exit = i.exit := by
  rw [checkReady, h]
  dsimp only
  split
  · exact ⟨_, tabFind_put_same .., rfl, rfl⟩
  · exact ⟨i, h, rfl, rfl⟩

theorem Token.word_eq (t : Token) : t.word = t.data.setWidth 64 := (BitVec.setWidth_eq_extractLsb' (by decide)).symm

section
variable {s : State} {i : Inst}

variable (h1 : 1 ≤ s.fly.ev.part) (h5 : s.fly.ev.part ≤ 5)
include h1 h5

theorem exec_tokenArrival_live (hi : s.fly.inst s.fly.ev.clu s.fly.ev.tok.frame = some i) (hent : s.fly.ev.ent = some i.ser) :
    exec .tokenArrival s = .next (toCommitUnit s s.fly.ev i) := by
  change execTokenArrival s = _
  rw [execTokenArrival, if_neg (by omega), if_neg (by omega), if_neg (by omega), if_neg (by omega), if_neg (by omega), if_neg (by omega)]
  simp only [hi, hent, if_true]

theorem exec_tokenArrival_gone (hnone : s.fly.inst s.fly.ev.clu s.fly.ev.tok.frame = none) : exec .tokenArrival s = .next s := by
  change execTokenArrival s = _
  rw [execTokenArrival, if_neg (by omega), if_neg (by omega), if_neg (by omega), if_neg (by omega), if_neg (by omega), if_neg (by omega)]
  simp only [hnone]

end

/-- A first token at the commit unit is kept in its instance. -/
theorem putInst_spec (s : State) (c k : Nat) (i : Inst) :
    ∃ t, s.mapFly (fun f => checkReady s.sys c k (f.setInst c k i)) = t ∧ t.mem = s.mem ∧ t.sys = s.sys ∧ t.greg = s.greg ∧
      ∃ j, t.fly.inst c k = some j ∧ j.writes = i.writes ∧ j.exit = i.exit :=
  ⟨_, rfl, rfl, rfl, rfl, checkReady_inst (tabFind_put_same ..)⟩

/-! ### The obligation -/

section
variable {s : State}

theorem exec_tokenArrival_placed (hpart : s.fly.ev.part = 9) : exec .tokenArrival s = .next (placeAll s s.fly.ev.clu s.fly.ev.reg) := by
  change execTokenArrival s = _
  simp [execTokenArrival, hpart]

theorem exec_tokenArrival_freed (hpart : s.fly.ev.part = 7) : exec .tokenArrival s = .next (freeEntries s s.fly.ev.clu s.fly.ev.reg) := by
  change execTokenArrival s = _
  simp [execTokenArrival, hpart]

theorem exec_tokenArrival_partials (hpart : s.fly.ev.part = 8) :
    exec .tokenArrival s = .next (settlePartials s s.fly.ev.clu s.fly.ev.reg s.fly.ev.frm) := by
  change execTokenArrival s = _
  simp [execTokenArrival, hpart]

theorem exec_tokenArrival_arrives (hpart : s.fly.ev.part = 0) : exec .tokenArrival s = .next (arriveTok s s.fly.ev) := by
  change execTokenArrival s = _
  simp [execTokenArrival, hpart]

variable (hpart : s.fly.ev.part = 0) {i : Inst} (hw : welcome s s.fly.ev i) (hidle : idleRegion (s.sys.region s.fly.ev.clu s.fly.ev.dest.reg))
include hpart hw hidle

/-- A token that completes its instruction: the firing issues two cycles later, three where an operand is converted, behind a like one. -/
theorem tokenArrival_completes
    (hexp : (s.sys.frame s.fly.ev.clu s.fly.ev.dest.reg s.fly.ev.dest.frm).expect.getD s.fly.ev.dest.idx 0 = posBit s.fly.ev.dest.pos)
    (hdiv : ∀ w ∈ s.fly.agenda, ∀ a, w.act = .ev .tokenArrival a → a.part ≠ 10) :
    gives s .tokenArrival fun t => t.greg = s.greg ∧
      ∃ f : Firing, ∃ due, s.sys.now + 2 ≤ due ∧ { due := due, act := .fire f } ∈ t.fly.agenda ∧ f.clu = s.fly.ev.clu ∧
        ((∀ w ∈ s.fly.agenda, ∀ g, w.act = .fire g → ¬ sameFiring s.fly.ev g) → due ≤ s.sys.now + 3) ∧
        (∀ w ∈ s.fly.agenda, ∀ g, w.act = .fire g → sameFiring s.fly.ev g → g.index = s.fly.ev.tok.index → w.due < due) ∧
        f.idx = s.fly.ev.dest.idx ∧ f.colour = s.fly.ev.tok.colour ∧ f.frame = s.fly.ev.tok.frame ∧ f.index = s.fly.ev.tok.index ∧ f.ser = i.ser ∧
        ((s.fly.ev.dest.pos = .left → f.left.isSome = true ∧ f.right = none ∧ f.pred = none) ∧
         (s.fly.ev.dest.pos = .right → f.right.isSome = true ∧ f.left = none ∧ f.pred = none) ∧
         (s.fly.ev.dest.pos = .pred → f.pred.isSome = true ∧ f.left = none ∧ f.right = none)) := by
  have hfree : dividerBusy s.fly s.fly.ev.clu s.fly.ev.dest.reg s.fly.ev.dest.idx = false := by
    refine List.any_eq_false.2 fun w hw => ?_
    split
    · next i e hact =>
      by_cases hi : i = .tokenArrival
      · subst hi
        simp [hdiv w hw e hact]
      · simp [hi]
    · exact Bool.false_ne_true
  obtain ⟨f, b, t, ht, hmem, hgreg, hagenda, hclu, hreg, hfrm, hidx, hcol, hframe, hindex, hser, hoperands⟩ := arriveTok_completes hw hidle hexp hfree
  obtain ⟨comb, due, hfire, hlo, hbehind, hhi⟩ := schedFire_due s.sys.now b f s.fly
  have hf : f.clu = s.fly.ev.clu ∧ f.frame = s.fly.ev.tok.frame ∧ f.idx = s.fly.ev.dest.idx ∧ f.reg = s.fly.ev.dest.reg ∧ f.frm = s.fly.ev.dest.frm :=
    ⟨hclu, hframe, hidx, hreg, hfrm⟩
  exact ⟨t, (exec_tokenArrival_arrives hpart).trans (congrArg _ ht), hmem, hgreg, f, due, hlo, hagenda _ hfire, hclu,
    fun hnone => hhi fun w hw => afterFiring_eq_zero hf (hnone w hw),
    fun w hw g hg hs hidx => lt_of_afterFiring_le hf hindex hg hs hidx (hbehind w hw), hidx, hcol, hframe, hindex, hser, hoperands⟩

/-- A token that waits: it is placed at the end of the cycle. -/
theorem tokenArrival_waits (hform : s.Form) (hpartner : ∃ p, p ≠ s.fly.ev.dest.pos ∧
      p ∈ positions ((s.sys.frame s.fly.ev.clu s.fly.ev.dest.reg s.fly.ev.dest.frm).expect.getD s.fly.ev.dest.idx 0)) :
    gives s .tokenArrival fun t => t.greg = s.greg ∧ (t.sys.region s.fly.ev.clu s.fly.ev.dest.reg).arrived = [arrival s] ∧
      ∃ w ∈ t.fly.agenda, ∃ a, w.act = .ev .tokenArrival a ∧ a.part = 9 ∧ a.clu = s.fly.ev.clu ∧ a.reg = s.fly.ev.dest.reg := by
  obtain ⟨f, hf, -, -, hlater⟩ := placeLater_spec (s.mapSys fun y => y.setRegion s.fly.ev.clu s.fly.ev.dest.reg
    { y.region s.fly.ev.clu s.fly.ev.dest.reg with arrived := [arrival s] }) s.fly.ev.clu s.fly.ev.dest.reg
  exact ⟨_, (exec_tokenArrival_arrives hpart).trans (congrArg _ ((arriveTok_waits hw hidle hpartner).trans hf)), rfl, rfl,
    congrArg Region.arrived (hform.sys.region_setRegion ..), hlater⟩

end

/-- Settles O28, part by part of the event. -/
theorem tokenEvents : Obligations.TokenEvents := by
  unfold Obligations.TokenEvents
  intro s hs
  have h := s.form_iff.1 hs
  refine ⟨fun i hp hw he hh ha hdiv => ⟨fun hexp => ?_, fun hpartner => ?_, fun hpartner hnot => ?_⟩, fun a n hp ha he hh hpp hf hpark hn hr => ?_,
    fun hp => ?_, fun hp => ?_, fun i hi hent => ⟨fun hp hv hw => ?_, fun hp hv hw => ?_, fun hp hx hc => ?_, fun hp hx => ?_⟩,
    fun n h1 h5 hnone hent => ?_⟩
  · exact tokenArrival_completes hp hw ⟨he, hh, ha⟩ hexp hdiv
  · exact tokenArrival_waits hp hw ⟨he, hh, ha⟩ h hpartner
  · exact (exec_tokenArrival_arrives hp).trans (congrArg _ ((arriveTok_waits hw ⟨he, hh, ha⟩ hpartner).trans
      (placeLater_not_due _ _ _ hnot)))
  · obtain ⟨y, f, ht, hentries, harrived⟩ := placeAll_takes h ha he hh hpp hf hpark hn hr
    exact ⟨_, (exec_tokenArrival_placed hp).trans (congrArg _ ht), rfl, rfl, hentries, harrived⟩
  · have hregion := h.sys.region_modRegion s.fly.ev.clu s.fly.ev.reg fun g => { g with freeing := [] }
    exact ⟨_, exec_tokenArrival_freed hp, rfl, rfl, (congrArg Region.freeing hregion).trans rfl, (congrArg Region.entries hregion).trans rfl⟩
  · obtain ⟨y, f, ht, hentries, hpartials⟩ := settlePartials_spec h s.fly.ev.clu s.fly.ev.reg s.fly.ev.frm
    exact ⟨_, (exec_tokenArrival_partials hp).trans (congrArg _ ht), rfl, rfl, hentries, hpartials⟩
  -- a register's first token at the commit unit, and a second one
  · have hfirst : i.writes.any (·.1 == s.fly.ev.col) = false := by simpa using hw
    obtain ⟨t, ht, hmem, hsys, hgreg, j, hj, hwrites, hexit⟩ := putInst_spec s s.fly.ev.clu s.fly.ev.tok.frame
      { i with writes := i.writes ++ [(s.fly.ev.col, some s.fly.ev.tok.word)] }
    refine ⟨t, ?_, hmem, hsys, hgreg, j, hj, by rw [hwrites, Token.word_eq], hexit⟩
    rw [exec_tokenArrival_live (by omega) (by omega) hi hent, toCommitUnit]
    simp only [hp, hv, hfirst, Bool.false_eq_true, if_false, ht]
  · have hsecond : i.writes.any (·.1 == s.fly.ev.col) = true := by simpa using hw
    rw [exec_tokenArrival_live (by omega) (by omega) hi hent, toCommitUnit]
    simp only [hp, hv, hsecond, Bool.false_eq_true, if_false, if_true]
    rfl
  -- an exit's first token, and a second one
  · obtain ⟨t, ht, hmem, hsys, hgreg, j, hj, hwrites, hexit⟩ := putInst_spec s s.fly.ev.clu s.fly.ev.tok.frame
      { i with exit := some (.goto s.fly.ev.word.toNat) }
    refine ⟨t, ?_, hmem, hsys, hgreg, j, hj, hexit, hwrites⟩
    rw [exec_tokenArrival_live (by omega) (by omega) hi hent, toCommitUnit]
    simp only [hp, hx, hc, Option.isSome_none, Bool.false_eq_true, if_false, ht]
  · rw [exec_tokenArrival_live (by omega) (by omega) hi hent, toCommitUnit]
    simp only [hp, hx, if_true]
    rfl
  · exact exec_tokenArrival_gone h1 h5 hnone

end Sys2Proof.Machine

namespace Sys2Proof.Machine
open Claims

/-! ## The matching store -/

/-! ### Hold queues (R40) -/

section
variable {s : State} {c r : Nat} {a : Entry} (he : (s.sys.region c r).entries = []) (hh : (s.sys.region c r).holds = [a])
  (ha : (s.sys.region c r).arrived = [])
include he hh ha

/-- A held token whose block has no live instance under its thread waits on. -/
theorem retryWaiting_not_live (hi : s.fly.inst c a.tok.frame = none) : retryWaiting s c r = s := by
  have hfire : tryFire s c r 2 a = .error s := by simp [tryFire, liveFor, hi]
  simp [retryWaiting, he, hh, ha, byArrival, insertFirst, hfire]

end

/-- The one held token of a region takes an entry of its colour's reserve. -/
theorem admitHolds_reserve {y : Sys} (h : y.Form) {c r n k : Nat} {a : Entry} (he : (y.region c r).entries = []) (hh : (y.region c r).holds = [a])
    (hp : (y.region c r).partials = []) (hf : (y.region c r).freeing = []) (hn : y.centOf c a.tok.colour = some n)
    (hr : 0 < (y.cent c n).reserve) :
    admitHolds c r (k + 1) y = y.setRegion c r { y.region c r with holds := [], entries := [a] } := by
  have hfirst : (y.holdQ c r a.tok.colour).head? = some a := by simp [Sys.holdQ, hh]
  have hmay : mayTake y c r a.tok.colour true = true := mayTake_of_reserve true he hp hf hn hr
  simp only [admitHolds, hh, he, List.filter_cons, List.filter_nil, hfirst, beq_self_eq_true, if_true, List.find?_cons, hmay, replaceEntry,
    Option.toList_none, List.nil_append]
  exact admitHolds_of_no_holds _ (by rw [h.region_setRegion])

/-- A region's queue is looked at: waiting tokens try again, then held ones are admitted. -/
theorem exec_holdQueueAdmit {s u : State} (hretry : retryWaiting (s.mapSys fun y => y.modRegion s.fly.ev.clu s.fly.ev.reg fun g =>
      { g with blocked := [] }) s.fly.ev.clu s.fly.ev.reg = u)
    (harrived : ((admitHolds s.fly.ev.clu s.fly.ev.reg 256 u.sys).region s.fly.ev.clu s.fly.ev.reg).arrived = []) :
    ∃ f, exec .holdQueueAdmit s = .next { u with sys := admitHolds s.fly.ev.clu s.fly.ev.reg 256 u.sys, fly := f } := by
  change ∃ f, execHoldQueueAdmit s = _
  unfold execHoldQueueAdmit
  dsimp only
  rw [hretry]
  split
  · exact ⟨_, rfl⟩
  · next hnot => exact absurd (List.isEmpty_iff.2 harrived) hnot

/-- A held token of the reserve is admitted. -/
theorem holdQueueAdmit_takes {s : State} (h : s.Form) {a : Entry} {n : Nat}
    (hh : (s.sys.region s.fly.ev.clu s.fly.ev.reg).holds = [a]) (he : (s.sys.region s.fly.ev.clu s.fly.ev.reg).entries = [])
    (ha : (s.sys.region s.fly.ev.clu s.fly.ev.reg).arrived = []) (hp : (s.sys.region s.fly.ev.clu s.fly.ev.reg).partials = [])
    (hf : (s.sys.region s.fly.ev.clu s.fly.ev.reg).freeing = []) (hi : s.fly.inst s.fly.ev.clu a.tok.frame = none)
    (hn : s.sys.centOf s.fly.ev.clu a.tok.colour = some n) (hr : 0 < (s.sys.cent s.fly.ev.clu n).reserve) :
    gives s .holdQueueAdmit fun t => t.greg = s.greg ∧ (t.sys.region s.fly.ev.clu s.fly.ev.reg).entries = [a] ∧
      (t.sys.region s.fly.ev.clu s.fly.ev.reg).holds = [] := by
  have hregion := h.sys.region_modRegion s.fly.ev.clu s.fly.ev.reg fun g => { g with blocked := [] }
  have hretry : retryWaiting (s.mapSys fun y => y.modRegion s.fly.ev.clu s.fly.ev.reg fun g => { g with blocked := [] })
      s.fly.ev.clu s.fly.ev.reg = _ :=
    retryWaiting_not_live (a := a) ((congrArg Region.entries hregion).trans he) ((congrArg Region.holds hregion).trans hh)
      ((congrArg Region.arrived hregion).trans ha) hi
  have hadmit := admitHolds_reserve (k := 255) h.sys.modRegion (a := a) ((congrArg Region.entries hregion).trans he)
    ((congrArg Region.holds hregion).trans hh) ((congrArg Region.partials hregion).trans hp) ((congrArg Region.freeing hregion).trans hf) hn hr
  have hdone := (h.sys.modRegion (c := s.fly.ev.clu) (r := s.fly.ev.reg) (g := fun g => { g with blocked := [] })).region_setRegion
    s.fly.ev.clu s.fly.ev.reg { (s.sys.modRegion s.fly.ev.clu s.fly.ev.reg fun g => { g with blocked := [] }).region s.fly.ev.clu s.fly.ev.reg with
      holds := [], entries := [a] }
  rw [← hadmit] at hdone
  obtain ⟨f, hexec⟩ := exec_holdQueueAdmit hretry ((congrArg Region.arrived hdone).trans ((congrArg Region.arrived hregion).trans ha))
  exact ⟨_, hexec, rfl, rfl, (congrArg Region.entries hdone).trans rfl, (congrArg Region.holds hdone).trans rfl⟩

/-! ### Re-injection (R44) -/

section
variable {y : Sys} (h : y.Form) (c k : Nat)
include h

theorem Sys.Form.park_setPark (v : Park) : (y.setPark c k v).park c k = v := tabGet_set_same _ _ _ _ ((rising_iff _).1 h.parks)

theorem Sys.Form.park_modPark (g : Park → Park) : (y.modPark c k g).park c k = g (y.park c k) := h.park_setPark c k _

end

section
variable {s : State} {c col : Nat} (hon : (s.sys.park c col).on = true)
include hon

theorem reinjectColour_of {u : State} (hu : reinject c col ((s.sys.park c col).recs.length + 1) s = u) :
    ∃ f, reinjectColour s c col = { u with fly := f } := by
  unfold reinjectColour
  simp only [hon, if_true, hu]
  exact ⟨_, rfl⟩

/-- With no record left the parking ends. -/
theorem reinjectColour_ends (hrecs : (s.sys.park c col).recs = []) :
    ∃ f, reinjectColour s c col = { s with sys := s.sys.setPark c col Park.reset, fly := f } := by
  refine reinjectColour_of (u := s.mapSys fun y => y.setPark c col Park.reset) hon ?_
  rw [reinject_succ]
  simp only [hrecs]

/-- A record that cannot be read is read again later. -/
theorem reinjectColour_stops {q : Nat × Entry} {rest : List (Nat × Entry)} {n : Nat} (hrecs : (s.sys.park c col).recs = q :: rest)
    (hn : s.sys.centOf c col = some n)
    (hread : readVirt s.sys s.mem (s.sys.ctxOf c) col ((s.sys.cent c n).parkBase + q.1 * 64) (64 * (1 + contOf q.2.tok)) = none) :
    ∃ f, reinjectColour s c col = { s with sys := s.sys.modPark c col fun p => { p with injecting := true }, fly := f } := by
  refine reinjectColour_of (u := s.mapSys fun y => y.modPark c col fun p => { p with injecting := true }) hon ?_
  rw [reinject_succ]
  simp only [hrecs, hn, takeVirt, Option.getD_some, hread]
  exact ite_self _

end

/-! ### Control tokens (R29) -/

/-- A region acts on a control token by an event alone. -/
theorem actOnCtrl_fly (s : State) (c : Nat) (m : Ctrl) : ∃ f, actOnCtrl s c m = { s with fly := f } := by cases m <;> exact ⟨_, rfl⟩

/-- Where a control token goes, in that cycle. -/
theorem soon_actOnCtrl (s : State) (c : Nat) (m : Ctrl) :
    (∀ x col, m = .marker x col → soon (actOnCtrl s c m) s.sys.now .drainMarkerArrival { clu := c, ctx := x, col := col.getD 0, p := col.isSome }) ∧
    (m = .stopDone → soon (actOnCtrl s c m) s.sys.now .stopCompletion { clu := c }) ∧
    (∀ x n, m = .kernelDone x n → soon (actOnCtrl s c m) s.sys.now .completionToken { ctx := x, clu := c, id := n }) := by
  refine ⟨?_, ?_, ?_⟩
  · rintro x col rfl
    exact soon_sched
  · rintro rfl
    exact soon_sched
  · rintro x n rfl
    exact soon_sched

/-- A region whose oldest control entry is freed: `rest` and the first control token that waited. -/
def Region.passCtrl (rest : List Ctrl) (g : Region) : Region :=
  { g with ctrl := rest ++ (g.ctrlWait.take 1).map Prod.fst, ctrlWait := g.ctrlWait.drop 1 }

/-- The oldest control entry of a region is acted on, and the tokens behind it move up. -/
theorem exec_controlTokenDelivery {s : State} {m : Ctrl} {rest : List Ctrl} (hm : (s.sys.region s.fly.ev.clu s.fly.ev.reg).ctrl = m :: rest) :
    ∃ f, exec .controlTokenDelivery s = .next (actOnCtrl { s with
      sys := s.sys.modRegion s.fly.ev.clu s.fly.ev.reg (Region.passCtrl rest), fly := f } s.fly.ev.clu m) := by
  change ∃ f, execControlTokenDelivery s = _
  simp only [execControlTokenDelivery, hm]
  split <;> split <;> exact ⟨_, rfl⟩

/-! ### The events -/

section
variable {s : State} (h : s.Form)
include h

theorem controlTokenDelivery_acts {m : Ctrl} {rest : List Ctrl} (hm : (s.sys.region s.fly.ev.clu s.fly.ev.reg).ctrl = m :: rest) :
    gives s .controlTokenDelivery fun t => t.greg = s.greg ∧
      (t.sys.region s.fly.ev.clu s.fly.ev.reg).ctrl = rest ++ ((s.sys.region s.fly.ev.clu s.fly.ev.reg).ctrlWait.take 1).map Prod.fst ∧
      (t.sys.region s.fly.ev.clu s.fly.ev.reg).ctrlWait = (s.sys.region s.fly.ev.clu s.fly.ev.reg).ctrlWait.drop 1 ∧
      (∀ x col, m = .marker x col →
        soon t s.sys.now .drainMarkerArrival { clu := s.fly.ev.clu, ctx := x, col := col.getD 0, p := col.isSome }) ∧
      (m = .stopDone → soon t s.sys.now .stopCompletion { clu := s.fly.ev.clu }) ∧
      (∀ x n, m = .kernelDone x n → soon t s.sys.now .completionToken { ctx := x, clu := s.fly.ev.clu, id := n }) := by
  obtain ⟨f, hexec⟩ := exec_controlTokenDelivery hm
  generalize hu : ({ s with sys := s.sys.modRegion s.fly.ev.clu s.fly.ev.reg (Region.passCtrl rest), fly := f } : State) = u at hexec
  have hsoon := soon_actOnCtrl u s.fly.ev.clu m
  obtain ⟨g, hact⟩ := actOnCtrl_fly u s.fly.ev.clu m
  rw [hact] at hexec hsoon
  subst hu
  have hregion := h.sys.region_modRegion s.fly.ev.clu s.fly.ev.reg (Region.passCtrl rest)
  exact ⟨_, hexec, rfl, rfl, congrArg Region.ctrl hregion, congrArg Region.ctrlWait hregion, hsoon⟩

theorem reInjectionResume_ends (hon : (s.sys.park s.fly.ev.clu s.fly.ev.col).on = true)
    (hstop : s.sys.stopped s.fly.ev.clu (s.sys.ctxOf s.fly.ev.clu) s.fly.ev.col = false)
    (hrecs : (s.sys.park s.fly.ev.clu s.fly.ev.col).recs = []) (hinj : (s.sys.park s.fly.ev.clu s.fly.ev.col).injecting = true) :
    gives s .reInjectionResume fun t => t.greg = s.greg ∧ (t.sys.park s.fly.ev.clu s.fly.ev.col).on = false := by
  obtain ⟨f, hf⟩ := reinjectColour_ends hon hrecs
  have hexec : exec .reInjectionResume s = .next (reinjectColour s s.fly.ev.clu s.fly.ev.col) := by
    change execReInjectionResume s = _
    simp [execReInjectionResume, hinj, hstop]
  exact ⟨_, hexec.trans (congrArg _ hf), rfl, rfl, (congrArg Park.on (h.sys.park_setPark ..)).trans rfl⟩

end

/-- The retry timer of a parked colour that is not stopped: its records are read, and the timer runs again while the colour stays parked. -/
theorem exec_retryTimerExpiry {s : State} (hon : (s.sys.park s.fly.ev.clu s.fly.ev.col).on = true)
    (hstop : s.sys.stopped s.fly.ev.clu (s.sys.ctxOf s.fly.ev.clu) s.fly.ev.col = false) {d : Nat}
    (hd : (s.sys.park s.fly.ev.clu s.fly.ev.col).retryAt = some d) (hdue : d ≤ s.sys.now) (hpower : s.sys.power < 2) {y : Sys}
    (hinj : ∃ f, reinjectColour s s.fly.ev.clu s.fly.ev.col = { s with sys := y, fly := f }) :
    ((y.park s.fly.ev.clu s.fly.ev.col).on = false → ∃ f, exec .retryTimerExpiry s = .next { s with sys := y, fly := f }) ∧
    ∀ n, (y.park s.fly.ev.clu s.fly.ev.col).on = true → y.centOf s.fly.ev.clu s.fly.ev.col = some n → 0 < (y.cent s.fly.ev.clu n).retry →
      ∃ f : Fly, exec .retryTimerExpiry s = .next (State.sched { s with
        sys := y.modPark s.fly.ev.clu s.fly.ev.col fun p => { p with retryAt := some (y.now + (y.cent s.fly.ev.clu n).retry) }
        fly := f } (y.now + (y.cent s.fly.ev.clu n).retry) .retryTimerExpiry { clu := s.fly.ev.clu, col := s.fly.ev.col }) := by
  obtain ⟨f, hf⟩ := hinj
  have hdo : exec .retryTimerExpiry s = execRetryTimerExpiry s := rfl
  rw [hdo]
  unfold execRetryTimerExpiry
  rw [if_neg (by simp [hon, hd, hdue]), if_neg (by omega)]
  simp only [hstop, Bool.false_eq_true, if_false, hf]
  refine ⟨fun hoff => ⟨f, ?_⟩, fun n hstill hn hretry => ⟨f, ?_⟩⟩
  · simp only [hoff]
  · simp only [hstill, hn]
    rw [if_neg (by omega)]
    rfl

section
variable {s : State} (h : s.Form) (hon : (s.sys.park s.fly.ev.clu s.fly.ev.col).on = true)
  (hstop : s.sys.stopped s.fly.ev.clu (s.sys.ctxOf s.fly.ev.clu) s.fly.ev.col = false) {d : Nat}
  (hd : (s.sys.park s.fly.ev.clu s.fly.ev.col).retryAt = some d) (hdue : d ≤ s.sys.now) (hpower : s.sys.power < 2)
include h hon hstop hd hdue hpower

theorem retryTimerExpiry_ends (hrecs : (s.sys.park s.fly.ev.clu s.fly.ev.col).recs = []) :
    gives s .retryTimerExpiry fun t => t.greg = s.greg ∧ (t.sys.park s.fly.ev.clu s.fly.ev.col).on = false := by
  have hoff : ((s.sys.setPark s.fly.ev.clu s.fly.ev.col Park.reset).park s.fly.ev.clu s.fly.ev.col).on = false :=
    (congrArg Park.on (h.sys.park_setPark ..)).trans rfl
  obtain ⟨f, hexec⟩ := (exec_retryTimerExpiry hon hstop hd hdue hpower (reinjectColour_ends hon hrecs)).1 hoff
  exact ⟨_, hexec, rfl, rfl, hoff⟩

theorem retryTimerExpiry_again {q : Nat × Entry} {rest : List (Nat × Entry)} {n : Nat}
    (hrecs : (s.sys.park s.fly.ev.clu s.fly.ev.col).recs = q :: rest) (hn : s.sys.centOf s.fly.ev.clu s.fly.ev.col = some n)
    (hretry : 0 < (s.sys.cent s.fly.ev.clu n).retry)
    (hread : readVirt s.sys s.mem (s.sys.ctxOf s.fly.ev.clu) s.fly.ev.col ((s.sys.cent s.fly.ev.clu n).parkBase + q.1 * 64)
      (64 * (1 + contOf q.2.tok)) = none) :
    gives s .retryTimerExpiry fun t => t.greg = s.greg ∧ (t.sys.park s.fly.ev.clu s.fly.ev.col).on = true ∧
      (t.sys.park s.fly.ev.clu s.fly.ev.col).recs = (s.sys.park s.fly.ev.clu s.fly.ev.col).recs ∧
      (t.sys.park s.fly.ev.clu s.fly.ev.col).injecting = true ∧
      soon t (s.sys.now + (s.sys.cent s.fly.ev.clu n).retry) .retryTimerExpiry { clu := s.fly.ev.clu, col := s.fly.ev.col } := by
  have hpark := h.sys.park_modPark s.fly.ev.clu s.fly.ev.col fun p => { p with injecting := true }
  obtain ⟨f, hexec⟩ := (exec_retryTimerExpiry hon hstop hd hdue hpower (reinjectColour_stops hon hrecs hn hread)).2 n
    ((congrArg Park.on hpark).trans hon) hn hretry
  have hlast := (h.sys.modPark (c := s.fly.ev.clu) (k := s.fly.ev.col) (g := fun p => { p with injecting := true })).park_modPark
    s.fly.ev.clu s.fly.ev.col fun p => { p with retryAt := some (s.sys.now + (s.sys.cent s.fly.ev.clu n).retry) }
  exact ⟨_, hexec, rfl, rfl, (congrArg Park.on hlast).trans ((congrArg Park.on hpark).trans hon),
    (congrArg Park.recs hlast).trans ((congrArg Park.recs hpark).trans rfl),
    (congrArg Park.injecting hlast).trans ((congrArg Park.injecting hpark).trans rfl), soon_sched⟩

end

/-- A region above its low-water mark parks nothing. -/
theorem exec_parking_above {s : State} (hpart : s.fly.ev.part = 0)
    (hwater : s.sys.freeShared s.fly.ev.clu s.fly.ev.reg ≥ (((s.sys.clu s.fly.ev.clu).mscfg.extractLsb' 16 9).toNat : Int)) :
    nothing s .parking := by
  have hlow : lowWater s.sys s.fly.ev.clu s.fly.ev.reg = false := decide_eq_false (not_lt.2 hwater)
  change execParking s = _
  simp [execParking, hpart, hlow]

/-! ### What translation rests on (R157 to R159) -/

/-- Two states give their contexts, and the lines of memory, under the same keys. -/
structure SameTables (y z : Sys) : Prop where
  ctxs : y.ctxs = z.ctxs
  held : ∀ l, (y.line l).held = (z.line l).held
  ktag : ∀ l, (y.line l).ktag = (z.line l).ktag

theorem SameTables.refl (y : Sys) : SameTables y y := ⟨rfl, fun _ => rfl, fun _ => rfl⟩

theorem SameTables.trans {x y z : Sys} (h : SameTables x y) (g : SameTables y z) : SameTables x z :=
  ⟨h.ctxs.trans g.ctxs, fun l => (h.held l).trans (g.held l), fun l => (h.ktag l).trans (g.ktag l)⟩

/-- A line that the table does not hold is stored under no key, and passes every check. -/
theorem staleTable_mem {y : Sys} {x l : Nat} (h : staleTable y x (l * 64) = true) : ∃ v, (l, v) ∈ y.lines := by
  cases hf : tabFind y.lines l with
  | some v => exact ⟨v, mem_of_tabFind hf⟩
  | none =>
    have hl : y.line l = Line.reset := by simp [Sys.line, tabGet, hf]
    rw [staleTable, Nat.mul_div_cancel l (by decide), hl] at h
    simp [Line.reset, Sys.opens] at h

theorem staleRanges_iff (y : Sys) (x k : Nat) : staleRanges y x k = true ↔
    ∃ l, tableBase y x k / 64 ≤ l ∧ l < tableBase y x k / 64 + 128 ∧ staleTable y x (l * 64) = true := by
  simp only [staleRanges, List.any_eq_true, Bool.and_eq_true, decide_eq_true_eq, and_assoc]
  constructor
  · rintro ⟨e, -, hlo, hhi, hs⟩
    exact ⟨e.1, hlo, hhi, hs⟩
  · rintro ⟨l, hlo, hhi, hs⟩
    obtain ⟨v, hv⟩ := staleTable_mem hs
    exact ⟨(l, v), hv, hlo, hhi, hs⟩

section
variable {y z : Sys} (h : SameTables y z)
include h

theorem SameTables.ctx (x : Nat) : y.ctx x = z.ctx x := by rw [Sys.ctx, Sys.ctx, h.ctxs]

theorem SameTables.tableBase (x k : Nat) : tableBase y x k = tableBase z x k := by rw [Machine.tableBase, Machine.tableBase, h.ctx]

theorem SameTables.staleTable (x pa : Nat) : staleTable y x pa = staleTable z x pa := by
  have hstored (k : KeyTag) : y.storedAs k = z.storedAs k := Sys.storedAs_congr h.ctxs k
  simp only [Machine.staleTable, Line.readTag, Line.owner?, Sys.opens, h.held, h.ktag, hstored]

theorem SameTables.staleRanges (x k : Nat) : staleRanges y x k = staleRanges z x k := by
  rw [Bool.eq_iff_iff, staleRanges_iff, staleRanges_iff, h.tableBase]
  simp only [h.staleTable]

theorem SameTables.rangesOf (m : Memory) (x colour page : Nat) : rangesOf y m x colour page = rangesOf z m x colour page := by
  have hread (k : Nat) : readRange y m x k = readRange z m x k := by
    funext e
    rw [readRange, readRange, h.tableBase]
  simp only [Machine.rangesOf, rangesFor, hread]

theorem SameTables.xlateNow (m : Memory) (x colour ident : Nat) (n : Need) (page : Nat) :
    xlateNow y m x colour ident n page = xlateNow z m x colour ident n page := by
  have hstale : Machine.staleTable y x = Machine.staleTable z x := funext (h.staleTable x)
  simp only [Machine.xlateNow, h.staleRanges, h.rangesOf, hstale]

theorem SameTables.firstBad (m : Memory) (x colour ident : Nat) (n : Need) (l : List (Nat × Nat)) :
    firstBad y m x colour ident n l = firstBad z m x colour ident n l := by
  induction l with
  | nil => rfl
  | cons p l ih => simp only [Machine.firstBad, h.xlateNow, ih]

theorem SameTables.linesOf (m : Memory) (x colour va n : Nat) (w : Bool) : linesOf y m x colour va n w = linesOf z m x colour va n w := by
  simp only [Machine.linesOf, locate, h.xlateNow]

end

/-- Bytes written at virtual addresses depend on the tables alone. -/
theorem putVirt_mem_congr {s t : State} (h : SameTables s.sys t.sys) (hmem : s.mem = t.mem) (x colour ident va : Nat) (bs : List Byte) :
    (putVirt s x colour ident va bs).mem = (putVirt t x colour ident va bs).mem := by
  induction bs generalizing s t va with
  | nil => exact hmem
  | cons b bs ih =>
    simp only [putVirt, h.xlateNow, hmem]
    split
    · refine ih ?_ ?_ _
      exacts [h, rfl]
    · exact ih h hmem _

/-- Bytes written at virtual addresses change memory alone. -/
theorem putVirt_spec (s : State) (x colour ident va : Nat) (bs : List Byte) :
    putVirt s x colour ident va bs = { s with mem := (putVirt s x colour ident va bs).mem } := by
  induction bs generalizing s va with
  | nil => rfl
  | cons b bs ih =>
    rw [putVirt, ih]
    split <;> rfl

/-! ### Lines that are ready (R174, R358, R382, R383) -/

/-- The lines and the banks of a state may be others; nothing else is. -/
def onlyLines (y z : Sys) : Prop := z = { y with lines := z.lines, banks := z.banks }

theorem onlyLines.keeps {α : Type} {y z : Sys} (h : onlyLines y z) (f : Sys → α) (hf : ∀ l b, f { y with lines := l, banks := b } = f y) :
    f z = f y := (congrArg f h).trans (hf _ _)

section
variable {y : Sys} (h : y.Form) (l : Nat) (w : Bool)

theorem recallLine_onlyLines (y : Sys) (l : Nat) : onlyLines y (recallLine y l) := by
  unfold recallLine onlyLines
  split <;> rfl

theorem stamp_recallLine_onlyLines (y : Sys) (l : Nat) (w : Bool) : onlyLines y ((recallLine y l).stamp l w) := by
  have h := recallLine_onlyLines y l
  unfold onlyLines at h ⊢
  rw [h]
  rfl

theorem recallLine_line_other (y : Sys) {l k : Nat} (h : k ≠ l) : (recallLine y l).line k = y.line k := by
  unfold recallLine
  split
  · rfl
  · exact tabGet_set_other _ _ _ _ _ h

include h

theorem Sys.Form.recallLine_ktag : ((recallLine y l).line l).ktag = (y.line l).ktag := by
  unfold Machine.recallLine
  split
  · rfl
  · next c b _ =>
    have hl := h.line_modLine l fun v => { v with holder := none, dirty := v.dirty || (tabFind (y.bank c b).lines l).any Prod.snd }
    exact (congrArg Line.ktag hl :)

/-- A line that is recalled and performs keeps its keys, and so does every other line. -/
theorem Sys.Form.sameTables_stamp : SameTables ((Machine.recallLine y l).stamp l w) y := by
  have hline := (h.recallLine (l := l)).line_modLine l fun v =>
    { v with tag := v.nextTag, last := some (Machine.recallLine y l).now, dirty := v.dirty || w }
  refine ⟨by rw [Sys.stamp]; exact recallLine_ctxs, fun k => ?_, fun k => ?_⟩ <;> by_cases hk : k = l
  · rw [hk]
    exact (congrArg Line.held hline).trans h.recallLine_held
  · exact congrArg Line.held ((tabGet_set_other _ _ _ _ _ hk).trans (recallLine_line_other y hk))
  · rw [hk]
    exact (congrArg Line.ktag hline).trans (h.recallLine_ktag l)
  · exact congrArg Line.ktag ((tabGet_set_other _ _ _ _ _ hk).trans (recallLine_line_other y hk))

end

theorem onlyLines.trans {x y z : Sys} (h : onlyLines x y) (g : onlyLines y z) : onlyLines x z := by
  unfold onlyLines at h g ⊢
  rw [g, h]

/-- Lines held under their keys all perform. -/
theorem openAll_held {l : List Ask} {s : State} (h : s.Form) (hl : ∀ q ∈ l, (s.sys.line q.line).held = some q.key) :
    ∃ y, openAll l s = .ok { s with sys := y } ∧ SameTables y s.sys ∧ onlyLines s.sys y := by
  induction l generalizing s with
  | nil => exact ⟨s.sys, rfl, .refl _, rfl⟩
  | cons q l ih =>
    have hsame := h.sys.sameTables_stamp q.line q.w
    have hform : (s.mapSys fun y => (recallLine y q.line).stamp q.line q.w).Form := h.mapSys h.sys.recallLine.stamp
    obtain ⟨y, hy, htables, honly⟩ := ih hform fun p hp => (hsame.held _).trans (hl p (List.mem_cons_of_mem _ hp))
    refine ⟨y, ?_, htables.trans hsame, (stamp_recallLine_onlyLines ..).trans honly⟩
    rw [openAll, openLine_held (hl q (List.mem_cons_self ..))]
    exact hy

theorem mem_mergeAsks {l : List Ask} {q : Ask} (h : q ∈ mergeAsks l) : ∃ p ∈ l, q.line = p.line ∧ q.key = p.key := by
  refine List.foldlRecOn (motive := fun t => ∀ q ∈ t, ∃ p ∈ l, q.line = p.line ∧ q.key = p.key) l _ (by simp) (fun t ht a ha => ?_) q h
  split
  · intro q hq
    obtain ⟨b, hb, rfl⟩ := List.mem_map.1 hq
    obtain ⟨p, hp, hline, hkey⟩ := ht b hb
    refine ⟨p, hp, ?_⟩
    split <;> exact ⟨hline, hkey⟩
  · intro q hq
    obtain hq | hq := List.mem_append.1 hq
    · exact ht q hq
    · rw [List.mem_singleton.1 hq]
      exact ⟨a, ha, rfl, rfl⟩

/-- Lines that are ready all perform in this cycle. -/
theorem openLines_ready {l : List Ask} {s : State} (h : s.Form) (hl : ∀ q ∈ l, lineReady s q.line q.key) :
    ∃ y, openLines l s = .ok { s with sys := y } ∧ SameTables y s.sys ∧ onlyLines s.sys y := by
  have hready : ∀ q ∈ mergeAsks l, lineReady s q.line q.key := fun q hq => by
    obtain ⟨p, hp, hline, hkey⟩ := mem_mergeAsks hq
    rw [hline, hkey]
    exact hl p hp
  have hhost : (mergeAsks l).any (fun q => hostLine q.line) = false :=
    List.any_eq_false.2 fun q hq => by rw [(hready q hq).1]; exact Bool.false_ne_true
  have hlast : (mergeAsks l).any (fun q => (s.sys.line q.line).last == some s.sys.now) = false :=
    List.any_eq_false.2 fun q hq => by simpa using (hready q hq).2.1
  obtain ⟨y, hy, hsame, honly⟩ := openAll_held h fun q hq => (hready q hq).2.2
  refine ⟨y, ?_, hsame, honly⟩
  unfold openLines
  simp only [hhost, hlast, Bool.false_and, Bool.false_eq_true, if_false]
  exact hy

/-- A write of the device itself where every page translates and every line is ready. -/
theorem writeVirt_ready {s : State} (h : s.Form) {x colour ident va : Nat} {bs : List Byte} (hbars : parkBars s x colour ident va bs.length = none)
    (hlines : linesReady s x colour va bs.length true) :
    ∃ m y, writeVirt s x colour ident va bs = .ok { s with mem := m, sys := y } ∧ m = (putVirt s x colour ident va bs).mem ∧
      SameTables y s.sys ∧ onlyLines s.sys y := by
  obtain ⟨y, hy, hsame, honly⟩ := openLines_ready h hlines
  refine ⟨_, y, ?_, rfl, hsame, honly⟩
  unfold parkBars at hbars
  simp only [writeVirt, hbars, hy]
  rw [putVirt_spec, putVirt_mem_congr (s := { s with sys := y }) (t := s) hsame rfl]

/-! ### A park record is written at its home slice (R43) -/

/-- What is in a park queue bears on no translation. -/
theorem sameTables_setPark (y : Sys) (c k : Nat) (v : Park) : SameTables (y.setPark c k v) y := ⟨rfl, fun _ => rfl, fun _ => rfl⟩

theorem parkAt_of_centOf {y : Sys} {c col n : Nat} (h : y.centOf c col = some n) (i : Nat) : y.parkAt c col i = (y.cent c n).parkBase + 64 * i := by
  simp only [Sys.parkAt, h, Option.map_some, Option.getD_some, Nat.mul_comm]

/-- The write of record `i` has performed, or is no longer on its way. -/
def Park.unsent (i : Nat) (p : Park) : Park := { p with sent := p.sent.filter (· != i) }

/-- Record `i` is written. -/
def Park.written (i : Nat) (p : Park) : Park := { p with pending := p.pending.filter (·.1 != i) }

theorem writePark_of {s u : State} {c r col i : Nat} {q : Nat × Nat × Entry} (hq : (s.sys.park c col).pending.find? (·.1 == i) = some q)
    (hw : writeVirt (s.mapSys fun y => y.modPark c col (Park.unsent i)) (s.sys.ctxOf c) col (s.sys.thr c q.2.2.tok.frame).ident
      (s.sys.parkAt c col i) (parkBytes q.2.2 q.2.1) = .ok u)
    (hinj : ((u.sys.modPark c col (Park.written i)).park c col).injecting = false) :
    writePark s c r col i = u.mapSys fun y => y.modPark c col (Park.written i) := by
  unfold writePark
  -- the write is taken as a whole: the kernel would otherwise evaluate it to reduce the match
  obtain ⟨write, hwrite⟩ : ∃ write, writeVirt = write := ⟨_, rfl⟩
  rw [hwrite] at hw ⊢
  rw [hq]
  replace hw : write (s.mapSys fun y => y.modPark c col fun p => { p with sent := p.sent.filter (· != i) }) _ _ _ _ _ = .ok u := hw
  dsimp only
  erw [hw]
  dsimp only
  rw [show (u.mapSys fun y => y.modPark c col fun p => { p with pending := p.pending.filter (·.1 != i) })
    = u.mapSys fun y => y.modPark c col (Park.written i) from rfl, if_neg]
  exact Bool.eq_false_iff.1 hinj

section
variable {s : State} (h : s.Form) {c r col i n : Nat} {q : Nat × Nat × Entry}
  (hq : (s.sys.park c col).pending.find? (·.1 == i) = some q) (hn : s.sys.centOf c col = some n)
  (hbars : parkBars s (s.sys.ctxOf c) col (s.sys.thr c q.2.2.tok.frame).ident ((s.sys.cent c n).parkBase + 64 * i)
    (parkBytes q.2.2 q.2.1).length = none)
  (hlines : linesReady s (s.sys.ctxOf c) col ((s.sys.cent c n).parkBase + 64 * i) (parkBytes q.2.2 q.2.1).length true)
include h hq hn hbars hlines

/-- A record whose lines are ready is written, and is no longer pending. -/
theorem writePark_ready (hinj : (s.sys.park c col).injecting = false) :
    ∃ t, writePark s c r col i = t ∧ t.greg = s.greg ∧
      t.mem = (putVirt s (s.sys.ctxOf c) col (s.sys.thr c q.2.2.tok.frame).ident ((s.sys.cent c n).parkBase + 64 * i) (parkBytes q.2.2 q.2.1)).mem ∧
      t.sys.park c col = ((s.sys.park c col).unsent i).written i := by
  have hform := h.mapSys (g := fun y => y.modPark c col (Park.unsent i)) h.sys.modPark
  have hsame : SameTables (s.sys.modPark c col (Park.unsent i)) s.sys := sameTables_setPark ..
  have hbars' : parkBars (s.mapSys fun y => y.modPark c col (Park.unsent i)) (s.sys.ctxOf c) col (s.sys.thr c q.2.2.tok.frame).ident
      ((s.sys.cent c n).parkBase + 64 * i) (parkBytes q.2.2 q.2.1).length = none := (hsame.firstBad ..).trans hbars
  have hlines' : linesReady (s.mapSys fun y => y.modPark c col (Park.unsent i)) (s.sys.ctxOf c) col ((s.sys.cent c n).parkBase + 64 * i)
      (parkBytes q.2.2 q.2.1).length true := fun p hp => hlines p ((hsame.linesOf ..) ▸ hp)
  obtain ⟨m, y, hy, hm, -, honly⟩ := writeVirt_ready hform hbars' hlines'
  have hkept : y.park c col = (s.sys.park c col).unsent i := (honly.keeps (fun y => y.park c col) fun _ _ => rfl).trans (h.sys.park_modPark ..)
  have hlast := (hform.writeVirt_ok hy).sys.park_modPark c col (Park.written i)
  rw [← parkAt_of_centOf hn i] at hy
  have hnot : ((y.modPark c col (Park.written i)).park c col).injecting = false := by
    rw [hlast]
    exact (congrArg Park.injecting hkept).trans hinj
  refine ⟨_, writePark_of (r := r) hq hy hnot, rfl, ?_, hlast.trans (congrArg (Park.written i) hkept)⟩
  exact hm.trans (putVirt_mem_congr (s := s.mapSys fun y => y.modPark c col (Park.unsent i)) (t := s) hsame rfl ..)

end

/-! ### A colour is parked (R42, R43, R45) -/

theorem onlyOne_flatMap {α : Type} {f : Nat → List α} {r : Nat} : ∀ {n : Nat}, r < n → (∀ k < n, k ≠ r → f k = []) → (List.range n).flatMap f = f r
  | n + 1, hr, h => by
    rw [List.range_succ, List.flatMap_append, List.flatMap_singleton]
    obtain hr | rfl := Nat.lt_succ_iff_lt_or_eq.1 hr
    · rw [onlyOne_flatMap hr fun k hk => h k (by omega), h n (by omega) (by omega), List.append_nil]
    · rw [List.flatMap_eq_nil_iff.2 fun k hk => h k (by have := List.mem_range.1 hk; omega) (by have := List.mem_range.1 hk; omega), List.nil_append]

/-! #### The records that a park channel buffers -/

/-- What a colour's park queue has of the records that the park channel of a region buffers. -/
def bufferedOf (c r : Nat) (e : Nat × Park) : List Nat :=
  if e.1 / 4096 = c then (e.2.pending.filter fun q => q.2.2.dest.reg == r && !e.2.sent.contains q.1).map fun q => 1 + contOf q.2.2.tok else []

theorem parkBuffered_eq (y : Sys) (c r : Nat) : parkBuffered y c r = (y.parks.flatMap (bufferedOf c r)).sum := rfl

section
variable {α : Type} (f : Nat × α → List Nat) (t : Tab α) (k : Nat) (v : α)

theorem sum_flatMap_tabPut_le : ((tabPut t k v).flatMap f).sum ≤ (t.flatMap f).sum + (f (k, v)).sum := by
  induction t with
  | nil => simp [tabPut]
  | cons e t ih =>
    obtain ⟨j, w⟩ := e
    rw [tabPut]
    split
    · simp; omega
    · split
      · simp; omega
      · simp only [List.flatMap_cons, List.sum_append]
        omega

theorem sum_flatMap_tabDel_le : ((tabDel t k).flatMap f).sum ≤ (t.flatMap f).sum := by
  induction t with
  | nil => simp [tabDel]
  | cons e t ih =>
    obtain ⟨j, w⟩ := e
    rw [tabDel]
    split
    · simp
    · simp only [List.flatMap_cons, List.sum_append]
      omega

end

/-- A park queue that is written adds to the buffer no more than its own records. -/
theorem parkBuffered_setPark_le (y : Sys) (c r col : Nat) (v : Park) :
    parkBuffered (y.setPark c col v) c r ≤ parkBuffered y c r + (bufferedOf c r (c * 4096 + col, v)).sum := by
  rw [parkBuffered_eq, parkBuffered_eq]
  change ((tabSet Park.reset y.parks (c * 4096 + col) v).flatMap _).sum ≤ _
  unfold tabSet
  split
  · exact (sum_flatMap_tabDel_le ..).trans (Nat.le_add_right ..)
  · exact sum_flatMap_tabPut_le ..

theorem parkBuffered_congr {y z : Sys} (h : y.parks = z.parks) (c r : Nat) : parkBuffered y c r = parkBuffered z c r := by
  rw [parkBuffered_eq, parkBuffered_eq, h]

theorem bufferedOf_none {c r k : Nat} {v : Park} (h : ∀ q ∈ v.pending, q.1 ∈ v.sent) : (bufferedOf c r (k, v)).sum = 0 := by
  have : v.pending.filter (fun q => q.2.2.dest.reg == r && !v.sent.contains q.1) = [] :=
    List.filter_eq_nil_iff.2 fun q hq => by simp [h q hq]
  simp only [bufferedOf, this, List.map_nil, ite_self, List.sum_nil]

theorem bufferedOf_single_le {c r k : Nat} {v : Park} {q : Nat × Nat × Entry} (h : v.pending = [q]) :
    (bufferedOf c r (k, v)).sum ≤ 1 + contOf q.2.2.tok := by
  simp only [bufferedOf, h, List.filter_cons, List.filter_nil]
  split
  · split <;> simp
  · simp

/-! #### A token goes to its park queue -/

/-- A ticket is opened in the system's registers alone (R163). -/
theorem withhold_spec (s : State) (x colour c r byte kind : Nat) : ∃ t n q,
    (withhold s x colour c r byte kind).2 = { s with sys := { s.sys with tickets := t, nextTicket := n, faultq := q } } := by
  unfold withhold
  dsimp only
  split <;> exact ⟨_, _, _, rfl⟩

/-- A colour is PARKED, and its retry timer runs. -/
def Park.begin (retry : Option Nat) (p : Park) : Park := { p with on := true, retryAt := retry }

/-- The park queue of a colour that has just been parked. -/
def Park.begun (retry : Option Nat) : Park := Park.reset.begin retry

/-- A matching entry appended to a park queue, its write not yet on its way. -/
def Park.append (p : Park) (a : Entry) : Park :=
  { p with wr := p.wr + (1 + contOf a.tok), recs := p.recs ++ [(p.wr, a)], pending := p.pending ++ [(p.wr, 0, a)] }

theorem parkAt_zero {y : Sys} {c col n : Nat} (h : y.centOf c col = some n) : y.parkAt c col 0 = (y.cent c n).parkBase :=
  (parkAt_of_centOf h 0).trans (by rw [Nat.mul_zero, Nat.add_zero])

/-- Whether a park record's pages translate, as the event itself asks. -/
theorem parkBad_eq (s : State) {c col n : Nat} (hn : s.sys.centOf c col = some n) (a : Entry) :
    parkBad s c col (0, 0, a) = parkBars s (s.sys.ctxOf c) col (s.sys.thr c a.tok.frame).ident (s.sys.cent c n).parkBase (64 * (1 + contOf a.tok)) :=
  congrArg (fun va => firstBad s.sys s.mem (s.sys.ctxOf c) col (s.sys.thr c a.tok.frame).ident { w := true, writes := true }
    (pagesOf va (64 * (1 + contOf a.tok)))) (parkAt_zero hn)

section
variable {s : State} {c r col : Nat} {a : Entry}

/-- The write of a record whose pages translate is on its way for 13 cycles or more. -/
theorem sendPark_sent (h : parkBad s c col (0, 0, a) = none) : ∃ f due z, s.sys.now + 13 ≤ due ∧
    sendPark s c r col (0, 0, a) = { s with
      sys := s.sys.modPark c col fun p => { p with sent := 0 :: p.sent }
      fly := Fly.event f due .parking (parkEvent c r z col 0 false) } := by
  unfold sendPark
  rw [h]
  exact ⟨_, _, _, (Nat.le_add_right _ _).trans (le_pathDue ..), rfl⟩

/-- That of one whose page is absent is withheld under a ticket. -/
theorem sendPark_withheld {b k : Nat} (h : parkBad s c col (0, 0, a) = some (b, .absent k)) : ∃ t n q,
    sendPark s c r col (0, 0, a) = { s with sys := { s.sys with tickets := t, nextTicket := n, faultq := q } } := by
  unfold sendPark
  rw [h]
  exact withhold_spec ..

end

/-- A matching entry is appended to its park queue while the park area and the park channel have room. -/
theorem parkTok_room {s t : State} {c r col n : Nat} {a : Entry} {p : Park} (hent : a.ent = none) (hn : s.sys.centOf c col = some n)
    (hp : s.sys.park c col = p) (hsize : (p.wr + (1 + contOf a.tok)) * 64 ≤ (s.sys.cent c n).parkSize)
    (ht : sendPark (s.mapSys fun y => y.setPark c col (p.append a)) c r col (p.wr, 0, a) = t) (hbuf : parkBuffered t.sys c r ≤ 16) :
    parkTok s c r col 0 a = t := by
  unfold parkTok
  simp only [hent, Option.any_none, Bool.false_eq_true, if_false, hn, hp]
  rw [if_neg (by omega)]
  unfold Park.append at ht
  rw [ht, if_pos hbuf]

section
variable {s : State} (h : s.sys.Form) {c r col n : Nat} {a : Entry} {retry : Option Nat} (hent : a.ent = none) (hn : s.sys.centOf c col = some n)
  (hpark : s.sys.park c col = Park.begun retry) (hbuf : parkBuffered s.sys c r = 0)
  (hsize : (1 + contOf a.tok) * 64 ≤ (s.sys.cent c n).parkSize) (hcont : contOf a.tok ≤ 3)
include h hent hn hpark hbuf hsize hcont

/-- The first token of a colour that has just been parked is on its way to the park area, or withheld. -/
theorem parkTok_first {bad : Option (Nat × XRes)}
    (hbars : parkBars s (s.sys.ctxOf c) col (s.sys.thr c a.tok.frame).ident (s.sys.cent c n).parkBase (64 * (1 + contOf a.tok)) = bad)
    (hbad : bad = none ∨ ∃ b k, bad = some (b, .absent k)) :
    ∃ t, parkTok s c r col 0 a = t ∧ t.mem = s.mem ∧ t.greg = s.greg ∧ t.sys.regions = s.sys.regions ∧
      (∃ sent, t.sys.park c col = { (Park.begun retry).append a with sent := sent }) ∧
      (bad = none → ∃ due ≥ s.sys.now + 13, ∃ z, soon t due .parking (parkEvent c r z col 0 false)) := by
  have hroom : ((Park.begun retry).wr + (1 + contOf a.tok)) * 64 ≤ (s.sys.cent c n).parkSize := by
    rw [show (Park.begun retry).wr = 0 from rfl, Nat.zero_add]
    exact hsize
  have happend := h.park_setPark c col ((Park.begun retry).append a)
  have hkept : parkBuffered (s.sys.setPark c col ((Park.begun retry).append a)) c r ≤ 4 := by
    have hown : (bufferedOf c r (c * 4096 + col, (Park.begun retry).append a)).sum ≤ 1 + contOf a.tok := bufferedOf_single_le (q := (0, 0, a)) rfl
    have := parkBuffered_setPark_le s.sys c r col ((Park.begun retry).append a)
    omega
  have hbars' : parkBad (s.mapSys fun y => y.setPark c col ((Park.begun retry).append a)) c col (0, 0, a) = bad :=
    (parkBad_eq (s.mapSys fun y => y.setPark c col ((Park.begun retry).append a)) hn a).trans (((sameTables_setPark ..).firstBad ..).trans hbars)
  obtain rfl | ⟨b, k, rfl⟩ := hbad
  · obtain ⟨f, due, z, hdue, hsend⟩ := sendPark_sent hbars' (r := r)
    have hsent := (h.setPark (c := c) (k := col) (v := (Park.begun retry).append a)).park_modPark c col fun p => { p with sent := 0 :: p.sent }
    rw [happend] at hsent
    have hsmall : parkBuffered ((s.sys.setPark c col ((Park.begun retry).append a)).modPark c col fun p => { p with sent := 0 :: p.sent }) c r
        ≤ 16 := by
      have hown : (bufferedOf c r (c * 4096 + col, { (Park.begun retry).append a with sent := [0] })).sum = 0 :=
        bufferedOf_none fun q hq => by rw [List.mem_singleton.1 hq]; exact List.mem_singleton.2 rfl
      have := parkBuffered_setPark_le (s.sys.setPark c col ((Park.begun retry).append a)) c r col { (Park.begun retry).append a with sent := [0] }
      rw [Sys.modPark, happend]
      exact this.trans (by omega)
    exact ⟨_, parkTok_room hent hn hpark hroom hsend hsmall, rfl, rfl, rfl, ⟨_, hsent⟩,
      fun _ => ⟨due, hdue, z, Fly.mem_event_agenda.2 (.inl rfl)⟩⟩
  · obtain ⟨t, m, q, hsend⟩ := sendPark_withheld hbars' (r := r)
    exact ⟨_, parkTok_room hent hn hpark hroom hsend (hkept.trans (by decide)), rfl, rfl, rfl, ⟨_, happend⟩, nofun⟩

end

/-! #### The regions of a cluster that a colour leaves -/

/-- A region without the tokens of a colour. -/
def Region.leave (col : Nat) (g : Region) : Region :=
  { g with entries := g.entries.filter (·.tok.colour != col), holds := g.holds.filter (·.tok.colour != col), blocked := g.blocked.filter (· != col) }

theorem Sys.region_modPark (y : Sys) (c k : Nat) (g : Park → Park) (c' r : Nat) : (y.modPark c k g).region c' r = y.region c' r := rfl

/-- A cluster's regions without the tokens of a colour. -/
def Sys.leave (y : Sys) (c col : Nat) : Sys := (List.range Config.nRegions).foldl (fun y r => y.modRegion c r (Region.leave col)) y

section
variable {y : Sys} (h : y.Form) (c col : Nat)

/-- The regions of a state may be others; nothing else is. -/
theorem foldl_modRegion_spec (y : Sys) (g : Region → Region) (l : List Nat) :
    ∃ t, l.foldl (fun y r => y.modRegion c r g) y = { y with regions := t } :=
  foldl_keeps (P := fun z => ∃ t, z = { y with regions := t }) (fun _ _ ⟨_, hz⟩ => ⟨_, by rw [hz]; rfl⟩) l ⟨_, rfl⟩

theorem Sys.leave_spec (y : Sys) : ∃ t, y.leave c col = { y with regions := t } := foldl_modRegion_spec ..

theorem Sys.park_leave (y : Sys) (k : Nat) : (y.leave c col).park c k = y.park c k := by
  obtain ⟨t, ht⟩ := Sys.leave_spec c col y
  rw [ht]
  rfl

theorem Sys.parks_leave (y : Sys) : (y.leave c col).parks = y.parks := by
  obtain ⟨t, ht⟩ := Sys.leave_spec c col y
  rw [ht]

include h

theorem Sys.Form.leave : (y.leave c col).Form := h.foldl fun _ _ h => h.modRegion

theorem Sys.Form.region_foldl_modRegion (g : Region → Region) (r : Nat) : ∀ n,
    ((List.range n).foldl (fun y r => y.modRegion c r g) y).region c r = if r < n then g (y.region c r) else y.region c r
  | 0 => by simp
  | n + 1 => by
    have ih := Sys.Form.region_foldl_modRegion g r n
    have hform : ((List.range n).foldl (fun y r => y.modRegion c r g) y).Form := h.foldl fun _ _ h => h.modRegion
    rw [List.range_succ, List.foldl_append, List.foldl_cons, List.foldl_nil]
    by_cases hr : r = n
    · rw [hr] at ih ⊢
      rw [hform.region_modRegion, ih, if_neg (by omega), if_pos (by omega)]
    · have hother : c * 16 + r ≠ c * 16 + n := by omega
      refine ((tabGet_set_other _ _ _ _ _ hother).trans ih).trans ?_
      have : (r < n) = (r < n + 1) := by rw [eq_iff_iff]; omega
      simp only [this]

theorem Sys.Form.region_leave {r : Nat} (hr : r < 16) : (y.leave c col).region c r = (y.region c r).leave col :=
  (h.region_foldl_modRegion c (Region.leave col) r 16).trans (if_pos hr)

end

/-- A cluster where a colour begins to be parked. -/
def Sys.begin (y : Sys) (c col : Nat) (retry : Option Nat) : Sys := (y.leave c col).modPark c col (Park.begin retry)

section
variable {y : Sys} (h : y.Form) (c col : Nat) (retry : Option Nat)

/-- A colour that begins to be parked changes regions and park queues, and nothing else. -/
theorem Sys.begin_spec (y : Sys) : ∃ t p, y.begin c col retry = { y with regions := t, parks := p } := by
  obtain ⟨t, ht⟩ := Sys.leave_spec c col y
  exact ⟨t, _, by rw [Sys.begin, ht]; rfl⟩

theorem sameTables_begin (y : Sys) : SameTables (y.begin c col retry) y := by
  obtain ⟨t, p, hy⟩ := Sys.begin_spec c col retry y
  rw [hy]
  exact ⟨rfl, fun _ => rfl, fun _ => rfl⟩

theorem parkBuffered_begin {r : Nat} (hpark : y.park c col = Park.reset) (hbuf : parkBuffered y c r = 0) :
    parkBuffered (y.begin c col retry) c r = 0 := by
  have hown : (bufferedOf c r (c * 4096 + col, Park.begun retry)).sum = 0 := bufferedOf_none fun q hq => absurd hq List.not_mem_nil
  have hle := parkBuffered_setPark_le (y.leave c col) c r col (Park.begun retry)
  rw [hown, parkBuffered_congr (Sys.parks_leave ..), hbuf] at hle
  rw [Sys.begin, Sys.modPark, Sys.park_leave, hpark]
  exact Nat.le_zero.1 hle

include h

theorem Sys.Form.begin : (y.begin c col retry).Form := (h.leave c col).modPark

theorem Sys.Form.park_begin (hpark : y.park c col = Park.reset) : (y.begin c col retry).park c col = Park.begun retry := by
  rw [Sys.begin, (h.leave c col).park_modPark, Sys.park_leave, hpark]
  rfl

theorem Sys.Form.region_begin {r : Nat} (hr : r < 16) : (y.begin c col retry).region c r = (y.region c r).leave col :=
  (Sys.region_modPark ..).trans (h.region_leave c col hr)

end

theorem foldl_placeLater_spec (s : State) (c : Nat) (l : List Nat) :
    ∃ f, l.foldl (fun s r => if (s.sys.region c r).arrived.isEmpty then s else placeLater s c r) s = { s with fly := f } := by
  refine foldl_keeps (P := fun t => ∃ f, t = { s with fly := f }) ?_ l ⟨s.fly, rfl⟩
  rintro t r ⟨f, rfl⟩
  split
  · exact ⟨f, rfl⟩
  · obtain ⟨g, hg, -⟩ := placeLater_spec { s with fly := f } c r
    exact ⟨g, hg⟩

section
variable {s : State} {c r n : Nat} {a : Entry} (hr : r < 16) (he : (s.sys.region c r).entries = [a])
  (hh : (s.sys.region c r).holds = []) (hother : ∀ k < 16, k ≠ r → s.sys.region c k = Region.reset)
  (hn : s.sys.centOf c a.tok.colour = some n)
include hr he hh hother hn

/-- The one token of a cluster's matching store is its colour's one token. -/
theorem parkColour_one : ∃ f retry, parkColour s c a.tok.colour =
    parkTok { s with sys := s.sys.begin c a.tok.colour retry, fly := f } c r a.tok.colour 0 a := by
  have hentries : ((List.range Config.nRegions).flatMap fun k =>
      byArrival (((s.sys.region c k).entries.filter fun e => e.tok.colour == a.tok.colour).map fun e => (k, e))) = [(r, a)] := by
    rw [onlyOne_flatMap (n := Config.nRegions) hr fun k hk hne => by rw [hother k hk hne]; rfl, he]
    simp [byArrival, insertFirst]
  have hholds : ((List.range Config.nRegions).flatMap fun k =>
      byArrival (((s.sys.region c k).holds.filter fun e => e.tok.colour == a.tok.colour).map fun e => (k, e))) = [] := by
    rw [onlyOne_flatMap (n := Config.nRegions) hr fun k hk hne => by rw [hother k hk hne]; rfl, hh]
    rfl
  unfold parkColour
  simp only [hentries, hholds, List.foldl_cons, List.foldl_nil, hn]
  rw [(foldl_placeLater_spec _ c _).choose_spec]
  split
  · exact ⟨_, none, rfl⟩
  · exact ⟨_, some ((s.sys.leave c a.tok.colour).now + (s.sys.cent c n).retry), rfl⟩

/-- The one token of a cluster's matching store goes to its park queue when its colour is parked. -/
theorem parkColour_first (h : s.sys.Form) (hent : a.ent = none) (hpark : s.sys.park c a.tok.colour = Park.reset)
    (hbuf : parkBuffered s.sys c r = 0) (hsize : (1 + contOf a.tok) * 64 ≤ (s.sys.cent c n).parkSize) (hcont : contOf a.tok ≤ 3)
    {bad : Option (Nat × XRes)}
    (hbars : parkBars s (s.sys.ctxOf c) a.tok.colour (s.sys.thr c a.tok.frame).ident (s.sys.cent c n).parkBase (64 * (1 + contOf a.tok)) = bad)
    (hbad : bad = none ∨ ∃ b k, bad = some (b, .absent k)) :
    ∃ t, parkColour s c a.tok.colour = t ∧ t.mem = s.mem ∧ t.greg = s.greg ∧ (t.sys.region c r).entries = [] ∧
      (∃ retry sent, t.sys.park c a.tok.colour = { (Park.begun retry).append a with sent := sent }) ∧
      (bad = none → ∃ due ≥ s.sys.now + 13, ∃ z, soon t due .parking (parkEvent c r z a.tok.colour 0 false)) := by
  obtain ⟨f, retry, hcolour⟩ := parkColour_one hr he hh hother hn
  have hsame := sameTables_begin c a.tok.colour retry s.sys
  have hform := h.begin c a.tok.colour retry
  have hbegun := h.park_begin c a.tok.colour retry hpark
  have hempty := parkBuffered_begin c a.tok.colour retry hpark hbuf
  have hleft := h.region_begin c a.tok.colour retry hr
  obtain ⟨regions, parks, hy⟩ := Sys.begin_spec c a.tok.colour retry s.sys
  generalize s.sys.begin c a.tok.colour retry = y at *
  have hcent : y.cent c n = s.sys.cent c n := by rw [hy]; rfl
  have hcentOf : y.centOf c a.tok.colour = some n := by rw [hy]; exact hn
  have hbars' : parkBars { s with sys := y, fly := f } (y.ctxOf c) a.tok.colour (y.thr c a.tok.frame).ident (y.cent c n).parkBase
      (64 * (1 + contOf a.tok)) = bad := by
    rw [hcent, show y.ctxOf c = s.sys.ctxOf c by rw [hy]; rfl, show y.thr c a.tok.frame = s.sys.thr c a.tok.frame by rw [hy]; rfl]
    exact (hsame.firstBad ..).trans hbars
  obtain ⟨t, ht, hmem, hgreg, hregions, ⟨sent, hlast⟩, hsoon⟩ := parkTok_first (s := { s with sys := y, fly := f }) (r := r)
    hform hent hcentOf hbegun hempty (hcent ▸ hsize) hcont hbars' hbad
  have hregion : t.sys.region c r = (s.sys.region c r).leave a.tok.colour :=
    (congrArg (fun z => tabGet Region.reset z (c * 16 + r)) hregions).trans hleft
  rw [show y.now = s.sys.now by rw [hy]] at hsoon
  refine ⟨t, hcolour.trans ht, hmem, hgreg, ?_, ⟨retry, sent, hlast⟩, hsoon⟩
  rw [hregion, Region.leave, he]
  simp

end

/-- A region looks at its low-water mark: what is in flight stays so. -/
theorem mem_parkCheck {y : Sys} {c r due : Nat} {f : Fly} {w : Work} (h : w ∈ f.agenda) : w ∈ (parkCheck y c r due f).agenda := by
  unfold parkCheck
  split
  · exact h
  · exact Fly.mem_event_agenda.2 (.inr h)

section
variable {s : State} {a : Entry} {n : Nat} (hpart : s.fly.ev.part = 0) (hn : s.sys.centOf s.fly.ev.clu a.tok.colour = some n)
  (he : (s.sys.region s.fly.ev.clu s.fly.ev.reg).entries = [a])
  (hwater : s.sys.freeShared s.fly.ev.clu s.fly.ev.reg < (((s.sys.clu s.fly.ev.clu).mscfg.extractLsb' 16 9).toNat : Int))
  (hage : a.first + (s.sys.cent s.fly.ev.clu n).parkAge < s.sys.now)
include hpart hn he hwater hage

/-- Below its low-water mark a region parks the colour of its one entry, if that is old enough (R42). -/
theorem exec_parking_below : ∃ c r due, exec .parking s =
    .next ((parkColour s s.fly.ev.clu a.tok.colour).mapFly (parkCheck (parkColour s s.fly.ev.clu a.tok.colour).sys c r due)) := by
  have hlow : lowWater s.sys s.fly.ev.clu s.fly.ev.reg = true := decide_eq_true hwater
  have hdue : (if (s.sys.cent s.fly.ev.clu n).parkAge = 0 then 0 else a.first + (s.sys.cent s.fly.ev.clu n).parkAge + 1) ≤ s.sys.now := by
    split <;> omega
  change ∃ c r due, execParking s = _
  unfold execParking
  rw [if_neg (by omega), if_neg (by simp [hlow])]
  simp only [he, List.filterMap_cons, List.filterMap_nil, hn, Option.map_some, List.filter_cons, List.filter_nil, hdue, decide_true, if_true,
    List.foldl_cons, List.foldl_nil]
  exact ⟨_, _, _, rfl⟩

end

/-- The one entry of a region below its low-water mark is parked. -/
theorem parking_parks {s : State} (h : s.Form) {a : Entry} {n : Nat} (hpart : s.fly.ev.part = 0)
    (he : (s.sys.region s.fly.ev.clu s.fly.ev.reg).entries = [a]) (hh : (s.sys.region s.fly.ev.clu s.fly.ev.reg).holds = [])
    (hent : a.ent = none) (hr : s.fly.ev.reg < 16)
    (hother : ∀ r < 16, r ≠ s.fly.ev.reg → s.sys.region s.fly.ev.clu r = Region.reset)
    (hwater : s.sys.freeShared s.fly.ev.clu s.fly.ev.reg < (((s.sys.clu s.fly.ev.clu).mscfg.extractLsb' 16 9).toNat : Int))
    (hn : s.sys.centOf s.fly.ev.clu a.tok.colour = some n) (hpark : s.sys.park s.fly.ev.clu a.tok.colour = Park.reset)
    (hbuf : parkBuffered s.sys s.fly.ev.clu s.fly.ev.reg = 0) {bad : Option (Nat × XRes)}
    (hbars : parkBars s (s.sys.ctxOf s.fly.ev.clu) a.tok.colour (s.sys.thr s.fly.ev.clu a.tok.frame).ident (s.sys.cent s.fly.ev.clu n).parkBase
      (64 * (1 + contOf a.tok)) = bad)
    (hbad : bad = none ∨ ∃ b k, bad = some (b, .absent k)) (hage : a.first + (s.sys.cent s.fly.ev.clu n).parkAge < s.sys.now)
    (hsize : (1 + contOf a.tok) * 64 ≤ (s.sys.cent s.fly.ev.clu n).parkSize) (hcont : contOf a.tok ≤ 3) :
    gives s .parking fun t => t.greg = s.greg ∧ (t.sys.park s.fly.ev.clu a.tok.colour).on = true ∧
      (t.sys.park s.fly.ev.clu a.tok.colour).recs = [(0, a)] ∧ (t.sys.park s.fly.ev.clu a.tok.colour).pending = [(0, 0, a)] ∧
      (t.sys.region s.fly.ev.clu s.fly.ev.reg).entries = [] ∧
      (bad = none → ∃ due ≥ s.sys.now + 13, ∃ z, soon t due .parking (parkEvent s.fly.ev.clu s.fly.ev.reg z a.tok.colour 0 false)) := by
  obtain ⟨t, ht, hmem, hgreg, hentries, ⟨retry, sent, hlast⟩, hsoon⟩ :=
    parkColour_first hr he hh hother hn h.sys hent hpark hbuf hsize hcont hbars hbad
  obtain ⟨c, r, due, hexec⟩ := exec_parking_below hpart hn he hwater hage
  rw [ht] at hexec
  refine ⟨_, hexec, hmem, hgreg, (congrArg Park.on hlast).trans rfl, (congrArg Park.recs hlast).trans rfl,
    (congrArg Park.pending hlast).trans rfl, hentries, fun hb => ?_⟩
  obtain ⟨due, hdue, z, hz⟩ := hsoon hb
  exact ⟨due, hdue, z, mem_parkCheck hz⟩

/-- The write of a park record performs. -/
theorem parking_writes {s : State} (h : s.Form) {q : Nat × Nat × Entry} {n : Nat} (hpart : s.fly.ev.part = 1)
    (hq : (s.sys.park s.fly.ev.clu s.fly.ev.frm).pending.find? (·.1 == s.fly.ev.id) = some q)
    (hinj : (s.sys.park s.fly.ev.clu s.fly.ev.frm).injecting = false) (hn : s.sys.centOf s.fly.ev.clu s.fly.ev.frm = some n)
    (hbars : parkBars s (s.sys.ctxOf s.fly.ev.clu) s.fly.ev.frm (s.sys.thr s.fly.ev.clu q.2.2.tok.frame).ident
      ((s.sys.cent s.fly.ev.clu n).parkBase + 64 * s.fly.ev.id) (parkBytes q.2.2 q.2.1).length = none)
    (hlines : linesReady s (s.sys.ctxOf s.fly.ev.clu) s.fly.ev.frm ((s.sys.cent s.fly.ev.clu n).parkBase + 64 * s.fly.ev.id)
      (parkBytes q.2.2 q.2.1).length true) :
    ∃ t, exec .parking s = .next t ∧ t.greg = s.greg ∧
      t.mem = (putVirt s (s.sys.ctxOf s.fly.ev.clu) s.fly.ev.frm (s.sys.thr s.fly.ev.clu q.2.2.tok.frame).ident
        ((s.sys.cent s.fly.ev.clu n).parkBase + 64 * s.fly.ev.id) (parkBytes q.2.2 q.2.1)).mem ∧
      (t.sys.park s.fly.ev.clu s.fly.ev.frm).pending = (s.sys.park s.fly.ev.clu s.fly.ev.frm).pending.filter (·.1 != s.fly.ev.id) ∧
      (t.sys.park s.fly.ev.clu s.fly.ev.frm).recs = (s.sys.park s.fly.ev.clu s.fly.ev.frm).recs := by
  obtain ⟨t, ht, hgreg, hmem, hlast⟩ := writePark_ready h hq hn hbars hlines hinj (r := s.fly.ev.reg)
  have hexec : exec .parking s = .next (writePark s s.fly.ev.clu s.fly.ev.reg s.fly.ev.frm s.fly.ev.id) := by
    change execParking s = _
    unfold execParking
    exact if_pos hpart
  exact ⟨t, hexec.trans (congrArg _ ht), hgreg, hmem, (congrArg Park.pending hlast).trans rfl, (congrArg Park.recs hlast).trans rfl⟩

/-! ### The obligation -/

/-- Settles O29, event by event. -/
theorem storeEvents : Obligations.StoreEvents := by
  unfold Obligations.StoreEvents
  intro s hs
  have h := s.form_iff.1 hs
  refine ⟨fun a n hh he ha hp hf hi hn hr => ?_, fun a n hpart he hh hent hr hother hwater hn hpark hbuf hbad hage hsize hcont => ?_,
    fun q n hpart _ hq hinj hn hbars hlines => ?_, fun hpart hwater => ?_, fun hon _ hstop => ⟨fun hrecs hd hpower => ?_, fun hrecs hinj => ?_,
      fun q rest d n hrecs hd hdue hpower hn hretry hread => ?_⟩, fun m rest hm => ?_⟩
  · exact holdQueueAdmit_takes h hh he ha hp hf hi hn hr
  · exact parking_parks h hpart he hh hent hr hother hwater hn hpark hbuf rfl hbad hage hsize hcont
  · exact parking_writes h hpart hq hinj hn hbars hlines
  · exact exec_parking_above hpart hwater
  · obtain ⟨d, hretry, hdue⟩ := hd
    exact retryTimerExpiry_ends h hon hstop hretry hdue hpower hrecs
  · exact reInjectionResume_ends h hon hstop hrecs hinj
  · exact retryTimerExpiry_again h hon hstop hd hdue hpower hrecs hn hretry hread
  · exact controlTokenDelivery_acts h hm

end Sys2Proof.Machine

namespace Sys2Proof.Machine
open Claims

/-! ## System records -/

/-! ### A word is filled (R313, R331) -/

theorem serveReader_fly (tag : BitVec 16) (slice : Nat) (s : State) (id : Nat) : ∃ f, serveReader tag slice s id = { s with fly := f } := by
  unfold serveReader
  split <;> exact ⟨_, rfl⟩

/-- The readers of a word that are served leave the line list and the spill list, and go on with what is in flight. -/
theorem wakeReaders_spec {s : State} (h : s.sys.Form) (pa : Nat) : ∃ l q f,
    wakeReaders s pa = { s with sys := { s.sys with lines := l, spill := q }, fly := f } ∧
    (tabGet Line.reset l (pa / 64)).fe = (s.sys.line (pa / 64)).fe := by
  unfold wakeReaders
  dsimp only
  split
  · exact ⟨s.sys.lines, s.sys.spill, s.fly, rfl, rfl⟩
  · generalize hu : (s.mapSys fun y => (y.setLine _ _).setSpill _ _) = u
    obtain ⟨f, hf⟩ : ∃ f, List.foldl (serveReader _ _) u _ = { u with fly := f } :=
      foldl_keeps (P := fun t => ∃ f, t = { u with fly := f }) (fun t id ⟨f, ht⟩ => by
        obtain ⟨g, hg⟩ := serveReader_fly (s.sys.line (pa / 64)).tag (homeSlice pa) t id
        exact ⟨g, by rw [hg, ht]⟩) _ ⟨u.fly, rfl⟩
    refine ⟨u.sys.lines, u.sys.spill, f, hf.trans ?_, ?_⟩
    all_goals subst hu
    · rfl
    · exact (congrArg Line.fe (h.line_setLine (pa / 64) _)).trans rfl

/-- A line with a word set full. -/
def Line.fill (pa : Nat) (w : Line) : Line := { w with fe := w.fe ||| feBit pa }

theorem and_or_feBit_ne_zero (b : BitVec 8) (pa : Nat) : (b ||| feBit pa) &&& feBit pa ≠ 0 := by
  have hbit : (feBit pa).toNat = 2 ^ (pa % 64 / 8) := by
    rw [feBit, BitVec.toNat_ofNat, Nat.mod_eq_of_lt (Nat.pow_lt_pow_right (by decide) (by omega))]
  have hget : (feBit pa).getLsbD (pa % 64 / 8) = true := by rw [BitVec.getLsbD, hbit, Nat.testBit_two_pow_self]
  intro h
  have := congrArg (BitVec.getLsbD · (pa % 64 / 8)) h
  simp [hget] at this

/-- A word that is filled is written and full; nothing else in the machine's registers changes. -/
theorem fillWord_spec {s : State} (h : s.sys.Form) (pa : Nat) (v : Word) : ∃ l q f,
    fillWord s pa v = { s with mem := writeWord s.mem pa v, sys := { s.sys with lines := l, spill := q }, fly := f } ∧
    (tabGet Line.reset l (pa / 64)).fe &&& feBit pa ≠ 0 := by
  obtain ⟨l, q, f, hwake, hfe⟩ := wakeReaders_spec (s := { s with mem := writeWord s.mem pa v, sys := s.sys.modLine (pa / 64) (Line.fill pa) })
    (show Sys.Form _ from h.modLine) pa
  refine ⟨l, q, f, hwake, ?_⟩
  rw [hfe, show ({ s with mem := writeWord s.mem pa v, sys := s.sys.modLine (pa / 64) (Line.fill pa) } : State).sys
    = s.sys.modLine (pa / 64) (Line.fill pa) from rfl, h.line_modLine]
  exact and_or_feBit_ne_zero _ _

/-! ### A record is read at its home slice (R331, R357) -/

section
variable {s : State} {i : Instr} {pa : Nat} {key : KeyTag} {w : Bool} {c k owner : Nat} {drop act : State → State}

theorem onRecord_ok {u : State} (h : openLines [{ line := pa / 64, key := key, w := w }] s = .ok u) :
    onRecord s i pa key w c k owner drop act = act u := by
  unfold onRecord
  rw [h]

/-- A record whose line is ready is acted on in this cycle. -/
theorem onRecord_ready (h : s.Form) (hl : lineReady s (pa / 64) key) : ∃ y, onRecord s i pa key w c k owner drop act = act { s with sys := y } ∧
    y.Form ∧ onlyLines s.sys y := by
  obtain ⟨y, hy, -, honly⟩ := openLines_ready (l := [{ line := pa / 64, key := key, w := w }]) h fun q hq => by rwa [List.mem_singleton.1 hq]
  exact ⟨y, onRecord_ok hy, (h.openLines_ok hy).sys, honly⟩

end

/-! ### A reserved field (R333) -/

/-- The thread of a bad record takes ILLOP 0xB8, once. -/
theorem recordBad_spec {s : State} (h : s.sys.Form) (c k owner ser : Nat) : ∃ t, recordBad s c k owner ser = { s with sys := { s.sys with thrs := t } } ∧
    ((s.sys.thr c k).st ≠ .free → (s.sys.thr c k).serial = owner → (s.sys.thr c k).told ≠ some ser → (∀ r ∈ (s.sys.thr c k).deferred, r.ser ≠ some ser) →
      { misuse 1 0xB8 0 with ser := some ser } ∈ (tabGet Thr.reset t (c * 1024 + k)).deferred) := by
  unfold recordBad
  dsimp only
  split
  · refine ⟨_, rfl, fun hst howner htold hdef => ?_⟩
    have hfirst : ((s.sys.thr c k).told == some ser || (s.sys.thr c k).deferred.any (·.ser == some ser)) = false := by
      simpa [htold] using hdef
    change _ ∈ ((s.sys.setThr c k _).thr c k).deferred
    rw [h.thr_setThr]
    simp [hst, hfirst]
  · next hthr => exact ⟨s.sys.thrs, rfl, fun hst howner => absurd ⟨hst, howner⟩ hthr⟩

/-! ### RELAT (R166) -/

/-- A RELAT that is forgotten. -/
def dropRelat (id : Nat) (s : State) : State := s.mapSys fun y => { y with relats := tabDel y.relats id }

/-- What a RELAT does with its record. -/
def readRelat (id : Nat) (v : Relat) (t : State) : State :=
  if relatBad t.mem v.record then recordBad (dropRelat id t) v.clu v.frm v.owner v.ser else passRelat t id v

section
variable {s : State} {v : Relat} (hv : tabFind s.sys.relats s.fly.ev.id = some v)
include hv

theorem exec_relatEmerge_record (hpart : s.fly.ev.part = 1) : exec .relatEmerge s = .next (onRecord s .relatEmerge v.record v.key false v.clu v.frm
    v.owner (dropRelat s.fly.ev.id) (readRelat s.fly.ev.id v)) := by
  change execRelatEmerge s = _
  unfold execRelatEmerge
  simp only [hv]
  exact if_pos hpart

theorem exec_relatEmerge_done (hpart : s.fly.ev.part = 0) (hwaits : ∀ n ∈ v.waits, ∀ a, s.fly.acc n = some a → a.st = .retired) :
    exec .relatEmerge s = .next (onRecord s .relatEmerge v.record v.key true v.clu v.frm v.owner (dropRelat s.fly.ev.id) fun t =>
      fillWord (dropRelat s.fly.ev.id t) (v.record + 24) (BitVec.ofNat 64 v.slots)) := by
  have hnone : (v.waits.any fun n => (s.fly.acc n).any fun a => a.st != .retired) = false :=
    List.any_eq_false.2 fun n hn => by
      cases ha : s.fly.acc n with
      | none => simp
      | some a => simp [hwaits n hn a ha]
  change execRelatEmerge s = _
  unfold execRelatEmerge
  simp only [hv, hpart, hnone, Bool.false_eq_true, if_false]
  rfl

end

section
variable {s : State} (h : s.Form) {v : Relat} (hv : tabFind s.sys.relats s.fly.ev.id = some v) (hl : lineReady s (v.record / 64) v.key)
include h hv hl

theorem relatEmerge_bad (hpart : s.fly.ev.part = 1) (hbad : relatBad s.mem v.record = true) :
    gives s .relatEmerge fun t =>
      ((s.sys.thr v.clu v.frm).st ≠ .free → (s.sys.thr v.clu v.frm).serial = v.owner → (s.sys.thr v.clu v.frm).told ≠ some v.ser →
        (∀ r ∈ (s.sys.thr v.clu v.frm).deferred, r.ser ≠ some v.ser) →
        { misuse 1 0xB8 0 with ser := some v.ser } ∈ (t.sys.thr v.clu v.frm).deferred) ∧
      t.sys.relats = tabDel s.sys.relats s.fly.ev.id ∧ t.greg = s.greg ∧ t.fly = s.fly := by
  obtain ⟨y, hopen, hform, honly⟩ := onRecord_ready (i := .relatEmerge) (w := false) (c := v.clu) (k := v.frm) (owner := v.owner)
    (drop := dropRelat s.fly.ev.id) (act := readRelat s.fly.ev.id v) h hl
  obtain ⟨z, hz, htrap⟩ := recordBad_spec (s := dropRelat s.fly.ev.id { s with sys := y })
    (show Sys.Form _ from hform.withRelats (hform.relats.del _)) v.clu v.frm v.owner v.ser
  have hthr : y.thr v.clu v.frm = s.sys.thr v.clu v.frm := honly.keeps (fun y => y.thr v.clu v.frm) fun _ _ => rfl
  have hrelats : y.relats = s.sys.relats := honly.keeps Sys.relats fun _ _ => rfl
  rw [show (dropRelat s.fly.ev.id { s with sys := y }).sys.thr v.clu v.frm = y.thr v.clu v.frm from rfl, hthr] at htrap
  exact ⟨_, (exec_relatEmerge_record hv hpart).trans (congrArg _ (hopen.trans ((if_pos hbad).trans hz))), rfl, htrap,
    congrArg (tabDel · s.fly.ev.id) hrelats, rfl, rfl⟩

theorem relatEmerge_passes (hpart : s.fly.ev.part = 1) (hgood : relatBad s.mem v.record = false) :
    gives s .relatEmerge fun t => t.greg = s.greg ∧
      (∃ v', tabFind t.sys.relats s.fly.ev.id = some v' ∧ v'.told = true ∧ v'.record = v.record) ∧
      soon t (s.sys.now + 1) .relatEmerge { id := s.fly.ev.id } := by
  obtain ⟨y, hopen, -, honly⟩ := onRecord_ready (i := .relatEmerge) (w := false) (c := v.clu) (k := v.frm) (owner := v.owner)
    (drop := dropRelat s.fly.ev.id) (act := readRelat s.fly.ev.id v) h hl
  have hnow : y.now = s.sys.now := honly.keeps Sys.now fun _ _ => rfl
  refine ⟨_, (exec_relatEmerge_record hv hpart).trans (congrArg _ (hopen.trans (if_neg (Bool.eq_false_iff.1 hgood)))), rfl, rfl,
    ⟨_, tabFind_put_same .., rfl, rfl⟩, ?_⟩
  rw [← hnow]
  exact soon_sched

theorem relatEmerge_fills (hpart : s.fly.ev.part = 0) (hwaits : ∀ n ∈ v.waits, ∀ a, s.fly.acc n = some a → a.st = .retired) :
    ∃ t, exec .relatEmerge s = .next t ∧ t.mem = writeWord s.mem (v.record + 24) (BitVec.ofNat 64 v.slots) ∧ t.greg = s.greg ∧
      t.sys.relats = tabDel s.sys.relats s.fly.ev.id ∧ (t.sys.line ((v.record + 24) / 64)).fe &&& feBit (v.record + 24) ≠ 0 := by
  obtain ⟨y, hopen, hform, honly⟩ := onRecord_ready (i := .relatEmerge) (w := true) (c := v.clu) (k := v.frm) (owner := v.owner)
    (drop := dropRelat s.fly.ev.id) (act := fun t => fillWord (dropRelat s.fly.ev.id t) (v.record + 24) (BitVec.ofNat 64 v.slots)) h hl
  obtain ⟨l, q, f, hfill, hfe⟩ := fillWord_spec (s := dropRelat s.fly.ev.id { s with sys := y })
    (show Sys.Form _ from hform.withRelats (hform.relats.del _)) (v.record + 24) (BitVec.ofNat 64 v.slots)
  have hrelats : y.relats = s.sys.relats := honly.keeps Sys.relats fun _ _ => rfl
  exact ⟨_, (exec_relatEmerge_done hv hpart hwaits).trans (congrArg _ (hopen.trans hfill)), rfl, rfl,
    congrArg (tabDel · s.fly.ev.id) hrelats, hfe⟩

end

/-! ### The kernel of a load (R86, R87) -/

/-- The kernel that a load makes is READY, under its image's identity. -/
def Loading.Readies (n : Nat) (l : Loading) : Prop := l.k.ident = n ∧ l.k.st = .ready

section
variable {l : Loading} {n : Nat} (h : l.Readies n)
include h

theorem Loading.Readies.put {s : State} {x : Nat} {bad : List Nat} : Loading.Readies n { s := s, x := x, k := l.k, bad := bad } := h

theorem Loading.Readies.fail (r : Nat) : (l.fail r).Readies n := h

theorem Loading.Readies.check (ok : Bool) (r : Nat) : (l.check ok r).Readies n := by
  unfold Loading.check
  split
  · exact h
  · exact h.fail r

theorem Loading.Readies.each {g : Loading → Nat → Loading} (hg : ∀ l a, l.Readies n → (g l a).Readies n) (pa ty : Nat) (ss : List Sect) :
    (l.each pa ss ty g).Readies n := by
  unfold Loading.each
  split
  · exact h
  · exact foldl_keeps (fun l a hl => hg l _ hl) _ h

theorem Loading.Readies.loadRange (at_ : Nat) : (loadRange l at_).Readies n := by
  unfold Machine.loadRange
  extract_lets w common back table paged first last reserved
  split
  · exact h.fail _
  split
  · exact h.fail _
  · generalize (if back then supply l.s else (0, l.s)) = p
    obtain ⟨v, s⟩ := p
    dsimp -zeta only
    extract_lets
    exact h.put

theorem Loading.Readies.placeCommon (pa : Nat) (q : Sect) (ok b : Bool) : (placeCommon l pa q ok b).Readies n := by
  unfold Machine.placeCommon
  split
  · exact h.put
  · exact h.fail _

theorem Loading.Readies.loadBlocks (pa : Nat) (ss : List Sect) : (loadBlocks l pa ss).Readies n := by
  unfold Machine.loadBlocks
  split
  · exact h
  · exact ⟨(h.placeCommon ..).1, (h.placeCommon ..).2⟩

theorem Loading.Readies.loadConst (pa : Nat) (ss : List Sect) : (loadConst l pa ss).Readies n := by
  unfold Machine.loadConst
  split
  · exact h
  · exact h.placeCommon ..

theorem Loading.Readies.loadTrapv (pa : Nat) (ss : List Sect) : (loadTrapv l pa ss).Readies n := by
  unfold Machine.loadTrapv
  split
  · exact h
  · exact (h.placeCommon ..).put

theorem Loading.Readies.loadQuota (at_ : Nat) : (loadQuota l at_).Readies n := by
  fun_cases Machine.loadQuota l at_
  case case3 => exact h.put
  all_goals exact h.fail _

theorem Loading.Readies.loadMatch (at_ : Nat) : (loadMatch l at_).Readies n := by
  unfold Machine.loadMatch
  extract_lets w c e q reserved
  split
  · exact h.fail _
  · exact h.put

theorem Loading.Readies.loadQueue (at_ : Nat) : (loadQueue l at_).Readies n := by
  fun_cases Machine.loadQueue l at_
  case case3 | case5 => exact h.put
  all_goals exact h.fail _

theorem Loading.Readies.loadInject (at_ : Nat) : (loadInject l at_).Readies n := by
  unfold Machine.loadInject
  extract_lets w0 w1 pos
  split
  · exact h.fail _
  · exact ⟨h.1, h.2⟩

theorem Loading.Readies.loadCtx (at_ : Nat) : (loadCtx l at_).Readies n := by
  unfold Machine.loadCtx
  extract_lets w set
  split
  · exact h.fail _
  · exact h.put

theorem Loading.Readies.loadSides (pa : Nat) (ss : List Sect) : (loadSides l pa ss).Readies n := by
  refine Loading.Readies.each (h.each (fun l a hl => ?_) pa 11 ss) (fun l a hl => ?_) pa 12 ss
  · exact ⟨hl.1, hl.2⟩
  · exact ⟨(hl.check ..).1, (hl.check ..).2⟩

end

theorem Loading.Readies.loadData {l : Loading} {n : Nat} (h : l.Readies n) (cols : List Nat) (at_ size k o : Nat) :
    (loadData cols at_ size k o l).Readies n := by
  induction k generalizing o l with
  | zero => exact h
  | succ k ih =>
    unfold Machine.loadData
    extract_lets va w1 len bs one
    have hone : ∀ l c, Loading.Readies n l → (one l c).Readies n := by
      intro l c hl
      unfold one
      split
      · exact hl.fail _
      · exact hl.put
    clear_value one
    split
    · exact h.fail _
    · exact ih (foldl_keeps hone _ h) _

/-- No section changes which kernel it is. -/
theorem Loading.Readies.loadSections {l : Loading} {n : Nat} (h : l.Readies n) (pa : Nat) (ss : List Sect) : (loadSections l pa ss).Readies n := by
  unfold Machine.loadSections
  extract_lets l1 l2 l3 l4 l5 l6 l7 l8 l9
  have h3 : l3.Readies n :=
    (Loading.Readies.each (h.each (fun _ _ hl => hl.loadRange _) ..) (fun _ _ hl => hl.loadInject _) ..).loadBlocks _ _ |>.loadConst _ _
  have h4 : l4.Readies n := by
    unfold l4
    clear_value l3
    split
    · exact h3
    · exact h3.loadData ..
  have h6 : l6.Readies n := (h4.loadTrapv ..).each (fun _ _ hl => hl.loadCtx _) ..
  have h8 : l8.Readies n := Loading.Readies.each (h6.each (fun _ _ hl => hl.loadQuota _) ..) (fun _ _ hl => hl.loadMatch _) ..
  exact (h8.each (fun _ _ hl => hl.loadQueue _) ..).loadSides ..

/-- The range caches are filled in the port tiles alone. -/
theorem fillCaches_ctxs (s : State) (x : Nat) : (fillCaches s x).sys.ctxs = s.sys.ctxs := by
  unfold fillCaches
  refine foldl_keeps (P := fun t : State => t.sys.ctxs = s.sys.ctxs) (fun t c ht => ?_) _ rfl
  extract_lets cols rs
  refine foldl_keeps (P := fun y : Sys => y.ctxs = s.sys.ctxs) (fun y r hy => ?_) (List.range Config.nRegions) ht
  exact hy

/-- An image whose header is wrong is rejected for that. -/
theorem loadKernel_header {s : State} (x : Nat) {pa : Nat} (h : imageBad s.mem pa = true) : loadKernel s x pa = .error 1 := by
  unfold loadKernel
  exact if_pos (by rw [h]; rfl)

/-- A load that succeeds leaves its kernel READY in its context. -/
theorem loadKernel_ready {s u : State} {x pa : Nat} (h : s.Form) (e : loadKernel s x pa = .ok u) :
    ∃ k ∈ (u.sys.ctx x).kernels, k.ident = readLE s.mem (pa + 8) 2 ∧ k.st = .ready := by
  unfold loadKernel at e
  extract_lets m ss ident v dig k l0 l1 l2 l3 l4 l5 l6 s1 s2 f f' at e
  have hform : l6.Form := (Loading.Form.check (l := l0) h).check.check.check.check.loadSections
  have h0 : l0.Readies ident := ⟨rfl, rfl⟩
  have h5 : l5.Readies ident := ((((h0.check _ _).check _ _).check _ _).check _ _).check _ _
  have hk : l6.Readies ident := h5.loadSections _ _
  clear_value l6
  have hctx : s1.sys.ctx x = { l6.s.sys.ctx x with kernels := (l6.s.sys.ctx x).kernels ++ [l6.k] } := hform.state.sys.ctx_setCtx ..
  have hfilled : s2.sys.ctx x = s1.sys.ctx x := congrArg (tabGet Ctx.reset · x) (fillCaches_ctxs s1 x)
  clear_value s2
  split at e
  · cases e
  split at e
  · cases e
  · cases e
    refine ⟨l6.k, ?_, hk.1, hk.2⟩
    rw [show ({ s2 with fly := f' } : State).sys.ctx x = s2.sys.ctx x from rfl, hfilled, hctx]
    exact List.mem_append_right _ (List.mem_singleton.2 rfl)

/-! ### Retirement (R86, R109, R175) -/

section
variable (s : State) (c x : Nat)

theorem signal_keeps (t : Ctrl) : ∃ r f, signal s c t = { s with sys := { s.sys with regions := r }, fly := f } := by
  unfold signal
  dsimp only
  split <;> exact ⟨_, _, rfl⟩

theorem completionSend_keeps (y0 : Sys) (ident : Nat) : ∃ r f, completionSend y0 s c x ident = { s with sys := { s.sys with regions := r }, fly := f } := by
  unfold completionSend
  split
  · exact signal_keeps ..
  · exact ⟨s.sys.regions, s.fly, rfl⟩

end

/-- A kernel that is settled leaves its context or stays as it was. -/
theorem mem_settleKernels {y : Sys} (h : y.Form) {x : Nat} {k : Kernel} (hk : k ∈ ((settleKernels y x).ctx x).kernels) : k ∈ (y.ctx x).kernels := by
  unfold settleKernels discardKernels at hk
  extract_lets done frames gone at hk
  have hframes : frames.Form := h.withFrames (h.frames.filter _)
  rw [Sys.modCtx, hframes.ctx_setCtx] at hk
  exact List.mem_of_mem_filter hk

theorem foldl_completionSend_keeps (s : State) (x ident : Nat) (l : List Nat) :
    ∃ r f, l.foldl (fun s c => completionSend s.sys s c x ident) s = { s with sys := { s.sys with regions := r }, fly := f } := by
  refine foldl_keeps (P := fun t => ∃ r f, t = { s with sys := { s.sys with regions := r }, fly := f }) ?_ l ⟨s.sys.regions, s.fly, rfl⟩
  rintro t c ⟨r, f, rfl⟩
  obtain ⟨r', f', ht⟩ := completionSend_keeps { s with sys := { s.sys with regions := r }, fly := f } c x _ ident
  exact ⟨r', f', ht⟩

section
variable {s : State} {x ident : Nat}

theorem retireKernel_refused (h : mayLoadKernel (s.sys.ctx x).st = false) : retireKernel s x ident = .error 7 := by
  unfold retireKernel
  exact if_pos (by rw [h]; rfl)

theorem retireKernel_unknown (h : mayLoadKernel (s.sys.ctx x).st = true) (hk : (s.sys.ctx x).kernel ident = none) :
    retireKernel s x ident = .error 6 := by
  unfold retireKernel
  exact (if_neg (by rw [h]; exact Bool.false_ne_true)).trans (if_pos (by rw [hk]; rfl))

/-- A kernel that may be retired is RETIRING while it stays in its context; memory is as it was. -/
theorem retireKernel_retires (hform : s.Form) (h : mayLoadKernel (s.sys.ctx x).st = true) (hk : (s.sys.ctx x).kernel ident ≠ none) :
    ∃ u, retireKernel s x ident = .ok u ∧ u.mem = s.mem ∧ ∀ k ∈ (u.sys.ctx x).kernels, k.ident = ident → k.st = .retiring := by
  unfold retireKernel
  extract_lets v one hold w y s1 s2
  have hsome : (v.kernel ident).isNone = false := by
    cases hv : v.kernel ident with
    | none => exact absurd hv hk
    | some k => rfl
  rw [if_neg (by rw [h]; exact Bool.false_ne_true), if_neg (by rw [hsome]; exact Bool.false_ne_true)]
  have hy : y.Form := hform.sys.setCtx { (hform.sys.ctx : v.Form) with }
  have h2 : s2.Form := State.Form.foldl (s := s1) { hform with sys := hy } fun _ _ hu => hu.completionSend
  have hkernels : (y.ctx x).kernels = v.kernels.map one := congrArg Ctx.kernels (hform.sys.ctx_setCtx ..)
  obtain ⟨r, f, hs2⟩ : ∃ r f, s2 = _ := foldl_completionSend_keeps s1 x ident (y.clusters x)
  have hctx : s2.sys.ctx x = y.ctx x := by rw [hs2]; rfl
  have hmem : s2.mem = s.mem := by rw [hs2]
  clear_value s2
  refine ⟨_, rfl, hmem, fun k hk hid => ?_⟩
  have hk' := mem_settleKernels h2.sys hk
  rw [hctx, hkernels] at hk'
  obtain ⟨k', -, rfl⟩ := List.mem_map.1 hk'
  unfold one at hid ⊢
  split at hid
  · next h => rw [if_pos h]
  · next h => exact absurd hid h

end

/-! ### CFGLD (R86, R331) -/

/-- A load that is forgotten. -/
def dropLoad (id : Nat) (s : State) : State := s.mapSys fun y => { y with loads := tabDel y.loads id }

/-- The words of a record at a physical address. -/
def recordWords (m : Memory) (pa : Nat) : List Word := (List.range 8).map fun n => readWord m (pa + 8 * n)

/-- What a CFGLD does with its record. -/
def readLoad (e : Ev) (q : Load) (t : State) : State :=
  if loadRecordBad ((recordWords t.mem q.record).getD · 0) then recordBad (dropLoad e.id t) q.clu q.frm q.owner q.ser
  else (t.mapSys fun y => { y with loads := tabPut y.loads e.id { q with words := recordWords t.mem q.record } }).sched (t.sys.now + 1)
    .kernelLoading { e with part := 1 }

/-- The identity that a CFGLD answers with, of the image at its address or of its record. -/
def Load.answers (q : Load) (m : Memory) : Nat := if q.rt then fieldOf (q.words.getD 1 0) 16 16 else readLE m (fieldOf (q.words.getD 0 0) 0 52 + 8) 2

/-- What a CFGLD comes to. -/
def Load.result (q : Load) (s : State) : Except Nat State :=
  if q.rt then retireKernel s (fieldOf (q.words.getD 1 0) 0 4) (q.answers s.mem)
  else loadKernel s (fieldOf (q.words.getD 1 0) 0 4) (fieldOf (q.words.getD 0 0) 0 52)

/-- A CFGLD does what it asks and fills its status word with the kernel's identity and the result. -/
def endLoad (id : Nat) (q : Load) (t : State) : State :=
  match q.result (dropLoad id t) with
  | .ok u => fillWord u (q.record + 16) (BitVec.ofNat 64 (q.answers t.mem * 2 ^ 48))
  | .error r => fillWord (dropLoad id t) (q.record + 16) (BitVec.ofNat 64 (q.answers t.mem * 2 ^ 48 + r))

section
variable {id : Nat} {q : Load} {t : State}

theorem endLoad_ok {u : State} (h : q.result (dropLoad id t) = .ok u) :
    endLoad id q t = fillWord u (q.record + 16) (BitVec.ofNat 64 (q.answers t.mem * 2 ^ 48)) := by
  unfold endLoad
  rw [h]

theorem endLoad_error {r : Nat} (h : q.result (dropLoad id t) = .error r) :
    endLoad id q t = fillWord (dropLoad id t) (q.record + 16) (BitVec.ofNat 64 (q.answers t.mem * 2 ^ 48 + r)) := by
  unfold endLoad
  rw [h]

end

section
variable {s : State} {q : Load} (hq : tabFind s.sys.loads s.fly.ev.id = some q)
include hq

theorem exec_kernelLoading_record (hpart : s.fly.ev.part = 0) : exec .kernelLoading s = .next (onRecord s .kernelLoading q.record q.key false q.clu q.frm
    q.owner (dropLoad s.fly.ev.id) (readLoad s.fly.ev q)) := by
  change execKernelLoading s = _
  unfold execKernelLoading
  simp only [hq]
  exact if_pos hpart

theorem exec_kernelLoading_acts (hpart : s.fly.ev.part = 1) : exec .kernelLoading s = .next (onRecord s .kernelLoading q.record q.key true q.clu q.frm
    q.owner (dropLoad s.fly.ev.id) (endLoad s.fly.ev.id q)) := by
  change execKernelLoading s = _
  unfold execKernelLoading
  simp only [hq]
  exact if_neg (by omega)

end

section
variable {s : State} (h : s.Form) {q : Load} (hq : tabFind s.sys.loads s.fly.ev.id = some q) (hl : lineReady s (q.record / 64) q.key)
include h hq hl

theorem kernelLoading_bad (hpart : s.fly.ev.part = 0) (hbad : loadRecordBad ((recordWords s.mem q.record).getD · 0) = true) :
    gives s .kernelLoading fun t =>
      ((s.sys.thr q.clu q.frm).st ≠ .free → (s.sys.thr q.clu q.frm).serial = q.owner → (s.sys.thr q.clu q.frm).told ≠ some q.ser →
        (∀ r ∈ (s.sys.thr q.clu q.frm).deferred, r.ser ≠ some q.ser) →
        { misuse 1 0xB8 0 with ser := some q.ser } ∈ (t.sys.thr q.clu q.frm).deferred) ∧
      t.sys.loads = tabDel s.sys.loads s.fly.ev.id ∧ t.greg = s.greg ∧ t.fly = s.fly := by
  obtain ⟨y, hopen, hform, honly⟩ := onRecord_ready (i := .kernelLoading) (w := false) (c := q.clu) (k := q.frm) (owner := q.owner)
    (drop := dropLoad s.fly.ev.id) (act := readLoad s.fly.ev q) h hl
  obtain ⟨z, hz, htrap⟩ := recordBad_spec (s := dropLoad s.fly.ev.id { s with sys := y })
    (show Sys.Form _ from hform.withLoads (hform.loads.del _)) q.clu q.frm q.owner q.ser
  have hthr : y.thr q.clu q.frm = s.sys.thr q.clu q.frm := honly.keeps (fun y => y.thr q.clu q.frm) fun _ _ => rfl
  have hloads : y.loads = s.sys.loads := honly.keeps Sys.loads fun _ _ => rfl
  rw [show (dropLoad s.fly.ev.id { s with sys := y }).sys.thr q.clu q.frm = y.thr q.clu q.frm from rfl, hthr] at htrap
  exact ⟨_, (exec_kernelLoading_record hq hpart).trans (congrArg _ (hopen.trans ((if_pos hbad).trans hz))), rfl, htrap,
    congrArg (tabDel · s.fly.ev.id) hloads, rfl, rfl⟩

theorem kernelLoading_reads (hpart : s.fly.ev.part = 0) (hgood : loadRecordBad ((recordWords s.mem q.record).getD · 0) = false) :
    gives s .kernelLoading fun t => t.greg = s.greg ∧
      tabFind t.sys.loads s.fly.ev.id = some { q with words := recordWords s.mem q.record } ∧
      soon t (s.sys.now + 1) .kernelLoading { s.fly.ev with part := 1 } := by
  obtain ⟨y, hopen, -, honly⟩ := onRecord_ready (i := .kernelLoading) (w := false) (c := q.clu) (k := q.frm) (owner := q.owner)
    (drop := dropLoad s.fly.ev.id) (act := readLoad s.fly.ev q) h hl
  have hnow : y.now = s.sys.now := honly.keeps Sys.now fun _ _ => rfl
  refine ⟨_, (exec_kernelLoading_record hq hpart).trans (congrArg _ (hopen.trans (if_neg (Bool.eq_false_iff.1 hgood)))), rfl, rfl,
    tabFind_put_same .., ?_⟩
  rw [← hnow]
  exact soon_sched

end

section
variable {s : State} {q : Load} (hq : tabFind s.sys.loads s.fly.ev.id = some q) (hpart : s.fly.ev.part = 1) {u : State}
  (hu : openLines [{ line := q.record / 64, key := q.key, w := true }] s = .ok u)
include hq hpart hu

/-- A CFGLD that does not do what it asks tells why. -/
theorem kernelLoading_error (h : s.Form) {r : Nat} (hr : q.result (dropLoad s.fly.ev.id u) = .error r) :
    ∃ t, exec .kernelLoading s = .next t ∧
      t.mem = writeWord s.mem (q.record + 16) (BitVec.ofNat 64 (q.answers s.mem * 2 ^ 48 + r)) ∧ t.greg = s.greg := by
  have hform : u.sys.Form := (h.openLines_ok hu).sys
  obtain ⟨y, rfl⟩ := openLines_ok hu
  obtain ⟨l, p, f, hfill, -⟩ := fillWord_spec (s := dropLoad s.fly.ev.id { s with sys := y })
    (show Sys.Form _ from hform.withLoads (hform.loads.del _)) (q.record + 16) (BitVec.ofNat 64 (q.answers s.mem * 2 ^ 48 + r))
  exact ⟨_, (exec_kernelLoading_acts hq hpart).trans (congrArg _ ((onRecord_ok hu).trans ((endLoad_error hr).trans hfill))), rfl, rfl⟩

/-- A CFGLD that does what it asks says so. -/
theorem kernelLoading_ok {z : State} (hz : q.result (dropLoad s.fly.ev.id u) = .ok z) (hform : z.Form) :
    ∃ t, (exec .kernelLoading s = .next t ∧ t.mem = writeWord z.mem (q.record + 16) (BitVec.ofNat 64 (q.answers s.mem * 2 ^ 48 + 0))) ∧
      ∀ x, t.sys.ctx x = z.sys.ctx x := by
  obtain ⟨y, rfl⟩ := openLines_ok hu
  rw [Nat.add_zero (q.answers s.mem * 2 ^ 48)]
  obtain ⟨l, p, f, hfill, -⟩ := fillWord_spec hform.sys (q.record + 16) (BitVec.ofNat 64 (q.answers s.mem * 2 ^ 48))
  exact ⟨_, ⟨(exec_kernelLoading_acts hq hpart).trans (congrArg _ ((onRecord_ok hu).trans ((endLoad_ok hz).trans hfill))), rfl⟩, fun x => rfl⟩

end

section
variable {s : State} {q : Load} {x pa : Nat}

theorem Load.result_image (h : q.rt = false) (s : State) :
    q.result s = loadKernel s (fieldOf (q.words.getD 1 0) 0 4) (fieldOf (q.words.getD 0 0) 0 52) := if_neg (Bool.eq_false_iff.1 h)

theorem Load.result_retire (h : q.rt = true) (s : State) :
    q.result s = retireKernel s (fieldOf (q.words.getD 1 0) 0 4) (fieldOf (q.words.getD 1 0) 16 16) :=
  (if_pos h).trans (congrArg (retireKernel s _) (if_pos h))

end

theorem State.Form.dropLoad {s : State} (h : s.Form) (id : Nat) : (dropLoad id s).Form := h.mapSys (h.sys.withLoads (h.sys.loads.del _))

/-- The record of a CFGLD whose line is ready is there, and its context is as it was. -/
theorem readyRecord {s : State} (h : s.Form) {q : Load} (hl : lineReady s (q.record / 64) q.key) :
    ∃ u, openLines [{ line := q.record / 64, key := q.key, w := true }] s = .ok u ∧ (dropLoad s.fly.ev.id u).Form ∧
      (dropLoad s.fly.ev.id u).mem = s.mem ∧ (∀ x, (dropLoad s.fly.ev.id u).sys.ctx x = s.sys.ctx x) := by
  obtain ⟨y, hy, -, honly⟩ := openLines_ready (l := [{ line := q.record / 64, key := q.key, w := true }]) h fun p hp => by rwa [List.mem_singleton.1 hp]
  exact ⟨_, hy, (h.openLines_ok hy).dropLoad _, rfl, fun x => honly.keeps (fun y => y.ctx x) fun _ _ => rfl⟩

/-! ### The obligation -/

/-- Settles O23, record by record: what is read, what is answered, and what a load or a retirement leaves. -/
theorem systemRecordEvents : Obligations.SystemRecordEvents := by
  unfold Obligations.SystemRecordEvents
  intro s hs
  have h := s.form_iff.1 hs
  refine ⟨fun v hv hl => ⟨relatEmerge_bad h hv hl, relatEmerge_passes h hv hl, relatEmerge_fills h hv hl⟩, fun q hq hl =>
    ⟨kernelLoading_bad h hq hl, kernelLoading_reads h hq hl, fun hpart => ⟨fun u hrt hu => ⟨fun r hr => ?_, fun z hz => ?_⟩, fun hrt => ?_⟩⟩,
    fun x pa hbad => loadKernel_header x hbad⟩
  · obtain ⟨t, hexec, hmem, hgreg⟩ := kernelLoading_error hq hpart hu h ((Load.result_image hrt _).trans hr)
    exact ⟨t, ⟨hexec, hmem⟩, hgreg⟩
  · have hform := (h.openLines_ok hu).dropLoad s.fly.ev.id
    obtain ⟨k, hk, hident, hst⟩ := loadKernel_ready hform hz
    obtain ⟨t, hexec, hctx⟩ := kernelLoading_ok hq hpart hu ((Load.result_image hrt _).trans hz) (hform.loadKernel_ok hz)
    obtain ⟨y, rfl⟩ := openLines_ok hu
    exact ⟨t, hexec, k, by rw [hctx]; exact hk, hident, hst⟩
  · obtain ⟨u, hu, hform, hmem, hctx⟩ := readyRecord h hl
    refine ⟨fun hmay => ?_, fun hmay hnone => ?_, fun hmay hsome => ?_⟩
    · obtain ⟨t, hexec, hanswer, -⟩ := kernelLoading_error hq hpart hu h
        ((Load.result_retire hrt _).trans (retireKernel_refused (by rw [hctx]; exact hmay)))
      exact ⟨t, hexec, hanswer⟩
    · obtain ⟨t, hexec, hanswer, -⟩ := kernelLoading_error hq hpart hu h
        ((Load.result_retire hrt _).trans (retireKernel_unknown (by rw [hctx]; exact hmay) (by rw [hctx]; exact hnone)))
      exact ⟨t, hexec, hanswer⟩
    · obtain ⟨z, hz, hzmem, hretiring⟩ := retireKernel_retires hform (by rw [hctx]; exact hmay) (by rw [hctx]; exact hsome)
      obtain ⟨t, ⟨hexec, hanswer⟩, hkept⟩ := kernelLoading_ok hq hpart hu ((Load.result_retire hrt _).trans hz) (hform.retireKernel_ok hz)
      rw [hzmem, hmem] at hanswer
      exact ⟨t, ⟨hexec, hanswer⟩, fun k hk => hretiring k (by rw [← hkept]; exact hk)⟩

end Sys2Proof.Machine

namespace Sys2Proof.Machine
open Claims

/-! ## Encodings of numbers read back

### Binary formats (R49, R51) -/

section
variable {p : FP}

theorem FP.two_pow_eb (h : 0 < p.eb) : 2 ^ p.eb = 2 * p.bias + 2 := by
  obtain ⟨n, hn⟩ : ∃ n, p.eb = n + 1 := ⟨p.eb - 1, by omega⟩
  have := Nat.two_pow_pos n
  rw [FP.bias, hn, Nat.add_sub_cancel, Nat.pow_succ]
  omega

/-- Zero and the finite numbers of a format are their own roundings: `k` is the biased exponent less one, or 0 for a number with no leading bit. -/
theorem FP.roundFin_held (h : 0 < p.eb) (r : Rnd) (neg : Bool) {k m : Nat} (hm : m < 2 ^ (p.mb + 1)) (hlead : k = 0 ∨ 2 ^ p.mb ≤ m)
    (hfin : k * 2 ^ p.mb + m < p.infBits) :
    p.roundFin r neg m ((k : Int) + 1 - p.bias - p.mb) false = (if neg then p.signBit else 0) + (k * 2 ^ p.mb + m) := by
  unfold FP.roundFin
  by_cases hzero : m = 0
  · have hk : k = 0 := hlead.resolve_right fun hle => absurd (hzero ▸ hle) (Nat.not_le.2 (Nat.two_pow_pos _))
    simp [hzero, hk]
  have hlog : m.log2 ≤ p.mb := Nat.lt_succ_iff.1 ((Nat.log2_lt hzero).2 hm)
  have hfull : 2 ^ p.mb ≤ m → m.log2 = p.mb := fun hle => le_antisymm hlog ((Nat.le_log2 hzero).2 hle)
  have hexp : max ((m.log2 : Int) + (k + 1 - p.bias - p.mb)) (1 - p.bias) = k + 1 - p.bias := by
    obtain rfl | hle := hlead
    · omega
    · rw [hfull hle]; omega
  have hover : ¬ (m.log2 : Int) + (k + 1 - p.bias - p.mb) > p.bias := by
    by_cases hle : 2 ^ p.mb ≤ m
    · have hk : (k + 1) * 2 ^ p.mb < (2 * p.bias + 1) * 2 ^ p.mb := by
        rw [FP.infBits, FP.two_pow_eb h] at hfin
        rw [Nat.add_mul, Nat.one_mul]
        exact lt_of_le_of_lt (Nat.add_le_add_left hle _) hfin
      have := Nat.lt_of_mul_lt_mul_right hk
      omega
    · have : m.log2 < p.mb := (Nat.log2_lt hzero).2 (Nat.lt_of_not_le hle)
      have := hlead.resolve_right hle
      omega
  have hfield : ((k : Int) + 1 - p.bias - p.mb + p.mb + p.bias - 1).toNat = k := by omega
  simp only [hexp, if_neg hzero, if_neg hover, ge_iff_le, le_refl, if_true, sub_self, Int.toNat_zero, Nat.pow_zero, Nat.mul_one, hfield,
    if_neg (Nat.not_le.2 hfin)]

/-- The magnitude of an encoding: its exponent field over its fraction. -/
theorem FP.magnitude (p : FP) (a : Nat) : a % 2 ^ (p.eb + p.mb) = a / 2 ^ p.mb % 2 ^ p.eb * 2 ^ p.mb + a % 2 ^ p.mb := by
  rw [Nat.add_comm p.eb, Nat.pow_add, Nat.mod_mul, Nat.add_comm, Nat.mul_comm]

/-- An encoding is its sign and its magnitude. -/
theorem FP.sign_magnitude {a : Nat} (ha : a < 2 ^ p.width) :
    (if a / p.signBit % 2 == 1 then p.signBit else 0) + a % 2 ^ (p.eb + p.mb) = a := by
  have hsign : a / 2 ^ (p.eb + p.mb) < 2 := by
    rw [Nat.div_lt_iff_lt_mul (Nat.two_pow_pos _), ← Nat.pow_succ']
    rwa [FP.width, Nat.add_assoc, Nat.add_comm] at ha
  have hsplit := Nat.div_add_mod a (2 ^ (p.eb + p.mb))
  obtain hs | hs := Nat.le_one_iff_eq_zero_or_eq_one.1 (Nat.lt_succ_iff.1 hsign)
  · rw [hs, Nat.mul_zero] at hsplit
    simpa [FP.signBit, hs] using hsplit
  · rw [hs, Nat.mul_one] at hsplit
    simpa [FP.signBit, hs] using hsplit

/-- The NaNs are the encodings whose exponent field is all ones and whose fraction is not zero. -/
theorem encNan_iff (p : FP) (a : Nat) : encNan p a = true ↔ a / 2 ^ p.mb % 2 ^ p.eb = 2 ^ p.eb - 1 ∧ a % 2 ^ p.mb ≠ 0 := by
  have hfrac : a % 2 ^ p.mb < 2 ^ p.mb := Nat.mod_lt _ (Nat.two_pow_pos _)
  have hexp : a / 2 ^ p.mb % 2 ^ p.eb ≤ 2 ^ p.eb - 1 := Nat.le_pred_of_lt (Nat.mod_lt _ (Nat.two_pow_pos _))
  rw [encNan, decide_eq_true_iff, FP.magnitude, FP.infBits]
  obtain heq | hlt := hexp.eq_or_lt
  · rw [heq]; omega
  · have := Nat.mul_le_mul_right (2 ^ p.mb) (Nat.succ_le_of_lt hlt)
    rw [Nat.succ_mul] at this
    omega

/-- A finite magnitude lies below infinity's. -/
theorem FP.magnitude_lt_infBits {x f : Nat} (hx : x < 2 ^ p.eb - 1) (hf : f < 2 ^ p.mb) : x * 2 ^ p.mb + f < p.infBits := by
  have := Nat.mul_le_mul_right (2 ^ p.mb) (Nat.succ_le_of_lt hx)
  rw [Nat.succ_mul] at this
  rw [FP.infBits]
  omega

/-- Encoding a decoded value of a binary format gives its encoding back, and the canonical NaN for a NaN. -/
theorem FP.encode_decode (h : 0 < p.eb) (r : Rnd) {a : Nat} (ha : a < 2 ^ p.width) :
    p.encode r (p.decode a) = if encNan p a then p.qnan else a := by
  have hfrac : a % 2 ^ p.mb < 2 ^ p.mb := Nat.mod_lt _ (Nat.two_pow_pos _)
  have hexp : a / 2 ^ p.mb % 2 ^ p.eb < 2 ^ p.eb := Nat.mod_lt _ (Nat.two_pow_pos _)
  have hwhole := FP.sign_magnitude ha
  rw [FP.magnitude] at hwhole
  have hnan := encNan_iff p a
  unfold FP.decode
  dsimp only
  generalize a / 2 ^ p.mb % 2 ^ p.eb = x at *
  generalize a % 2 ^ p.mb = f at *
  by_cases hx : x = 2 ^ p.eb - 1
  · by_cases hf : f = 0
    · rw [if_pos hx, if_pos hf, if_neg fun hn => (hnan.1 hn).2 hf]
      rw [hx, hf, Nat.add_zero] at hwhole
      exact hwhole
    · rw [if_pos hx, if_neg hf, if_pos (hnan.2 ⟨hx, hf⟩)]
      rfl
  have hnot : ¬ encNan p a = true := fun hn => hx (hnan.1 hn).1
  rw [if_neg hx, if_neg hnot]
  have hbelow := FP.magnitude_lt_infBits (show x < 2 ^ p.eb - 1 by omega) hfrac
  by_cases h0 : x = 0
  -- a number with no leading bit, or zero
  · subst h0
    have hheld := FP.roundFin_held h r (a / p.signBit % 2 == 1) (k := 0) (hfrac.trans (Nat.pow_lt_pow_succ (by decide))) (.inl rfl) hbelow
    rw [if_pos rfl, FP.encode, show (1 : Int) - p.bias - p.mb = ((0 : Nat) : Int) + 1 - p.bias - p.mb by omega, hheld, hwhole]
  -- a number with its leading bit
  · obtain ⟨k, rfl⟩ : ∃ k, x = k + 1 := ⟨x - 1, by omega⟩
    have hsum : k * 2 ^ p.mb + (2 ^ p.mb + f) = (k + 1) * 2 ^ p.mb + f := by rw [Nat.succ_mul, Nat.add_assoc]
    have hheld := FP.roundFin_held h r (a / p.signBit % 2 == 1) (k := k) (m := 2 ^ p.mb + f) (by rw [Nat.pow_succ]; omega)
      (.inr (Nat.le_add_right _ _)) (by rwa [hsum])
    rw [if_neg h0, FP.encode, show ((k + 1 : Nat) : Int) - p.bias - p.mb = (k : Int) + 1 - p.bias - p.mb by omega, hheld, hsum, hwhole]

end

/-! ### The obligation -/

theorem floatEncodeDecode : FloatEncodeDecode := by
  intro p hp r a ha
  refine FP.encode_decode ?_ r ha
  simp only [List.mem_cons, List.not_mem_nil, or_false] at hp
  obtain rfl | rfl | rfl := hp <;> decide

/-- The tapered formats have 256 and 64 encodings: each is computed. -/
theorem taperedEncodeDecode : TaperedEncodeDecode := ⟨by decide +kernel, by decide +kernel⟩

/-- Settles O45: a binary format by the exponent field of the encoding, the tapered formats over their encodings. -/
theorem formatsRoundTrip : Obligations.FormatsRoundTrip := ⟨floatEncodeDecode, taperedEncodeDecode⟩

end Sys2Proof.Machine

namespace Sys2Proof.Machine
open Claims

/-! ## The commit

### The parts of the event -/

section
variable {s : State} {i : Inst}

theorem exec_commit_decides (hpart : s.fly.ev.part = 0) (hi : s.fly.inst s.fly.ev.clu s.fly.ev.frm = some i) (hser : i.ser = s.fly.ev.id)
    (hc : i.committing = true) : exec .commit s = .next (decide_ s s.fly.ev i) := by
  change execCommit s = _
  simp [execCommit, hpart, hi, hser, hc]

theorem exec_commit_leaves (hpart : s.fly.ev.part = 2) (hi : tabFind s.fly.commits (tkey s.fly.ev.clu s.fly.ev.frm) = some i)
    (hser : i.ser = s.fly.ev.id) : exec .commit s = .next (leaveInst s s.fly.ev i) := by
  change execCommit s = _
  simp [execCommit, hpart, hi, hser]

theorem exec_commit_takesEffect (hpart : s.fly.ev.part = 3) (hi : tabFind s.fly.commits (tkey s.fly.ev.clu s.fly.ev.frm) = some i)
    (hser : i.ser = s.fly.ev.id) : exec .commit s = .next (takeEffect s s.fly.ev i) := by
  change execCommit s = _
  simp [execCommit, hpart, hi, hser]

theorem exec_commit_enters (hpart : s.fly.ev.part = 1) : exec .commit s = .next (enterNextBlock s s.fly.ev) := by
  change execCommit s = _
  simp [execCommit, hpart]

theorem exec_commit_bari (hpart : s.fly.ev.part = 5 ∨ s.fly.ev.part = 6 ∨ s.fly.ev.part = 7) :
    exec .commit s = .next (bariEffect s s.fly.ev) := by
  change execCommit s = _
  obtain hpart | hpart | hpart := hpart <;> simp [execCommit, hpart]

end

/-! ### The decision (R96, R112, R113) -/

section
variable {s : State} {e : Ev} {i : Inst}

theorem decide_no_room (h : roomOk s e i = false) : decide_ s e i = s.sched (s.sys.now + 1) .commit e := by simp [decide_, h]

/-- A commit that has its room, and whose messages are sent, is decided. -/
theorem decide_room (h : roomOk s e i = true) (hsent : i.msends.length ≤ i.sends) :
    decide_ s e i = State.sched { s with
      sys := claim s.sys i
      fly := { s.fly.delInst e.clu e.frm with commits := tabPut s.fly.commits (tkey e.clu e.frm) i } } s.sys.now .commit { e with part := 2 } := by
  simp [decide_, h, Nat.not_lt.2 hsent]

theorem Fly.Form.inst_delInst {f : Fly} (h : f.Form) (c k : Nat) : (f.delInst c k).inst c k = none :=
  tabFind_del_same _ _ ((rising_iff _).1 h.insts)

end

/-! ### Effects in order -/

theorem mem_insertEff {e n : EffAt} {l : List EffAt} : n ∈ insertEff e l ↔ n = e ∨ n ∈ l := by
  induction l with
  | nil => simp [insertEff]
  | cons b l ih =>
    rw [insertEff]
    split
    · simp
    · simp only [List.mem_cons, ih]; tauto

theorem mem_insertRec {e n : EffAt} {l : List EffAt} : n ∈ insertRec e l ↔ n = e ∨ n ∈ l := by
  induction l with
  | nil => simp [insertRec]
  | cons b l ih =>
    rw [insertRec]
    split
    · simp
    · simp only [List.mem_cons, ih]; tauto

/-- A sort by insertion has the elements of its list. -/
theorem mem_foldl_insert {α : Type} {ins : α → List α → List α} (h : ∀ {e n l}, n ∈ ins e l ↔ n = e ∨ n ∈ l) {n : α} {l : List α} {acc : List α} :
    n ∈ l.foldl (fun l e => ins e l) acc ↔ n ∈ l ∨ n ∈ acc := by
  induction l generalizing acc with
  | nil => simp
  | cons b l ih =>
    rw [List.foldl_cons, ih, h, List.mem_cons]
    tauto

theorem mem_sortEffs {n : EffAt} {l : List EffAt} : n ∈ sortEffs l ↔ n ∈ l := by simp [sortEffs, mem_foldl_insert mem_insertEff]

/-- A fold whose steps change nothing changes nothing. -/
theorem foldl_fixed_of_mem {α β : Type} {g : β → α → β} {l : List α} {b : β} (h : ∀ a ∈ l, g b a = b) : l.foldl g b = b := by
  induction l with
  | nil => rfl
  | cons a l ih =>
    rw [List.foldl_cons, h a (List.mem_cons_self ..)]
    exact ih fun a ha => h a (List.mem_cons_of_mem _ ha)

theorem writeExits_none {s : State} {c k now : Nat} {i : Inst} (h : ∀ n ∈ i.effs, ∀ p t, n.e ≠ .emit p t) : writeExits s c k now i = s := by
  refine foldl_fixed_of_mem fun n hn => ?_
  have hne := h n (((mem_foldl_insert mem_insertRec).1 hn).resolve_right List.not_mem_nil)
  split
  · next p t he => exact absurd he (hne p t)
  · rfl

theorem writeExits_sole {s : State} {c k now m x p : Nat} {i : Inst} {tok : Token} (h : i.effs = [{ idx := m, index := x, e := .emit p tok }]) :
    writeExits s c k now i = writeExit s c k now i p tok := by simp [writeExits, h, insertRec]

theorem plainEff_cases {e : Eff} (h : plainEff e = true) : (∃ r v, e = .mts r v) ∨ (∃ l o, e = .lane l o) ∨ ∃ q ws, e = .launch q ws := by
  cases e <;> simp_all [plainEff]

theorem emit_not_plain {e : Eff} (h : plainEff e = true) (p : Nat) (t : Token) : e ≠ .emit p t := by
  rintro rfl
  cases h

/-! ### An instance leaves (R96) -/

/-- An effect that is nothing to the instance's leaving but an exit record. -/
def quietEff : Eff → Bool
  | .emit .. => true
  | e => plainEff e

theorem quietEff_cases {e : Eff} (h : quietEff e = true) :
    (∃ p t, e = .emit p t) ∨ (∃ r v, e = .mts r v) ∨ (∃ l o, e = .lane l o) ∨ ∃ q ws, e = .launch q ws := by
  cases e <;> simp_all [quietEff, plainEff]

theorem quietEff_of_plain {e : Eff} (h : plainEff e = true) : quietEff e = true := by
  obtain ⟨_, _, rfl⟩ | ⟨_, _, rfl⟩ | ⟨_, _, rfl⟩ := plainEff_cases h <;> rfl

/-- A cluster's matching store without what waits for an instance. -/
def Sys.forget (y : Sys) (c k : Nat) (i : Inst) : Sys := (y.dropTokens c fun t => t.ent == some i.ser).setPartials c i.reg k []

theorem Sys.dropTokens_spec (y : Sys) (c : Nat) (p : Entry → Bool) : ∃ t u, y.dropTokens c p = { y with regions := t, parks := u } := by
  obtain ⟨t, ht⟩ := foldl_modRegion_spec c y
    (fun g => { g with arrived := g.arrived.filter (!p ·), entries := g.entries.filter (!p ·), holds := g.holds.filter (!p ·) }) (List.range Config.nRegions)
  exact ⟨t, _, by rw [Sys.dropTokens, ht]⟩

theorem Sys.forget_spec (y : Sys) (c k : Nat) (i : Inst) : ∃ t u, y.forget c k i = { y with regions := t, parks := u } := by
  obtain ⟨t, u, hy⟩ := y.dropTokens_spec c fun t => t.ent == some i.ser
  rw [Sys.forget, hy, Sys.setPartials]
  split
  · exact ⟨t, u, rfl⟩
  · exact ⟨_, u, rfl⟩

theorem Sys.Form.forget {y : Sys} (h : y.Form) (c k : Nat) (i : Inst) : (y.forget c k i).Form := h.dropTokens.setPartials

/-- What is left of an instance that sends its thread to the block at `a`: its thread's next block, and its events of c+2 and c+3. -/
def State.goesOn (s : State) (c k : Nat) (i : Inst) (a : Nat) : State :=
  State.sched (State.sched (s.mapSys fun y => y.modThr c k fun t => { t with next := a }) (s.sys.now + 1) .commit
    { clu := c, frm := k, id := i.ser, part := 3, word := BitVec.ofNat 64 (s.sys.thr c k).serial }) (s.sys.now + 2) .commit
    { clu := c, frm := k, id := i.ser, part := 1, word := BitVec.ofNat 64 (s.sys.thr c k).serial }

section
variable {i : Inst} (hquiet : ∀ n ∈ i.effs, quietEff n.e = true)
include hquiet

theorem trets_quiet : i.trets = false := by
  refine List.any_eq_false.2 fun n hn => ?_
  obtain ⟨_, _, he⟩ | ⟨_, _, he⟩ | ⟨_, _, he⟩ | ⟨_, _, he⟩ := quietEff_cases (hquiet n hn) <;> simp [he]

theorem target_quiet {a : Nat} (hexit : i.exit = some (.goto a)) (ha : a ≠ 0) (t : Thr) : i.target t = some a := by
  simp [Inst.target, hexit, Exit.target, ha, trets_quiet hquiet]

theorem after_quiet (t : Thr) (a : Nat) : t.after i a = { t with next := a } := by
  refine foldl_fixed_of_mem fun n hn => ?_
  obtain ⟨_, _, he⟩ | ⟨_, _, he⟩ | ⟨_, _, he⟩ | ⟨_, _, he⟩ := quietEff_cases (hquiet n hn) <;> simp [he]

/-- An instance that sends its thread on leaves, and writes its exit records where they need not wait. -/
theorem leaveInst_quiet {s : State} (h : s.Form) {e : Ev} {a : Nat} (hexit : i.exit = some (.goto a)) (ha : a ≠ 0) :
    ∃ f : Fly, f.Form ∧ leaveInst s e i = State.goesOn (if exitsLater s.fly i then { s with sys := s.sys.forget e.clu e.frm i, fly := f }
      else writeExits { s with sys := s.sys.forget e.clu e.frm i, fly := f } e.clu e.frm (s.sys.forget e.clu e.frm i).now i) e.clu e.frm i a := by
  unfold leaveInst
  extract_lets c k y0 v0 y f0 f later moved step f' u v w t owner e3
  have hf : f'.Form :=
    { h.fly with
      sleeps := h.fly.sleeps.filter _
      accs := rising_filterMap_dropRead h.fly.accs _
      commits := h.fly.commits.put _ _ }
  have hy : y = s.sys.forget c k i := foldl_fixed_of_mem fun n hn => by
    obtain ⟨_, _, he⟩ | ⟨_, _, he⟩ | ⟨_, _, he⟩ | ⟨_, _, he⟩ := quietEff_cases (hquiet n hn) <;> simp [he]
  have hv : v = u := foldl_fixed_of_mem fun n hn => by
    obtain ⟨_, _, he⟩ | ⟨_, _, he⟩ | ⟨_, _, he⟩ | ⟨_, _, he⟩ := quietEff_cases (hquiet n (mem_sortEffs.1 hn)) <;> simp [he]
  refine ⟨wakeCluster s.sys y c f', hf.wakeCluster, ?_⟩
  have ht : i.target t = some a := target_quiet hquiet hexit ha t
  have hw : w = if exitsLater s.fly i then { s with sys := s.sys.forget c k i, fly := wakeCluster s.sys y c f' }
      else writeExits { s with sys := s.sys.forget c k i, fly := wakeCluster s.sys y c f' } c k (s.sys.forget c k i).now i := by
    rw [← hy]
    simp only [w, hv]
    rfl
  rw [← hw]
  simp only [e3, ht, after_quiet hquiet, trets_quiet hquiet, Option.isNone_some]
  rfl

end

/-! ### Effects of a commit (R272, R281, R282, R325) -/

/-- What an effect makes of the lanes of its cluster. -/
def Sys.doLane (c : Nat) (y : Sys) (n : EffAt) : Sys :=
  match n.e with
  | .lane l o => y.modLane c l fun v => { v with val := o.apply v.val }
  | _ => y

/-- The lanes of a state may be others; nothing else is. -/
theorem Sys.doLane_spec (c : Nat) (y : Sys) (n : EffAt) : ∃ t, y.doLane c n = { y with lanes := t } := by
  unfold Sys.doLane
  split <;> exact ⟨_, rfl⟩

theorem foldl_doLane_spec (c : Nat) (l : List EffAt) (y : Sys) : ∃ t, l.foldl (Sys.doLane c) y = { y with lanes := t } := by
  refine foldl_keeps (P := fun z => ∃ t, z = { y with lanes := t }) ?_ l ⟨y.lanes, rfl⟩
  rintro z n ⟨t, rfl⟩
  obtain ⟨u, hu⟩ := Sys.doLane_spec c { y with lanes := t } n
  exact ⟨u, hu⟩

section
variable {y : Sys} (h : y.Form) (c : Nat)
include h

theorem Sys.Form.lane_setLane (l j : Nat) (v : Lane) : (y.setLane c l v).lane c j = if j = l then v else y.lane c j := by
  split
  · next hj => rw [hj]; exact tabGet_set_same _ _ _ _ ((rising_iff _).1 h.lanes)
  · exact tabGet_set_other _ _ _ _ _ (by omega)

theorem Sys.Form.pacc_setPacc (p q : Nat) (v : PAcc) : (y.setPacc c p v).pacc c q = if q = p then v else y.pacc c q := by
  split
  · next hq => rw [hq]; exact tabGet_set_same _ _ _ _ ((rising_iff _).1 h.paccs)
  · exact tabGet_set_other _ _ _ _ _ (by omega)

theorem Sys.Form.doLane (n : EffAt) : (y.doLane c n).Form := by
  unfold Sys.doLane
  split
  · exact h.modLane
  · exact h

theorem Sys.Form.lane_doLane (n : EffAt) (j : Nat) : (y.doLane c n).lane c j = laneAfter j (y.lane c j) n := by
  obtain ⟨idx, index, e⟩ := n
  cases e with
  | lane l o =>
    refine (h.lane_setLane c l j _).trans ?_
    by_cases hj : j = l
    · subst hj
      simp [laneAfter]
    · simp [laneAfter, hj, Ne.symm hj]
  | _ => rfl

/-- A lane holds what the operations of the instance make of it, one after the other. -/
theorem Sys.Form.lane_foldl_doLane (l : List EffAt) (j : Nat) : (l.foldl (Sys.doLane c) y).lane c j = l.foldl (laneAfter j) (y.lane c j) := by
  induction l generalizing y with
  | nil => rfl
  | cons n l ih => rw [List.foldl_cons, ih (h.doLane c n), h.lane_doLane, List.foldl_cons]

/-- Reserved lanes become ALLOCATED. -/
theorem Sys.Form.lane_foldl_setLane (ls : List Nat) (v : Lane) (j : Nat) :
    (ls.foldl (fun y l => y.setLane c l v) y).lane c j = if j ∈ ls then v else y.lane c j := by
  induction ls generalizing y with
  | nil => rfl
  | cons l ls ih =>
    rw [List.foldl_cons, ih h.setLane, h.lane_setLane]
    by_cases hj : j ∈ ls <;> by_cases hl : j = l <;> simp [hj, hl]

theorem Sys.Form.pacc_foldl_other {os : List (Nat × PAcc)} {p : Nat} (hp : ∀ o ∈ os, o.1 ≠ p) :
    (os.foldl (fun y o => y.setPacc c o.1 o.2) y).pacc c p = y.pacc c p := by
  induction os generalizing y with
  | nil => rfl
  | cons o os ih =>
    rw [List.foldl_cons, ih h.setPacc fun q hq => hp q (List.mem_cons_of_mem _ hq), h.pacc_setPacc,
      if_neg (Ne.symm (hp o (List.mem_cons_self ..)))]

/-- Accumulators with numbers of their own each become what the instance has open. -/
theorem Sys.Form.pacc_foldl_same {os : List (Nat × PAcc)} (hn : (os.map Prod.fst).Nodup) {o : Nat × PAcc} (ho : o ∈ os) :
    (os.foldl (fun y o => y.setPacc c o.1 o.2) y).pacc c o.1 = o.2 := by
  induction os generalizing y with
  | nil => cases ho
  | cons q os ih =>
    rw [List.map_cons, List.nodup_cons] at hn
    obtain ⟨hq, hn⟩ := hn
    obtain rfl | ho := List.mem_cons.1 ho
    · rw [List.foldl_cons, h.setPacc.pacc_foldl_other c fun r hr hne => hq (List.mem_map.2 ⟨r, hr, hne⟩), h.pacc_setPacc, if_pos rfl]
    · exact ih h.setPacc hn ho

end

theorem foldl_setPacc_spec (y : Sys) (c : Nat) (os : List (Nat × PAcc)) : ∃ p, os.foldl (fun y o => y.setPacc c o.1 o.2) y = { y with paccs := p } :=
  foldl_keeps (P := fun z => ∃ p, z = { y with paccs := p }) (fun _ _ ⟨_, hz⟩ => ⟨_, by rw [hz]; rfl⟩) os ⟨_, rfl⟩

theorem foldl_setLane_spec (y : Sys) (c : Nat) (ls : List Nat) (v : Lane) : ∃ t, ls.foldl (fun y l => y.setLane c l v) y = { y with lanes := t } :=
  foldl_keeps (P := fun z => ∃ t, z = { y with lanes := t }) (fun _ _ ⟨_, hz⟩ => ⟨_, by rw [hz]; rfl⟩) ls ⟨_, rfl⟩

/-- Open accumulators and reserved lanes change those tables alone. -/
theorem commitWide_spec (y : Sys) (c : Nat) (i : Inst) : ∃ p t, commitWide y c i = { y with paccs := p, lanes := t } := by
  obtain ⟨p, hp⟩ := foldl_setPacc_spec y c i.opens
  obtain ⟨t, ht⟩ := foldl_setLane_spec { y with paccs := p } c i.lanes { alloc := true, colour := i.colour, val := 0 }
  exact ⟨p, t, by rw [commitWide, hp]; exact ht⟩

section
variable {y : Sys} (h : y.Form) (c : Nat) (i : Inst)

theorem Sys.pacc_commitWide (y : Sys) (p : Nat) :
    (commitWide y c i).pacc c p = (i.opens.foldl (fun y o => y.setPacc c o.1 o.2) y).pacc c p := by
  obtain ⟨t, ht⟩ := foldl_setLane_spec (i.opens.foldl (fun y o => y.setPacc c o.1 o.2) y) c i.lanes { alloc := true, colour := i.colour, val := 0 }
  exact congrArg (·.pacc c p) ht

include h

theorem Sys.Form.lane_commitWide (j : Nat) : (commitWide y c i).lane c j =
    if j ∈ i.lanes then { alloc := true, colour := i.colour, val := 0 } else y.lane c j := by
  have hform : (i.opens.foldl (fun y e => y.setPacc c e.1 e.2) y).Form := h.foldl fun _ _ h => h.setPacc
  obtain ⟨p, hp⟩ := foldl_setPacc_spec y c i.opens
  rw [commitWide, hform.lane_foldl_setLane, hp]
  rfl

end

/-! ### Carried registers of a commit (R96) -/

/-- A register with its value; a register that has none stays as it was. -/
def State.writeGiven (s : State) (c k : Nat) (w : Nat × Option Word) : State :=
  match w.2 with
  | some v => s.setReg c k w.1 v
  | none => s

/-- The registers that an instance writes, in the order in which they came. -/
def State.writeRegs (s : State) (c k : Nat) (ws : List (Nat × Option Word)) : State := ws.foldl (fun s w => s.writeGiven c k w) s

/-- Registers of a state may be others; nothing else is. -/
theorem State.writeRegs_spec (s : State) (c k : Nat) (ws : List (Nat × Option Word)) : ∃ g, s.writeRegs c k ws = { s with greg := g } := by
  refine foldl_keeps (P := fun t => ∃ g, t = { s with greg := g }) ?_ ws ⟨s.greg, rfl⟩
  rintro t w ⟨g, rfl⟩
  unfold State.writeGiven
  split
  · unfold State.setReg
    split
    · exact ⟨g, rfl⟩
    · exact ⟨_, rfl⟩
  · exact ⟨g, rfl⟩

theorem State.reg_congr {s t : State} (h : t.greg = s.greg) (c k n : Nat) : t.reg c k n = s.reg c k n := by rw [State.reg, State.reg, h]

section
variable {s : State} {c k : Nat} {ws : List (Nat × Option Word)}

theorem State.reg_writeRegs_thread {c' k' m : Nat} (hk : k < 1024) (hk' : k' < 1024) (hne : (c', k') ≠ (c, k)) :
    (s.writeRegs c k ws).reg c' k' m = s.reg c' k' m := by
  refine foldl_keeps (P := fun t : State => t.reg c' k' m = s.reg c' k' m) (fun t w ht => ?_) ws rfl
  unfold State.writeGiven
  split
  · exact (State.reg_setReg_thread hk hk' hne).trans ht
  · exact ht

theorem State.Form.writeGiven (h : s.Form) (w : Nat × Option Word) : (s.writeGiven c k w).Form := by
  unfold State.writeGiven
  split
  · exact h.setReg
  · exact h

theorem State.Form.reg_writeRegs_other (h : s.Form) {m : Nat} (hm : ∀ w ∈ ws, w.1 = m → w.2 = none) :
    (s.writeRegs c k ws).reg c k m = s.reg c k m := by
  induction ws generalizing s with
  | nil => rfl
  | cons w ws ih =>
    refine (ih (h.writeGiven w) fun x hx => hm x (List.mem_cons_of_mem _ hx)).trans ?_
    unfold State.writeGiven
    split
    · next v hv =>
      exact h.reg_setReg_other fun he => by rw [hm w (List.mem_cons_self ..) he.symm] at hv; cases hv
    · rfl

theorem State.Form.reg_writeRegs_same (h : s.Form) (hn : (ws.map Prod.fst).Nodup) {n : Nat} {v : Word} (hv : (n, some v) ∈ ws) (h0 : n ≠ 0) :
    (s.writeRegs c k ws).reg c k n = v := by
  induction ws generalizing s with
  | nil => cases hv
  | cons w ws ih =>
    rw [List.map_cons, List.nodup_cons] at hn
    obtain ⟨hw, hn⟩ := hn
    obtain rfl | hv := List.mem_cons.1 hv
    · refine (h.setReg.reg_writeRegs_other fun x hx he => ?_).trans (h.reg_setReg_same h0)
      exact absurd (List.mem_map.2 ⟨x, hx, he⟩) hw
    · exact ih (h.writeGiven w) hn hv

end

/-! ### What effects put in flight -/

/-- What is in flight has become more: nothing is taken off the agenda, and posts stay. -/
structure Fly.Grows (f g : Fly) : Prop where
  agenda : ∀ w ∈ f.agenda, w ∈ g.agenda
  accs : g.accs = f.accs
  commits : g.commits = f.commits
  nextSer : f.nextSer ≤ g.nextSer
  posts : ∀ id < f.nextSer, tabFind g.posts id = tabFind f.posts id

theorem Fly.Grows.refl (f : Fly) : f.Grows f := ⟨fun _ h => h, rfl, rfl, le_rfl, fun _ _ => rfl⟩

theorem Fly.Grows.trans {f g k : Fly} (h : f.Grows g) (h' : g.Grows k) : f.Grows k :=
  ⟨fun w hw => h'.agenda w (h.agenda w hw), h'.accs.trans h.accs, h'.commits.trans h.commits, h.nextSer.trans h'.nextSer,
    fun id hid => (h'.posts id (hid.trans_le h.nextSer)).trans (h.posts id hid)⟩

theorem Fly.grows_event (f : Fly) (n : Nat) (i : Instr) (e : Ev) : f.Grows (f.event n i e) :=
  ⟨fun _ hw => Fly.mem_event_agenda.2 (.inr hw), rfl, rfl, le_rfl, fun _ _ => rfl⟩

/-- A post takes a number of its own. -/
theorem Fly.grows_setPost (f : Fly) (p : Post) : f.Grows (f.fresh.2.setPost f.nextSer p) :=
  ⟨fun _ hw => hw, rfl, rfl, Nat.le_succ _, fun _ hid => tabFind_put_other _ _ _ _ hid.ne⟩

/-- An event is on the agenda of what is in flight. -/
def Fly.has (f : Fly) (due : Nat) (i : Instr) (e : Ev) : Prop := { due := due, act := .ev i e } ∈ f.agenda

/-- The write that an MTS of context `x` puts in flight: to `%ctent`, `%pfdone` or another register, or the kick of a watchdog. -/
structure mtsSends (c k now x r : Nat) (v : Word) (f : Fly) : Prop where
  ctent : x = 0 → r = 0x04A → f.has now .ctentWrite { word := v }
  pfdone : x = 0 → r = 0x045 → f.has now .pfdoneWrite { id := (v.extractLsb' 0 32).toNat }
  kick : x ≠ 0 → r = 0x01A → v.getLsbD 0 = true → f.has now .wdogKick { ctx := x }
  other : r ≠ 0x04A → r ≠ 0x045 → r ≠ 0x01A → f.has now .registerWrite { ctx := x, clu := c, frm := k, id := r, p := x == 0, word := v }

theorem mtsSends.grows {c k now x r : Nat} {v : Word} {f g : Fly} (h : mtsSends c k now x r v f) (hg : f.Grows g) : mtsSends c k now x r v g :=
  ⟨fun hx hr => hg.agenda _ (h.ctent hx hr), fun hx hr => hg.agenda _ (h.pfdone hx hr), fun hx hr hv => hg.agenda _ (h.kick hx hr hv),
    fun h1 h2 h3 => hg.agenda _ (h.other h1 h2 h3)⟩

/-- What an MTS or a LAUNCH of a commit puts in flight: the write of the register; the post, and the append of its record. -/
structure sendsOut (c k now : Nat) (i : Inst) (n : EffAt) (f : Fly) : Prop where
  mts : ∀ r v, n.e = .mts r v → mtsSends c k now i.ctx r v f
  launch : ∀ q ws, n.e = .launch q ws → ∃ p, ∃ id < f.nextSer, tabFind f.posts id = some p ∧ p.ctx = i.ctx ∧ p.act = .launch q ws ∧
    f.has now .launchAppend { id := id }

theorem sendsOut.grows {c k now : Nat} {i : Inst} {n : EffAt} {f g : Fly} (h : sendsOut c k now i n f) (hg : f.Grows g) : sendsOut c k now i n g where
  mts r v he := (h.mts r v he).grows hg
  launch q ws he := by
    obtain ⟨p, id, hid, hp, hx, hact, hon⟩ := h.launch q ws he
    exact ⟨p, id, hid.trans_le hg.nextSer, (hg.posts id hid).trans hp, hx, hact, hg.agenda _ hon⟩

theorem unacked_of_no_accs {f : Fly} (h : f.accs = []) (ser : Nat) : unacked f ser = [] := by simp [unacked, accsOf, h]

section
variable (s : State) (c k : Nat) (i : Inst)

/-- An MTS does nothing but send its write, if it has one. -/
theorem mtsEvent_spec (x r : Nat) (v : Word) : ∃ f, mtsEvent s c k x r v = { s with fly := f } ∧ s.fly.Grows f ∧ mtsSends c k s.sys.now x r v f := by
  unfold mtsEvent
  dsimp only
  split
  · exact ⟨_, rfl, Fly.grows_event .., fun _ _ => Fly.mem_event_agenda.2 (.inl rfl), by omega, by omega, by omega⟩
  split
  · exact ⟨_, rfl, Fly.grows_event .., by omega, fun _ _ => Fly.mem_event_agenda.2 (.inl rfl), by omega, by omega⟩
  split
  · split
    · exact ⟨_, rfl, Fly.grows_event .., by omega, by omega, fun _ _ _ => Fly.mem_event_agenda.2 (.inl rfl), by omega⟩
    · next hv => exact ⟨_, rfl, .refl _, by omega, by omega, fun _ _ h => absurd h hv, by omega⟩
  · exact ⟨_, rfl, Fly.grows_event .., by omega, by omega, by omega, fun _ _ _ => Fly.mem_event_agenda.2 (.inl rfl)⟩

/-- A LAUNCH that waits for no store sends its record in that cycle. -/
theorem addPost_launch (due : Nat) {p : Post} {q : Nat} {ws : List Word} (hw : p.waits = []) (hact : p.act = .launch q ws) :
    addPost s due p = State.sched { s with fly := s.fly.fresh.2.setPost s.fly.nextSer { p with ready := true } } due .launchAppend
      { id := s.fly.nextSer } := by
  simp [addPost, hw, firePost, hact, Fly.fresh]

/-- One plain effect: its lane, and what it puts in flight. -/
theorem applyEff_plain {n : EffAt} (hn : plainEff n.e = true) (haccs : s.fly.accs = []) :
    ∃ f, applyEff s c k i false false n = { s with sys := s.sys.doLane c n, fly := f } ∧ s.fly.Grows f ∧ sendsOut c k s.sys.now i n f := by
  obtain ⟨r, v, he⟩ | ⟨l, o, he⟩ | ⟨q, ws, he⟩ := plainEff_cases hn
  · obtain ⟨f, hf, hgrows, hsends⟩ := mtsEvent_spec s c k i.ctx r v
    refine ⟨f, ?_, hgrows, ⟨fun r v hm => ?_, fun q ws hl => ?_⟩⟩
    · simp only [applyEff, he, Bool.false_and, Bool.false_eq_true, if_false, hf, Sys.doLane]
    · rw [he] at hm; cases hm; exact hsends
    · rw [he] at hl; cases hl
  · refine ⟨s.fly, ?_, .refl _, ⟨fun r v hm => ?_, fun q ws hl => ?_⟩⟩
    · simp only [applyEff, he, Sys.doLane, State.mapSys]
    · rw [he] at hm; cases hm
    · rw [he] at hl; cases hl
  · let p : Post := { ctx := i.ctx, ident := i.ident, clu := c, frm := k, colour := i.colour, ser := i.ser, owner := (s.sys.thr c k).serial,
                      waits := unacked s.fly i.ser, ready := false, act := .launch q ws }
    have hpost := addPost_launch s s.sys.now (p := p) (unacked_of_no_accs haccs i.ser) rfl
    refine ⟨(s.fly.fresh.2.setPost s.fly.nextSer { p with ready := true }).event s.sys.now .launchAppend { id := s.fly.nextSer }, ?_,
      (Fly.grows_setPost s.fly _).trans (Fly.grows_event ..), ⟨fun r v hm => ?_, fun q' ws' hl => ?_⟩⟩
    · simp only [applyEff, he, Sys.doLane]
      exact hpost
    · rw [he] at hm; cases hm
    · rw [he] at hl
      cases hl
      exact ⟨_, _, Nat.lt_succ_self _, tabFind_put_same .., rfl, rfl, Fly.mem_event_agenda.2 (.inl rfl)⟩

end

/-- Plain effects, one after the other. -/
theorem foldl_applyEff_plain (c k : Nat) (i : Inst) {l : List EffAt} (hl : ∀ n ∈ l, plainEff n.e = true) {s : State} (haccs : s.fly.accs = []) :
    ∃ f, l.foldl (fun s n => applyEff s c k i false false n) s = { s with sys := l.foldl (Sys.doLane c) s.sys, fly := f } ∧ s.fly.Grows f ∧
      ∀ n ∈ l, sendsOut c k s.sys.now i n f := by
  induction l generalizing s with
  | nil => exact ⟨s.fly, rfl, .refl _, fun n hn => by cases hn⟩
  | cons m l ih =>
    obtain ⟨f, hf, hgrows, hsends⟩ := applyEff_plain s c k i (hl m (List.mem_cons_self ..)) haccs
    obtain ⟨g, hg, hgrows', hsends'⟩ := ih (fun n hn => hl n (List.mem_cons_of_mem _ hn)) (s := { s with sys := s.sys.doLane c m, fly := f })
      (hgrows.accs.trans haccs)
    have hnow : (s.sys.doLane c m).now = s.sys.now := by
      obtain ⟨t, ht⟩ := Sys.doLane_spec c s.sys m
      rw [ht]
    refine ⟨g, ?_, hgrows.trans hgrows', fun n hn => ?_⟩
    · rw [List.foldl_cons, hf, hg, List.foldl_cons]
    · obtain rfl | hn := List.mem_cons.1 hn
      · exact hsends.grows hgrows'
      · have := hsends' n hn
        rwa [hnow] at this

/-! ### The effects are visible (R96) -/

section
variable {s : State} {c k : Nat} {i : Inst} (haccs : s.fly.accs = [])
include haccs

theorem accsOf_of_no_accs (ser : Nat) : accsOf s.fly ser = [] := by rw [accsOf, haccs]; rfl

theorem release_of_no_accs (ser : Nat) (p : Access → Bool) : release s c k ser p = s := by
  rw [release, accsOf_of_no_accs haccs, threadAccs_of_no_accs haccs]
  exact advance_of_no_accs haccs

theorem performPosts_of_no_accs : performPosts s c k i = s := by
  rw [performPosts, accsOf_of_no_accs haccs]
  rfl

end

/-- The thread's dither phase and return stack after a commit. -/
def Thr.committed (t : Thr) (i : Inst) : Thr :=
  { t with dphase := t.dphase + BitVec.ofNat 5 i.dstep, stack := match i.exit with
      | some (.call _ r) => r % 2 ^ 52 :: t.stack
      | some (.ret _) => t.stack.tail
      | _ => t.stack }

theorem commitRegs_stays (s : State) (c k : Nat) (i : Inst) :
    commitRegs s c k i false = (s.writeRegs c k i.writes).mapSys fun y => y.modThr c k (·.committed i) := rfl

theorem openMessages_plain {y : Sys} {i : Inst} (h : ∀ n ∈ i.effs, plainEff n.e = true) : openMessages y i = y := by
  refine foldl_fixed_of_mem fun n hn => ?_
  obtain ⟨_, _, he⟩ | ⟨_, _, he⟩ | ⟨_, _, he⟩ := plainEff_cases (h n hn) <;> simp [he]

/-- The machine after a commit with plain effects. -/
def Sys.committed (y : Sys) (c k : Nat) (i : Inst) : Sys :=
  (sortEffs i.effs).foldl (Sys.doLane c) (commitWide (y.modThr c k (·.committed i)) c i)

theorem takeEffect_plain {s : State} {e : Ev} {i : Inst} (hi : plainInst s i) (hq : e.q = false)
    (hser : (s.sys.thr e.clu e.frm).serial = e.word.toNat) :
    ∃ f : Fly, s.fly.Grows f ∧ (∀ n ∈ i.effs, sendsOut e.clu e.frm s.sys.now i n f) ∧
      takeEffect s e i = { mem := s.mem, greg := (s.writeRegs e.clu e.frm i.writes).greg, sys := s.sys.committed e.clu e.frm i,
                           fly := { f with commits := tabDel f.commits (tkey e.clu e.frm) } } := by
  obtain ⟨hplain, hcopies, -, haccs⟩ := hi
  have hempty : i.copies.isEmpty = true := by rw [hcopies]; rfl
  obtain ⟨g, hg⟩ := s.writeRegs_spec e.clu e.frm i.writes
  unfold takeEffect
  extract_lets c k s1 hv s2 i' s3 dead s4 s5 s6 s7 s8
  have h1 : s1 = s := release_of_no_accs haccs ..
  have hi' : i' = i := if_pos hempty
  have h2 : s2 = s := by simp only [s2, h1, settleStores, settlePushes, hempty, if_true, State.mapFly, State.mapSys]
  have h3 : s3 = s := by
    simp only [s3, hi', h2]
    exact writeExits_none fun n hn => emit_not_plain (hplain n hn)
  have hdead : dead = false := by simp [dead, h3, c, k, hser]
  have h6 : s6 = { s with greg := g, sys := commitWide (s.sys.modThr c k (·.committed i)) c i } := by
    simp only [s6, s5, s4, hdead, hq, h3, hi', Bool.false_eq_true, if_false, commitRegs_stays, hg, c, k]
    rfl
  obtain ⟨f, hf, hgrows, hsends⟩ := foldl_applyEff_plain c k i (l := sortEffs i.effs) (fun n hn => hplain n (mem_sortEffs.1 hn)) (s := s6)
    (by rw [h6]; exact haccs)
  have h7 : s7 = { s6 with sys := s.sys.committed c k i, fly := f } := by
    simp only [s7, hi', hq, hdead, hf]
    rw [h6]
    rfl
  have h8 : s8 = s7 := by
    simp only [s8, hi', h7, State.mapSys, openMessages_plain hplain]
    exact performPosts_of_no_accs (hgrows.accs.trans (by rw [h6]; exact haccs))
  rw [h6] at hgrows hsends
  have hnow : (commitWide (s.sys.modThr c k (·.committed i)) c i).now = s.sys.now := by
    obtain ⟨p, t, ht⟩ := commitWide_spec (s.sys.modThr c k (·.committed i)) c i
    rw [ht]
    rfl
  refine ⟨f, hgrows, fun n hn => hnow ▸ hsends n (mem_sortEffs.2 hn), ?_⟩
  rw [h8, h7, h6, hg]
  rfl

theorem sendsOut.withCommits {c k now : Nat} {i : Inst} {n : EffAt} {f : Fly} {l : Tab Inst} (h : sendsOut c k now i n f) :
    sendsOut c k now i n { f with commits := l } where
  mts r v he := by
    obtain ⟨hctent, hpfdone, hkick, hother⟩ := h.mts r v he
    exact ⟨hctent, hpfdone, hkick, hother⟩
  launch := h.launch

section
variable {y : Sys} (h : y.Form) (c k : Nat) (i : Inst)

theorem Sys.pacc_committed (y : Sys) (p : Nat) :
    (y.committed c k i).pacc c p = (i.opens.foldl (fun y o => y.setPacc c o.1 o.2) (y.modThr c k (·.committed i))).pacc c p := by
  obtain ⟨u, hu⟩ := foldl_doLane_spec c (sortEffs i.effs) (commitWide (y.modThr c k (·.committed i)) c i)
  rw [Sys.committed, hu]
  exact Sys.pacc_commitWide ..

include h

theorem Sys.Form.thr_committed : (y.committed c k i).thr c k = (y.thr c k).committed i := by
  obtain ⟨p, t, hp⟩ := commitWide_spec (y.modThr c k (·.committed i)) c i
  obtain ⟨u, hu⟩ := foldl_doLane_spec c (sortEffs i.effs) (commitWide (y.modThr c k (·.committed i)) c i)
  rw [Sys.committed, hu, hp]
  exact h.thr_setThr c k ((y.thr c k).committed i)

theorem Sys.Form.lane_committed (l : Nat) : (y.committed c k i).lane c l = (sortEffs i.effs).foldl (laneAfter l)
    (if l ∈ i.lanes then { alloc := true, colour := i.colour, val := 0 } else y.lane c l) := by
  have hthr : (y.modThr c k (·.committed i)).Form := h.modThr
  rw [Sys.committed, hthr.commitWide.lane_foldl_doLane, hthr.lane_commitWide]
  rfl

end

/-! ### An exit record is written (R113) -/

/-- A context's ports are others. -/
def Sys.withPorts (y : Sys) (x : Nat) (t : Tab Port) : Sys := y.modCtx x fun w => { w with ports := t }

section
variable {y : Sys} (h : y.Form) (x : Nat) (t : Tab Port)
include h

theorem Sys.Form.ctx_withPorts (k : Nat) : (y.withPorts x t).ctx k = if k = x then { y.ctx x with ports := t } else y.ctx k := by
  split
  · next hk => rw [hk]; exact h.ctx_setCtx x _
  · next hk => exact tabGet_set_other _ _ _ _ _ hk

theorem Sys.Form.withPorts : (y.withPorts x t).Form := h.modCtx fun _ h => h.plain

/-- Ports bear on no translation. -/
theorem Sys.Form.xlateNow_withPorts (m : Memory) (k : Nat) : xlateNow (y.withPorts x t) m k = xlateNow y m k := by
  have hctx (j : Nat) : ∃ u, (y.withPorts x t).ctx j = { y.ctx j with ports := u } := by
    rw [h.ctx_withPorts]
    split
    · next hj => exact ⟨t, by rw [hj]⟩
    · exact ⟨(y.ctx j).ports, rfl⟩
  have hbase (j : Nat) : tableBase (y.withPorts x t) k j = tableBase y k j := by
    obtain ⟨u, hu⟩ := hctx k
    rw [tableBase, hu]
    rfl
  have hkey (q : KeyTag) : (y.withPorts x t).storedAs q = y.storedAs q := by
    obtain ⟨u, hu⟩ := hctx q.ctx
    rw [Sys.storedAs, Sys.keyOf, hu]
    rfl
  have hline (l : Nat) : (y.withPorts x t).line l = y.line l := rfl
  have hstale (pa : Nat) : staleTable (y.withPorts x t) k pa = staleTable y k pa := by
    simp only [staleTable, Sys.opens, hkey, hline]
  have hranges (j : Nat) : staleRanges (y.withPorts x t) k j = staleRanges y k j := by
    simp only [staleRanges, hbase, hstale]
    rfl
  have hread (j : Nat) : readRange (y.withPorts x t) m k j = readRange y m k j := by
    funext e
    rw [readRange, readRange, hbase]
  funext colour ident n page
  have hall : staleTable (y.withPorts x t) k = staleTable y k := funext hstale
  simp only [xlateNow, hranges, hall, rangesOf, rangesFor, hread]

theorem Sys.Form.firstBad_withPorts (m : Memory) (k colour ident : Nat) (n : Need) (l : List (Nat × Nat)) :
    firstBad (y.withPorts x t) m k colour ident n l = firstBad y m k colour ident n l := by
  induction l with
  | nil => rfl
  | cons p l ih => simp only [firstBad, h.xlateNow_withPorts, ih]

theorem Sys.Form.linesOf_withPorts (m : Memory) (k colour va n : Nat) (w : Bool) :
    linesOf (y.withPorts x t) m k colour va n w = linesOf y m k colour va n w := by simp only [linesOf, locate, h.xlateNow_withPorts]

end

theorem putVirt_mem_withPorts {s : State} (h : s.sys.Form) (x : Nat) (t : Tab Port) (k colour ident va : Nat) (bs : List Byte) :
    (putVirt (s.mapSys (·.withPorts x t)) k colour ident va bs).mem = (putVirt s k colour ident va bs).mem := by
  induction bs generalizing s va with
  | nil => rfl
  | cons b bs ih =>
    simp only [putVirt, State.mapSys, h.xlateNow_withPorts]
    split
    · next z _ => exact ih (s := { s with mem := writeByte s.mem (z.pa + va % 65536) b }) h _
    · exact ih h _

/-- A port that has written a record, with the records that wait there still: TAIL advances, and a claim is met. -/
def Port.advanced (v : Port) (rest : List LateExit) : Port := { v with tail := v.tail + 1, claimed := v.claimed - 1, late := rest }

theorem length_exitRecord (now : Nat) (tail : BitVec 32) (t : Token) : (exitRecord now tail t).length = 64 := by
  simp [exitRecord, leBytes]

/-- What the recursion on a `Nat` gives at `n + 1` is one step of it from what it gives at `n`. -/
theorem brecOn_succ {β : Type} {P : β → Prop} {F : (n : Nat) → Nat.below (motive := fun _ => β) n → β} (n : Nat)
    (h : ∀ b : Nat.below (motive := fun _ => β) (n + 1), b.1 = Nat.brecOn n F → P (F (n + 1) b)) : P (Nat.brecOn (n + 1) F) := h _ rfl

/-- The first record that waits at a port is written where its line is had, and the port goes on to the next. `writeVirt` stands as a variable, as in
`flushExits_keeps_form`. -/
theorem flushExits_late {s u : State} {n x p : Nat} {v : Port} {r : LateExit} {rest : List LateExit} (hv : (s.sys.ctx x).port p = some v)
    (hl : v.late = r :: rest)
    (hw : writeVirt s x v.colour v.ident ((v.base + v.tail.toNat % v.size * 64) % vaMod) (exitRecord r.at_ v.tail r.tok) = .ok u) :
    flushExits (n + 1) s x p = flushExits n (u.mapSys fun y => y.modCtx x fun w => { w with ports := tabPut w.ports p (v.advanced rest) }) x p := by
  generalize hR : flushExits n _ x p = R
  delta flushExits at hR ⊢
  refine brecOn_succ (P := fun f : State → Nat → Nat → State => f s x p = R) n ?_
  intro b hb
  rw [← hb] at hR
  clear hb
  revert hw
  delta flushExits._f
  generalize @writeVirt = W
  revert W
  refine id ?_
  intro W hw
  dsimp only
  simp only [hv, hl, hw]
  exact hR

theorem writeExit_first {s : State} {c k now p : Nat} {i : Inst} {tok : Token} {v : Port} (hv : (s.sys.ctx i.ctx).port p = some v)
    (hlate : v.late = []) : writeExit s c k now i p tok = flushExits 1 (s.mapSys (·.withPorts i.ctx (tabPut (s.sys.ctx i.ctx).ports p
      { v with late := [{ clu := c, frm := k, owner := (s.sys.thr c k).serial, at_ := now, tok := tok }] }))) i.ctx p := by
  unfold writeExit
  simp only [hv, hlate, List.isEmpty_nil, if_true, List.nil_append]
  rfl

theorem flushExits_zero (s : State) (x p : Nat) : flushExits 0 s x p = s := rfl

/-- The one record of a port is written where its page translates and its line is ready. -/
theorem flushExits_ready {s : State} (h : s.Form) {x p : Nat} {v : Port} {r : LateExit} (hv : (s.sys.ctx x).port p = some v) (hl : v.late = [r])
    (hbars : parkBars s x v.colour v.ident ((v.base + v.tail.toNat % v.size * 64) % vaMod) 64 = none)
    (hlines : linesReady s x v.colour ((v.base + v.tail.toNat % v.size * 64) % vaMod) 64 true) :
    ∃ m y, flushExits 1 s x p = { s with mem := m, sys := y } ∧
      m = (putVirt s x v.colour v.ident ((v.base + v.tail.toNat % v.size * 64) % vaMod) (exitRecord r.at_ v.tail r.tok)).mem ∧
      (y.ctx x).port p = some (v.advanced []) := by
  have hlength := length_exitRecord r.at_ v.tail r.tok
  obtain ⟨m, y, hw, hm, -, -⟩ := writeVirt_ready (bs := exitRecord r.at_ v.tail r.tok) h (by rw [hlength]; exact hbars)
    (by rw [hlength]; exact hlines)
  have hform := (h.writeVirt_ok hw).sys
  refine ⟨m, y.modCtx x fun w => { w with ports := tabPut w.ports p (v.advanced []) },
    (flushExits_late (n := 0) hv hl hw).trans (flushExits_zero ..), hm, ?_⟩
  rw [Sys.modCtx, hform.ctx_setCtx]
  exact tabFind_put_same ..

/-- An exit record that meets no other is written at once, and TAIL advances. -/
theorem writeExit_ready {s : State} (h : s.Form) {c k now p : Nat} {i : Inst} {tok : Token} {v : Port} (hv : (s.sys.ctx i.ctx).port p = some v)
    (hlate : v.late = []) (hbars : parkBars s i.ctx v.colour v.ident ((v.base + v.tail.toNat % v.size * 64) % vaMod) 64 = none)
    (hlines : linesReady s i.ctx v.colour ((v.base + v.tail.toNat % v.size * 64) % vaMod) 64 true) :
    ∃ m y, writeExit s c k now i p tok = { s with mem := m, sys := y } ∧
      m = (putVirt s i.ctx v.colour v.ident ((v.base + v.tail.toNat % v.size * 64) % vaMod) (exitRecord now v.tail tok)).mem ∧
      (y.ctx i.ctx).port p = some { v with tail := v.tail + 1, claimed := v.claimed - 1 } := by
  have hfirst := writeExit_first (c := c) (k := k) (now := now) (tok := tok) hv hlate
  generalize hr : ({ clu := c, frm := k, owner := (s.sys.thr c k).serial, at_ := now, tok := tok } : LateExit) = r at hfirst
  generalize htab : tabPut (s.sys.ctx i.ctx).ports p { v with late := [r] } = t at hfirst
  have hport : ((s.mapSys (·.withPorts i.ctx t)).sys.ctx i.ctx).port p = some { v with late := [r] } := by
    rw [State.mapSys_sys, h.sys.ctx_withPorts, if_pos rfl, ← htab]
    exact tabFind_put_same ..
  obtain ⟨m, y, hflush, hm, hlast⟩ := flushExits_ready (h.mapSys (h.sys.withPorts i.ctx t)) hport rfl
    ((h.sys.firstBad_withPorts ..).trans hbars) fun q hq => hlines q (h.sys.linesOf_withPorts .. ▸ hq)
  rw [putVirt_mem_withPorts h.sys, ← hr] at hm
  exact ⟨m, y, hfirst.trans hflush, hm, hlast.trans (by simp only [Port.advanced, hlate])⟩

/-! ### The next block (R92, R96, R328) -/

/-- A thread that looks for its next block waits until it has it. -/
def State.looksOn (s : State) (c k : Nat) : State := s.mapSys fun y => y.setThr c k { s.sys.thr c k with st := .waiting, baraw := none }

section
variable {s : State} {c k r n : Nat}

/-- A thread that may enter the block at its next address enters it at once. -/
theorem proceed_enters (hm : mayEnter s c k r n) : proceed s c k = enterBlock (s.looksOn c k) c k r n := by
  obtain ⟨hdrain, hrun, hhalt, hnext, hdeferred, hpend, ⟨q, b, hkernel, hblock, hbad⟩, hres, -⟩ := hm
  have hproceed : proceed s c k = enterNext s c k := by simp only [proceed, hpend]
  rw [hproceed]
  unfold enterNext
  extract_lets t u
  have hblocks : ((u.sys.ctx t.ctx).kernel t.ident).bind (fun q => q.blocks.find? fun b => b.addr == t.next) = some b :=
    (congrArg (Option.bind · _) hkernel).trans hblock
  have hres' : u.sys.residentAt c t.ctx t.next = some (r, n) := hres
  have hstay : ¬ (u.sys.draining c t || (u.sys.ctx t.ctx).st != .running) = true := by
    rw [show u.sys.draining c t = false from hdrain, show (u.sys.ctx t.ctx).st = .running from hrun]
    decide
  rw [if_neg hstay, if_neg (not_not.2 hhalt), if_neg hnext]
  have hnone : t.deferred = [] := hdeferred
  simp only [hnone, hblocks, hbad, hres']
  rfl

/-- A block that is not iterated is entered: a new instance runs under the thread. -/
theorem enterBlock_runs (h : s.Form) (hiter : (s.sys.frame c r n).iterated = false) :
    (enterBlock s c k r n).greg = s.greg ∧ ((enterBlock s c k r n).sys.thr c k).handler = (s.sys.thr c k).handler ∧
      runsBlock (enterBlock s c k r n) c k r n (s.sys.frame c r n).blk := by
  unfold enterBlock
  split
  next ser fl _ =>
  extract_lets t f raw now i y s' f1 f2 f3
  have hone : f.iterated = false := hiter
  have hinsts : f3.insts = f1.insts := by
    have h2 : f2.insts = f1.insts := foldl_keeps (P := fun g : Fly => g.insts = f1.insts) (fun _ _ hg => (Fly.sched_insts ..).trans hg) f.sources rfl
    simp only [f3]
    split
    · exact h2
    · exact h2
  have hinst : f3.inst c k = some i := by
    rw [Fly.inst, hinsts]
    exact tabFind_put_same ..
  have hthr : y.thr c k = { t with st := .active, aborted := t.aborted.filter (·.1 != f.blk) } :=
    (h.sys.thr_setThr c k { t with st := .active, aborted := t.aborted.filter (·.1 != f.blk) } :)
  rw [if_neg (by rw [hone]; exact Bool.false_ne_true)]
  exact ⟨rfl, (congrArg Thr.handler hthr).trans rfl, (congrArg Thr.st hthr).trans rfl, i, hinst, rfl, rfl, rfl, if_neg (Bool.eq_false_iff.1 hone), rfl⟩

end

/-- The state of a thread that a TRET sends to the block at `%tblk` (R328). -/
def State.returned (s : State) (c k : Nat) : State :=
  { s with sys := s.sys.setThr c k { s.sys.thr c k with next := ((s.sys.thr c k).tblk.extractLsb' 0 52).toNat, handler := false } }

section
variable {s : State} (h : s.Form) (c k : Nat)
include h

theorem State.Form.returned : (s.returned c k).Form := h.mapSys (g := fun y => y.setThr c k _) h.sys.setThr

theorem State.Form.thr_returned : (s.returned c k).sys.thr c k =
    { s.sys.thr c k with next := ((s.sys.thr c k).tblk.extractLsb' 0 52).toNat, handler := false } := h.sys.thr_setThr c k _

end

/-! ### BARI (R126 to R128) -/

section
variable {s : State} {e : Ev}

/-- A BARI whose checks pass again takes effect. -/
theorem bariEffect_cnt (hpart : e.part = 5) (hcheck : bariCheck s e.clu e.ctx e.col (.bariCnt e.id e.reg) = none) :
    bariEffect s e = s.mapSys fun y => y.setBar e.clu e.id
      { s.sys.bar e.clu e.id with mode := .count, colour := e.col, expect := e.reg, arrived := 0 } := by
  simp [bariEffect, hpart, hcheck]

theorem bariEffect_grp (hpart : e.part = 6) (hcheck : bariCheck s e.clu e.ctx e.col (.bariGrp e.id e.reg) = none) :
    bariEffect s e = s.mapSys fun y => y.setBar e.clu e.id
      (beginGroup y e.clu { s.sys.bar e.clu e.id with mode := .group, colour := e.col, group := e.reg }) := by
  simp [bariEffect, hpart, hcheck]

theorem bariEffect_free (hpart : e.part = 7) (hcheck : bariCheck s e.clu e.ctx e.col (.bariFree e.id) = none)
    (hmode : (s.sys.bar e.clu e.id).mode ≠ .free) (hhit : (s.sys.bar e.clu e.id).hit ≠ s.sys.now + 1) :
    bariEffect s e = s.mapSys fun y => y.setBar e.clu e.id { Bar.reset with seq := (s.sys.bar e.clu e.id).seq } := by
  simp [bariEffect, hpart, hcheck, hmode, hhit]

/-- A BARI.free that meets an arrival of its cycle fails. -/
theorem bariEffect_met (hpart : e.part = 7) (hmode : (s.sys.bar e.clu e.id).mode ≠ .free) (hcol : (s.sys.bar e.clu e.id).colour = e.col)
    (hhit : (s.sys.bar e.clu e.id).hit = s.sys.now + 1) (hq : e.q = false) (hser : (s.sys.thr e.clu e.frm).serial = e.word.toNat) :
    bariEffect s e = deferTrap s e.clu e.frm e.ent (misuse 13 0x21 0) := by
  simp [bariEffect, hpart, hmode, hcol, hhit, hq, hser, Bar.foreign]

theorem Sys.Form.bar_setBar {y : Sys} (h : y.Form) (c b : Nat) (v : Bar) : (y.setBar c b v).bar c b = v :=
  tabGet_set_same _ _ _ _ ((rising_iff _).1 h.bars)

theorem beginGroup_none {y : Sys} {c : Nat} {b : Bar} (h : y.lc c b.group = 0) :
    beginGroup y c b = { b with begun := false, expect := 0, members := [], arrived := 0, cur := [] } := if_pos h

theorem beginGroup_some {y : Sys} {c : Nat} {b : Bar} (h : y.lc c b.group ≠ 0) : beginGroup y c b =
    { b with begun := true, expect := y.lc c b.group, members := y.members c (y.ctxOf c) b.group, arrived := b.early, early := 0, cur := b.nxt,
             nxt := [], begins := y.now + 1 } := if_neg h

end

/-! ### The obligation -/

section
variable {s : State} {i : Inst}

/-- A decided commit leaves the live instances, and its instance leaves in that cycle. -/
theorem commit_decided (h : s.Form) (hpart : s.fly.ev.part = 0) (hi : s.fly.inst s.fly.ev.clu s.fly.ev.frm = some i) (hser : i.ser = s.fly.ev.id)
    (hc : i.committing = true) (hroom : roomOk s s.fly.ev i = true) (hsent : i.msends.length ≤ i.sends) :
    gives s .commit fun t => t.greg = s.greg ∧ t.fly.inst s.fly.ev.clu s.fly.ev.frm = none ∧
      tabFind t.fly.commits (s.fly.ev.clu * 1024 + s.fly.ev.frm) = some i ∧ soon t s.sys.now .commit { s.fly.ev with part := 2 } :=
  ⟨_, (exec_commit_decides hpart hi hser hc).trans (congrArg _ (decide_room hroom hsent)), rfl, rfl, h.fly.inst_delInst .., tabFind_put_same ..,
    soon_sched⟩

/-- What follows the leaving of an instance that sends its thread on. -/
theorem State.Form.goesOn_spec {u : State} (h : u.Form) (c k : Nat) (i : Inst) (a : Nat) : ((u.goesOn c k i a).sys.thr c k).next = a ∧
    soon (u.goesOn c k i a) (u.sys.now + 1) .commit { clu := c, frm := k, id := i.ser, part := 3, word := BitVec.ofNat 64 (u.sys.thr c k).serial } ∧
    soon (u.goesOn c k i a) (u.sys.now + 2) .commit { clu := c, frm := k, id := i.ser, part := 1, word := BitVec.ofNat 64 (u.sys.thr c k).serial } :=
  ⟨congrArg Thr.next (h.sys.thr_setThr c k { u.sys.thr c k with next := a }), Fly.mem_event_agenda.2 (.inr (Fly.mem_event_agenda.2 (.inl rfl))),
    soon_sched⟩

section
variable (h : s.Form) (hi : tabFind s.fly.commits (tkey s.fly.ev.clu s.fly.ev.frm) = some i) (hser : i.ser = s.fly.ev.id)
include h hi hser

/-- An instance with plain effects leaves. -/
theorem commit_leaves (hplain : plainInst s i) (hpart : s.fly.ev.part = 2) {a : Nat} (hexit : i.exit = some (.goto a)) (ha : a ≠ 0) :
    gives s .commit fun t => t.greg = s.greg ∧ (t.sys.thr s.fly.ev.clu s.fly.ev.frm).next = a ∧
      soon t (s.sys.now + 1) .commit { clu := s.fly.ev.clu, frm := s.fly.ev.frm, id := i.ser, part := 3,
                                       word := BitVec.ofNat 64 (s.sys.thr s.fly.ev.clu s.fly.ev.frm).serial } ∧
      soon t (s.sys.now + 2) .commit { clu := s.fly.ev.clu, frm := s.fly.ev.frm, id := i.ser, part := 1,
                                       word := BitVec.ofNat 64 (s.sys.thr s.fly.ev.clu s.fly.ev.frm).serial } := by
  obtain ⟨heffs, -, -, -⟩ := hplain
  obtain ⟨f, hf, hleave⟩ := leaveInst_quiet (fun n hn => quietEff_of_plain (heffs n hn)) h (e := s.fly.ev) hexit ha
  rw [writeExits_none fun n hn => emit_not_plain (heffs n hn), ite_self] at hleave
  have hform := h.sys.forget s.fly.ev.clu s.fly.ev.frm i
  obtain ⟨t, u, hy⟩ := s.sys.forget_spec s.fly.ev.clu s.fly.ev.frm i
  generalize s.sys.forget s.fly.ev.clu s.fly.ev.frm i = y at hleave hform hy
  have hnow : y.now = s.sys.now := by rw [hy]
  have hthr : y.thr s.fly.ev.clu s.fly.ev.frm = s.sys.thr s.fly.ev.clu s.fly.ev.frm := by rw [hy]; rfl
  have hspec := State.Form.goesOn_spec (h.parts hform hf) s.fly.ev.clu s.fly.ev.frm i a
  simp only [hnow, hthr] at hspec
  refine ⟨_, (exec_commit_leaves hpart hi hser).trans (congrArg _ hleave), rfl, rfl, hspec⟩

/-- The one exit record of an instance is written as it leaves, where it meets no other (R113). -/
theorem commit_writesRecord {p : Nat} {tok : Token} {v : Port} {a : Nat} (hsole : soleRecord s i p tok) (hpart : s.fly.ev.part = 2)
    (hexit : i.exit = some (.goto a)) (ha : a ≠ 0) (hv : (s.sys.ctx i.ctx).port p = some v) (hlate : v.late = [])
    (hbars : parkBars s i.ctx v.colour v.ident ((v.base + v.tail.toNat % v.size * 64) % vaMod) 64 = none)
    (hlines : linesReady s i.ctx v.colour ((v.base + v.tail.toNat % v.size * 64) % vaMod) 64 true) :
    ∃ t, exec .commit s = .next t ∧ t.greg = s.greg ∧ t.mem = (putVirt s i.ctx v.colour v.ident ((v.base + v.tail.toNat % v.size * 64) % vaMod)
        (exitRecord s.sys.now v.tail tok)).mem ∧
      (t.sys.ctx i.ctx).port p = some { v with tail := v.tail + 1, claimed := v.claimed - 1 } := by
  obtain ⟨⟨m, x, heffs⟩, -, -, haccs, hothers⟩ := hsole
  have hquiet : ∀ n ∈ i.effs, quietEff n.e = true := by
    rw [heffs]
    intro n hn
    rw [List.mem_singleton.1 hn]
    rfl
  have hlater : exitsLater s.fly i = false := by
    simp only [exitsLater, accsOf_of_no_accs haccs, List.any_nil, Bool.false_or]
    refine List.any_eq_false.2 fun d hd => ?_
    by_cases hs : d.2.ser = i.ser
    · simp [hs]
    · simp [hothers d hd hs]
  obtain ⟨f, hf, hleave⟩ := leaveInst_quiet hquiet h (e := s.fly.ev) hexit ha
  have hform := h.sys.forget s.fly.ev.clu s.fly.ev.frm i
  obtain ⟨t, u, hy⟩ := s.sys.forget_spec s.fly.ev.clu s.fly.ev.frm i
  rw [if_neg (Bool.eq_false_iff.1 hlater), writeExits_sole heffs] at hleave
  generalize s.sys.forget s.fly.ev.clu s.fly.ev.frm i = y at hleave hform hy
  have hnow : y.now = s.sys.now := by rw [hy]
  have hline (l : Nat) : y.line l = s.sys.line l := by rw [hy]; rfl
  have hsame : SameTables y s.sys := ⟨by rw [hy], fun l => congrArg Line.held (hline l), fun l => congrArg Line.ktag (hline l)⟩
  have hready (l : Nat) (q : KeyTag) : lineReady s l q → lineReady { s with sys := y, fly := f } l q := by
    simp only [lineReady, hline, hnow]
    exact id
  obtain ⟨m, z, hexit, hm, hport⟩ := writeExit_ready (h.parts hform hf) (c := s.fly.ev.clu) (k := s.fly.ev.frm) (now := y.now) (tok := tok)
    (v := v) (by rw [hsame.ctx]; exact hv) hlate ((hsame.firstBad ..).trans hbars) fun q hq => hready _ _ (hlines q (hsame.linesOf .. ▸ hq))
  rw [hexit] at hleave
  refine ⟨_, (exec_commit_leaves hpart hi hser).trans (congrArg _ hleave), rfl, ?_, hport⟩
  rw [← hnow]
  exact hm.trans (putVirt_mem_congr (s := { s with sys := y, fly := f }) (t := s) hsame rfl ..)

/-- The effects of an instance with plain ones are visible (R96). -/
theorem commit_takesEffect (hplain : plainInst s i) (hpart : s.fly.ev.part = 3) (hq : s.fly.ev.q = false)
    (hthr : (s.sys.thr s.fly.ev.clu s.fly.ev.frm).serial = s.fly.ev.word.toNat) :
    gives s .commit fun t => tabFind t.fly.commits (tkey s.fly.ev.clu s.fly.ev.frm) = none ∧
      t.greg = (s.writeRegs s.fly.ev.clu s.fly.ev.frm i.writes).greg ∧ t.sys = s.sys.committed s.fly.ev.clu s.fly.ev.frm i ∧
      ∀ n ∈ i.effs, sendsOut s.fly.ev.clu s.fly.ev.frm s.sys.now i n t.fly := by
  obtain ⟨f, hgrows, hsends, heffect⟩ := takeEffect_plain hplain hq hthr
  refine ⟨_, (exec_commit_takesEffect hpart hi hser).trans (congrArg _ heffect), rfl, ?_, rfl, rfl, fun n hn => ?_⟩
  · exact tabFind_del_same _ _ ((rising_iff _).1 (hgrows.commits ▸ h.fly.commits))
  · exact (hsends n hn).withCommits

end

end

section
variable {s : State} {c k : Nat}

/-- A thread that has nothing to wait for goes on; a TRET's goes to the block at `%tblk` (R328). -/
theorem enterNextBlock_proceeds {e : Ev} (h : s.Form) (hser : (s.sys.thr e.clu e.frm).serial = e.word.toNat)
    (hact : (s.sys.thr e.clu e.frm).st = .active) (hinst : s.fly.inst e.clu e.frm = none) (hheld : (s.sys.thr e.clu e.frm).held = false)
    (hbaraw : (s.sys.thr e.clu e.frm).baraw = none) :
    enterNextBlock s e = proceed (if e.p then s.returned e.clu e.frm else s) e.clu e.frm := by
  unfold enterNextBlock
  extract_lets c k mine u t
  have hmine : mine = true := beq_iff_eq.2 hser
  have hu : u = if e.p then s.returned c k else s := by
    simp only [u, hmine, Bool.and_true]
    rfl
  have hthr : t.st = .active ∧ t.held = false ∧ t.baraw = none := by
    simp only [t, hu]
    split
    · have hback := h.thr_returned c k
      exact ⟨(congrArg Thr.st hback).trans hact, (congrArg Thr.held hback).trans hheld, (congrArg Thr.baraw hback).trans hbaraw⟩
    · exact ⟨hact, hheld, hbaraw⟩
  have hfly : u.fly.inst c k = none := by
    rw [hu]
    split
    · exact hinst
    · exact hinst
  obtain ⟨hst, hfree, hnone⟩ := hthr
  rw [if_neg (by simp [hmine, hst, hfly, hfree])]
  simp only [hnone]
  rw [hu]

theorem Sys.residentAt_blk {y : Sys} {c x blk r n : Nat} (h : y.residentAt c x blk = some (r, n)) : (y.frame c r n).blk = blk := by
  obtain ⟨m, hm, he⟩ := Option.map_eq_some_iff.1 h
  cases he
  have := List.find?_some hm
  simp only [Bool.and_eq_true, beq_iff_eq] at this
  exact this.2

/-- The thread enters the block at its next address: a new instance of it runs. -/
theorem proceed_runs (h : s.Form) {r n : Nat} (hm : mayEnter s c k r n) : (proceed s c k).greg = s.greg ∧
    ((proceed s c k).sys.thr c k).handler = (s.sys.thr c k).handler ∧ runsBlock (proceed s c k) c k r n (s.sys.thr c k).next := by
  have hthr : (s.looksOn c k).sys.thr c k = { s.sys.thr c k with st := .waiting, baraw := none } := h.sys.thr_setThr ..
  have hform : (s.looksOn c k).Form := h.mapSys h.sys.setThr
  rw [proceed_enters hm]
  obtain ⟨-, -, -, -, -, -, -, hres, hiter⟩ := hm
  obtain ⟨hgreg, hhandler, hruns⟩ := enterBlock_runs (c := c) (k := k) hform hiter
  exact ⟨hgreg, hhandler.trans ((congrArg Thr.handler hthr).trans rfl), Sys.residentAt_blk hres ▸ hruns⟩

end

/-- Settles O30, part by part of the event. -/
theorem commitEvents : Obligations.CommitEvents := by
  unfold Obligations.CommitEvents
  intro s i hs
  have h := s.form_iff.1 hs
  refine ⟨fun hpart hi hser hc => ⟨fun hroom => ?_, fun hroom hsent => commit_decided h hpart hi hser hc hroom hsent⟩,
    fun hk hi hser hplain => ⟨fun a hpart hexit ha => commit_leaves h hi hser hplain hpart hexit ha, fun hpart hq hthr => ?_⟩,
    fun p tok v a hk hi hser hsole hpart hexit ha hv hlate hbars hlines => commit_writesRecord h hi hser hsole hpart hexit ha hv hlate hbars hlines,
    fun hpart hser hact hinst hheld hbaraw r n => ⟨fun hp hm => ?_, fun hp s' hs' hm => ?_⟩,
    fun hpart hcheck => ?_, fun hpart hcheck hlc => ?_, fun hpart hcheck hlc => ?_, fun hpart hcheck hmode hhit => ?_,
    fun hpart hmode hcol hhit hq hser => ?_⟩
  · exact (exec_commit_decides hpart hi hser hc).trans (congrArg _ (decide_no_room hroom))
  -- the effects
  · obtain ⟨t, ht, hmem, hcommits, hgreg, hsys, hsends⟩ := commit_takesEffect h hi hser hplain hpart hq hthr
    have hmod := h.sys.modThr (c := s.fly.ev.clu) (k := s.fly.ev.frm) (g := (·.committed i))
    have hreg (c k m : Nat) := State.reg_congr hgreg c k m
    have hlast : t.sys.thr s.fly.ev.clu s.fly.ev.frm = _ := (congrArg (Sys.thr · _ _) hsys).trans (h.sys.thr_committed ..)
    refine ⟨t, ht, hmem, hcommits, fun hn n v hv h0 => (hreg ..).trans (h.reg_writeRegs_same hn hv h0),
      fun m hm => (hreg ..).trans (h.reg_writeRegs_other hm), (congrArg Thr.dphase hlast).trans rfl,
      fun hn _ => ⟨fun o ho => ?_, fun p _ hp => ?_⟩, fun _ l _ => ?_, fun n hn r v he => ?_, fun n hn q ws he => ?_,
      fun c' k' m hk' hne => (hreg ..).trans (State.reg_writeRegs_thread hk hk' hne), fun a r he => ?_, fun a he => ?_⟩
    · rw [hsys, Sys.pacc_committed]
      exact hmod.pacc_foldl_same _ hn ho
    · rw [hsys, Sys.pacc_committed]
      exact hmod.pacc_foldl_other _ hp
    · rw [hsys, h.sys.lane_committed]
    · obtain ⟨hctent, hpfdone, hkick, hother⟩ := (hsends n hn).mts r v he
      exact ⟨hctent, hpfdone, hkick, hother⟩
    · obtain ⟨p, id, -, hp, hx, hact, hon⟩ := (hsends n hn).launch q ws he
      exact ⟨p, id, hp, hx, hact, hon⟩
    · rw [hlast, Thr.committed, he]
    · rw [hlast, Thr.committed, he]
  -- the next block
  · have hgo := enterNextBlock_proceeds h hser hact hinst hheld hbaraw
    rw [hp, if_neg Bool.false_ne_true] at hgo
    obtain ⟨hgreg, -, hruns⟩ := proceed_runs h hm
    exact ⟨_, (exec_commit_enters hpart).trans (congrArg _ hgo), proceed_mem .., hgreg, hruns⟩
  · have hgo := enterNextBlock_proceeds h hser hact hinst hheld hbaraw
    rw [hp, if_pos rfl] at hgo
    obtain rfl : s' = s.returned _ _ := hs'
    have hback := h.thr_returned s.fly.ev.clu s.fly.ev.frm
    obtain ⟨hgreg, hhandler, hruns⟩ := proceed_runs (h.returned _ _) hm
    rw [hback] at hhandler hruns
    exact ⟨_, (exec_commit_enters hpart).trans (congrArg _ hgo), proceed_mem .., hgreg, hhandler, hruns⟩
  -- a BARI
  · exact (exec_commit_bari (.inl hpart)).trans (congrArg _ (bariEffect_cnt hpart hcheck))
  · have hset := h.sys.bar_setBar s.fly.ev.clu s.fly.ev.id
      (beginGroup s.sys s.fly.ev.clu { s.sys.bar s.fly.ev.clu s.fly.ev.id with mode := .group, colour := s.fly.ev.col, group := s.fly.ev.reg })
    refine ⟨_, (exec_commit_bari (.inr (.inl hpart))).trans (congrArg _ (bariEffect_grp hpart hcheck)), rfl, rfl, rfl, ?_⟩
    rw [State.mapSys_sys, hset, beginGroup_none hlc]
    exact ⟨rfl, rfl, rfl, rfl⟩
  · have hset := h.sys.bar_setBar s.fly.ev.clu s.fly.ev.id
      (beginGroup s.sys s.fly.ev.clu { s.sys.bar s.fly.ev.clu s.fly.ev.id with mode := .group, colour := s.fly.ev.col, group := s.fly.ev.reg })
    refine ⟨_, (exec_commit_bari (.inr (.inl hpart))).trans (congrArg _ (bariEffect_grp hpart hcheck)), rfl, rfl, rfl, ?_⟩
    rw [State.mapSys_sys, hset, beginGroup_some hlc]
    exact ⟨rfl, rfl, rfl, rfl⟩
  · exact (exec_commit_bari (.inr (.inr hpart))).trans (congrArg _ (bariEffect_free hpart hcheck hmode hhit))
  · exact (exec_commit_bari (.inr (.inr hpart))).trans (congrArg _ (bariEffect_met hpart hmode hcol hhit hq hser))

end Sys2Proof.Machine

namespace Sys2Proof.Machine
open Claims

/-! ## Context commands and the watchdog -/

/-! ### Entries of clusters that are cleared -/

section
variable {α : Type} {d : α} {t : Tab α} {k : Nat}

/-- A key none of whose entries passes a filter reads as the default afterwards. -/
theorem tabGet_filter_dropped {p : Nat × α → Bool} (h : ∀ v, p (k, v) = false) : tabGet d (t.filter p) k = d := by
  cases hf : tabFind (t.filter p) k with
  | none => rw [tabGet, hf, Option.getD_none]
  | some v => exact absurd (List.of_mem_filter (mem_of_tabFind hf)) (by simp [h v])

/-- Object `i` of a cleared cluster reads as at reset. -/
theorem tabGet_wipe {cs : List Nat} {c n i : Nat} (hc : c ∈ cs) (hi : i < n) : tabGet d (wipe cs n t) (c * n + i) = d := by
  have hdiv : (c * n + i) / n = c := by rw [Nat.mul_comm, Nat.mul_add_div (by omega), Nat.div_eq_of_lt hi, Nat.add_zero]
  exact tabGet_filter_dropped fun v => by simp [hdiv, hc]

end

/-! ### The context that holds a ring (R72) -/

section
variable {y : Sys} {c x : Nat}

theorem Sys.mem_clusters : c ∈ y.clusters x ↔ c < 128 ∧ y.ctxOf c = x := by simp [Sys.clusters, Config.nClusters]

/-- Context 0 holds the rings that no other context does. -/
theorem Sys.ring_free_of_ctxOf_zero (h : y.ctxOf c = 0) (hx : x ≠ 0) (hx16 : x < 16) : (y.ctx x).rings.getLsbD (c / 8) = false := by
  unfold Sys.ctxOf at h
  cases hf : ((List.range 15).map (· + 1)).find? fun x => (y.ctx x).rings.getLsbD (c / 8) with
  | none =>
    have hmem : x ∈ (List.range 15).map (· + 1) := List.mem_map.2 ⟨x - 1, List.mem_range.2 (by omega), by omega⟩
    simpa using List.find?_eq_none.1 hf x hmem
  | some n =>
    obtain ⟨m, -, rfl⟩ := List.mem_map.1 (List.mem_of_find?_eq_some hf)
    rw [hf] at h
    exact absurd h (Nat.succ_ne_zero m)

/-- The one context other than 0 whose mask has a ring holds it. -/
theorem Sys.ctxOf_eq (hx : x ≠ 0) (hx16 : x < 16) (hown : (y.ctx x).rings.getLsbD (c / 8) = true)
    (hone : ∀ n ≠ 0, n < 16 → n ≠ x → (y.ctx n).rings.getLsbD (c / 8) = false) : y.ctxOf c = x := by
  unfold Sys.ctxOf
  cases hf : ((List.range 15).map (· + 1)).find? fun x => (y.ctx x).rings.getLsbD (c / 8) with
  | none =>
    have hmem : x ∈ (List.range 15).map (· + 1) := List.mem_map.2 ⟨x - 1, List.mem_range.2 (by omega), by omega⟩
    exact absurd hown (List.find?_eq_none.1 hf x hmem)
  | some n =>
    obtain ⟨m, hm, rfl⟩ := List.mem_map.1 (List.mem_of_find?_eq_some hf)
    have hbit := List.find?_some hf
    have hm15 := List.mem_range.1 hm
    by_contra hne
    exact absurd hbit (by rw [hone (m + 1) (Nat.succ_ne_zero m) (by omega) hne]; decide)

theorem Sys.ctx_setCtx_other {n : Nat} (v : Ctx) (h : n ≠ x) : (y.setCtx x v).ctx n = y.ctx n := tabGet_set_other _ _ _ _ _ h

/-- Rings of context 0 that a context is given are its own. -/
theorem Sys.Form.ctxOf_setCtx (h : y.Form) {v : Ctx} (hx : x ≠ 0) (hx16 : x < 16) (hfree : y.ctxOf c = 0)
    (hv : v.rings.getLsbD (c / 8) = true) : (y.setCtx x v).ctxOf c = x := by
  refine Sys.ctxOf_eq hx hx16 (by rw [h.ctx_setCtx]; exact hv) fun n hn hn16 hne => ?_
  rw [Sys.ctx_setCtx_other v hne]
  exact Sys.ring_free_of_ctxOf_zero hfree hn hn16

/-- All clusters of a ring are of one context. -/
theorem Sys.ctxOf_ring {c' : Nat} (h : c / 8 = c' / 8) : y.ctxOf c = y.ctxOf c' := by rw [Sys.ctxOf, Sys.ctxOf, h]

theorem Sys.ctx_congr {z : Sys} (h : y.ctxs = z.ctxs) (n : Nat) : y.ctx n = z.ctx n := by rw [Sys.ctx, Sys.ctx, h]

theorem Sys.ctxOf_congr {z : Sys} (h : y.ctxs = z.ctxs) : y.ctxOf c = z.ctxOf c := by simp only [Sys.ctxOf, Sys.ctx_congr h]

end

/-! ### Commands that are refused (R78, R79) -/

section
variable {s : State} {ok : CtxSt → Bool} {k : Nat → State}

theorem onCommand_self (hx : s.fly.ev.ctx = 0) : onCommand s ok k = { s with sys := { s.sys with cxStatus := 4 } } := if_pos hx

theorem onCommand_state (hx : s.fly.ev.ctx ≠ 0) (hok : ok (s.sys.ctx s.fly.ev.ctx).st = false) :
    onCommand s ok k = { s with sys := { s.sys with cxStatus := 2 } } :=
  (if_neg hx).trans (if_neg (Bool.eq_false_iff.1 hok))

theorem onCommand_ok (hx : s.fly.ev.ctx ≠ 0) (hok : ok (s.sys.ctx s.fly.ev.ctx).st = true) : onCommand s ok k = k s.fly.ev.ctx :=
  (if_neg hx).trans (if_pos hok)

end

/-! ### ALLOC (R77, R79) -/

/-- The rings that a mask names. -/
def maskRings (mask : Nat) : List Nat := (List.range 16).filter fun g => mask.testBit g

theorem mem_maskRings {mask g : Nat} : g ∈ maskRings mask ↔ g < 16 ∧ mask.testBit g = true := by simp [maskRings]

theorem maskRings_isEmpty {mask : Nat} (h : mask < 2 ^ 16) : (maskRings mask).isEmpty = true ↔ mask = 0 := by
  rw [List.isEmpty_iff, List.eq_nil_iff_forall_not_mem]
  constructor
  · refine fun hnone => Nat.zero_of_testBit_eq_false fun g => ?_
    by_cases hg : g < 16
    · exact Bool.eq_false_iff.2 fun hb => hnone g (mem_maskRings.2 ⟨hg, hb⟩)
    · exact Nat.testBit_lt_two_pow (lt_of_lt_of_le h (Nat.pow_le_pow_right (by decide) (by omega)))
  · rintro rfl g hg
    simpa using (mem_maskRings.1 hg).2

/-- The clusters of the rings that a mask names. -/
theorem mem_ringClus_maskRings {mask g j : Nat} (hg : g < 16) (hb : mask.testBit g = true) (hj : j < 8) :
    g * 8 + j ∈ (maskRings mask).flatMap ringClus :=
  List.mem_flatMap.2 ⟨g, mem_maskRings.2 ⟨hg, hb⟩, List.mem_map.2 ⟨j, List.mem_range.2 hj, rfl⟩⟩

/-- Every ring that a mask names is context 0's, with no live thread and no resident block. -/
def servable (y : Sys) (mask : Nat) : Prop := mask ≠ 0 ∧ ∀ g < 16, mask.testBit g = true → y.ctxOf (g * 8) = 0 ∧ ringIdle y g = true

theorem servable_iff {y : Sys} {mask : Nat} (h : mask < 2 ^ 16) :
    servable y mask ↔ ¬ ((maskRings mask).isEmpty || (maskRings mask).any fun g => y.ctxOf (g * 8) != 0 || !ringIdle y g) = true := by
  simp [servable, maskRings_isEmpty h, mem_maskRings]

/-- The context that ALLOC makes. -/
def Ctx.allocated (x mask n : Nat) : Ctx :=
  { Ctx.reset with st := .allocated, rings := BitVec.ofNat 16 mask, drawn := n, streamKey := Config.streamKey x n,
                   allow := (Config.allowItems x n).take 64 }

/-- The state after an ALLOC that ends with OK. -/
def Sys.alloc (y : Sys) (x mask : Nat) : Sys :=
  let cs := (maskRings mask).flatMap ringClus
  { y.setCtx x (Ctx.allocated x mask y.freeIx) with
    freeIx := y.freeIx + 1, pins := wipe cs 256 y.pins, paccs := wipe cs 192 y.paccs, lanes := wipe cs 4096 y.lanes, frames := wipe cs 64 y.frames
    banks := wipe cs 16 y.banks, scratch := wipe cs 1048576 y.scratch, seals := y.seals.filter fun e => e.1 / 256 != x, cxStatus := 0 }

section
variable {s : State} {x mask : Nat} (hctx : s.fly.ev.ctx = x) (hx : x ≠ 0) (hst : (s.sys.ctx x).st = .free)
  (hm : (s.fly.ev.word.extractLsb' 16 16).toNat = mask)
include hctx hx hst hm

theorem execAlloc_served (h : servable s.sys mask) : exec .alloc s = .next { s with sys := s.sys.alloc x mask } := by
  subst hctx hm
  exact congrArg _ ((onCommand_ok hx (by rw [hst]; rfl)).trans (if_neg ((servable_iff (BitVec.isLt _)).1 h)))

theorem execAlloc_unserved (h : ¬ servable s.sys mask) : cmdRefused s .alloc 3 := by
  subst hctx hm
  exact congrArg _ ((onCommand_ok hx (by rw [hst]; rfl)).trans (if_pos (not_not.1 (mt (servable_iff (BitVec.isLt _)).2 h))))

end

section
variable {y : Sys} {x mask g j : Nat}

theorem Sys.Form.alloc_ctx (h : y.Form) : (y.alloc x mask).ctx x = Ctx.allocated x mask y.freeIx :=
  h.ctx_setCtx x (Ctx.allocated x mask y.freeIx)

/-- The clusters of an allocated ring are the context's. -/
theorem Sys.Form.alloc_ctxOf (h : y.Form) (hx : x ≠ 0) (hx16 : x < 16) (hs : servable y mask) (hg : g < 16) (hb : mask.testBit g = true)
    (hj : j < 8) : (y.alloc x mask).ctxOf (g * 8 + j) = x := by
  have hring : (g * 8 + j) / 8 = g := by omega
  have hfree : y.ctxOf (g * 8 + j) = 0 := (Sys.ctxOf_ring (by omega)).trans (hs.2 g hg hb).1
  rw [Sys.ctxOf_congr (show (y.alloc x mask).ctxs = (y.setCtx x (Ctx.allocated x mask y.freeIx)).ctxs from rfl)]
  refine h.ctxOf_setCtx hx hx16 hfree ?_
  rw [hring]
  exact BitVec.getLsbD_ofNat .. |>.trans (by simp [hg, hb])

variable (hg : g < 16) (hb : mask.testBit g = true) (hj : j < 8)
include hg hb hj

theorem Sys.alloc_pin {n : Nat} (hn : n < 256) : (y.alloc x mask).pin (g * 8 + j) n = Pin.reset := tabGet_wipe (mem_ringClus_maskRings hg hb hj) hn

theorem Sys.alloc_bank {b : Nat} (hn : b < 16) : (y.alloc x mask).bank (g * 8 + j) b = Bank.reset := tabGet_wipe (mem_ringClus_maskRings hg hb hj) hn

end

/-! ### What stopping a thread leaves as it was (R80, R82, R97) -/

theorem Sys.unsend_spec (y : Sys) (i : Inst) : ∃ t, y.unsend i = { y with thrs := t } := by unfold Sys.unsend; split <;> exact ⟨_, rfl⟩

theorem Sys.undrop_spec (y : Sys) (c k : Nat) (i : Inst) : ∃ t, y.undrop c k i = { y with thrs := t } := by
  unfold Sys.undrop; split <;> exact ⟨_, rfl⟩

theorem Sys.setPartials_spec (y : Sys) (c r k : Nat) (ps : List (Nat × Nat × Nat)) : ∃ t, y.setPartials c r k ps = { y with regions := t } := by
  unfold Sys.setPartials; split <;> exact ⟨_, rfl⟩

theorem Sys.unpop_spec (y : Sys) (c : Nat) (i : Inst) : ∃ t, y.unpop c i = { y with banks := t } := by
  unfold Sys.unpop
  refine foldl_keeps (P := fun z : Sys => ∃ t, z = { y with banks := t }) ?_ _ ⟨_, rfl⟩
  rintro z n ⟨t, rfl⟩
  split <;> exact ⟨_, rfl⟩

/-- An instance that is aborted changes threads, banks, matching stores and park areas, and what is in flight. -/
theorem abortInst_spec (s : State) (c k : Nat) :
    ∃ t b r p f, abortInst s c k = { s with sys := { s.sys with thrs := t, banks := b, regions := r, parks := p }, fly := f } := by
  unfold abortInst
  split
  · exact ⟨_, _, _, _, _, rfl⟩
  · next i _ =>
    obtain ⟨t, h1⟩ := s.sys.unsend_spec i
    obtain ⟨t', h2⟩ := ({ s.sys with thrs := t } : Sys).undrop_spec c k i
    obtain ⟨b, h3⟩ := ({ s.sys with thrs := t' } : Sys).unpop_spec c i
    obtain ⟨r, p, h4⟩ := ({ s.sys with thrs := t', banks := b } : Sys).dropTokens_spec c (Entry.ofInst i k)
    obtain ⟨r', h5⟩ := ({ s.sys with thrs := t', banks := b, regions := r, parks := p } : Sys).setPartials_spec c i.reg k []
    simp only [h1, h2, h3, h4, h5]
    split <;> exact ⟨_, _, _, _, _, rfl⟩

@[simp] theorem abortInst_now (s : State) (c k : Nat) : (abortInst s c k).sys.now = s.sys.now := by
  obtain ⟨_, _, _, _, _, ha⟩ := abortInst_spec s c k
  rw [ha]

@[simp] theorem abortInst_irqs (s : State) (c k : Nat) : (abortInst s c k).sys.irqs = s.sys.irqs := by
  obtain ⟨_, _, _, _, _, ha⟩ := abortInst_spec s c k
  rw [ha]

@[simp] theorem saveThread_irqs (s : State) (c k : Nat) : (saveThread s c k).sys.irqs = s.sys.irqs := by
  unfold saveThread
  dsimp only
  split <;> rfl

@[simp] theorem haltXfers_irqs (s : State) (x : Nat) : (haltXfers s x).sys.irqs = s.sys.irqs := by
  unfold haltXfers
  refine foldl_keeps (P := fun t : State => t.sys.irqs = s.sys.irqs) ?_ _ rfl
  exact fun _ _ ht => ht

/-! ### DESTROY (R77, R82) -/

section
variable (s : State) (x : Nat)

theorem wipeThreads_mem : (wipeThreads s x).mem = s.mem := foldl_mem _ (fun _ _ => abortInst_mem ..) _ _

theorem wipeThreads_now : (wipeThreads s x).sys.now = s.sys.now :=
  foldl_keeps (P := fun t : State => t.sys.now = s.sys.now) (fun _ _ ht => (abortInst_now ..).trans ht) _ rfl

variable {s x} {c k : Nat} (hc : c < 128) (hx : s.sys.ctxOf c = x) (hk : k < 1024)
include hc hx hk

theorem wipeThreads_thr : (wipeThreads s x).sys.thr c k = Thr.reset := tabGet_wipe (Sys.mem_clusters.2 ⟨hc, hx⟩) hk

theorem wipeThreads_reg (n : Nat) : (wipeThreads s x).reg c k n = 0 := by
  have hregs : tabGet [] (wipeThreads s x).greg (tkey c k) = [] := tabGet_wipe (Sys.mem_clusters.2 ⟨hc, hx⟩) hk
  rw [State.reg, hregs, tabGet_nil, ite_self]

end

/-- A DESTROYING context: its kernels, queues, ports, groups and drains are discarded (R82). -/
def Ctx.destroyed (v : Ctx) : Ctx :=
  { v with st := .destroying, kernels := [], queues := [], ports := [], groups := [], drains := [], drained := [] }

/-- The state after a DESTROY that ends with OK. -/
def State.destroy (s : State) (x : Nat) : State :=
  ((wipeThreads s x).mapSys fun y => endCmd (y.modCtx x Ctx.destroyed) 0).sched ((wipeThreads s x).sys.now + 262144) .scrubComplete { ctx := x }

section
variable {s : State} {x : Nat} (hctx : s.fly.ev.ctx = x) (hx : x ≠ 0)
include hctx hx

theorem execDestroy_eq (hst : (s.sys.ctx x).st ≠ .free) (hst' : (s.sys.ctx x).st ≠ .destroying) : exec .destroy s = .next (s.destroy x) := by
  subst hctx
  refine congrArg _ (onCommand_ok hx ?_)
  cases h : (s.sys.ctx s.fly.ev.ctx).st <;> simp_all

theorem execDestroy_refused (hst : (s.sys.ctx x).st = .free ∨ (s.sys.ctx x).st = .destroying) : cmdRefused s .destroy 2 := by
  subst hctx
  exact congrArg _ (onCommand_state hx (by rcases hst with h | h <;> rw [h] <;> rfl))

end

theorem State.Form.destroy_ctx {s : State} (h : s.Form) (x : Nat) :
    (s.destroy x).sys.ctx x = ((wipeThreads s x).sys.ctx x).destroyed := h.wipeThreads.sys.ctx_setCtx x (((wipeThreads s x).sys.ctx x).destroyed)

theorem State.destroy_soon (s : State) (x : Nat) : soon (s.destroy x) (s.sys.now + 262144) .scrubComplete { ctx := x } := by
  rw [← wipeThreads_now s x]
  exact soon_sched

/-! ### SCRUB_COMPLETE (R82, R355) -/

/-- No key of context `x` opens a line, and the line is not held under one. -/
def unreadable (x : Nat) (v : Line) : Prop :=
  v.held.all (·.ctx != x) = true ∧ v.ktag.all (fun q => q.tag.ctx != x || q.gen.isNone) = true

theorem unreadable_reset (x : Nat) : unreadable x Line.reset := ⟨rfl, rfl⟩

theorem unreadable_eraseLine (x : Nat) (v : Line) : unreadable x (eraseLine x v) := by
  constructor
  · cases hh : v.held with
    | none => simp [eraseLine, hh]
    | some k => by_cases hk : k.ctx = x <;> simp [eraseLine, hh, hk]
  · have hkeyless (w : Option Stored) :
        (w.map fun k => if k.tag.ctx = x then { k with gen := none } else k).all (fun q => q.tag.ctx != x || q.gen.isNone) = true := by
      cases w with
      | none => rfl
      | some k => by_cases hk : k.tag.ctx = x <;> simp [hk]
    exact hkeyless _

/-- The state of a context's clusters, lines and tables once its scrub has ended. -/
def Sys.scrub (y : Sys) (x : Nat) : Sys :=
  let cs := y.clusters x
  let gs := (List.range 16).filter fun g => y.ctxOf (g * 8) == x
  { y with
    clus := wipe cs 1 y.clus, ctab := wipe cs 64 y.ctab, bars := wipe cs 256 y.bars, lcount := wipe cs 1024 y.lcount
    banks := wipe cs 16 y.banks, scratch := wipe cs 1048576 y.scratch, paccs := wipe cs 192 y.paccs, lanes := wipe cs 4096 y.lanes
    pins := wipe cs 256 y.pins, tiles := wipe cs 32 y.tiles, ments := wipe cs 256 y.ments, tslots := wipe cs 4 y.tslots
    portTs := wipe cs 16 y.portTs, rings := y.rings.filter fun e => !gs.contains e.1, tickets := y.tickets.filter fun e => e.2.ctx != x
    lines := y.lines.map fun e => (e.1, eraseLine x e.2), descs := y.descs.filter fun e => e.2.ctx != x
    ctxs := tabSet Ctx.reset y.ctxs x Ctx.reset }

section
variable {s : State} {x : Nat} (hctx : s.fly.ev.ctx = x)
include hctx

theorem execScrubComplete_destroying (h : (s.sys.ctx x).st = .destroying) : exec .scrubComplete s = .next { s with sys := s.sys.scrub x } := by
  subst hctx
  exact if_neg (not_not.2 h)

theorem execScrubComplete_other (h : (s.sys.ctx x).st ≠ .destroying) : nothing s .scrubComplete := by
  subst hctx
  exact if_pos h

end

theorem Sys.Form.scrub_ctx {y : Sys} (h : y.Form) (x : Nat) : (y.scrub x).ctx x = Ctx.reset := h.ctx_setCtx x Ctx.reset

theorem Sys.scrub_line (y : Sys) (x l : Nat) : unreadable x ((y.scrub x).line l) := by
  refine tabGet_of_all (unreadable_reset x) (fun e he => ?_) l
  obtain ⟨v, -, rfl⟩ := List.mem_map.1 he
  exact unreadable_eraseLine x v.2

/-- The clusters of a context are clear once its scrub has ended. -/
structure Cleared (y : Sys) (c : Nat) : Prop where
  bank : ∀ b < 16, y.bank c b = Bank.reset
  scr : ∀ o < 1048576, y.scr c o = 0
  cent : ∀ n < 64, y.cent c n = CEnt.reset
  bar : ∀ n < 256, y.bar c n = Bar.reset
  pin : ∀ n < 256, y.pin c n = Pin.reset
  ment : ∀ n < 256, y.ment c n = MEnt.reset
  lane : ∀ l < 4096, y.lane c l = Lane.reset
  pacc : ∀ p < 192, y.pacc c p = PAcc.reset

theorem Sys.scrub_cleared {y : Sys} {x c : Nat} (hc : c < 128) (hx : y.ctxOf c = x) : Cleared (y.scrub x) c := by
  have hmem := Sys.mem_clusters.2 ⟨hc, hx⟩
  constructor <;> intro n hn <;> exact tabGet_wipe hmem hn

/-! ### The watchdog (R80, R84) -/

section
variable {s : State} {x : Nat}

theorem Sys.st_of_counting {y : Sys} (h : y.counting x = true) : (y.ctx x).st = .running := by
  simp only [Sys.counting, Bool.and_eq_true, beq_iff_eq] at h
  exact h.1.1

theorem Sys.ctx_wsync {y : Sys} (h : (y.ctx x).st ≠ .free) :
    (y.wsync x).ctx x = { y.ctx x with wcount := min (y.counted x / 1024) (2 ^ 31 - 1), wrem := y.counted x % 1024, wsince := y.now } :=
  Sys.ctx_modCtx_used (y := y) h

/-- A context in which a fault event has its effect: it is FAULTED, and its queues are SUSPENDED. -/
def Ctx.faultedBy (v : Ctx) (fcause : Nat) : Ctx :=
  { v with st := .faulted, fcause := fcause, queues := v.queues.map fun e => (e.1, { e.2 with st := .suspended }) }

theorem Ctx.faultedBy_queues {v : Ctx} {fcause : Nat} : ∀ q ∈ (v.faultedBy fcause).queues, q.2.st = .suspended := by
  intro q hq
  obtain ⟨e, -, rfl⟩ := List.mem_map.1 hq
  rfl

/-- A RUNNING context other than 0 is FAULTED by a fault event, and the management core is interrupted once. -/
theorem contextFault_faults (fcause c k : Nat) (hx : x ≠ 0) (hr : (s.sys.ctx x).st = .running) :
    (contextFault s x fcause c k).sys.ctx x = ((s.sys.wsync x).ctx x).faultedBy fcause ∧
    (contextFault s x fcause c k).sys.irqs = s.sys.irqs ++ [(x, fcause, tkey c k, if fcause = 1 then 0 else (s.sys.thr c k).tcause)] := by
  have hw : ((s.sys.wsync x).ctx x).st = .running := by rw [Sys.ctx_wsync (by simp [hr])]; exact hr
  have hkept : (contextFault s x fcause c k).sys.ctxs = ((s.sys.wsync x).setCtx x (((s.sys.wsync x).ctx x).faultedBy fcause)).ctxs ∧
      (contextFault s x fcause c k).sys.irqs = s.sys.irqs ++ [(x, fcause, tkey c k, if fcause = 1 then 0 else (s.sys.thr c k).tcause)] := by
    simp only [contextFault, State.mapSys_sys, hw, hx, or_true, if_true, if_false]
    refine foldl_keeps (P := fun t : State => t.sys.ctxs = _ ∧ t.sys.irqs = _) (fun t n ht => ?_) _ ⟨haltXfers_ctxs x, haltXfers_irqs _ x⟩
    split <;> simpa [Sys.modThr] using ht
  refine ⟨?_, hkept.2⟩
  rw [Sys.ctx, hkept.1]
  exact Sys.ctx_setCtx_used (by simp [Ctx.faultedBy])

theorem contextFault_zero_eq : contextFault s 0 1 0 0 = (interrupt (s.mapSys fun y => y.wsync 0) 0 1 0 0).mapSys fun y =>
    (y.setCtx 0 { (s.sys.wsync 0).ctx 0 with fcause := 1 }).modCtx 0 fun v => { v with wcount := 0, wrem := 0 } := by
  simp only [contextFault, true_or, if_true]
  rfl

/-- Context 0 goes on when its watchdog has interrupted the management core. -/
theorem contextFault_zero (h : s.Form) (hr : (s.sys.ctx 0).st = .running) :
    ((contextFault s 0 1 0 0).sys.ctx 0).st = .running ∧ (contextFault s 0 1 0 0).sys.irqs = s.sys.irqs ++ [(0, 1, 0, 0)] ∧
    (contextFault s 0 1 0 0).sys.thrs = s.sys.thrs := by
  have hw : ((s.sys.wsync 0).ctx 0).st = .running := by rw [Sys.ctx_wsync (by simp [hr])]; exact hr
  have hu : (interrupt (s.mapSys fun y => y.wsync 0) 0 1 0 0).Form := (h.mapSys h.sys.wsync).interrupt
  have hset := hu.sys.ctx_setCtx 0 { (s.sys.wsync 0).ctx 0 with fcause := 1 }
  rw [contextFault_zero_eq]
  refine ⟨?_, rfl, by simp [interrupt, Sys.modCtx, Sys.wsync]⟩
  rw [State.mapSys_sys, Sys.ctx_modCtx_used (by rw [hset]; simp [hw]), hset]
  exact hw

variable (hctx : s.fly.ev.ctx = x)
include hctx

theorem execWatchdogExpiry_early (h : (s.sys.ctx x).wlimit = 0 ∨ s.sys.counting x = false ∨ s.sys.counted x < (s.sys.ctx x).wlimit * 1024) :
    nothing s .watchdogExpiry := by
  subst hctx
  exact if_pos (h.imp_right (Or.imp_left (congrArg (!·))))

theorem execWatchdogExpiry_due (hl : (s.sys.ctx x).wlimit ≠ 0) (hc : s.sys.counting x = true)
    (hn : (s.sys.ctx x).wlimit * 1024 ≤ s.sys.counted x) :
    exec .watchdogExpiry s = .next (if x = 0 then (contextFault s x 1 0 0).mapFly (armWatchdog (contextFault s x 1 0 0).sys x)
      else contextFault s x 1 0 0) := by
  subst hctx
  exact if_neg (by simp [hl, hc, hn])

end

/-! ### The obligation -/

section
variable {s : State} {x : Nat} (h : s.Form) (hctx : s.fly.ev.ctx = x)
include hctx

theorem commands_on_zero (hx : x = 0) : cmdRefused s .alloc 4 ∧ cmdRefused s .start 4 ∧ cmdRefused s .destroy 4 ∧ cmdRefused s .clear 4 :=
  have hself {ok : CtxSt → Bool} {k : Nat → State} := congrArg Host.Outcome.next (onCommand_self (ok := ok) (k := k) (hctx.trans hx))
  ⟨hself, hself, hself, hself⟩

/-- ALLOC, START and CLEAR on a context in another state. -/
theorem commands_on_other_state (hx : x ≠ 0) : ((s.sys.ctx x).st ≠ .free → cmdRefused s .alloc 2) ∧
    ((s.sys.ctx x).st ≠ .allocated → cmdRefused s .start 2) ∧ ((s.sys.ctx x).st ≠ .faulted → cmdRefused s .clear 2) := by
  subst hctx
  exact ⟨fun hst => congrArg Host.Outcome.next (onCommand_state hx (beq_false_of_ne hst)),
    fun hst => congrArg Host.Outcome.next (onCommand_state hx (beq_false_of_ne hst)),
    fun hst => congrArg Host.Outcome.next (onCommand_state hx (beq_false_of_ne hst))⟩

include h

theorem start_runs (hx : x ≠ 0) (hst : (s.sys.ctx x).st = .allocated) :
    gives s .start fun t => (t.sys.ctx x).st = .running ∧ t.sys.cxStatus = 0 ∧ t.greg = s.greg := by
  subst hctx
  refine ⟨_, congrArg Host.Outcome.next (onCommand_ok hx (by rw [hst]; rfl)), rfl, ?_, rfl, rfl⟩
  exact congrArg Ctx.st (h.sys.wsync.ctx_setCtx s.fly.ev.ctx { (s.sys.wsync s.fly.ev.ctx).ctx s.fly.ev.ctx with st := .running })

theorem clear_suspends (hx : x ≠ 0) (hst : (s.sys.ctx x).st = .faulted) :
    gives s .clear fun t => (t.sys.ctx x).st = .suspended ∧ (t.sys.ctx x).fcause = 0 ∧ t.sys.cxStatus = 0 ∧ t.fly = s.fly := by
  subst hctx
  have hset := h.sys.ctx_setCtx s.fly.ev.ctx { s.sys.ctx s.fly.ev.ctx with st := .suspended, fcause := 0 }
  exact ⟨_, congrArg Host.Outcome.next (onCommand_ok hx (by rw [hst]; rfl)), rfl, congrArg Ctx.st hset, congrArg Ctx.fcause hset, rfl, rfl⟩

theorem destroy_discards (hx : x ≠ 0) (hst : (s.sys.ctx x).st ≠ .free) (hst' : (s.sys.ctx x).st ≠ .destroying) :
    gives s .destroy fun t => (t.sys.ctx x).st = .destroying ∧ (t.sys.ctx x).kernels = [] ∧ (t.sys.ctx x).queues = [] ∧ t.sys.cxStatus = 0 ∧
      soon t (s.sys.now + 262144) .scrubComplete { ctx := x } ∧
      ∀ c < 128, s.sys.ctxOf c = x → ∀ k < 1024, (t.sys.thr c k).st = .free ∧ ∀ n, t.reg c k n = 0 := by
  refine ⟨_, execDestroy_eq hctx hx hst hst', wipeThreads_mem s x, ?_⟩
  beta_reduce
  rw [h.destroy_ctx]
  exact ⟨rfl, rfl, rfl, rfl, s.destroy_soon x, fun c hc hcx k hk => ⟨congrArg Thr.st (wipeThreads_thr hc hcx hk), wipeThreads_reg hc hcx hk⟩⟩

end

/-- R77 to R82, command by command. -/
theorem contextCommands : ContextCommands := by
  intro s hok
  have h := (State.form_iff s).1 hok
  intro x v mask served
  have hmask : mask < 2 ^ 16 := BitVec.isLt _
  refine ⟨commands_on_zero rfl, fun hx => ?_, fun hst => ?_, execScrubComplete_other rfl⟩
  · obtain ⟨halloc, hstart, hclear⟩ := commands_on_other_state (s := s) rfl hx
    refine ⟨halloc, hstart, hclear, execDestroy_refused rfl hx, fun hst hs => execAlloc_unserved rfl hx hst rfl hs, fun hx16 hst hs => ?_,
      start_runs h rfl hx, clear_suspends h rfl hx, fun hst => destroy_discards h rfl hx ?_ ?_⟩
    · refine ⟨_, execAlloc_served (mask := mask) rfl hx hst rfl hs, rfl, ?_⟩
      beta_reduce
      rw [h.sys.alloc_ctx]
      exact ⟨rfl, Nat.mod_eq_of_lt hmask, rfl, rfl, rfl, rfl, rfl, rfl, rfl, fun g hg hb j hj => ⟨h.sys.alloc_ctxOf hx hx16 hs hg hb hj,
        fun n hn => Sys.alloc_pin hg hb hj hn, fun b hn => by rw [Sys.alloc_bank hg hb hj hn]; exact ⟨rfl, rfl⟩⟩⟩
    · rcases hst with hst | hst | hst | hst <;> exact hst ▸ by decide
    · rcases hst with hst | hst | hst | hst <;> exact hst ▸ by decide
  · refine ⟨_, execScrubComplete_destroying (x := x) rfl hst, rfl, ?_⟩
    beta_reduce
    rw [h.sys.scrub_ctx]
    refine ⟨rfl, rfl, s.sys.scrub_line x, fun c hc hcx => ?_⟩
    obtain ⟨hbank, hscr, hcent, hbar, hpin, hment, hlane, hpacc⟩ := Sys.scrub_cleared hc hcx
    exact ⟨fun b hb => congrArg Bank.mode (hbank b hb), hscr, fun n hn => congrArg CEnt.valid (hcent n hn),
      fun n hn => ⟨congrArg Bar.mode (hbar n hn), congrArg Pin.held (hpin n hn), congrArg MEnt.st (hment n hn)⟩,
      fun l hl => congrArg Lane.alloc (hlane l hl), fun p hp => congrArg PAcc.bound (hpacc p hp)⟩

section
variable {s : State} {x : Nat} (h : s.Form) (hctx : s.fly.ev.ctx = x)
include hctx

theorem watchdogExpiry_faults (hl : (s.sys.ctx x).wlimit ≠ 0) (hc : s.sys.counting x = true) (hn : (s.sys.ctx x).wlimit * 1024 ≤ s.sys.counted x)
    (hx : x ≠ 0) : gives s .watchdogExpiry fun t => (t.sys.ctx x).st = .faulted ∧ (t.sys.ctx x).fcause = 1 ∧ (x, 1, 0, 0) ∈ t.sys.irqs ∧
      ∀ q ∈ (t.sys.ctx x).queues, q.2.st = .suspended := by
  obtain ⟨hfault, hirqs⟩ := contextFault_faults 1 0 0 hx (Sys.st_of_counting hc)
  refine ⟨_, (execWatchdogExpiry_due hctx hl hc hn).trans (congrArg _ (if_neg hx)), contextFault_mem .., ?_⟩
  beta_reduce
  rw [hfault, hirqs]
  exact ⟨rfl, rfl, List.mem_append_right _ (List.mem_singleton_self _), Ctx.faultedBy_queues⟩

theorem wdogKick_clears (hm : mayWriteCtx (s.sys.ctx x).st 0x01A = true) : gives s .wdogKick fun t =>
    (t.sys.ctx x).wcount = 0 ∧ (t.sys.ctx x).wrem = 0 ∧ t.greg = s.greg ∧ ((s.sys.ctx x).wlimit ≠ 0 → s.sys.counting x = true →
      soon t (s.sys.now + (s.sys.ctx x).wlimit * 1024) .watchdogExpiry { ctx := x }) := by
  subst hctx
  obtain ⟨hmem, hgreg, -, hcount, hrem, hsoon⟩ := watchdogSet_kickWdog (st_ne_free_of_mayWriteCtx hm)
  refine ⟨_, congrArg Host.Outcome.next (if_pos hm), hmem, hcount, hrem, hgreg, fun hl hc => ?_⟩
  have hdue : max (s.sys.now + 1) (s.sys.now + (s.sys.ctx s.fly.ev.ctx).wlimit * 1024 - 0 * 1024)
      = s.sys.now + (s.sys.ctx s.fly.ev.ctx).wlimit * 1024 := by omega
  exact hdue ▸ hsoon hl hc

theorem wdogKick_lost (hm : mayWriteCtx (s.sys.ctx x).st 0x01A = false) : nothing s .wdogKick := by
  subst hctx
  exact congrArg Host.Outcome.next (if_neg (Bool.eq_false_iff.1 hm))

include h

theorem watchdogExpiry_interrupts (hl : (s.sys.ctx x).wlimit ≠ 0) (hc : s.sys.counting x = true)
    (hn : (s.sys.ctx x).wlimit * 1024 ≤ s.sys.counted x) (hx : x = 0) : gives s .watchdogExpiry fun t =>
      (t.sys.ctx 0).st = .running ∧ (0, 1, 0, 0) ∈ t.sys.irqs ∧ t.sys.thrs = s.sys.thrs := by
  subst hx
  obtain ⟨hst, hirqs, hthrs⟩ := contextFault_zero h (Sys.st_of_counting hc)
  refine ⟨_, (execWatchdogExpiry_due hctx hl hc hn).trans (congrArg _ (if_pos rfl)), contextFault_mem .., hst, ?_, hthrs⟩
  rw [State.mapFly_sys, hirqs]
  exact List.mem_append_right _ (List.mem_singleton_self _)

end

/-- R80, R84: an expiry faults a context or interrupts for context 0, and a kick is taken or lost. -/
theorem watchdogEvents : WatchdogEvents := by
  intro s hok x v
  have h := (State.form_iff s).1 hok
  refine ⟨fun hl hc hn => ?_, execWatchdogExpiry_early rfl, fun hst => wdogKick_lost rfl ?_, fun hst => wdogKick_clears rfl ?_⟩
  · by_cases hx : x = 0
    · obtain ⟨t, ht, hmem, hzero⟩ := watchdogExpiry_interrupts h rfl hl hc hn hx
      exact ⟨t, ht, hmem, fun hne => absurd hx hne, fun _ => hzero⟩
    · obtain ⟨t, ht, hmem, hfault⟩ := watchdogExpiry_faults rfl hl hc hn hx
      exact ⟨t, ht, hmem, fun _ => hfault, fun heq => absurd heq hx⟩
  · rcases hst with hst | hst | hst <;> exact hst ▸ rfl
  · rcases hst with hst | hst | hst <;> exact hst ▸ rfl

/-- Settles O57: the commands by the branches of each, and the watchdog by the context fault that its expiry is and by its kick. -/
theorem contextAndWatchdogEvents : Obligations.ContextAndWatchdogEvents := ⟨contextCommands, watchdogEvents⟩

end Sys2Proof.Machine
